-- ==== Sys2Proof/Word.lean ====
section
/-!
DEFINITION. Sys2Proof/Word.lean: the word types of the KG980 and their plainest arithmetic.
A scalar register is 64 bits (R78), a vector 1,024 bits (R50), a byte of memory 8 bits.
-/

namespace Sys2Proof

/-- A 64-bit value: an s or k register, an instruction word, a handle (R78, R88). -/
abbrev Word := BitVec 64

/-- A 1,024-bit value: a w register, the data bits of a token, a line of a bank (R16, R50, R268). -/
abbrev Vec := BitVec 1024

/-- A byte of memory. -/
abbrev Byte := BitVec 8

/-- `bits v hi lo` of R6 on natural numbers: the field [hi:lo] of v, as an unsigned value. -/
abbrev natBits (v hi lo : Nat) : Nat := (v / 2 ^ lo) % 2 ^ (hi + 1 - lo)

/-- A 64-bit value read by a vector operation: zeros above bit 63 (R79). -/
abbrev Word.toVec (w : Word) : Vec := w.setWidth 1024

/-- A 1,024-bit value read by a scalar operation: bits [63:0] (R79). -/
abbrev Vec.toWord (v : Vec) : Word := v.setWidth 64

end Sys2Proof
end

