-- ==== Sys2Proof/Config.lean ====
section
/-!
DEFINITION. Sys2Proof/Config.lean: what an implementation fixes, and the free values of the model.
Every constant here that has no body is a FREE VALUE: nothing in Lean can evaluate it, so a claim about the
model holds whatever it is.
-/

namespace Sys2Proof.Config

/-- FREE VALUE, the answers of the Mornos port to MCTP and SPDM messages whose bodies R461 names and does not lay
out (certificates, digests, signed measurements, the inventory, the error logs): the answer drawn at the counter
`State.free`. Log entry 3. -/
opaque mornosAnswer : Nat → List Byte

/-- FREE VALUE, the bytes that a checkpoint image holds for the spill area and the launch queue area, which the model
keeps as records, and the bytes at the destination of a checkpoint that failed: the value at a place. Log entries 3
and 8. -/
opaque freeWord : Nat → Word

/-- FREE VALUE, the data of a token that a read walk delivers from a tensor of sparse form: the specification places no
element of such a record (R397). Log entry 3. -/
opaque freeVec : Nat → BitVec 1024

/-- The reset value of PAGE_THERM_LIMIT (R380). -/
def thermLimitReset : Nat := 760

/-- The latest cycle counts the manual states, in fabric cycles. -/
def bankWakeCycles : Nat := 24          -- R275

/-- Power-up of a memory tile's banks (R276). -/
def bankPowerUpCycles : Nat := 600

/-- Consecutive blocked cycles before a QUOTA record (R346). -/
def quotaRecordCycles : Nat := 2 ^ 16

/-- Cycles of waiting tokens and no firing before a WATCHDOG record (R47). -/
def watchdogCycles : Nat := 2 ^ 24

/-- Idle cycles of the active context that end a turn (R354). -/
def turnIdleCycles : Nat := 8

/-- Places of the trap queue for ordinary records, and for the supervisor's own units (R419). -/
def trapPlaces : Nat := 512

/-- Places kept for records of the supervisor's own units (R419). -/
def trapSuperPlaces : Nat := 16

/-- Operands from a broadcast bus that a matrix node's operand input holds for a context: the specification speaks of its
space and gives no number (log entry 19). -/
def busOperands : Nat := 128

/-- Sealed tensor table slots of a partition (R250). -/
def tensorSlots : Nat := 4096

/-- Tile buffers of a partition (R36). -/
def tileBuffers : Nat := 4096

/-- KiB of a page's save area (R412). -/
def saveAreaKib : Nat := 3720

/-- ECHK of R16: the SECDED code over envelope bits [95:32] and [23:0]; the specification names no code (log entry 104). -/
opaque echk : BitVec 88 → BitVec 8

end Sys2Proof.Config
end

