-- ==== Sys2Proof/Syntax.lean ====
section
/-!
DEFINITION. Sys2Proof/Syntax.lean: the instructions, router operators and events of the KG980 as plain data.
One constructor of `Instr` per row of spec/opcode_table.json: the compute-element instructions (formats T, I, M
and X, R88 to R91), the router operators (format C, R92), and the 109 events of 95_what_each_step_holds.md, which
no instruction word encodes: they carry the unit they act on and what the outside world contributes.
-/

namespace Sys2Proof

/-- The fifteen element types of R49; code 0xF names none. -/
inductive Ty where
  | s8 | z8 | s16 | z16 | s32 | z32 | s64 | z64 | e4m3 | e5m2 | bf16 | fp16 | fp32 | c4 | b1
  deriving DecidableEq, Repr, Inhabited

/-- A source field (R77, R78): class SLOT, REG by file, CHAN or IMM7. -/
inductive Src where
  | slot
  | k (n : BitVec 3)
  | s (n : BitVec 3)
  | w (n : BitVec 2)
  | p (n : BitVec 3)
  | zero | ones | laneidx | ctxid | pageid | tilexy
  | chan (i : BitVec 3) (off : BitVec 4)
  | imm (v : BitVec 7)
  deriving DecidableEq, Repr, Inhabited

/-- The three slots of an instruction (R81). -/
inductive SlotName where
  | a | b | c
  deriving DecidableEq, Repr, Inhabited

/-- A target field (R81, R82): NONE, SLOT, REG of file s, w or p, or OUT. -/
inductive Tgt where
  | none
  | slot (idx : BitVec 7) (sl : SlotName)
  | s (n : BitVec 3)
  | w (n : BitVec 2)
  | p (n : BitVec 3)
  | out (j : BitVec 3) (off : BitVec 4)
  deriving DecidableEq, Repr, Inhabited

/-- Format T (R88). -/
structure FmtT where
  ty : Ty
  md : BitVec 3
  sa : Src
  sb : Src
  sc : Src
  ta : Tgt
  tb : Tgt
  deriving DecidableEq, Repr, Inhabited

/-- Format I (R89). -/
structure FmtI where
  ty : Ty
  md : BitVec 3
  sa : Src
  imm : BitVec 16
  ta : Tgt
  tb : Tgt
  deriving DecidableEq, Repr, Inhabited

/-- An order-out field (R87): the output channel it names, if it names one. -/
abbrev OrderOut := Option (BitVec 3)

/-- Format M (R90). -/
structure FmtM where
  ty : Ty
  str : BitVec 4
  sem : BitVec 2
  sco : BitVec 3
  sa : Src
  sb : Src
  sc : Src
  ta : Tgt
  oo : OrderOut
  deriving DecidableEq, Repr, Inhabited

/-- Format X (R91); SB is the guard (R84). -/
structure FmtX where
  sub : BitVec 8
  sa : Src
  sb : Src
  ta : Tgt
  imm : BitVec 19
  deriving DecidableEq, Repr, Inhabited

/-- A router port's direction (R92). -/
inductive Dir where
  | n | e | s | w | loc | rowbus | colbus | none
  deriving DecidableEq, Repr, Inhabited

/-- A port field of format C (R92): a direction and a channel. -/
structure Port where
  dir : Dir
  ch : BitVec 4
  deriving DecidableEq, Repr, Inhabited

/-- Format C (R92). -/
structure FmtC where
  in0 : Port
  in1 : Port
  in2 : Port
  out0 : Port
  out1 : Port
  param : BitVec 21
  deriving DecidableEq, Repr, Inhabited

/-! ## What the outside world contributes to an event -/

/-- What a receiver finds when it checks a token (R18). -/
inductive TokenErr where
  | good | corrected | lost
  deriving DecidableEq, Repr, Inhabited

/-- What the check bits of a bank word show at a read (R274). -/
inductive WordErr where
  | good | corrected | lost
  deriving DecidableEq, Repr, Inhabited

/-- What an access of a device-memory sector meets (R307 to R309). -/
inductive SectorErr where
  | good          -- no error
  | corrected     -- corrected by the array code
  | retry         -- the first read cannot be corrected: the reply reads once more (R307)
  | crc           -- the transfer's CRC fails and it is replayed once (R308)
  deriving DecidableEq, Repr, Inhabited

/-- The register window a write arrives through (R451, R455, R465). -/
inductive RegWindow where
  | pf            -- a class-3 register by its number (R451)
  | vf (n : Nat)  -- the partition window of a virtual function, by byte offset (R455, R465)
  deriving DecidableEq, Repr, Inhabited

/-- A constant of an image line (R108, R426): a literal, a name's address on an image page, or launch argument n. -/
inductive ImgValue where
  | lit (v : Word)
  | name (page : Nat) (address : Word)
  | arg (n : Nat)
  deriving DecidableEq, Repr, Inhabited

/-- A task binding of an image (R108 .task). -/
structure ImgTask where
  trigger : Nat
  entry : Nat
  ends : Nat
  deriving DecidableEq, Repr, Inhabited

/-- A compute element an image names: its code extent, store bytes, constants and tasks (R466, R427). -/
structure ImgTile where
  page : Nat
  ce : Nat
  codeKib : Nat
  code : List Byte
  consts : List (Nat × ImgValue)
  tasks : List ImgTask
  deriving DecidableEq, Repr, Inhabited

/-- A router operator of an image (R108 .op): its image page, page-local tile, word and declared completion points. -/
structure ImgOp where
  page : Nat
  tile : Nat
  word : Word
  ends : Nat
  deriving DecidableEq, Repr, Inhabited

/-- An endpoint named by a .chan line (R108, R242, R362, R420). -/
inductive ImgEnd where
  | ceIn (page ce n : Nat)
  | ceOut (page ce n : Nat)
  | op (i port : Nat)                 -- operator i of the image; as a producer, way `port` of a SWITCH or OUT `port`
  | mnIn (page node n : Nat)
  | mnOut (page node : Nat)
  | mtIn (page mt n : Nat)
  | mtOut (page mt n : Nat)
  | convoyOut (page n : Nat)
  | convoyIn (page : Nat)
  | trapq
  deriving DecidableEq, Repr, Inhabited

/-- A channel of an image (R108 .chan): fixed rate p:c, or a spill quota in KiB. -/
structure ImgChan where
  src : ImgEnd
  dst : ImgEnd
  depth : Nat
  rate : Option (Nat × Nat)
  quota : Nat
  order : Bool
  init : Nat
  deriving DecidableEq, Repr, Inhabited

/-- Data of an image (R108 .data, .tensor): bytes for a memory tile, and the eight-byte places whose bits [29:21]
are relocated to the logical page of the image page beside each (R426). -/
structure ImgData where
  page : Nat
  mt : Nat
  offset : Nat
  bytes : List Byte
  relocs : List (Nat × Nat)
  deriving DecidableEq, Repr, Inhabited

/-- The use a .tbuf line declares (R108). -/
inductive TbufUse where
  | input | consuming | result
  deriving DecidableEq, Repr, Inhabited

/-- The part of an image body that the on-device loader reads beyond its header. R427 lists what it holds and
gives no byte layout, so the reading of the body is an input of IMAGE_LOAD (log entry 3). -/
structure ImageBody where
  pages : Nat
  tiles : List ImgTile
  ops : List ImgOp
  chans : List ImgChan
  tbufs : List TbufUse
  data : List ImgData
  deriving DecidableEq, Repr, Inhabited

/-- A batch that a fabric link brings from another package (R361, R362): its header, and the data, scores, SEQ and
convoy step of each row. It is an input of INGRESS_BATCH_TAKE (log entry 3). -/
structure LinkBatch where
  header : BitVec 512
  rows : List (BitVec 1024 × BitVec 1024 × BitVec 32 × BitVec 32)
  deriving DecidableEq, Repr, Inhabited

/-! ## The instructions -/

/-- The steps of the KG980: one constructor per row of spec/opcode_table.json. -/
inductive Instr where
  /-- NOP (R115): Executes and changes nothing. -/
  | nop (f : FmtT)
  /-- MOV (R116): Delivers source a read as type t, copying its bits. -/
  | mov (f : FmtT)
  /-- ADD (R117): Delivers the sum of a and b, wrapped or saturated. -/
  | add (f : FmtT)
  /-- SUB (R117): Delivers a minus b, wrapped or saturated. -/
  | sub (f : FmtT)
  /-- MUL (R117): Delivers the product of a and b, wrapped or saturated. -/
  | mul (f : FmtT)
  /-- MULH (R117): Delivers the upper half of the exact double-width product. -/
  | mulh (f : FmtT)
  /-- DIV (R118): Delivers the quotient rounded toward zero, setting DZ on a zero divisor. -/
  | div (f : FmtT)
  /-- REM (R118): Delivers the remainder with the dividend's sign, setting DZ on a zero divisor. -/
  | rem (f : FmtT)
  /-- AND (R119): Delivers the bitwise AND of a and b. -/
  | andOp (f : FmtT)
  /-- OR (R119): Delivers the bitwise OR of a and b. -/
  | orOp (f : FmtT)
  /-- XOR (R119): Delivers the bitwise XOR of a and b. -/
  | xorOp (f : FmtT)
  /-- SHL (R120): Shifts a left by an unsigned count, wrapping or saturating. -/
  | shl (f : FmtT)
  /-- SHR (R120): Shifts a right, arithmetically for s types and logically otherwise. -/
  | shr (f : FmtT)
  /-- MIN (R121): Delivers the smaller of a and b by the signedness of t. -/
  | minOp (f : FmtT)
  /-- MAX (R121): Delivers the larger of a and b by the signedness of t. -/
  | maxOp (f : FmtT)
  /-- ABS (R121): Delivers the absolute value of a for s types, or a unchanged otherwise. -/
  | abs (f : FmtT)
  /-- CMP (R122): Delivers 1 when a compares to b under the condition, else 0. -/
  | cmp (f : FmtT)
  /-- CMPI (R122): Delivers 1 when a compares to the widened immediate under the condition, else 0. -/
  | cmpi (f : FmtI)
  /-- SEL (R123): Delivers a or b according to bit 0 of c. -/
  | sel (f : FmtT)
  /-- CLZ (R124): Delivers the count of leading zero bits within w(t) bits. -/
  | clz (f : FmtT)
  /-- POPC (R124): Delivers the count of one bits within w(t) bits. -/
  | popc (f : FmtT)
  /-- BFX (R125): Extracts a bit field named by a position and length specifier. -/
  | bfx (f : FmtT)
  /-- BFI (R125): Inserts the low bits of f into a bit field of a. -/
  | bfi (f : FmtT)
  /-- ADDI (R126): Adds the widened 16-bit immediate to a. -/
  | addi (f : FmtI)
  /-- ANDI (R126): ANDs a with the widened 16-bit immediate. -/
  | andi (f : FmtI)
  /-- LDI (R127): Replaces one 16-bit lane of a with the immediate pattern. -/
  | ldi (f : FmtI)
  /-- ADDR (R128): Adds an index scaled by a power of two to a base address. -/
  | addr (f : FmtT)
  /-- VMOV (R129): Delivers vector a as bits. -/
  | vmov (f : FmtT)
  /-- VADD (R129): Adds lane by lane, wrapping or saturating. -/
  | vadd (f : FmtT)
  /-- VSUB (R129): Subtracts lane by lane, wrapping or saturating. -/
  | vsub (f : FmtT)
  /-- VMUL (R129): Multiplies lane by lane, wrapping or saturating. -/
  | vmul (f : FmtT)
  /-- VMULH (R129): Delivers the upper half of each lane's exact product. -/
  | vmulh (f : FmtT)
  /-- VMAC (R129): Multiplies and adds lane by lane with one fit of the exact value. -/
  | vmac (f : FmtT)
  /-- VDOT4 (R131): Adds four-element dot products into each 32-bit lane of c. -/
  | vdot4 (f : FmtT)
  /-- VDOT2 (R131): Adds two-element dot products into each 32-bit lane of c. -/
  | vdot2 (f : FmtT)
  /-- VMIN (R129): Delivers the lane-wise minimum. -/
  | vmin (f : FmtT)
  /-- VMAX (R129): Delivers the lane-wise maximum. -/
  | vmax (f : FmtT)
  /-- VABS (R129): Delivers the lane-wise absolute value. -/
  | vabs (f : FmtT)
  /-- VAND (R129): ANDs two whole vectors. -/
  | vand (f : FmtT)
  /-- VOR (R129): ORs two whole vectors. -/
  | vor (f : FmtT)
  /-- VXOR (R129): XORs two whole vectors. -/
  | vxor (f : FmtT)
  /-- VSHL (R130): Shifts each lane left by the count in the same lane of b. -/
  | vshl (f : FmtT)
  /-- VSHR (R130): Shifts each lane right by the count in the same lane of b. -/
  | vshr (f : FmtT)
  /-- VRSHR (R130): Shifts each lane right, rounding half upward. -/
  | vrshr (f : FmtT)
  /-- VCMP (R132): Delivers an all-ones or zero mask per lane from a lane comparison. -/
  | vcmp (f : FmtT)
  /-- VSEL (R133): Selects bit by bit between a and b under mask m. -/
  | vsel (f : FmtT)
  /-- VNARROW (R134): Narrows two vectors of wide lanes into one vector of type t. -/
  | vnarrow (f : FmtT)
  /-- VWIDEN (R134): Widens the low or high half of the lanes to twice their width. -/
  | vwiden (f : FmtT)
  /-- VSHUF (R135): Permutes lanes from two vectors by an index vector. -/
  | vshuf (f : FmtT)
  /-- VSLIDE (R136): Slides a window of a scalar count over the pair a and b. -/
  | vslide (f : FmtT)
  /-- VBCAST (R137): Sets every lane to the low bits of a scalar. -/
  | vbcast (f : FmtT)
  /-- VEXT (R137): Delivers one lane of a as a scalar. -/
  | vext (f : FmtT)
  /-- VINS (R137): Delivers a with one lane replaced by a scalar value. -/
  | vins (f : FmtT)
  /-- VRED (R138): Reduces all lanes to one scalar by add, min or max. -/
  | vred (f : FmtT)
  /-- VSCAN (R138): Forms inclusive prefixes of the lanes by add, min or max. -/
  | vscan (f : FmtT)
  /-- VIOTA (R139): Gives each lane the count of set lanes below it. -/
  | viota (f : FmtT)
  /-- VPOPC (R139): Delivers the count of set lanes. -/
  | vpopc (f : FmtT)
  /-- VCOMPRESS (R139): Packs the lanes selected by a mask into the low lanes. -/
  | vcompress (f : FmtT)
  /-- FADD (R144): Adds with one rounding in the given mode. -/
  | fadd (f : FmtT)
  /-- FSUB (R144): Subtracts with one rounding in the given mode. -/
  | fsub (f : FmtT)
  /-- FMUL (R144): Multiplies with one rounding in the given mode. -/
  | fmul (f : FmtT)
  /-- FFMA (R144): Computes a times b plus c with one rounding. -/
  | ffma (f : FmtT)
  /-- FDIV (R144): Divides with one rounding, giving infinity and DZ on a zero divisor. -/
  | fdiv (f : FmtT)
  /-- FADDI (R144): Adds a bf16 immediate with one rounding. -/
  | faddi (f : FmtI)
  /-- FMULI (R144): Multiplies by a bf16 immediate with one rounding. -/
  | fmuli (f : FmtI)
  /-- FSCALE (R145): Multiplies a by two to an integer power with one rounding. -/
  | fscale (f : FmtT)
  /-- FROUND (R146): Rounds to an integral value in the same format. -/
  | fround (f : FmtT)
  /-- FMIN (R147): Delivers minimumNumber of a and b. -/
  | fmin (f : FmtT)
  /-- FMAX (R147): Delivers maximumNumber of a and b. -/
  | fmax (f : FmtT)
  /-- FCLAMP (R147): Delivers FMIN of FMAX of a and lo, and hi. -/
  | fclamp (f : FmtT)
  /-- FABS (R148): Clears the sign of a. -/
  | fabs (f : FmtT)
  /-- FNEG (R148): Inverts the sign of a. -/
  | fneg (f : FmtT)
  /-- FCMP (R149): Compares under EQ, LT, LE or UN, delivering 1 or 0, or a lane mask. -/
  | fcmp (f : FmtT)
  /-- FCLASS (R150): Delivers the class number of a. -/
  | fclass (f : FmtT)
  /-- FRCP (R151): Delivers the correctly rounded reciprocal. -/
  | frcp (f : FmtT)
  /-- FRSQ (R151): Delivers the correctly rounded reciprocal square root. -/
  | frsq (f : FmtT)
  /-- FSQRT (R151): Delivers the correctly rounded square root. -/
  | fsqrt (f : FmtT)
  /-- FEXP2 (R151): Delivers the correctly rounded power of two. -/
  | fexp2 (f : FmtT)
  /-- FLOG2 (R151): Delivers the correctly rounded base-two logarithm. -/
  | flog2 (f : FmtT)
  /-- FSIG (R151): Delivers the correctly rounded logistic sigmoid. -/
  | fsig (f : FmtT)
  /-- FTANH (R151): Delivers the correctly rounded hyperbolic tangent. -/
  | ftanh (f : FmtT)
  /-- VFRED (R152): Reduces the lanes by a fixed pairwise tree of rounded additions. -/
  | vfred (f : FmtT)
  /-- VFDOT2 (R153): Adds pairwise bf16 or fp16 dot products into fp32 lanes with one rounding. -/
  | vfdot2 (f : FmtT)
  /-- CVT (R154): Converts between types, with optional stochastic rounding, saturation and part. -/
  | cvt (f : FmtT)
  /-- CVTS (R156): Converts a times two to a scale exponent, with one rounding. -/
  | cvts (f : FmtT)
  /-- PACKF (R157): Quantises fp32 blocks into an 8-bit format under an e8 block scale. -/
  | packf (f : FmtT)
  /-- UNPACKF (R158): Expands packed 8-bit codes and scale bytes back into fp32. -/
  | unpackf (f : FmtT)
  /-- CBEXP (R159): Expands c4 codes through a sealed tensor's codebook. -/
  | cbexp (f : FmtT)
  /-- CBQNT (R160): Quantises values to the nearest codebook codes of a sealed tensor. -/
  | cbqnt (f : FmtT)
  /-- SEND (R166): Writes a SCALAR, VECTOR, ROW or MATCTL token into an output slot. -/
  | send (f : FmtX)
  /-- ADV (R167): Frees filled slots of an input channel at block end. -/
  | adv (f : FmtX)
  /-- PADV (R167): Publishes written slots of an output channel at block end. -/
  | padv (f : FmtX)
  /-- MARK (R166): Writes a MARK token with a code and argument into an output slot. -/
  | mark (f : FmtX)
  /-- TKIND (R168): Delivers the kind, and mark code, of an input token. -/
  | tkind (f : FmtX)
  /-- MARKARG (R168): Delivers a mark's argument or a row's header from an input token. -/
  | markarg (f : FmtX)
  /-- OSEND (R166): Writes an ORDER token that carries no edge into an output slot. -/
  | osend (f : FmtX)
  /-- CFGSEND (R166): Writes a CONFIG token carrying a 64-bit payload into an output slot. -/
  | cfgsend (f : FmtX)
  /-- EXIT (R169): Names the next block when it is the highest-indexed true candidate. -/
  | exit (f : FmtX)
  /-- CALL (R169): Names the next block and pushes the return address when it wins. -/
  | call (f : FmtX)
  /-- RET (R169): Pops the return stack for the next block when no candidate or TEND executed. -/
  | ret (f : FmtX)
  /-- TEND (R170): Ends the task at block end and counts one completion point. -/
  | tend (f : FmtX)
  /-- YIELD (R171): Ends the context's turn on the page at block end. -/
  | yield (f : FmtX)
  /-- SLEEP (R172): Sets a wait for a cycle count or for a copy promise at block end. -/
  | sleep (f : FmtX)
  /-- TRAP (R174): Raises an SW_TRAP fault record on purpose. -/
  | trap (f : FmtX)
  /-- BRK (R174): Raises a BREAK fault record on purpose. -/
  | brk (f : FmtX)
  /-- PSET (R181): Sets, ORs or ANDs a partition predicate at block end. -/
  | pset (f : FmtX)
  /-- LAUNCH (R177): Queues one launch from a launch record and delivers its handle. -/
  | launch (f : FmtX)
  /-- GLAUNCH (R177): Instantiates a graph template and delivers the graph handle. -/
  | glaunch (f : FmtX)
  /-- JOIN (R178): Sets a wait until a named counter reaches zero. -/
  | join (f : FmtX)
  /-- CANCEL (R179): Cancels the level named by a handle. -/
  | cancel (f : FmtX)
  /-- TBMARK (R180): Sets a tile buffer's state and makes the Drover re-test eligibility. -/
  | tbmark (f : FmtX)
  /-- TBWAIT (R180): Sets a wait until a tile buffer stands in a named state. -/
  | tbwait (f : FmtX)
  /-- PHEND (R182): Cancels the partition's current phase early. -/
  | phend (f : FmtX)
  /-- LD (R198): Loads one element from scratchpad. -/
  | ld (f : FmtM)
  /-- ST (R198): Stores one element to scratchpad. -/
  | st (f : FmtM)
  /-- LDV (R198): Loads one 128-byte line from scratchpad. -/
  | ldv (f : FmtM)
  /-- STV (R198): Stores one 128-byte line to scratchpad. -/
  | stv (f : FmtM)
  /-- STVM (R198): Stores the lanes of a line selected by a mask. -/
  | stvm (f : FmtM)
  /-- AADD (R199): Adds to a scratchpad element indivisibly at its bank and delivers the old value. -/
  | aadd (f : FmtM)
  /-- AMIN (R199): Takes the minimum into a scratchpad element indivisibly. -/
  | amin (f : FmtM)
  /-- AMAX (R199): Takes the maximum into a scratchpad element indivisibly. -/
  | amax (f : FmtM)
  /-- AAND (R199): ANDs into a scratchpad element indivisibly. -/
  | aand (f : FmtM)
  /-- AOR (R199): ORs into a scratchpad element indivisibly. -/
  | aor (f : FmtM)
  /-- AXOR (R199): XORs into a scratchpad element indivisibly. -/
  | axor (f : FmtM)
  /-- AXCHG (R199): Exchanges a scratchpad element indivisibly. -/
  | axchg (f : FmtM)
  /-- ACAS (R199): Compares and swaps a scratchpad element indivisibly. -/
  | acas (f : FmtM)
  /-- AFADD (R199): Adds a floating-point value into a scratchpad element with one RNE rounding. -/
  | afadd (f : FmtM)
  /-- BEW (R200): Updates a 128-byte line element by element in the bank ALU. -/
  | bew (f : FmtM)
  /-- BRED (R201): Reduces a range of one memory tile to a scalar in ascending address. -/
  | bred (f : FmtM)
  /-- FENCE (R202): Orders every stream of the issuing task, with the given semantics and scope. -/
  | fence (f : FmtM)
  /-- XFENCE (R202): Orders the streams named by a mask. -/
  | xfence (f : FmtM)
  /-- GATHER (R203): Reads E indexed elements into a vector. -/
  | gather (f : FmtM)
  /-- SCATTER (R203): Writes E indexed elements. -/
  | scatter (f : FmtM)
  /-- SCATADD (R203): Adds E elements into indexed locations. -/
  | scatadd (f : FmtM)
  /-- COPY (R205): Hands a copy to the home memory tile's copy engine and delivers a promise. -/
  | copy (f : FmtM)
  /-- CPSTAT (R208): Delivers a promise's status and bytes written, acquiring on completion with .acq. -/
  | cpstat (f : FmtM)
  /-- SOPEN (R209): Opens a stream of the context on a stream port in tensor or queue mode. -/
  | sopen (f : FmtM)
  /-- SCLOSE (R209): Ends a stream, writing what it has taken first. -/
  | sclose (f : FmtM)
  /-- QPUSH (R211): Appends one entry to a DRAM-backed queue through a stream. -/
  | qpush (f : FmtM)
  /-- QPOP (R211): Adds pop credit to a queue-read stream. -/
  | qpop (f : FmtM)
  /-- SFLUSH (R212): Is performed when every earlier write of the stream is performed in device memory. -/
  | sflush (f : FmtM)
  /-- IFLUSH (R214): Discards decoded blocks of the context's window that share a range. -/
  | iflush (f : FmtM)
  /-- LDG (R213): Loads one element of device memory through the random aperture. -/
  | ldg (f : FmtM)
  /-- STG (R213): Stores one element of device memory through the random aperture. -/
  | stg (f : FmtM)
  /-- AGADD (R213): Adds into a device-memory element indivisibly at its controller. -/
  | agadd (f : FmtM)
  /-- MMA (R245): Builds a MATCTL word from a geometry word and a sequence number. -/
  | mma (f : FmtT)
  /-- ACCRD (R246): Reads a quarter row of an accumulator tile. -/
  | accrd (f : FmtT)
  /-- ACCWR (R246): Writes a quarter row of an accumulator tile. -/
  | accwr (f : FmtT)
  /-- ACCZ (R246): Writes +0 into a whole accumulator tile. -/
  | accz (f : FmtT)
  /-- ACCREL (R246): Releases a READY accumulator tile to IDLE. -/
  | accrel (f : FmtT)
  /-- WLOAD (R247): Fills a weight-buffer region of a matrix node and delivers a promise. -/
  | wload (f : FmtT)
  /-- WRES (R249): Reports weight-region residency, parking the launch with .park on FILLING. -/
  | wres (f : FmtT)
  /-- TSEAL (R250): Checks and seals a tensor record into a free table slot. -/
  | tseal (f : FmtT)
  /-- TDROP (R251): Frees a live handle's slot and increments its GEN. -/
  | tdrop (f : FmtT)
  /-- TQUERY (R251): Delivers one word of a sealed record, or its liveness. -/
  | tquery (f : FmtT)
  /-- SPLD (R253): Delivers a tile's pattern status and starts a compile when absent. -/
  | spld (f : FmtT)
  /-- SPMM (R254): Multiplies one sparse tile by dense rows as an engine command. -/
  | spmm (f : FmtT)
  /-- SPINV (R255): Removes a pattern-store entry. -/
  | spinv (f : FmtT)
  /-- SPQ (R255): Delivers a pattern status without changing it. -/
  | spq (f : FmtT)
  /-- SCLOOK (R257): Looks up a tile in the step cache by signature. -/
  | sclook (f : FmtT)
  /-- SCFILL (R258): Records a step-cache entry from the pending signature. -/
  | scfill (f : FmtT)
  /-- SCSTEP (R259): Looks up a step-cache entry without a signature match. -/
  | scstep (f : FmtT)
  /-- SCINV (R259): Removes step-cache entries by key or all of them. -/
  | scinv (f : FmtT)
  /-- XGATE (R260): Ranks group maxima and delivers packed lane indices. -/
  | xgate (f : FmtT)
  /-- XSEND (R261): Appends a routed row to its group destination's send list. -/
  | xsend (f : FmtT)
  /-- XFLUSH (R262): Forms headers for every non-empty send list of the context. -/
  | xflush (f : FmtT)
  /-- XCLOSE (R262): Flushes and sends a close for a step to every destination. -/
  | xclose (f : FmtT)
  /-- COLL (R263): Starts a collective of a group and delivers a collective handle. -/
  | coll (f : FmtT)
  /-- COLLWAIT (R266): Sets a wait for a collective to end. -/
  | collwait (f : FmtT)
  /-- CSRRD (R183): Reads a control and status register. -/
  | csrrd (f : FmtX)
  /-- CSRWR (R183): Writes a control and status register. -/
  | csrwr (f : FmtX)
  /-- CYCLE (R184): Delivers the cycle counter as it stood when the firing began. -/
  | cycle (f : FmtX)
  /-- STATCLR (R185): Clears the named CTX_STAT bits. -/
  | statclr (f : FmtX)
  /-- SEED (R185): Writes CTX_SEED, storing 0 as 1. -/
  | seed (f : FmtX)
  /-- TRET (R187): Retries, skips or kills a faulted unit. -/
  | tret (f : FmtX)
  /-- FREC (R186): Removes and delivers the oldest trap-queue record. -/
  | frec (f : FmtX)
  /-- MIGR (R189): Requests a move of a logical page. -/
  | migr (f : FmtX)
  /-- QUOTA (R188): Raises a context's spill-quota extension from the partition's reserve. -/
  | quota (f : FmtX)
  /-- PERF (R184): Delivers an event counter, clearing it with .clr for the issuing context. -/
  | perf (f : FmtX)
  /-- STEER (R224): Sends a data token down one of two paths by a control token. -/
  | steer (f : FmtC)
  /-- MERGE (R225): Takes a data token from the input that a control token selects. -/
  | merge (f : FmtC)
  /-- CARRY (R226): Feeds a loop-carried value around a loop and gives it on exit. -/
  | carry (f : FmtC)
  /-- REPEAT (R227): Gives copies of a held value by control or fixed count. -/
  | repeat (f : FmtC)
  /-- COUNT (R228): Gives an index stream and its loop control. -/
  | count (f : FmtC)
  /-- SWITCH (R229): Steers a data token to one of up to sixteen ways by an index. -/
  | switch (f : FmtC)
  /-- SPLOOP (R230): Gives the indices of a sparse range or mask with loop control. -/
  | sploop (f : FmtC)
  /-- SEQ (R231): Numbers a stream of data tokens as ROW tokens. -/
  | seq (f : FmtC)
  /-- SMERGE (R232): Restores sequence order from two inputs of ROW tokens. -/
  | smerge (f : FmtC)
  /-- FORK (R233): Copies a token onto both outputs. -/
  | fork (f : FmtC)
  /-- SINK (R234): Discards a token, counting a completion point for LAST. -/
  | sink (f : FmtC)
  /-- FILTER (R235): Passes or drops a data token by a predicate. -/
  | filter (f : FmtC)
  /-- SYNC (R235): Joins one token from every bound input and gives the selected one. -/
  | sync (f : FmtC)
  /-- CONFIG_TOKEN_TAKE (R221): An operator takes a CONFIG token alone and replaces its word, or faults on an invalid payload. -/
  | configTokenTake (op : Nat)
  /-- CONTROL_MARK_DISCARD (R219): A MARK at the head of a control, predicate or index input is discarded in a firing of its own. -/
  | controlMarkDiscard (op : Nat)
  /-- BLOCK_FIRING (R28): A fireable block of the active context fires and runs to completion, choosing the next block at its end. -/
  | blockFiring (ce : Nat)
  /-- LINK_GRANT (R12): A mesh link grants one ready channel and moves one token one hop. -/
  | linkGrant (link : Nat) (err : TokenErr)
  /-- CREDIT_RETURN (R340): A token freed at the consumer returns one credit to the producer after the route latency. -/
  | creditReturn (ch : Nat)
  /-- BUS_GRANT (R20): A broadcast bus grants one driver's transfer round-robin. -/
  | busGrant (bus : Nat)
  /-- BUS_DELIVERY (R20): A bus transfer enters the addressed matrix nodes' operand inputs three cycles after its grant. -/
  | busDelivery (bus : Nat)
  /-- ORDER_PUBLISH (R282): An order-out's ORDER token is published in the cycle after its access is performed. -/
  | orderPublish (ce out : Nat)
  /-- BANK_SERVE (R270): A bank serves the oldest head request of its six ports as one line operation. -/
  | bankServe (mt bank : Nat) (err : WordErr)
  /-- BANK_ECC_WRITEBACK (R274): A corrected word is written back in the bank's next free cycle. -/
  | bankEccWriteback (mt bank : Nat)
  /-- BANK_DROWSE (R275): A bank idle for MT_DROWSY_IDLE cycles drops to retention voltage. -/
  | bankDrowse (mt bank : Nat)
  /-- BANK_WAKE_END (R275): A drowsy bank finishes its 24-cycle wake and serves what arrived meanwhile. -/
  | bankWakeEnd (mt bank : Nat)
  /-- BANK_POWER_UP (R276): A newly owned memory tile's banks finish powering up and zeroing after 600 cycles. -/
  | bankPowerUp (mt : Nat)
  /-- PAGE_CLEAR (R277): A page passing to another partition has every store cleared before serving its new owner. -/
  | pageClear (page : Nat)
  /-- GATHER_ACCEPT (R279): The gather engine accepts one request into its lowest free slot. -/
  | gatherAccept (mt : Nat)
  /-- GATHER_RETURN (R280): The scoreboard returns a done gather's result in acceptance order and frees its slot. -/
  | gatherReturn (mt ce : Nat)
  /-- COPY_CHUNK (R207): A copy engine reads and writes one 4 KiB chunk, completing the copy with a release at the last. -/
  | copyChunk (mt : Nat)
  /-- QUEUE_HEADER_CHECK (R210): A port opening a queue reads its header and faults with CONFIG if it breaks the map. -/
  | queueHeaderCheck (stream : Nat)
  /-- STREAM_TOKEN_MOVE (R311): A stream port moves one token per cycle round-robin over its ready streams. -/
  | streamTokenMove (port : Nat)
  /-- HELD_PUSH_RELEASE (R211): A push held on a full queue is written when a pop makes room. -/
  | heldPushRelease (stream : Nat)
  /-- DRAM_ISSUE (R305): A pseudo-channel issues the request chosen by age, group and partition share. -/
  | dramIssue (chan : Nat) (err : SectorErr)
  /-- DRAM_REPLY (R304): A device-memory reply returns to its requester on the reply channel. -/
  | dramReply (chan : Nat) (again : Bool)
  /-- ARRAY_ECC_REWRITE (R307): A corrected sector is rewritten in the channel's next idle slot. -/
  | arrayEccRewrite (chan : Nat)
  /-- CRC_REPLAY (R308): A transfer whose CRC fails is replayed once. -/
  | crcReplay (chan : Nat) (ok : Bool)
  /-- DRAM_REFRESH (R306): A refresh falling due holds its channel until it completes. -/
  | dramRefresh (chan : Nat) (start : Bool)
  /-- PAGE_WALK_LEVEL_READ (R404): A walker reads one level of the page table for a translation miss. -/
  | pageWalkLevelRead (die walk : Nat)
  /-- WALK_COMPLETE (R404): A finished walk fills the caches of the misses it served or raises XLATE. -/
  | walkComplete (die walk : Nat)
  /-- TRANSLATION_INVALIDATE (R405): A write to the translation area is performed after every cache drops and reloads the range table. -/
  | translationInvalidate (part : Nat)
  /-- MATCTL_TAKE (R243): A matrix node takes a context's MATCTL token and accepts the fragment when its tile allows. -/
  | matctlTake (mn ctx : Nat)
  /-- FRAGMENT_START (R243): The array starts one accepted fragment, reserving its DONE slot. -/
  | fragmentStart (mn : Nat)
  /-- FRAGMENT_COMPLETE (R244): A fragment writes its tile elements and gives DONE for MOP 1. -/
  | fragmentComplete (mn : Nat)
  /-- DONE_FENCE_GIVE (R244): A MOP 2 token gives DONE once every earlier fragment on its tile has completed. -/
  | doneFenceGive (mn ctx : Nat)
  /-- TILE_HANDOVER (R386): An IDLE tile is taken by the earliest waiting fragment or restore in the next cycle. -/
  | tileHandover (mn tile : Nat)
  /-- TILE_RESTORE (R391): A saved tile entry is written to its tile when IDLE and its pending fragments re-accepted. -/
  | tileRestore (mn tile : Nat)
  /-- NODE_PARTITION_CLEAR (R392): A matrix node passing partitions zeroes its tiles and weight buffer after the old launches retire. -/
  | nodePartitionClear (mn : Nat)
  /-- PATTERN_COMPILE_START (R327): A queued compile starts after its hand-off and reads the tile header against PAT_LIMIT. -/
  | patternCompileStart (mt : Nat)
  /-- PATTERN_INSTALL (R327): A compile installs its program as ST 2, or ST 3 above the limit, unless discarded. -/
  | patternInstall (mt : Nat)
  /-- PATTERN_STORE_MOVE (R330): The store moves entries to join free words while no compile installs. -/
  | patternStoreMove (mt entry dest : Nat)
  /-- PATTERN_AGE_SWEEP (R330): Every 2^30 cycles the store clamps the LASTUSE of aged records. -/
  | patternAgeSweep (mt : Nat)
  /-- SPMM_START (R333): An SPMM chooses the compiled program or the fallback after its hand-off. -/
  | spmmStart (mt : Nat)
  /-- SPMM_COMPLETE (R254): An SPMM writes its last row and completes its promise with a release. -/
  | spmmComplete (mt : Nat)
  /-- STEP_CACHE_DECISION (R318): A lookup's decision is taken indivisibly when its last read returns. -/
  | stepCacheDecision (mt : Nat)
  /-- BATCH_DEPART (R361): Egress sends a formed batch toward its destination ingress one row at a time. -/
  | batchDepart (part die : Nat)
  /-- INGRESS_BATCH_TAKE (R364): An ingress takes an arriving batch whole, discarding it with CONFIG on a group mismatch. -/
  | ingressBatchTake (part die : Nat) (remote : Option LinkBatch)
  /-- ROW_PLACE (R364): An ingress places one row in an expert's buffer, waiting for a free pool page if needed. -/
  | rowPlace (part die : Nat)
  /-- BATCH_RETURN (R368): A returned batch token frees its RUNNING pool page. -/
  | batchReturn (part die : Nat)
  /-- COLLECTIVE_EXCHANGE_STEP (R265): A collective member performs one exchange step. -/
  | collectiveExchangeStep (part grp seq rank : Nat) (remote : List (BitVec 8))
  /-- COLLECTIVE_COMPLETE (R264): A collective completes with a release and acquire by every participant. -/
  | collectiveComplete (part grp seq : Nat)
  /-- SLEEP_WAKE (R172): A sleeping binding's cycle count expires and it becomes RUNNABLE. -/
  | sleepWake (ce bind : Nat)
  /-- COPY_WAIT_WAKE (R172): A binding waiting on a copy promise wakes when the copy completes. -/
  | copyWaitWake (ce bind : Nat)
  /-- PROMISE_TIMEOUT (R172): A copy wait's timeout expires, writing PROMISE_MISS and faulting the binding. -/
  | promiseTimeout (ce bind : Nat)
  /-- JOIN_WAKE (R178): A JOIN wait ends when its counter reaches zero and delivers the status word. -/
  | joinWake (ce bind : Nat)
  /-- TBWAIT_WAKE (R180): A TBWAIT wakes in the first cycle the buffer stands in the named state. -/
  | tbwaitWake (ce bind : Nat)
  /-- COLLWAIT_WAKE (R266): A COLLWAIT ends when its collective ends and delivers its status. -/
  | collwaitWake (ce bind : Nat)
  /-- TURN_END (R354): A page's turn ends on quantum, eight idle cycles, YIELD or departure, and the next slot is chosen. -/
  | turnEnd (page : Nat)
  /-- DRAIN_END (R354): The old context's last running block ends and the new context fires. -/
  | drainEnd (page : Nat)
  /-- PANNIER_REFILL (R344): The Pannier moves the oldest buffered ring token into a free endpoint slot. -/
  | pannierRefill (ch : Nat) (err : Bool)
  /-- RING_ENLARGE (R345): A full ring takes a segment from the extension in the next cycle and credits four tokens. -/
  | ringEnlarge (ch : Nat)
  /-- QUOTA_RECORD (R346): After 2^16 consecutive blocked cycles a QUOTA record is written. -/
  | quotaRecord (ch : Nat)
  /-- WATCHDOG (R47): A context holding waiting tokens that fires nothing for 2^24 cycles gets a WATCHDOG record. -/
  | watchdog (router : Bool) (key : Nat)
  /-- LAUNCH_AGEING (R351): An entry whose WAITED reaches DRV_AGE moves to the tail of the level above. -/
  | launchAgeing (part : Nat)
  /-- PLACEMENT_DECISION (R352): The Drover chooses the next eligible launch and the Serai places or refuses it. -/
  | placementDecision (part : Nat)
  /-- IMAGE_LOAD (R427): The on-device loader reads and checks an image body and keeps or refuses it. -/
  | imageLoad (part address : Nat) (body : ImageBody)
  /-- PHASE_PRELOAD (R42): The Drover preloads the likely successor's configuration into free slots. -/
  | phasePreload (part : Nat)
  /-- STOP_ACKNOWLEDGE (R409): An element or engine command acknowledges a stop at the end of its granule. -/
  | stopAcknowledge (launch unit : Nat)
  /-- EMPTY_PHASE_EVALUATE (R438): A phase with no template is evaluated in the cycle after it starts. -/
  | emptyPhaseEvaluate (part : Nat)
  /-- LAUNCH_RESUME (R415): A saved launch is restored on its logical pages from its save areas. -/
  | launchResume (launch : Nat)
  /-- DEFERRED_RECORD_WRITE (R419): An element waiting on a full trap queue writes its record when a place frees. -/
  | deferredRecordWrite (part : Nat)
  /-- PAGE_THERM_RENEWAL (R380): A page sensor renews TEMP every 4,096 cycles and may request a thermal move. -/
  | pageThermRenewal (page : Nat) (temp : BitVec 12)
  /-- PAGE_MOVE_TRANSFER (R432): After the stop completes, the page's stores are copied from the old to the new physical page. -/
  | pageMoveTransfer (part : Nat)
  /-- PAGE_MOVE_COMMIT (R432): The page map switches, held accesses go to the new page, launches resume and MIGRATE is written. -/
  | pageMoveCommit (part : Nat)
  /-- PAGE_MAPOUT (R434): A page with a lasting error is mapped out and its launches rebound to a spare page or killed. -/
  | pageMapout (page : Nat)
  /-- POWER_WINDOW (R464): Each 1 ms window measures power and withholds turns in proportion to excess over the cap. -/
  | powerWindow (watts : Nat)
  /-- CYCLE_SAMPLE_EXCHANGE (R443): Every 2^16 cycles each link exchanges cycle-counter samples to estimate the offset from the root. -/
  | cycleSampleExchange (link : Nat) (ahead behind : Nat)
  /-- CYCLE_SLEW (R443): A package off by more than 8 cycles withholds or adds one increment per 256 cycles. -/
  | cycleSlew
  /-- FLIT_RETRY (R462): A flit whose CRC fails is retried, and a failed retry maps out its lane or link. -/
  | flitRetry (link : Nat) (ok : Bool)
  /-- FUNCTION_READY (R463): A function passes its self-tests and sets its DEV_READY bit. -/
  | functionReady (fn : Nat) (ok : Bool)
  /-- DEVICE_RESET (R442): The package resets, clearing the cycle counter and activating staged firmware. -/
  | deviceReset
  /-- HOSTL_FALL (R460): The host link goes down and every DEV_OWN bit passes to the Mornos port. -/
  | hostlFall
  /-- REGISTER_WRITE (R459): A write to a register with no behaviour of its own, taken only from its function's owner. -/
  | registerWrite (win : RegWindow) (reg : Nat) (value : BitVec 64) (host : Bool)
  /-- HOST_VFMAP_WRITE (R452): Binds or unbinds VFs to partitions. -/
  | hostVfmapWrite (n : Nat) (value : BitVec 64) (host : Bool)
  /-- PAGE_ASSIGN (R453): HOST_PGASSIGN with REL 0 assigns a range of physical pages to the selected partition. -/
  | pageAssign (value : BitVec 64) (host : Bool)
  /-- PAGE_RELEASE (R453): HOST_PGASSIGN with REL 1 releases a range of pages, moving bound ones first. -/
  | pageRelease (value : BitVec 64) (host : Bool)
  /-- HOST_PCFG_WRITE (R453): Sets the partition's weight and NL, binding logical pages. -/
  | hostPcfgWrite (value : BitVec 64) (host : Bool)
  /-- HOST_XAREA_WRITE (R453): Names the partition's translation area, ignored while a job runs or when invalid. -/
  | hostXareaWrite (value : BitVec 64) (host : Bool)
  /-- HOST_CNTCLR (R453): A write of 1 clears the device event counters. -/
  | hostCntclr (value : BitVec 64) (host : Bool)
  /-- DEV_OWN_WRITE (R460): Passes ownership of a device function, written only by its current owner. -/
  | devOwnWrite (value : BitVec 64) (host : Bool)
  /-- PART_JOB_START (R457): A START write reads the job record, applies initial registers, queues the supervisor and starts the first phase. -/
  | partJobStart (vf : Nat) (value : BitVec 64)
  /-- PART_JOB_CANCEL (R455): A CANCEL write cancels the running job at job scope. -/
  | partJobCancel (vf : Nat) (value : BitVec 64)
  /-- PART_TRAPPOP (R455): A write of 1 removes the oldest trap-queue record. -/
  | partTrappop (vf : Nat) (value : BitVec 64)
  /-- PART_DBG_ADDR_WRITE (R455): Writing the debug address reads eight scratchpad bytes into PART_DBG_DATA. -/
  | partDbgAddrWrite (vf : Nat) (value : BitVec 64)
  /-- PART_CKPT_GO (R465): A GO write stops the job with SAVE and starts a checkpoint. -/
  | partCkptGo (vf : Nat) (value : BitVec 64)
  /-- CKPT_END (R465): The checkpoint copy ends, the job resumes unless STAY, and MSI-X vector 2 is sent. -/
  | ckptEnd (part : Nat) (linkDown memUe : Bool)
  /-- MCTP_CONTROL (R461): The Mornos port answers an MCTP control message. -/
  | mctpControl (msg : List (BitVec 8))
  /-- GET_VERSION (R461): The Mornos port answers the SPDM GET_VERSION message. -/
  | getVersion (msg : List (BitVec 8))
  /-- GET_CAPABILITIES (R461): The Mornos port answers the SPDM GET_CAPABILITIES message. -/
  | getCapabilities (msg : List (BitVec 8))
  /-- NEGOTIATE_ALGORITHMS (R461): The Mornos port answers the SPDM NEGOTIATE_ALGORITHMS message. -/
  | negotiateAlgorithms (msg : List (BitVec 8))
  /-- GET_DIGESTS (R461): The Mornos port answers the SPDM GET_DIGESTS message. -/
  | getDigests (msg : List (BitVec 8))
  /-- GET_CERTIFICATE (R461): The Mornos port answers the SPDM GET_CERTIFICATE message. -/
  | getCertificate (msg : List (BitVec 8))
  /-- GET_MEASUREMENTS (R461): The Mornos port answers the signed SPDM GET_MEASUREMENTS message. -/
  | getMeasurements (msg : List (BitVec 8))
  /-- MGT_REGISTER_READ (R461): A vendor message reads a class-3 register. -/
  | mgtRegisterRead (reg : Nat)
  /-- MGT_REGISTER_WRITE (R461): A vendor message writes a class-3 register. -/
  | mgtRegisterWrite (reg : Nat) (value : BitVec 64)
  /-- MGT_INVENTORY_READ (R461): A vendor message reads the package inventory. -/
  | mgtInventoryRead
  /-- MGT_SENSOR_READ (R461): A vendor message reads the page sensors. -/
  | mgtSensorRead (page : Nat)
  /-- MGT_ERRLOG_READ (R461): A vendor message reads the error logs. -/
  | mgtErrlogRead
  /-- MGT_PACKAGE_RESET (R461): A vendor message resets the package. -/
  | mgtPackageReset
  /-- MGT_FIRMWARE_STAGE (R461): A vendor message stages firmware in the inactive slot and checks its signature. -/
  | mgtFirmwareStage (version : BitVec 64) (signed : Bool)
  /-- VF_BAR2_WRITE (R451): A host memory write through a VF's BAR2 is translated by the partition's tables and writes device memory, or is dropped when it does not translate. -/
  | vfBar2Write (vf address : Nat) (data : List (BitVec 8))
  /-- CYCLE_COUNTER_ADVANCE (R442): Each fabric cycle the package's cycle counter advances, together with the per-cycle counts that run on it. -/
  | cycleCounterAdvance  deriving DecidableEq, Repr, Inhabited

end Sys2Proof
end

