-- ==== Sys2Proof/WellFormed.lean ====
section
/-!
DEFINITION. Sys2Proof/WellFormed.lean: what R110, R141, R163, R191, R217 and R240 require of one word on its own:
its type, its modifier, its source classes and its target kinds. `Instr.bad` names the failing row of R100's table
(5 Type, 6 Fields). The checks of R100 that need the whole block (CHECK, slots, registers, channels) are made by
BLOCK_FIRING.
-/

namespace Sys2Proof

/-- The type code of R49. -/
def Ty.code : Ty → Nat
  | .s8 => 0 | .z8 => 1 | .s16 => 2 | .z16 => 3 | .s32 => 4 | .z32 => 5 | .s64 => 6 | .z64 => 7
  | .e4m3 => 8 | .e5m2 => 9 | .bf16 => 10 | .fp16 => 11 | .fp32 => 12 | .c4 => 13 | .b1 => 14

/-- The width of a type in bits (R49). -/
def Ty.width : Ty → Nat
  | .s8 | .z8 | .e4m3 | .e5m2 => 8
  | .s16 | .z16 | .bf16 | .fp16 => 16
  | .s32 | .z32 | .fp32 => 32
  | .s64 | .z64 => 64
  | .c4 => 4 | .b1 => 1

/-- The lanes of a type in a vector (R49); 16 for the 64-bit types, which name scalars only (R203 takes 16). -/
def Ty.lanes (t : Ty) : Nat := 1024 / t.width

/-- The s types (R49). -/
def Ty.signed : Ty → Bool
  | .s8 | .s16 | .s32 | .s64 => true
  | .z8 | .z16 | .z32 | .z64 | .e4m3 | .e5m2 | .bf16 | .fp16 | .fp32 | .c4 | .b1 => false

/-- The floating-point types (R49). -/
def Ty.isFloat : Ty → Bool
  | .e4m3 | .e5m2 | .bf16 | .fp16 | .fp32 => true
  | .s8 | .z8 | .s16 | .z16 | .s32 | .z32 | .s64 | .z64 | .c4 | .b1 => false

/-- The integer types (R49). -/
def Ty.isInt (t : Ty) : Bool := t.code ≤ 7

/-- The type a code names; 0xF names none (R49). -/
def Ty.ofCode : Nat → Option Ty
  | 0 => some .s8 | 1 => some .z8 | 2 => some .s16 | 3 => some .z16 | 4 => some .s32 | 5 => some .z32
  | 6 => some .s64 | 7 => some .z64 | 8 => some .e4m3 | 9 => some .e5m2 | 10 => some .bf16 | 11 => some .fp16
  | 12 => some .fp32 | 13 => some .c4 | 14 => some .b1 | _ => none

abbrev tyLe (t : Ty) (n : Nat) : Bool := t.code ≤ n
abbrev tyIn (t : Ty) (lo hi : Nat) : Bool := lo ≤ t.code && t.code ≤ hi
abbrev tyEq (t : Ty) (n : Nat) : Bool := t.code == n

/-- An unused source holds REG ZERO (R80). -/
abbrev un (s : Src) : Bool := s == .zero

/-- Class IMM7. -/
def isImm : Src → Bool
  | .imm _ => true
  | _ => false

/-- Class CHAN. -/
def isChan : Src → Bool
  | .chan _ _ => true
  | _ => false

/-- Classes REG, SLOT and CHAN (R166 and others). -/
def isRSC (s : Src) : Bool := !isImm s

/-- A "pair" source: REG w0 or REG w2 (R191). -/
def isPair : Src → Bool
  | .w n => n == 0 || n == 2
  | _ => false

/-- A "stream" source: IMM7 with bits [6:4] zero (R237). -/
def streamSrc : Src → Bool
  | .imm v => v.toNat < 16
  | _ => false

/-- PACKF's and UNPACKF's SB: an IMM7 of 0 or 1 (R157). -/
def blockSel : Src → Bool
  | .imm v => v.toNat ≤ 1
  | _ => false

/-- CBEXP's SA: an IMM7 lies from 0 to 15 (R159). -/
def codeImm : Src → Bool
  | .imm v => v.toNat < 16
  | _ => true

def isS : Tgt → Bool
  | .s _ => true
  | _ => false

def isW : Tgt → Bool
  | .w _ => true
  | _ => false

/-- REG, SLOT or OUT. -/
def isD (t : Tgt) : Bool := !(t == .none)

/-- REG, SLOT, OUT or NONE: every target kind. -/
def isDN (_t : Tgt) : Bool := true

/-- SEND's SUB: kinds 0, 1, 5 and 6 (R166). -/
def sendKind (sub : BitVec 8) : Bool := sub == 0 || sub == 1 || sub == 5 || sub == 6

/-- The output-slot layout of R164; HREG is zero unless the instruction is SEND.row. -/
def outSlot (imm : BitVec 19) (row : Bool) : Bool :=
  natBits imm.toNat 18 11 == 0 && natBits imm.toNat 7 7 == 0 && (row || natBits imm.toNat 10 8 == 0)

/-- VRED's and VSCAN's MD (R138): .add, .add.sat, .min, .max. -/
def redMd (md : BitVec 3) : Bool := md == 0 || md == 1 || md == 2 || md == 4

/-- Elements a conversion's two sides name: lanes of a vector form (R155). -/
def cvtParts (src dst : Ty) : Nat := max src.lanes dst.lanes / min src.lanes dst.lanes

/-- A part is legal when it is below f, and 0 in a scalar form (R155). -/
def partOk (vec : Bool) (src dst : Ty) (part : Nat) : Bool :=
  if vec then part < cvtParts src dst && src.width != 64 && dst.width != 64 else part == 0

/-- CVT's SB, SC and MD (R154, R155). -/
def cvtOk (f : FmtT) : Bool :=
  match f.sb, f.sc with
  | .imm b, .imm c =>
    match Ty.ofCode b.toNat with
    | some src =>
      let sr := c.toNat % 2 == 1
      let sat := c.toNat / 2 % 2 == 1
      b.toNat ≤ 0xC && c.toNat < 16 && partOk (4 ≤ f.md.toNat) src f.ty (c.toNat / 4) &&
      (!sr || (tyIn f.ty 8 0xB && natBits f.md.toNat 1 0 == 0)) && (!sat || tyIn f.ty 8 9)
    | none => false
  | _, _ => false

/-- CVTS's SB (R156). -/
def cvtsOk (f : FmtT) : Bool :=
  match f.sb with
  | .imm b =>
    match Ty.ofCode (b.toNat % 16) with
    | some src => b.toNat % 16 ≤ 0xC && b.toNat < 64 && partOk (4 ≤ f.md.toNat) src f.ty (b.toNat / 16)
    | none => false
  | _ => false

/-- The legal (AFMT, BFMT) pairs of R97. -/
def matPair (a b : Nat) : Bool :=
  ((a == 8 || a == 9) && (b == 8 || b == 9 || b == 0xD)) || (a == 0 && b == 0) || (a == 0xA && (b == 0xA || b == 0xD))

/-- MMA's TY: AFMT 0x0, 0x8, 0x9 or 0xA (R240). -/
def mmaTy (f : FmtT) : Bool := tyEq f.ty 0 || tyIn f.ty 8 0xA

/-- MMA's MD: MOP 0 to 2 (R245). -/
def mmaMd (f : FmtT) : Bool := f.md.toNat / 2 ≤ 2

/-- MMA's sources: SC is IMM7 with BFMT in [3:0] and a pair R97 allows; a fence names no format (R245). -/
def mmaSrc (f : FmtT) : Bool :=
  match f.sc with
  | .imm c =>
    if f.md.toNat / 2 == 2 then f.md == 4 && f.ty == .s8 && c == 0
    else c.toNat < 16 && matPair f.ty.code c.toNat
  | _ => false

/-- SEM of a load: plain or acquire; of a store: plain or release (R191). -/
abbrev semAcq (sem : BitVec 2) : Bool := sem == 0 || sem == 1
abbrev semRel (sem : BitVec 2) : Bool := sem == 0 || sem == 2

/-- SCO and SC of format M (R84, R90): a scope 0 to 5, zero where SEM is 0 on no fence; an IMM7 SC is 0. -/
def mOk (f : FmtM) (fence : Bool) : Bool :=
  f.sco.toNat ≤ 5 && (fence || f.sem != 0 || f.sco == 0) && (!isImm f.sc || f.sc == .imm 0)

/-- Direction NONE. -/
abbrev isNone (p : Port) : Bool := p.dir == .none

/-- A NONE port has channel 0 (R92). -/
def portOk (f : FmtC) : Bool :=
  [f.in0, f.in1, f.in2, f.out0, f.out1].all fun p => !isNone p || p.ch == 0

/-- The failing row of R100: 5 for the type, 6 for the fields. -/
def ck (tyOk fieldsOk : Bool) : Option Nat :=
  if !tyOk then some 5 else if !fieldsOk then some 6 else none

/-- The failing row of R100's table for a word on its own, or none. Events are no words and never fail. -/
def Instr.bad : Instr → Option Nat
  | .nop f => ck (tyEq f.ty 0) ((f.md == 0) && (un f.sa && un f.sb && un f.sc) && (f.ta == .none && f.tb == .none))
  | .mov f => ck (tyLe f.ty 0xC) ((f.md == 0) && (un f.sb && un f.sc) && (true))
  | .add f => ck (tyLe f.ty 7) ((f.md.toNat ≤ 1) && (un f.sc) && (true))
  | .sub f => ck (tyLe f.ty 7) ((f.md.toNat ≤ 1) && (un f.sc) && (true))
  | .mul f => ck (tyLe f.ty 7) ((f.md.toNat ≤ 1) && (un f.sc) && (true))
  | .mulh f => ck (tyLe f.ty 7) ((f.md == 0) && (un f.sc) && (true))
  | .div f => ck (tyLe f.ty 7) ((f.md.toNat ≤ 1) && (un f.sc) && (true))
  | .rem f => ck (tyLe f.ty 7) ((f.md == 0) && (un f.sc) && (true))
  | .andOp f => ck (tyLe f.ty 7) ((f.md == 0) && (un f.sc) && (true))
  | .orOp f => ck (tyLe f.ty 7) ((f.md == 0) && (un f.sc) && (true))
  | .xorOp f => ck (tyLe f.ty 7) ((f.md == 0) && (un f.sc) && (true))
  | .shl f => ck (tyLe f.ty 7) ((f.md.toNat ≤ 1) && (un f.sc) && (true))
  | .shr f => ck (tyLe f.ty 7) ((f.md == 0) && (un f.sc) && (true))
  | .minOp f => ck (tyLe f.ty 7) ((f.md == 0) && (un f.sc) && (true))
  | .maxOp f => ck (tyLe f.ty 7) ((f.md == 0) && (un f.sc) && (true))
  | .abs f => ck (tyLe f.ty 7) ((f.md.toNat ≤ 1) && (un f.sb && un f.sc) && (true))
  | .cmp f => ck (tyLe f.ty 7) ((f.md.toNat ≤ 5) && (un f.sc) && (true))
  | .cmpi f => ck (tyLe f.ty 7) ((f.md.toNat ≤ 5) && (true) && (true))
  | .sel f => ck (tyLe f.ty 0xC) ((f.md == 0) && (true) && (true))
  | .clz f => ck (tyLe f.ty 7) ((f.md == 0) && (un f.sb && un f.sc) && (true))
  | .popc f => ck (tyLe f.ty 7) ((f.md == 0) && (un f.sb && un f.sc) && (true))
  | .bfx f => ck (tyLe f.ty 7) ((f.md == 0) && (un f.sc) && (true))
  | .bfi f => ck (tyLe f.ty 7) ((f.md == 0) && (true) && (true))
  | .addi f => ck (tyLe f.ty 7) ((f.md.toNat ≤ 1) && (true) && (true))
  | .andi f => ck (tyLe f.ty 7) ((f.md == 0) && (true) && (true))
  | .ldi f => ck (tyLe f.ty 7) ((f.md.toNat ≤ 3 && 16 * f.md.toNat < f.ty.width) && (true) && (true))
  | .addr f => ck (tyIn f.ty 4 7) ((f.md == 0) && (true) && (true))
  | .vmov f => ck (tyLe f.ty 5 || tyIn f.ty 8 0xE) ((f.md == 0) && (un f.sb && un f.sc) && (true))
  | .vadd f => ck (tyLe f.ty 5) ((f.md.toNat ≤ 1) && (un f.sc) && (true))
  | .vsub f => ck (tyLe f.ty 5) ((f.md.toNat ≤ 1) && (un f.sc) && (true))
  | .vmul f => ck (tyLe f.ty 5) ((f.md.toNat ≤ 1) && (un f.sc) && (true))
  | .vmulh f => ck (tyLe f.ty 5) ((f.md == 0) && (un f.sc) && (true))
  | .vmac f => ck (tyLe f.ty 5) ((f.md.toNat ≤ 1) && (true) && (true))
  | .vdot4 f => ck (tyLe f.ty 1) ((f.md.toNat ≤ 1) && (true) && (true))
  | .vdot2 f => ck (tyIn f.ty 2 3) ((f.md.toNat ≤ 1) && (true) && (true))
  | .vmin f => ck (tyLe f.ty 5) ((f.md == 0) && (un f.sc) && (true))
  | .vmax f => ck (tyLe f.ty 5) ((f.md == 0) && (un f.sc) && (true))
  | .vabs f => ck (tyLe f.ty 5) ((f.md.toNat ≤ 1) && (un f.sb && un f.sc) && (true))
  | .vand f => ck (tyLe f.ty 5 || tyIn f.ty 8 0xE) ((f.md == 0) && (un f.sc) && (true))
  | .vor f => ck (tyLe f.ty 5 || tyIn f.ty 8 0xE) ((f.md == 0) && (un f.sc) && (true))
  | .vxor f => ck (tyLe f.ty 5 || tyIn f.ty 8 0xE) ((f.md == 0) && (un f.sc) && (true))
  | .vshl f => ck (tyLe f.ty 5) ((f.md.toNat ≤ 1) && (un f.sc) && (true))
  | .vshr f => ck (tyLe f.ty 5) ((f.md == 0) && (un f.sc) && (true))
  | .vrshr f => ck (tyLe f.ty 5) ((f.md == 0) && (un f.sc) && (true))
  | .vcmp f => ck (tyLe f.ty 5) ((f.md.toNat ≤ 5) && (un f.sc) && (true))
  | .vsel f => ck (tyLe f.ty 5 || tyIn f.ty 8 0xE) ((f.md == 0) && (true) && (true))
  | .vnarrow f => ck (tyLe f.ty 3) ((f.md.toNat ≤ 1) && (un f.sc) && (true))
  | .vwiden f => ck (tyLe f.ty 3) ((f.md == 0 || f.md == 2) && (un f.sb && un f.sc) && (true))
  | .vshuf f => ck (tyLe f.ty 5 || tyIn f.ty 8 0xC) ((f.md == 0) && (true) && (true))
  | .vslide f => ck (tyLe f.ty 5 || tyIn f.ty 8 0xC) ((f.md == 0) && (true) && (true))
  | .vbcast f => ck (tyLe f.ty 5 || tyIn f.ty 8 0xC) ((f.md == 0) && (un f.sb && un f.sc) && (true))
  | .vext f => ck (tyLe f.ty 5 || tyIn f.ty 8 0xC) ((f.md == 0) && (un f.sc) && (true))
  | .vins f => ck (tyLe f.ty 5 || tyIn f.ty 8 0xC) ((f.md == 0) && (true) && (true))
  | .vred f => ck (tyLe f.ty 5) ((redMd f.md) && (un f.sb && un f.sc) && (true))
  | .vscan f => ck (tyLe f.ty 5) ((redMd f.md) && (un f.sb && un f.sc) && (true))
  | .viota f => ck (tyLe f.ty 5 || tyIn f.ty 8 0xC) ((f.md == 0) && (un f.sb && un f.sc) && (true))
  | .vpopc f => ck (tyLe f.ty 5 || tyIn f.ty 8 0xC) ((f.md == 0) && (un f.sb && un f.sc) && (true))
  | .vcompress f => ck (tyLe f.ty 5 || tyIn f.ty 8 0xC) ((f.md == 0) && (un f.sc) && (true))
  | .fadd f => ck (tyIn f.ty 8 0xC) ((true) && (un f.sc) && (true))
  | .fsub f => ck (tyIn f.ty 8 0xC) ((true) && (un f.sc) && (true))
  | .fmul f => ck (tyIn f.ty 8 0xC) ((true) && (un f.sc) && (true))
  | .ffma f => ck (tyIn f.ty 8 0xC) ((true) && (true) && (true))
  | .fdiv f => ck (tyIn f.ty 8 0xC) ((true) && (un f.sc) && (true))
  | .faddi f => ck (tyIn f.ty 8 0xC) ((true) && (true) && (true))
  | .fmuli f => ck (tyIn f.ty 8 0xC) ((true) && (true) && (true))
  | .fscale f => ck (tyIn f.ty 8 0xC) ((true) && (un f.sc) && (true))
  | .fround f => ck (tyIn f.ty 8 0xC) ((true) && (un f.sb && un f.sc) && (true))
  | .fmin f => ck (tyIn f.ty 8 0xC) ((natBits f.md.toNat 1 0 == 0) && (un f.sc) && (true))
  | .fmax f => ck (tyIn f.ty 8 0xC) ((natBits f.md.toNat 1 0 == 0) && (un f.sc) && (true))
  | .fclamp f => ck (tyIn f.ty 8 0xC) ((natBits f.md.toNat 1 0 == 0) && (true) && (true))
  | .fabs f => ck (tyIn f.ty 8 0xC) ((natBits f.md.toNat 1 0 == 0) && (un f.sb && un f.sc) && (true))
  | .fneg f => ck (tyIn f.ty 8 0xC) ((natBits f.md.toNat 1 0 == 0) && (un f.sb && un f.sc) && (true))
  | .fcmp f => ck (tyIn f.ty 8 0xC) ((true) && (un f.sc) && (true))
  | .fclass f => ck (tyIn f.ty 8 0xC) ((natBits f.md.toNat 1 0 == 0) && (un f.sb && un f.sc) && (true))
  | .frcp f => ck (tyIn f.ty 0xA 0xC) ((natBits f.md.toNat 1 0 == 0) && (un f.sb && un f.sc) && (true))
  | .frsq f => ck (tyIn f.ty 0xA 0xC) ((natBits f.md.toNat 1 0 == 0) && (un f.sb && un f.sc) && (true))
  | .fsqrt f => ck (tyIn f.ty 0xA 0xC) ((natBits f.md.toNat 1 0 == 0) && (un f.sb && un f.sc) && (true))
  | .fexp2 f => ck (tyIn f.ty 0xA 0xC) ((natBits f.md.toNat 1 0 == 0) && (un f.sb && un f.sc) && (true))
  | .flog2 f => ck (tyIn f.ty 0xA 0xC) ((natBits f.md.toNat 1 0 == 0) && (un f.sb && un f.sc) && (true))
  | .fsig f => ck (tyIn f.ty 0xA 0xC) ((natBits f.md.toNat 1 0 == 0) && (un f.sb && un f.sc) && (true))
  | .ftanh f => ck (tyIn f.ty 0xA 0xC) ((natBits f.md.toNat 1 0 == 0) && (un f.sb && un f.sc) && (true))
  | .vfred f => ck (tyIn f.ty 0xA 0xC) ((4 ≤ f.md.toNat) && (un f.sb && un f.sc) && (true))
  | .vfdot2 f => ck (tyIn f.ty 0xA 0xB) ((4 ≤ f.md.toNat) && (true) && (true))
  | .cvt f => ck (tyLe f.ty 0xC) ((cvtOk f) && (true) && (true))
  | .cvts f => ck (tyLe f.ty 0xC) ((cvtsOk f) && (true) && (true))
  | .packf f => ck (tyIn f.ty 8 9) ((f.md.toNat ≤ 3) && (blockSel f.sb && un f.sc) && (true))
  | .unpackf f => ck (tyIn f.ty 8 9) ((f.md.toNat ≤ 3) && (!isImm f.sa && blockSel f.sb && un f.sc) && (true))
  | .cbexp f => ck (tyEq f.ty 0xA || tyEq f.ty 0xC) ((f.md == 0) && (codeImm f.sa) && (true))
  | .cbqnt f => ck (tyEq f.ty 0xA || tyEq f.ty 0xC) ((f.md == 0) && (codeImm f.sa) && (true))
  | .send f => ck true ((sendKind f.sub) && (isRSC f.sa) && (f.ta == .none) && (outSlot f.imm (f.sub == 5)))
  | .adv f => ck true ((f.sub.toNat ≤ 7) && (isRSC f.sa || un f.sa) && (f.ta == .none) && (f.imm.toNat ≤ 63))
  | .padv f => ck true ((f.sub.toNat ≤ 7) && (isRSC f.sa || un f.sa) && (f.ta == .none) && (f.imm.toNat ≤ 63))
  | .mark f => ck true ((1 ≤ f.sub.toNat && f.sub.toNat ≤ 7) && (true) && (f.ta == .none) && (outSlot f.imm false))
  | .tkind f => ck true ((f.sub == 0) && (isChan f.sa) && (isD f.ta) && (f.imm == 0))
  | .markarg f => ck true ((f.sub == 0) && (isChan f.sa) && (isD f.ta) && (f.imm == 0))
  | .osend f => ck true ((f.sub == 0) && (un f.sa) && (f.ta == .none) && (outSlot f.imm false))
  | .cfgsend f => ck true ((f.sub == 0) && (isRSC f.sa) && (f.ta == .none) && (outSlot f.imm false))
  | .exit f => ck true ((f.sub == 0) && (un f.sa) && (f.ta == .none) && (true))
  | .call f => ck true ((f.sub == 0) && (un f.sa) && (f.ta == .none) && (true))
  | .ret f => ck true ((f.sub == 0) && (un f.sa) && (f.ta == .none) && (f.imm == 0))
  | .tend f => ck true ((f.sub == 0) && (un f.sa) && (f.ta == .none) && (f.imm == 0))
  | .yield f => ck true ((f.sub == 0) && (un f.sa) && (f.ta == .none) && (f.imm == 0))
  | .sleep f => ck true ((f.sub.toNat ≤ 1) && (isRSC f.sa) && (f.ta == .none) && (if f.sub == 1 then 1 ≤ f.imm.toNat && f.imm.toNat ≤ 262143 else f.imm == 0))
  | .trap f => ck true ((f.sub == 0) && (true) && (f.ta == .none) && (f.imm.toNat ≤ 262143))
  | .brk f => ck true ((f.sub == 0) && (true) && (f.ta == .none) && (f.imm.toNat ≤ 262143))
  | .pset f => ck true ((natBits f.sub.toNat 5 4 ≤ 2 && f.sub.toNat < 64) && (true) && (f.ta == .none) && (f.imm == 0))
  | .launch f => ck true ((f.sub == 0) && (isRSC f.sa) && (isDN f.ta) && (f.imm == 0))
  | .glaunch f => ck true ((f.sub == 0) && (isRSC f.sa) && (isDN f.ta) && (f.imm == 0))
  | .join f => ck true ((f.sub == 0) && (isRSC f.sa) && (isS f.ta) && (f.imm == 0))
  | .cancel f => ck true ((f.sub == 0) && (isRSC f.sa) && (isDN f.ta) && (f.imm == 0))
  | .tbmark f => ck true ((f.sub == 0 || f.sub == 2) && (isRSC f.sa) && (f.ta == .none) && (f.imm == 0))
  | .tbwait f => ck true ((f.sub.toNat ≤ 2) && (isRSC f.sa) && (isS f.ta) && (f.imm == 0))
  | .phend f => ck true ((f.sub == 0) && (un f.sa) && (f.ta == .none) && (f.imm == 0))
  | .ld f => ck (tyLe f.ty 0xC) (mOk f false && (semAcq f.sem) && (true) && (un f.sb) && (isD f.ta))
  | .st f => ck (tyLe f.ty 0xC) (mOk f false && (semRel f.sem) && (true) && (true) && (f.ta == .none))
  | .ldv f => ck (tyLe f.ty 5 || tyIn f.ty 8 0xE) (mOk f false && (semAcq f.sem) && (true) && (un f.sb) && (isD f.ta))
  | .stv f => ck (tyLe f.ty 5 || tyIn f.ty 8 0xE) (mOk f false && (semRel f.sem) && (true) && (true) && (f.ta == .none))
  | .stvm f => ck (tyLe f.ty 5 || tyIn f.ty 8 0xC) (mOk f false && (semRel f.sem) && (true) && (isPair f.sb) && (f.ta == .none))
  | .aadd f => ck (tyIn f.ty 4 7) (mOk f false && (true) && (true) && (true) && (isDN f.ta))
  | .amin f => ck (tyIn f.ty 4 7) (mOk f false && (true) && (true) && (true) && (isDN f.ta))
  | .amax f => ck (tyIn f.ty 4 7) (mOk f false && (true) && (true) && (true) && (isDN f.ta))
  | .aand f => ck (tyIn f.ty 4 7) (mOk f false && (true) && (true) && (true) && (isDN f.ta))
  | .aor f => ck (tyIn f.ty 4 7) (mOk f false && (true) && (true) && (true) && (isDN f.ta))
  | .axor f => ck (tyIn f.ty 4 7) (mOk f false && (true) && (true) && (true) && (isDN f.ta))
  | .axchg f => ck (tyIn f.ty 4 7 || tyEq f.ty 0xC) (mOk f false && (true) && (true) && (true) && (isDN f.ta))
  | .acas f => ck (tyIn f.ty 4 7 || tyEq f.ty 0xC) (mOk f false && (true) && (true) && (true) && (isDN f.ta))
  | .afadd f => ck (tyEq f.ty 0xA || tyEq f.ty 0xC) (mOk f false && (true) && (true) && (true) && (isDN f.ta))
  | .bew f => ck (tyLe f.ty 5 || tyIn f.ty 8 0xC) (mOk f false && (semRel f.sem) && (true) && (true) && (f.ta == .none))
  | .bred f => ck (tyLe f.ty 7 || tyIn f.ty 0xA 0xC) (mOk f false && (semAcq f.sem) && (true) && (true) && (isD f.ta))
  | .fence f => ck (tyEq f.ty 0) (mOk f true && (true) && (un f.sa) && (un f.sb) && (f.ta == .none) && f.str == 0)
  | .xfence f => ck (tyEq f.ty 0) (mOk f true && (true) && (true) && (un f.sb) && (f.ta == .none) && f.str == 0)
  | .gather f => ck (tyLe f.ty 0xC) (mOk f false && (f.sem == 0) && (true) && (true) && (isD f.ta))
  | .scatter f => ck (tyLe f.ty 0xC) (mOk f false && (f.sem == 0) && (true) && (isPair f.sb) && (f.ta == .none))
  | .scatadd f => ck (tyIn f.ty 4 7 || tyEq f.ty 0xA || tyEq f.ty 0xC) (mOk f false && (f.sem == 0) && (true) && (isPair f.sb) && (f.ta == .none))
  | .copy f => ck (tyEq f.ty 0) (mOk f false && (f.sem == 0) && (true) && (un f.sb) && (isD f.ta))
  | .cpstat f => ck (tyEq f.ty 0) (mOk f false && (semAcq f.sem) && (true) && (un f.sb) && (isD f.ta))
  | .sopen f => ck (tyEq f.ty 0) (mOk f false && (f.sem == 0) && (true) && (true) && (f.ta == .none))
  | .sclose f => ck (tyEq f.ty 0) (mOk f false && (f.sem == 0) && (un f.sa) && (un f.sb) && (f.ta == .none))
  | .qpush f => ck (tyEq f.ty 0) (mOk f false && (f.sem == 0) && (un f.sa) && (true) && (f.ta == .none))
  | .qpop f => ck (tyEq f.ty 0) (mOk f false && (f.sem == 0) && (true) && (un f.sb) && (f.ta == .none))
  | .sflush f => ck (tyEq f.ty 0) (mOk f false && (f.sem == 0) && (un f.sa) && (un f.sb) && (f.ta == .none))
  | .iflush f => ck (tyEq f.ty 0) (mOk f false && (f.sem == 0) && (true) && (true) && (f.ta == .none))
  | .ldg f => ck (tyLe f.ty 0xC) (mOk f false && (semAcq f.sem) && (true) && (un f.sb) && (isD f.ta))
  | .stg f => ck (tyLe f.ty 0xC) (mOk f false && (semRel f.sem) && (true) && (true) && (f.ta == .none))
  | .agadd f => ck (tyIn f.ty 4 7 || tyEq f.ty 0xC) (mOk f false && (true) && (true) && (true) && (isD f.ta))
  | .mma f => ck (mmaTy f) ((mmaMd f) && (mmaSrc f) && (true))
  | .accrd f => ck (tyEq f.ty 0) ((f.md == 0) && (un f.sc) && (true))
  | .accwr f => ck (tyEq f.ty 0) ((f.md == 0) && (true) && (f.ta == .none && f.tb == .none))
  | .accz f => ck (tyEq f.ty 0) ((f.md == 0) && (un f.sb && un f.sc) && (f.ta == .none && f.tb == .none))
  | .accrel f => ck (tyEq f.ty 0) ((f.md == 0) && (un f.sb && un f.sc) && (true))
  | .wload f => ck (tyEq f.ty 0) ((f.md == 0) && (!isImm f.sb && streamSrc f.sc) && (true))
  | .wres f => ck (tyEq f.ty 0) ((f.md.toNat ≤ 1) && (!isImm f.sb && un f.sc) && (true))
  | .tseal f => ck (tyEq f.ty 0) ((f.md == 0) && (!isImm f.sa && un f.sb && un f.sc) && (true))
  | .tdrop f => ck (tyEq f.ty 0) ((f.md == 0) && (!isImm f.sa && un f.sb && un f.sc) && (true))
  | .tquery f => ck (tyEq f.ty 0) ((f.md == 0) && (!isImm f.sa && un f.sc) && (true))
  | .spld f => ck (tyEq f.ty 0) ((f.md == 0) && (!isImm f.sa && streamSrc f.sc) && (true))
  | .spmm f => ck (tyEq f.ty 0) ((f.md.toNat ≤ 3) && (!isImm f.sa && un f.sb && streamSrc f.sc) && (true))
  | .spinv f => ck (tyEq f.ty 0) ((f.md == 0) && (!isImm f.sa && un f.sc) && (true))
  | .spq f => ck (tyEq f.ty 0) ((f.md == 0) && (!isImm f.sa && un f.sc) && (true))
  | .sclook f => ck (tyEq f.ty 0) ((f.md == 0) && (!isImm f.sa && un f.sb && streamSrc f.sc) && (true))
  | .scfill f => ck (tyEq f.ty 0) ((f.md == 0) && (!isImm f.sa && un f.sb && streamSrc f.sc) && (true))
  | .scstep f => ck (tyEq f.ty 0) ((f.md == 0) && (!isImm f.sa && un f.sb && streamSrc f.sc) && (true))
  | .scinv f => ck (tyEq f.ty 0) ((f.md == 0) && (un f.sb && un f.sc) && (true))
  | .xgate f => ck (tyEq f.ty 0xA || tyEq f.ty 0xC) ((f.md == 0) && (true) && (true))
  | .xsend f => ck (tyEq f.ty 0) ((f.md == 0) && (true) && (f.ta == .none && f.tb == .none))
  | .xflush f => ck (tyEq f.ty 0) ((f.md == 0) && (un f.sa && un f.sb && un f.sc) && (f.ta == .none && f.tb == .none))
  | .xclose f => ck (tyEq f.ty 0) ((f.md == 0) && (un f.sb && un f.sc) && (f.ta == .none && f.tb == .none))
  | .coll f => ck (tyEq f.ty 0) ((f.md == 0) && (!isImm f.sa && un f.sb && streamSrc f.sc) && (true))
  | .collwait f => ck (tyEq f.ty 0) ((f.md == 0) && (!isImm f.sa && un f.sb && un f.sc) && (isS f.ta && f.tb == .none))
  | .csrrd f => ck true ((f.sub == 0) && (un f.sa) && (isD f.ta) && (f.imm.toNat < 4096))
  | .csrwr f => ck true ((f.sub == 0) && (true) && (f.ta == .none) && (f.imm.toNat < 4096))
  | .cycle f => ck true ((f.sub == 0) && (un f.sa) && (isD f.ta) && (f.imm == 0))
  | .statclr f => ck true ((f.sub == 0) && (un f.sa) && (f.ta == .none) && (f.imm.toNat < 128))
  | .seed f => ck true ((f.sub == 0) && (true) && (f.ta == .none) && (f.imm == 0))
  | .tret f => ck true ((f.sub.toNat ≤ 2) && (isRSC f.sa) && (isDN f.ta) && (f.imm == 0))
  | .frec f => ck true ((f.sub == 0) && (un f.sa) && (isW f.ta) && (f.imm == 0))
  | .migr f => ck true ((f.sub == 0) && (true) && (isDN f.ta) && (f.imm.toNat ≤ 511 || f.imm == 0x7FFFF))
  | .quota f => ck true ((f.sub == 0) && (isRSC f.sa) && (isDN f.ta) && (1 ≤ f.imm.toNat && f.imm.toNat ≤ 262143))
  | .perf f => ck true ((f.sub.toNat ≤ 1) && (un f.sa) && (isD f.ta) && (f.imm.toNat < 4096))
  | .steer f => ck true (portOk f && !isNone f.in0 && !isNone f.in1 && isNone f.in2 && !isNone f.out0 && !isNone f.out1 && (f.param.toNat < 2))
  | .merge f => ck true (portOk f && !isNone f.in0 && !isNone f.in1 && !isNone f.in2 && !isNone f.out0 && isNone f.out1 && (f.param.toNat < 2))
  | .carry f => ck true (portOk f && !isNone f.in0 && !isNone f.in1 && !isNone f.in2 && !isNone f.out0 && (f.param.toNat < 2))
  | .repeat f => ck true (portOk f && !isNone f.in0 && isNone f.in2 && !isNone f.out0 && isNone f.out1 && (f.param.toNat < 2 ^ 13 && (isNone f.in1 == (natBits f.param.toNat 12 1 != 0))))
  | .count f => ck true (portOk f && !isNone f.in0 && isNone f.in1 && isNone f.in2 && !isNone f.out0 && (true))
  | .switch f => ck true (portOk f && !isNone f.in0 && !isNone f.in1 && isNone f.in2 && !isNone f.out0 && isNone f.out1 && (f.param.toNat < 16 && f.out0.ch.toNat + f.param.toNat ≤ 15))
  | .sploop f => ck true (portOk f && !isNone f.in0 && isNone f.in1 && isNone f.in2 && !isNone f.out0 && (natBits f.param.toNat 19 1 == 0))
  | .seq f => ck true (portOk f && !isNone f.in0 && isNone f.in1 && isNone f.in2 && !isNone f.out0 && isNone f.out1 && (true))
  | .smerge f => ck true (portOk f && !isNone f.in0 && !isNone f.in1 && isNone f.in2 && !isNone f.out0 && isNone f.out1 && (true))
  | .fork f => ck true (portOk f && !isNone f.in0 && isNone f.in1 && isNone f.in2 && !isNone f.out0 && !isNone f.out1 && (f.param == 0))
  | .sink f => ck true (portOk f && !isNone f.in0 && isNone f.in1 && isNone f.in2 && isNone f.out0 && isNone f.out1 && (f.param == 0))
  | .filter f => ck true (portOk f && !isNone f.in0 && !isNone f.in1 && isNone f.in2 && !isNone f.out0 && isNone f.out1 && (f.param.toNat < 2))
  | .sync f => ck true (portOk f && !isNone f.in0 && !isNone f.in1 && !isNone f.out0 && (f.param.toNat < 3 && !(f.param == 2 && isNone f.in2)))
  | .configTokenTake _ => none
  | .controlMarkDiscard _ => none
  | .blockFiring _ => none
  | .linkGrant _ _ => none
  | .creditReturn _ => none
  | .busGrant _ => none
  | .busDelivery _ => none
  | .orderPublish _ _ => none
  | .bankServe _ _ _ => none
  | .bankEccWriteback _ _ => none
  | .bankDrowse _ _ => none
  | .bankWakeEnd _ _ => none
  | .bankPowerUp _ => none
  | .pageClear _ => none
  | .gatherAccept _ => none
  | .gatherReturn _ _ => none
  | .copyChunk _ => none
  | .queueHeaderCheck _ => none
  | .streamTokenMove _ => none
  | .heldPushRelease _ => none
  | .dramIssue _ _ => none
  | .dramReply _ _ => none
  | .arrayEccRewrite _ => none
  | .crcReplay _ _ => none
  | .dramRefresh _ _ => none
  | .pageWalkLevelRead _ _ => none
  | .walkComplete _ _ => none
  | .translationInvalidate _ => none
  | .matctlTake _ _ => none
  | .fragmentStart _ => none
  | .fragmentComplete _ => none
  | .doneFenceGive _ _ => none
  | .tileHandover _ _ => none
  | .tileRestore _ _ => none
  | .nodePartitionClear _ => none
  | .patternCompileStart _ => none
  | .patternInstall _ => none
  | .patternStoreMove _ _ _ => none
  | .patternAgeSweep _ => none
  | .spmmStart _ => none
  | .spmmComplete _ => none
  | .stepCacheDecision _ => none
  | .batchDepart _ _ => none
  | .ingressBatchTake _ _ _ => none
  | .rowPlace _ _ => none
  | .batchReturn _ _ => none
  | .collectiveExchangeStep _ _ _ _ _ => none
  | .collectiveComplete _ _ _ => none
  | .sleepWake _ _ => none
  | .copyWaitWake _ _ => none
  | .promiseTimeout _ _ => none
  | .joinWake _ _ => none
  | .tbwaitWake _ _ => none
  | .collwaitWake _ _ => none
  | .turnEnd _ => none
  | .drainEnd _ => none
  | .pannierRefill _ _ => none
  | .ringEnlarge _ => none
  | .quotaRecord _ => none
  | .watchdog _ _ => none
  | .launchAgeing _ => none
  | .placementDecision _ => none
  | .imageLoad _ _ _ => none
  | .phasePreload _ => none
  | .stopAcknowledge _ _ => none
  | .emptyPhaseEvaluate _ => none
  | .launchResume _ => none
  | .deferredRecordWrite _ => none
  | .pageThermRenewal _ _ => none
  | .pageMoveTransfer _ => none
  | .pageMoveCommit _ => none
  | .pageMapout _ => none
  | .powerWindow _ => none
  | .cycleSampleExchange _ _ _ => none
  | .cycleSlew => none
  | .flitRetry _ _ => none
  | .functionReady _ _ => none
  | .deviceReset => none
  | .hostlFall => none
  | .registerWrite _ _ _ _ => none
  | .hostVfmapWrite _ _ _ => none
  | .pageAssign _ _ => none
  | .pageRelease _ _ => none
  | .hostPcfgWrite _ _ => none
  | .hostXareaWrite _ _ => none
  | .hostCntclr _ _ => none
  | .devOwnWrite _ _ => none
  | .partJobStart _ _ => none
  | .partJobCancel _ _ => none
  | .partTrappop _ _ => none
  | .partDbgAddrWrite _ _ => none
  | .partCkptGo _ _ => none
  | .ckptEnd _ _ _ => none
  | .mctpControl _ => none
  | .getVersion _ => none
  | .getCapabilities _ => none
  | .negotiateAlgorithms _ => none
  | .getDigests _ => none
  | .getCertificate _ => none
  | .getMeasurements _ => none
  | .mgtRegisterRead _ => none
  | .mgtRegisterWrite _ _ => none
  | .mgtInventoryRead => none
  | .mgtSensorRead _ => none
  | .mgtErrlogRead => none
  | .mgtPackageReset => none
  | .mgtFirmwareStage _ _ => none
  | .vfBar2Write _ _ _ => none
  | .cycleCounterAdvance => none

/-- A word is well formed when no word-level row of R100 refuses it. -/
def Instr.wf (i : Instr) : Bool := i.bad.isNone

end Sys2Proof
end

