-- ==== Sys2Proof/Decode.lean ====
section
/-!
DEFINITION. Sys2Proof/Decode.lean: the decoder of the 64-bit words of formats T, I, M, X and C (R77 to R93, R98,
R99), total on any word and refusing by the row of R100's table, and after it the encoder from the same tables.
-/

namespace Sys2Proof

/-- The refusal of a word: the row of R100's table it fails (4 Opcode, 5 Type, 6 Fields, 8 Registers), the number
an ILLEGAL record carries in its DETAIL (R418). Rows are tried in ascending order (log entry 9). -/
structure DecErr where
  row : Nat
  deriving DecidableEq, Repr, Inhabited

/-- The answer of a decoder: a value, or the failing row. -/
abbrev Dec (α : Type) := Except DecErr α

/-- A field of a word as a bit vector: n bits from bit lo. -/
abbrev fld (w : Word) (lo n : Nat) : BitVec n := w.extractLsb' lo n

/-- A source field (R77, R78): any pattern not listed is a reserved field value (row 6). -/
def decSrc (v : BitVec 9) : Dec Src :=
  let lo7 := v.extractLsb' 0 7
  let file := (v.extractLsb' 4 3).toNat
  let num := (v.extractLsb' 0 4).toNat
  match (v.extractLsb' 7 2).toNat with
  | 0 => if lo7 == 0 then .ok .slot else .error ⟨6⟩
  | 1 =>
    match file with
    | 0 => if num < 8 then .ok (.k (v.extractLsb' 0 3)) else .error ⟨6⟩
    | 1 => if num < 8 then .ok (.s (v.extractLsb' 0 3)) else .error ⟨6⟩
    | 2 => if num < 4 then .ok (.w (v.extractLsb' 0 2)) else .error ⟨6⟩
    | 3 => if num < 8 then .ok (.p (v.extractLsb' 0 3)) else .error ⟨6⟩
    | 4 =>
      match num with
      | 0 => .ok .zero | 1 => .ok .ones | 2 => .ok .laneidx
      | 3 => .ok .ctxid | 4 => .ok .pageid | 5 => .ok .tilexy
      | _ => .error ⟨6⟩
    | _ => .error ⟨6⟩
  | 2 => .ok (.chan (v.extractLsb' 4 3) (v.extractLsb' 0 4))
  | _ => .ok (.imm lo7)

/-- The encoding of a source field (R77, R78). -/
def encSrc : Src → BitVec 9
  | .slot => 0x000
  | .k n => (0b01 : BitVec 2) ++ (0 : BitVec 3) ++ (0 : BitVec 1) ++ n
  | .s n => (0b01 : BitVec 2) ++ (1 : BitVec 3) ++ (0 : BitVec 1) ++ n
  | .w n => (0b01 : BitVec 2) ++ (2 : BitVec 3) ++ (0 : BitVec 2) ++ n
  | .p n => (0b01 : BitVec 2) ++ (3 : BitVec 3) ++ (0 : BitVec 1) ++ n
  | .zero => 0x0C0 | .ones => 0x0C1 | .laneidx => 0x0C2
  | .ctxid => 0x0C3 | .pageid => 0x0C4 | .tilexy => 0x0C5
  | .chan i off => (0b10 : BitVec 2) ++ i ++ off
  | .imm v => (0b11 : BitVec 2) ++ v

/-- A target field (R81, R82). A k or special register is row 8 (Registers); any other pattern not listed is a
reserved field value. -/
def decTgt (v : BitVec 11) : Dec Tgt :=
  let file := (v.extractLsb' 6 3).toNat
  let num := (v.extractLsb' 2 4).toNat
  let low := (v.extractLsb' 0 2).toNat
  match (v.extractLsb' 9 2).toNat with
  | 0 => if v.extractLsb' 0 9 == 0 then .ok .none else .error ⟨6⟩
  | 1 =>
    match low with
    | 0 => .ok (.slot (v.extractLsb' 2 7) .a)
    | 1 => .ok (.slot (v.extractLsb' 2 7) .b)
    | 2 => .ok (.slot (v.extractLsb' 2 7) .c)
    | _ => .error ⟨6⟩
  | 2 =>
    if low != 0 then .error ⟨6⟩ else
    match file with
    | 0 => if num < 8 then .error ⟨8⟩ else .error ⟨6⟩
    | 1 => if num < 8 then .ok (.s (v.extractLsb' 2 3)) else .error ⟨6⟩
    | 2 => if num < 4 then .ok (.w (v.extractLsb' 2 2)) else .error ⟨6⟩
    | 3 => if num < 8 then .ok (.p (v.extractLsb' 2 3)) else .error ⟨6⟩
    | 4 => if num < 6 then .error ⟨8⟩ else .error ⟨6⟩
    | _ => .error ⟨6⟩
  | _ => if low == 0 then .ok (.out (v.extractLsb' 6 3) (v.extractLsb' 2 4)) else .error ⟨6⟩

/-- The slot code of R81. -/
def encSlot : SlotName → BitVec 2
  | .a => 0 | .b => 1 | .c => 2

/-- The encoding of a target field (R81, R82). -/
def encTgt : Tgt → BitVec 11
  | .none => 0
  | .slot idx sl => (0b01 : BitVec 2) ++ idx ++ encSlot sl
  | .s n => (0b10 : BitVec 2) ++ (1 : BitVec 3) ++ (0 : BitVec 1) ++ n ++ (0 : BitVec 2)
  | .w n => (0b10 : BitVec 2) ++ (2 : BitVec 3) ++ (0 : BitVec 2) ++ n ++ (0 : BitVec 2)
  | .p n => (0b10 : BitVec 2) ++ (3 : BitVec 3) ++ (0 : BitVec 1) ++ n ++ (0 : BitVec 2)
  | .out j off => (0b11 : BitVec 2) ++ j ++ off ++ (0 : BitVec 2)

/-- The type field: 0xF names no type (R49; row 5). -/
def decTy (v : BitVec 4) : Dec Ty :=
  match Ty.ofCode v.toNat with
  | some t => .ok t
  | none => .error ⟨5⟩

def encTy (t : Ty) : BitVec 4 := BitVec.ofNat 4 t.code

/-- A port field (R92). -/
def decPort (v : BitVec 7) : Port :=
  let d : Dir := match (v.extractLsb' 4 3).toNat with
    | 0 => .n | 1 => .e | 2 => .s | 3 => .w | 4 => .loc | 5 => .rowbus | 6 => .colbus | _ => .none
  ⟨d, v.extractLsb' 0 4⟩

def encDir : Dir → BitVec 3
  | .n => 0 | .e => 1 | .s => 2 | .w => 3 | .loc => 4 | .rowbus => 5 | .colbus => 6 | .none => 7

def encPort (p : Port) : BitVec 7 := encDir p.dir ++ p.ch

/-- Format T (R88): the type is row 5, the fields row 6. -/
def decT (w : Word) : Dec FmtT := do
  let ty ← decTy (fld w 52 4)
  let sa ← decSrc (fld w 40 9)
  let sb ← decSrc (fld w 31 9)
  let sc ← decSrc (fld w 22 9)
  let ta ← decTgt (fld w 11 11)
  let tb ← decTgt (fld w 0 11)
  return ⟨ty, fld w 49 3, sa, sb, sc, ta, tb⟩

def encT (op : BitVec 8) (f : FmtT) : Word :=
  op ++ encTy f.ty ++ f.md ++ encSrc f.sa ++ encSrc f.sb ++ encSrc f.sc ++ encTgt f.ta ++ encTgt f.tb

/-- Format I (R89): bits [23:22] must be 0. -/
def decI (w : Word) : Dec FmtI := do
  let ty ← decTy (fld w 52 4)
  let sa ← decSrc (fld w 40 9)
  let ta ← decTgt (fld w 11 11)
  let tb ← decTgt (fld w 0 11)
  if fld w 22 2 == 0 then return ⟨ty, fld w 49 3, sa, fld w 24 16, ta, tb⟩ else .error ⟨6⟩

def encI (op : BitVec 8) (f : FmtI) : Word :=
  op ++ encTy f.ty ++ f.md ++ encSrc f.sa ++ f.imm ++ (0 : BitVec 2) ++ encTgt f.ta ++ encTgt f.tb

/-- The order-out field (R87): bit [4] names a channel in [3:1]; every other bit is 0. -/
def decOO (v : BitVec 5) : Dec OrderOut :=
  if v == 0 then .ok none
  else if v.extractLsb' 4 1 == 1 && v.extractLsb' 0 1 == 0 then .ok (some (v.extractLsb' 1 3))
  else .error ⟨6⟩

def encOO : OrderOut → BitVec 5
  | none => 0
  | some j => (1 : BitVec 1) ++ j ++ (0 : BitVec 1)

/-- Format M (R90). -/
def decM (w : Word) : Dec FmtM := do
  let ty ← decTy (fld w 52 4)
  let sa ← decSrc (fld w 34 9)
  let sb ← decSrc (fld w 25 9)
  let sc ← decSrc (fld w 16 9)
  let ta ← decTgt (fld w 5 11)
  let oo ← decOO (fld w 0 5)
  return ⟨ty, fld w 48 4, fld w 46 2, fld w 43 3, sa, sb, sc, ta, oo⟩

def encM (op : BitVec 8) (f : FmtM) : Word :=
  op ++ encTy f.ty ++ f.str ++ f.sem ++ f.sco ++ encSrc f.sa ++ encSrc f.sb ++ encSrc f.sc ++ encTgt f.ta ++ encOO f.oo

/-- Format X (R91). -/
def decX (w : Word) : Dec FmtX := do
  let sa ← decSrc (fld w 39 9)
  let sb ← decSrc (fld w 30 9)
  let ta ← decTgt (fld w 19 11)
  return ⟨fld w 48 8, sa, sb, ta, fld w 0 19⟩

def encX (op : BitVec 8) (f : FmtX) : Word :=
  op ++ f.sub ++ encSrc f.sa ++ encSrc f.sb ++ encTgt f.ta ++ f.imm

/-- Format C (R92). -/
def decC (w : Word) : Dec FmtC :=
  .ok ⟨decPort (fld w 49 7), decPort (fld w 42 7), decPort (fld w 35 7), decPort (fld w 28 7), decPort (fld w 21 7), fld w 0 21⟩

def encC (op : BitVec 8) (f : FmtC) : Word :=
  op ++ encPort f.in0 ++ encPort f.in1 ++ encPort f.in2 ++ encPort f.out0 ++ encPort f.out1 ++ f.param

/-- The instruction of a word's opcode with its format's fields (R98): every code not listed is unassigned or
reserved (R99; row 4). -/
def decodeRaw (w : Word) : Dec Instr :=
  match (fld w 56 8).toNat with
  | 0x00 => (decT w).map .nop
  | 0x01 => (decT w).map .mov
  | 0x02 => (decT w).map .add
  | 0x03 => (decT w).map .sub
  | 0x04 => (decT w).map .mul
  | 0x05 => (decT w).map .mulh
  | 0x06 => (decT w).map .div
  | 0x07 => (decT w).map .rem
  | 0x08 => (decT w).map .andOp
  | 0x09 => (decT w).map .orOp
  | 0x0A => (decT w).map .xorOp
  | 0x0B => (decT w).map .shl
  | 0x0C => (decT w).map .shr
  | 0x0D => (decT w).map .minOp
  | 0x0E => (decT w).map .maxOp
  | 0x0F => (decT w).map .abs
  | 0x10 => (decT w).map .cmp
  | 0x11 => (decT w).map .sel
  | 0x12 => (decT w).map .clz
  | 0x13 => (decT w).map .popc
  | 0x14 => (decT w).map .bfx
  | 0x15 => (decT w).map .bfi
  | 0x16 => (decI w).map .addi
  | 0x17 => (decI w).map .andi
  | 0x18 => (decI w).map .ldi
  | 0x19 => (decI w).map .cmpi
  | 0x1A => (decT w).map .addr
  | 0x20 => (decT w).map .vmov
  | 0x21 => (decT w).map .vadd
  | 0x22 => (decT w).map .vsub
  | 0x23 => (decT w).map .vmul
  | 0x24 => (decT w).map .vmulh
  | 0x25 => (decT w).map .vmac
  | 0x26 => (decT w).map .vdot4
  | 0x27 => (decT w).map .vdot2
  | 0x28 => (decT w).map .vmin
  | 0x29 => (decT w).map .vmax
  | 0x2A => (decT w).map .vabs
  | 0x2B => (decT w).map .vand
  | 0x2C => (decT w).map .vor
  | 0x2D => (decT w).map .vxor
  | 0x2E => (decT w).map .vshl
  | 0x2F => (decT w).map .vshr
  | 0x30 => (decT w).map .vrshr
  | 0x31 => (decT w).map .vcmp
  | 0x32 => (decT w).map .vsel
  | 0x33 => (decT w).map .vnarrow
  | 0x34 => (decT w).map .vwiden
  | 0x35 => (decT w).map .vshuf
  | 0x36 => (decT w).map .vslide
  | 0x37 => (decT w).map .vbcast
  | 0x38 => (decT w).map .vext
  | 0x39 => (decT w).map .vins
  | 0x3A => (decT w).map .vred
  | 0x3B => (decT w).map .vscan
  | 0x3C => (decT w).map .viota
  | 0x3D => (decT w).map .vpopc
  | 0x3E => (decT w).map .vcompress
  | 0x40 => (decT w).map .fadd
  | 0x41 => (decT w).map .fsub
  | 0x42 => (decT w).map .fmul
  | 0x43 => (decT w).map .ffma
  | 0x44 => (decT w).map .fmin
  | 0x45 => (decT w).map .fmax
  | 0x46 => (decT w).map .fabs
  | 0x47 => (decT w).map .fneg
  | 0x48 => (decT w).map .fcmp
  | 0x49 => (decT w).map .fclass
  | 0x4A => (decT w).map .frcp
  | 0x4B => (decT w).map .frsq
  | 0x4C => (decT w).map .fsqrt
  | 0x4D => (decT w).map .fdiv
  | 0x4E => (decT w).map .fexp2
  | 0x4F => (decT w).map .flog2
  | 0x50 => (decT w).map .fsig
  | 0x51 => (decT w).map .ftanh
  | 0x52 => (decT w).map .fscale
  | 0x53 => (decT w).map .fround
  | 0x54 => (decT w).map .vfred
  | 0x55 => (decT w).map .vfdot2
  | 0x56 => (decI w).map .faddi
  | 0x57 => (decI w).map .fmuli
  | 0x58 => (decT w).map .fclamp
  | 0x60 => (decT w).map .cvt
  | 0x61 => (decT w).map .cvts
  | 0x62 => (decT w).map .packf
  | 0x63 => (decT w).map .unpackf
  | 0x64 => (decT w).map .cbexp
  | 0x65 => (decT w).map .cbqnt
  | 0x70 => (decX w).map .send
  | 0x71 => (decX w).map .adv
  | 0x72 => (decX w).map .padv
  | 0x73 => (decX w).map .mark
  | 0x74 => (decX w).map .tkind
  | 0x75 => (decX w).map .markarg
  | 0x76 => (decX w).map .osend
  | 0x77 => (decX w).map .cfgsend
  | 0x80 => (decX w).map .exit
  | 0x81 => (decX w).map .call
  | 0x82 => (decX w).map .ret
  | 0x83 => (decX w).map .tend
  | 0x84 => (decX w).map .yield
  | 0x85 => (decX w).map .sleep
  | 0x86 => (decX w).map .trap
  | 0x87 => (decX w).map .pset
  | 0x88 => (decX w).map .launch
  | 0x89 => (decX w).map .glaunch
  | 0x8A => (decX w).map .join
  | 0x8B => (decX w).map .cancel
  | 0x8C => (decX w).map .tbmark
  | 0x8D => (decX w).map .tbwait
  | 0x8E => (decX w).map .phend
  | 0x90 => (decM w).map .ld
  | 0x91 => (decM w).map .st
  | 0x92 => (decM w).map .ldv
  | 0x93 => (decM w).map .stv
  | 0x94 => (decM w).map .stvm
  | 0x95 => (decM w).map .aadd
  | 0x96 => (decM w).map .amin
  | 0x97 => (decM w).map .amax
  | 0x98 => (decM w).map .aand
  | 0x99 => (decM w).map .aor
  | 0x9A => (decM w).map .axor
  | 0x9B => (decM w).map .axchg
  | 0x9C => (decM w).map .acas
  | 0x9D => (decM w).map .afadd
  | 0x9E => (decM w).map .bew
  | 0x9F => (decM w).map .bred
  | 0xA0 => (decM w).map .fence
  | 0xA1 => (decM w).map .xfence
  | 0xA2 => (decM w).map .gather
  | 0xA3 => (decM w).map .scatter
  | 0xA4 => (decM w).map .scatadd
  | 0xA5 => (decM w).map .copy
  | 0xA6 => (decM w).map .cpstat
  | 0xA7 => (decM w).map .sopen
  | 0xA8 => (decM w).map .sclose
  | 0xA9 => (decM w).map .qpush
  | 0xAA => (decM w).map .qpop
  | 0xAB => (decM w).map .sflush
  | 0xAC => (decM w).map .iflush
  | 0xAD => (decM w).map .ldg
  | 0xAE => (decM w).map .stg
  | 0xAF => (decM w).map .agadd
  | 0xB0 => (decT w).map .mma
  | 0xB1 => (decT w).map .accrd
  | 0xB2 => (decT w).map .accwr
  | 0xB3 => (decT w).map .accz
  | 0xB4 => (decT w).map .accrel
  | 0xB5 => (decT w).map .wload
  | 0xB6 => (decT w).map .wres
  | 0xB7 => (decT w).map .tseal
  | 0xB8 => (decT w).map .tdrop
  | 0xB9 => (decT w).map .tquery
  | 0xC0 => (decT w).map .spld
  | 0xC1 => (decT w).map .spmm
  | 0xC2 => (decT w).map .spinv
  | 0xC3 => (decT w).map .spq
  | 0xC4 => (decT w).map .sclook
  | 0xC5 => (decT w).map .scfill
  | 0xC6 => (decT w).map .scstep
  | 0xC7 => (decT w).map .scinv
  | 0xC8 => (decT w).map .xgate
  | 0xC9 => (decT w).map .xsend
  | 0xCA => (decT w).map .xflush
  | 0xCB => (decT w).map .xclose
  | 0xCC => (decT w).map .coll
  | 0xCD => (decT w).map .collwait
  | 0xD0 => (decX w).map .csrrd
  | 0xD1 => (decX w).map .csrwr
  | 0xD2 => (decX w).map .cycle
  | 0xD3 => (decX w).map .statclr
  | 0xD4 => (decX w).map .seed
  | 0xD5 => (decX w).map .tret
  | 0xD6 => (decX w).map .frec
  | 0xD7 => (decX w).map .migr
  | 0xD8 => (decX w).map .quota
  | 0xD9 => (decX w).map .brk
  | 0xDA => (decX w).map .perf
  | 0xE0 => (decC w).map .steer
  | 0xE1 => (decC w).map .merge
  | 0xE2 => (decC w).map .carry
  | 0xE3 => (decC w).map .repeat
  | 0xE4 => (decC w).map .count
  | 0xE5 => (decC w).map .switch
  | 0xE6 => (decC w).map .sploop
  | 0xE7 => (decC w).map .seq
  | 0xE8 => (decC w).map .smerge
  | 0xE9 => (decC w).map .fork
  | 0xEA => (decC w).map .sink
  | 0xEB => (decC w).map .filter
  | 0xEC => (decC w).map .sync
  | _ => .error ⟨4⟩

/-- The format of an opcode (R98): T, I, M, X or C. -/
inductive Fmt where
  | t | i | m | x | c
  deriving DecidableEq, Repr, Inhabited

/-- The format an opcode's word has (R98), by the ranges of the opcode map. -/
def fmtOf (w : Word) : Fmt :=
  let op := (fld w 56 8).toNat
  let hi := op / 16
  if (0x16 ≤ op && op ≤ 0x19) || op == 0x56 || op == 0x57 then .i
  else if hi == 7 || hi == 8 || hi == 0xD then .x
  else if hi == 9 || hi == 0xA then .m
  else if hi == 0xE then .c
  else .t

/-- A word with its opcode and type and otherwise fields of no effect: sources 0x0C0, targets NONE (R80). -/
def skeleton (w : Word) : Word :=
  let z : BitVec 9 := 0x0C0
  match fmtOf w with
  | .t => (fld w 52 12) ++ (0 : BitVec 3) ++ z ++ z ++ z ++ (0 : BitVec 22)
  | .i => (fld w 52 12) ++ (0 : BitVec 3) ++ z ++ (0 : BitVec 40)
  | .m => (fld w 52 12) ++ (0 : BitVec 9) ++ z ++ z ++ z ++ (0 : BitVec 16)
  | .x => (fld w 56 8) ++ (0 : BitVec 8) ++ z ++ z ++ (0 : BitVec 30)
  | .c => w

/-- The Opcode or Type row that a word fails (R100), if it fails one. -/
def typeRow (w : Word) : Option Nat :=
  match decodeRaw (skeleton w) with
  | .error e => some e.row
  | .ok i => if i.bad = some 5 then some 5 else none

/-- A target field with a k or special register replaced by a register that may be written: s0, or w0 where only a w
register may stand (FREC). -/
def writable (w : Word) (v : BitVec 11) : BitVec 11 :=
  match decTgt v with
  | .error ⟨8⟩ => if fld w 56 8 = 0xD6 then encTgt (.w 0) else encTgt (.s 0)
  | _ => v

/-- A word with its k and special target registers replaced. -/
def declared (w : Word) : Word :=
  match fmtOf w with
  | .t | .i => fld w 22 42 ++ writable w (fld w 11 11) ++ writable w (fld w 0 11)
  | .m => fld w 16 48 ++ writable w (fld w 5 11) ++ fld w 0 5
  | .x => fld w 30 34 ++ writable w (fld w 19 11) ++ fld w 0 19
  | .c => w

/-- The row of a word whose fields do not all parse: the Opcode and Type rows first, then Fields, then Registers for a
word that fails nothing but the writing of a k or special register (log entry 9). -/
def failRow (w : Word) : Nat :=
  match typeRow w with
  | some r => r
  | none =>
    match decodeRaw (declared w) with
    | .error _ => 6
    | .ok i => if i.bad.isSome then 6 else 8

/-- The decoder: the raw fields, then the word-level rows of R100 (`Instr.bad`). A format C word is an instruction of
a router operator slot only and any other a compute element's only (R99): `ceWord` and `routerWord` say where. -/
def decode (w : Word) : Dec Instr :=
  match decodeRaw w with
  | .error _ => .error ⟨failRow w⟩
  | .ok i =>
    match i.bad with
    | none => .ok i
    | some r => .error ⟨r⟩

/-- The word of a well-formed instruction (R88 to R92, R98). An event of the table has no word. -/
def encode : Instr → Option Word
  | .nop f => some (encT 0x00 f)
  | .mov f => some (encT 0x01 f)
  | .add f => some (encT 0x02 f)
  | .sub f => some (encT 0x03 f)
  | .mul f => some (encT 0x04 f)
  | .mulh f => some (encT 0x05 f)
  | .div f => some (encT 0x06 f)
  | .rem f => some (encT 0x07 f)
  | .andOp f => some (encT 0x08 f)
  | .orOp f => some (encT 0x09 f)
  | .xorOp f => some (encT 0x0A f)
  | .shl f => some (encT 0x0B f)
  | .shr f => some (encT 0x0C f)
  | .minOp f => some (encT 0x0D f)
  | .maxOp f => some (encT 0x0E f)
  | .abs f => some (encT 0x0F f)
  | .cmp f => some (encT 0x10 f)
  | .sel f => some (encT 0x11 f)
  | .clz f => some (encT 0x12 f)
  | .popc f => some (encT 0x13 f)
  | .bfx f => some (encT 0x14 f)
  | .bfi f => some (encT 0x15 f)
  | .addi f => some (encI 0x16 f)
  | .andi f => some (encI 0x17 f)
  | .ldi f => some (encI 0x18 f)
  | .cmpi f => some (encI 0x19 f)
  | .addr f => some (encT 0x1A f)
  | .vmov f => some (encT 0x20 f)
  | .vadd f => some (encT 0x21 f)
  | .vsub f => some (encT 0x22 f)
  | .vmul f => some (encT 0x23 f)
  | .vmulh f => some (encT 0x24 f)
  | .vmac f => some (encT 0x25 f)
  | .vdot4 f => some (encT 0x26 f)
  | .vdot2 f => some (encT 0x27 f)
  | .vmin f => some (encT 0x28 f)
  | .vmax f => some (encT 0x29 f)
  | .vabs f => some (encT 0x2A f)
  | .vand f => some (encT 0x2B f)
  | .vor f => some (encT 0x2C f)
  | .vxor f => some (encT 0x2D f)
  | .vshl f => some (encT 0x2E f)
  | .vshr f => some (encT 0x2F f)
  | .vrshr f => some (encT 0x30 f)
  | .vcmp f => some (encT 0x31 f)
  | .vsel f => some (encT 0x32 f)
  | .vnarrow f => some (encT 0x33 f)
  | .vwiden f => some (encT 0x34 f)
  | .vshuf f => some (encT 0x35 f)
  | .vslide f => some (encT 0x36 f)
  | .vbcast f => some (encT 0x37 f)
  | .vext f => some (encT 0x38 f)
  | .vins f => some (encT 0x39 f)
  | .vred f => some (encT 0x3A f)
  | .vscan f => some (encT 0x3B f)
  | .viota f => some (encT 0x3C f)
  | .vpopc f => some (encT 0x3D f)
  | .vcompress f => some (encT 0x3E f)
  | .fadd f => some (encT 0x40 f)
  | .fsub f => some (encT 0x41 f)
  | .fmul f => some (encT 0x42 f)
  | .ffma f => some (encT 0x43 f)
  | .fmin f => some (encT 0x44 f)
  | .fmax f => some (encT 0x45 f)
  | .fabs f => some (encT 0x46 f)
  | .fneg f => some (encT 0x47 f)
  | .fcmp f => some (encT 0x48 f)
  | .fclass f => some (encT 0x49 f)
  | .frcp f => some (encT 0x4A f)
  | .frsq f => some (encT 0x4B f)
  | .fsqrt f => some (encT 0x4C f)
  | .fdiv f => some (encT 0x4D f)
  | .fexp2 f => some (encT 0x4E f)
  | .flog2 f => some (encT 0x4F f)
  | .fsig f => some (encT 0x50 f)
  | .ftanh f => some (encT 0x51 f)
  | .fscale f => some (encT 0x52 f)
  | .fround f => some (encT 0x53 f)
  | .vfred f => some (encT 0x54 f)
  | .vfdot2 f => some (encT 0x55 f)
  | .faddi f => some (encI 0x56 f)
  | .fmuli f => some (encI 0x57 f)
  | .fclamp f => some (encT 0x58 f)
  | .cvt f => some (encT 0x60 f)
  | .cvts f => some (encT 0x61 f)
  | .packf f => some (encT 0x62 f)
  | .unpackf f => some (encT 0x63 f)
  | .cbexp f => some (encT 0x64 f)
  | .cbqnt f => some (encT 0x65 f)
  | .send f => some (encX 0x70 f)
  | .adv f => some (encX 0x71 f)
  | .padv f => some (encX 0x72 f)
  | .mark f => some (encX 0x73 f)
  | .tkind f => some (encX 0x74 f)
  | .markarg f => some (encX 0x75 f)
  | .osend f => some (encX 0x76 f)
  | .cfgsend f => some (encX 0x77 f)
  | .exit f => some (encX 0x80 f)
  | .call f => some (encX 0x81 f)
  | .ret f => some (encX 0x82 f)
  | .tend f => some (encX 0x83 f)
  | .yield f => some (encX 0x84 f)
  | .sleep f => some (encX 0x85 f)
  | .trap f => some (encX 0x86 f)
  | .pset f => some (encX 0x87 f)
  | .launch f => some (encX 0x88 f)
  | .glaunch f => some (encX 0x89 f)
  | .join f => some (encX 0x8A f)
  | .cancel f => some (encX 0x8B f)
  | .tbmark f => some (encX 0x8C f)
  | .tbwait f => some (encX 0x8D f)
  | .phend f => some (encX 0x8E f)
  | .ld f => some (encM 0x90 f)
  | .st f => some (encM 0x91 f)
  | .ldv f => some (encM 0x92 f)
  | .stv f => some (encM 0x93 f)
  | .stvm f => some (encM 0x94 f)
  | .aadd f => some (encM 0x95 f)
  | .amin f => some (encM 0x96 f)
  | .amax f => some (encM 0x97 f)
  | .aand f => some (encM 0x98 f)
  | .aor f => some (encM 0x99 f)
  | .axor f => some (encM 0x9A f)
  | .axchg f => some (encM 0x9B f)
  | .acas f => some (encM 0x9C f)
  | .afadd f => some (encM 0x9D f)
  | .bew f => some (encM 0x9E f)
  | .bred f => some (encM 0x9F f)
  | .fence f => some (encM 0xA0 f)
  | .xfence f => some (encM 0xA1 f)
  | .gather f => some (encM 0xA2 f)
  | .scatter f => some (encM 0xA3 f)
  | .scatadd f => some (encM 0xA4 f)
  | .copy f => some (encM 0xA5 f)
  | .cpstat f => some (encM 0xA6 f)
  | .sopen f => some (encM 0xA7 f)
  | .sclose f => some (encM 0xA8 f)
  | .qpush f => some (encM 0xA9 f)
  | .qpop f => some (encM 0xAA f)
  | .sflush f => some (encM 0xAB f)
  | .iflush f => some (encM 0xAC f)
  | .ldg f => some (encM 0xAD f)
  | .stg f => some (encM 0xAE f)
  | .agadd f => some (encM 0xAF f)
  | .mma f => some (encT 0xB0 f)
  | .accrd f => some (encT 0xB1 f)
  | .accwr f => some (encT 0xB2 f)
  | .accz f => some (encT 0xB3 f)
  | .accrel f => some (encT 0xB4 f)
  | .wload f => some (encT 0xB5 f)
  | .wres f => some (encT 0xB6 f)
  | .tseal f => some (encT 0xB7 f)
  | .tdrop f => some (encT 0xB8 f)
  | .tquery f => some (encT 0xB9 f)
  | .spld f => some (encT 0xC0 f)
  | .spmm f => some (encT 0xC1 f)
  | .spinv f => some (encT 0xC2 f)
  | .spq f => some (encT 0xC3 f)
  | .sclook f => some (encT 0xC4 f)
  | .scfill f => some (encT 0xC5 f)
  | .scstep f => some (encT 0xC6 f)
  | .scinv f => some (encT 0xC7 f)
  | .xgate f => some (encT 0xC8 f)
  | .xsend f => some (encT 0xC9 f)
  | .xflush f => some (encT 0xCA f)
  | .xclose f => some (encT 0xCB f)
  | .coll f => some (encT 0xCC f)
  | .collwait f => some (encT 0xCD f)
  | .csrrd f => some (encX 0xD0 f)
  | .csrwr f => some (encX 0xD1 f)
  | .cycle f => some (encX 0xD2 f)
  | .statclr f => some (encX 0xD3 f)
  | .seed f => some (encX 0xD4 f)
  | .tret f => some (encX 0xD5 f)
  | .frec f => some (encX 0xD6 f)
  | .migr f => some (encX 0xD7 f)
  | .quota f => some (encX 0xD8 f)
  | .brk f => some (encX 0xD9 f)
  | .perf f => some (encX 0xDA f)
  | .steer f => some (encC 0xE0 f)
  | .merge f => some (encC 0xE1 f)
  | .carry f => some (encC 0xE2 f)
  | .repeat f => some (encC 0xE3 f)
  | .count f => some (encC 0xE4 f)
  | .switch f => some (encC 0xE5 f)
  | .sploop f => some (encC 0xE6 f)
  | .seq f => some (encC 0xE7 f)
  | .smerge f => some (encC 0xE8 f)
  | .fork f => some (encC 0xE9 f)
  | .sink f => some (encC 0xEA f)
  | .filter f => some (encC 0xEB f)
  | .sync f => some (encC 0xEC f)
  | .configTokenTake _ => none
  | .controlMarkDiscard _ => none
  | .blockFiring _ => none
  | .linkGrant _ _ => none
  | .creditReturn _ => none
  | .busGrant _ => none
  | .busDelivery _ => none
  | .orderPublish _ _ => none
  | .bankServe _ _ _ => none
  | .bankEccWriteback _ _ => none
  | .bankDrowse _ _ => none
  | .bankWakeEnd _ _ => none
  | .bankPowerUp _ => none
  | .pageClear _ => none
  | .gatherAccept _ => none
  | .gatherReturn _ _ => none
  | .copyChunk _ => none
  | .queueHeaderCheck _ => none
  | .streamTokenMove _ => none
  | .heldPushRelease _ => none
  | .dramIssue _ _ => none
  | .dramReply _ _ => none
  | .arrayEccRewrite _ => none
  | .crcReplay _ _ => none
  | .dramRefresh _ _ => none
  | .pageWalkLevelRead _ _ => none
  | .walkComplete _ _ => none
  | .translationInvalidate _ => none
  | .matctlTake _ _ => none
  | .fragmentStart _ => none
  | .fragmentComplete _ => none
  | .doneFenceGive _ _ => none
  | .tileHandover _ _ => none
  | .tileRestore _ _ => none
  | .nodePartitionClear _ => none
  | .patternCompileStart _ => none
  | .patternInstall _ => none
  | .patternStoreMove _ _ _ => none
  | .patternAgeSweep _ => none
  | .spmmStart _ => none
  | .spmmComplete _ => none
  | .stepCacheDecision _ => none
  | .batchDepart _ _ => none
  | .ingressBatchTake _ _ _ => none
  | .rowPlace _ _ => none
  | .batchReturn _ _ => none
  | .collectiveExchangeStep _ _ _ _ _ => none
  | .collectiveComplete _ _ _ => none
  | .sleepWake _ _ => none
  | .copyWaitWake _ _ => none
  | .promiseTimeout _ _ => none
  | .joinWake _ _ => none
  | .tbwaitWake _ _ => none
  | .collwaitWake _ _ => none
  | .turnEnd _ => none
  | .drainEnd _ => none
  | .pannierRefill _ _ => none
  | .ringEnlarge _ => none
  | .quotaRecord _ => none
  | .watchdog _ _ => none
  | .launchAgeing _ => none
  | .placementDecision _ => none
  | .imageLoad _ _ _ => none
  | .phasePreload _ => none
  | .stopAcknowledge _ _ => none
  | .emptyPhaseEvaluate _ => none
  | .launchResume _ => none
  | .deferredRecordWrite _ => none
  | .pageThermRenewal _ _ => none
  | .pageMoveTransfer _ => none
  | .pageMoveCommit _ => none
  | .pageMapout _ => none
  | .powerWindow _ => none
  | .cycleSampleExchange _ _ _ => none
  | .cycleSlew => none
  | .flitRetry _ _ => none
  | .functionReady _ _ => none
  | .deviceReset => none
  | .hostlFall => none
  | .registerWrite _ _ _ _ => none
  | .hostVfmapWrite _ _ _ => none
  | .pageAssign _ _ => none
  | .pageRelease _ _ => none
  | .hostPcfgWrite _ _ => none
  | .hostXareaWrite _ _ => none
  | .hostCntclr _ _ => none
  | .devOwnWrite _ _ => none
  | .partJobStart _ _ => none
  | .partJobCancel _ _ => none
  | .partTrappop _ _ => none
  | .partDbgAddrWrite _ _ => none
  | .partCkptGo _ _ => none
  | .ckptEnd _ _ _ => none
  | .mctpControl _ => none
  | .getVersion _ => none
  | .getCapabilities _ => none
  | .negotiateAlgorithms _ => none
  | .getDigests _ => none
  | .getCertificate _ => none
  | .getMeasurements _ => none
  | .mgtRegisterRead _ => none
  | .mgtRegisterWrite _ _ => none
  | .mgtInventoryRead => none
  | .mgtSensorRead _ => none
  | .mgtErrlogRead => none
  | .mgtPackageReset => none
  | .mgtFirmwareStage _ _ => none
  | .vfBar2Write _ _ _ => none
  | .cycleCounterAdvance => none

/-- The instruction is a router operator (R99: opcodes 0xE0 to 0xEC). -/
def Instr.isRouter : Instr → Bool
  | .steer _ | .merge _ | .carry _ | .repeat _ | .count _ | .switch _ | .sploop _ | .seq _ | .smerge _ | .fork _
  | .sink _ | .filter _ | .sync _ => true
  | _ => false

/-- A word of a compute-element block: format C words are illegal there (R99; row 4). -/
def ceWord (w : Word) : Dec Instr :=
  if fmtOf w = .c then .error ⟨4⟩ else decode w

/-- A word of a router operator slot: only format C words stand there (R93, R99). -/
def routerWord (w : Word) : Option Instr :=
  match decode w with
  | .ok i => if i.isRouter then some i else none
  | .error _ => none

/-- Eight bytes, lowest address first, as a word (R3, R76: words are little-endian). -/
def wordOfBytes (bs : List Byte) : Word :=
  (bs.take 8).foldr (fun b acc => (acc <<< 8) ||| b.setWidth 64) 0

/-- The bytes of a word, lowest address first (R3). -/
def bytesOfWord (w : Word) : List Byte :=
  (List.range 8).map fun i => w.extractLsb' (8 * i) 8

/-- The decoder on the bytes of an instruction store: eight bytes give one word; fewer give row 4. -/
def decodeBytes (bs : List Byte) : Dec Instr :=
  if bs.length < 8 then .error ⟨4⟩ else decode (wordOfBytes bs)

/-- The host's question: the instruction the decoder reads from a word whose bits are numbered as the opcode table
numbers them. Every word is 64 bits; the bits above nbits are 0. Events have no word. -/
def decodeTableWord (nbits w : Nat) : Option Instr :=
  match decodeBytes (bytesOfWord (BitVec.ofNat 64 (w % 2 ^ nbits))) with
  | .ok i => some i
  | .error _ => none

end Sys2Proof
end

