-- ==== Sys2Proof/Machine/State.lean ====
section
/-!
DEFINITION. Sys2Proof/Machine/State.lean: every piece of state the specification gives the KG980, as plain data,
and the state after reset. Tables are association lists from numbered units to their state; a unit that no entry
names holds the default of its structure, which is its reset value. The numbering of units is in the docstring of
each table of `State`.
-/

namespace Sys2Proof.Machine

/-- A table: rising keys, one entry each; an absent key holds the default of its structure. -/
abbrev Tab (α : Type) := List (Nat × α)

/-- Sparse memory: (address, byte) pairs in canonical form (`Memory.wf`); an unlisted address reads 0. -/
abbrev Memory := List Host.Cell

/-- What an unlisted byte of memory reads as: zero. For scratchpads, instruction stores, weight buffers and
accumulator tiles the specification writes zero (R276, R277, R392); for device memory it is the model's choice
(log entry 6, DESIGN CHOICE). -/
def Memory.blank : Byte := 0

/-- The canonical form: addresses strictly rising and no entry equal to what an unlisted address reads as. -/
def Memory.wf : Memory → Bool
  | [] => true
  | (a, b) :: rest =>
    b != Memory.blank && (match rest with | [] => true | (a', _) :: _ => a < a') && Memory.wf rest

/-- A token of a channel (R16, R17): kind, data bits and row header. -/
structure Token where
  kind : Nat
  data : Vec
  rhdr : Word
  deriving DecidableEq, Repr, Inhabited

/-- The faults and refusals of a step. No instruction of the table stops the machine in this model: what the
specification calls a fault is a record in a trap queue, and the machine goes on. -/
inductive Fault where
  /-- Raised by `step` when the word of the unit whose turn it is does not decode. The fetch checks of R100 keep
  such a word out of every firing, so no state that a run reaches raises it. Safe: the machine stops. -/
  | undecodedWord
  deriving DecidableEq, Repr, Inhabited

/-- Why a step has no meaning. -/
inductive Refusal where
  /-- Raised by an arm of `exec` whose instruction has no meaning yet, naming it. Safe: the machine stops. -/
  | notModelled (mnemonic : String)
  deriving DecidableEq, Repr, Inhabited

/-- What an engine's access to a sector of device memory meets (R307 to R309): an error that the first read corrects, one
that the second read does, a lasting array error, a CRC failure whose replay succeeds, a lasting interface error. -/
inductive SectorUpset where
  | corrected | transient | lasting | crc | lane
  deriving DecidableEq, Repr, Inhabited

/-- Whose turn a step gives (the model's schedule; log entry 1). -/
inductive Turn where
  /-- A compute-element context runs the next instruction of its firing (key: `State.ce`). -/
  | ce (key : Nat)
  /-- An operator slot takes the action R220 chooses (key: `State.ops`). -/
  | op (key : Nat)
  /-- An event of the table. -/
  | event (i : Instr)
  /-- An outside input: a 64-bit word of a memory tile (mt × 2^17 + offset / 8) takes an error that the next engine read of
  it meets; `lost` says that it cannot be corrected (R274). -/
  | wordError (word : Nat) (lost : Bool)
  /-- An outside input: a sector of device memory takes an error that the next engine access to it meets (R307, R308). -/
  | sectorError (sector : Nat) (e : SectorUpset)
  /-- A compute element's context evicts the decoded block of an address (R101, R215). -/
  | evict (key address : Nat)
  /-- An outside input: the system token that carries the request of an access of a context takes an error, which the receiver at
  the far end of a link meets; `lost` says that it cannot be corrected (R18). -/
  | systemError (key acc link : Nat) (lost : Bool)
  deriving DecidableEq, Repr, Inhabited

/-! ## Compute-element contexts -/

/-- Binding states (R25). -/
inductive BindState where
  | idle | runnable | firing | sleeping | faulted
  deriving DecidableEq, Repr, Inhabited

/-- What a SLEEPING binding waits for (R173, R266). A copy wait of timeout 0 has no limit (R187). -/
inductive Wait where
  | none
  | cycles (left : Nat)
  | copy (promise : Word) (left : Nat) (timeout : Nat)
  | join (handle : Word) (target : BitVec 3)
  | tbuf (buffer : Nat) (want : Nat) (target : BitVec 3) (seen : Bool)
  | coll (handle : Word) (target : BitVec 3)
  deriving DecidableEq, Repr, Inhabited

/-- A task binding (R25, R26, R378). `ends` are its declared completion points and `points` those reached. -/
structure Binding where
  bound : Bool := false
  state : BindState := .idle
  trigger : Nat := 0
  entry : Nat := 0
  pc : Nat := 0
  stack : List Nat := []
  wait : Wait := .none
  ends : Nat := 0
  points : Nat := 0
  retry : Bool := false      -- the fault of this binding was a PROMISE_MISS: TRET retry waits for the copy first (R187)
  deriving DecidableEq, Repr, Inhabited

/-- A block that passed its fetch checks and is kept decoded (R101). -/
structure Decoded where
  address : Nat
  header : BitVec 128
  words : List Word
  deriving DecidableEq, Repr, Inhabited

/-- What an instruction of a firing is held for (R195, R238). -/
inductive Hold where
  | none
  | value (acc : Nat)     -- a value-delivering access that is not performed yet
  | xlate (va : Nat)      -- a device virtual address whose translation is not back yet
  | gather                -- a gather request that waits for a slot (R279)
  deriving DecidableEq, Repr, Inhabited

/-- The firing of a context slot, which is also its fault residue (R28, R187): the slot values delivered, the input
tokens as they stood when the block fired, the allowances used, the pointer moves still to apply, and what block end
is to do. -/
structure Firing where
  active : Bool := false
  bind : Nat := 0
  block : Decoded := default
  idx : Nat := 0
  slots : Tab Vec := []
  toks : List (List Token) := []
  advUsed : Tab Nat := []
  padvUsed : Tab Nat := []
  advMoves : List (Nat × Nat) := []
  padvMoves : List (Nat × Nat) := []
  published : Tab Nat := []
  target : Option (Nat × Bool) := none
  called : Bool := false
  ret : Bool := false
  tend : Bool := false
  yield : Bool := false
  park : List (Nat × Nat × Nat × BitVec 32) := []   -- the fills WRES.park waits for: node and copy (R249)
  waitSet : Bool := false
  wait : Wait := .none
  psets : List (Nat × Nat × Bool) := []
  skip : Bool := false
  hold : Hold := .none
  cycle : Nat := 0
  deriving DecidableEq, Repr, Inhabited

/-- The scope record of a line or sector (R273): level, and the identifier of the scope instance. -/
structure ScopeRec where
  level : Nat
  who : Nat
  deriving DecidableEq, Repr, Inhabited

/-- The read-modify-write operations of a bank ALU or a controller (R199, R213, R272). -/
inductive AtomOp where
  | add | min | max | and | or | xor | xchg | cas
  deriving DecidableEq, Repr, Inhabited

/-- A line operation of a bank (R269). -/
inductive LineOp where
  | read
  | write (mask : BitVec 128) (data : Vec)
  | atom (op : AtomOp) (ty : Ty) (off : Nat) (b : Vec)
  | bew (op : Nat) (ty : Ty) (b : Vec)
  | adds (ty : Ty) (elems : List (Nat × BitVec 64))
  deriving DecidableEq, Repr, Inhabited

/-- Whose request it is: an access of a compute-element context, or an element group of a gather slot. -/
inductive Owner where
  | ce (key acc : Nat)
  | gather (mt slot : Nat)
  deriving DecidableEq, Repr, Inhabited

/-- A request at a bank port (R270). -/
structure BankReq where
  port : Nat
  arrive : Nat
  line : Nat
  op : LineOp
  sem : BitVec 2
  sco : Nat
  owner : Owner
  deriving DecidableEq, Repr, Inhabited

/-- A device-memory operation at a controller (R304). -/
inductive DevOp where
  | read (len : Nat)
  | write (data : List Byte)
  | atom (op : AtomOp) (ty : Ty) (b : Vec)
  | puts (ty : Ty) (elems : List (Nat × BitVec 64))
  | adds (ty : Ty) (elems : List (Nat × BitVec 64))
  deriving DecidableEq, Repr, Inhabited

/-- A device-memory request with its group tag (R304, R305). `addr` is the canonical physical address. -/
structure DevReq where
  addr : Nat
  op : DevOp
  part : Nat
  group : Nat
  arrive : Nat
  sem : BitVec 2
  sco : Nat
  owner : Owner
  tile : Nat          -- memory tile whose 256 outstanding sector requests count it
  held : Bool := false   -- a write into a translation area that waits for its watched write (R405)
  deriving DecidableEq, Repr, Inhabited

/-- The kind of a gather-engine request (R203). -/
inductive GatherKind where
  | gather | scatter | scatadd
  deriving DecidableEq, Repr, Inhabited

/-- A vector request: its element addresses (scratchpad offsets or canonical device addresses), operands, and the
elements not yet served. -/
structure GatherReq where
  ce : Nat
  acc : Nat
  kind : GatherKind
  ty : Ty
  dev : Bool
  vas : List Nat       -- the elements' addresses as the program names them
  eas : List Nat
  data : Vec
  left : List Nat
  asked : List Nat     -- elements whose sector request has been sent
  result : Vec
  arrive : Nat
  bad : Option Nat     -- the lowest element that met an uncorrectable error
  sem : BitVec 2 := 0  -- a scatter that a release fence precedes is a release of its scope (R289)
  sco : Nat := 0
  deriving DecidableEq, Repr, Inhabited

/-- What an outstanding access of a task is (R195, R202). -/
inductive AccKind where
  | bank (mt : Nat) (req : BankReq)
  | dev (chan : Nat) (req : DevReq)
  | gather (mt : Nat) (req : GatherReq)
  | fence (mask : BitVec 16)
  | push (stream : Nat) (data : Vec)                                    -- QPUSH (R211)
  | pop (stream : Nat) (n : Nat)                                        -- QPOP (R211)
  | flush (stream : Nat)                                                -- SFLUSH (R212)
  | close (stream : Nat)                                                -- SCLOSE (R209)
  | range (mt addr count : Nat) (op : Nat) (acc : Option (BitVec 64))   -- a BRED in progress (R201)
  | engine                                                              -- engine work an order-out waits for
  deriving DecidableEq, Repr, Inhabited

/-- An access of a context that is not performed yet: its number, the address it names, the instruction, its binding
and stream, whether it has been sent, and its order-out reservation. -/
structure Acc where
  id : Nat
  addr : Nat
  idx : Nat
  bind : Nat
  str : Nat
  ty : Ty
  kind : AccKind
  sent : Bool
  value : Bool
  oo : Option Nat
  deriving DecidableEq, Repr, Inhabited

/-- A reserved order-out slot (R87): the access whose performance publishes it. -/
structure OrderRes where
  acc : Nat
  performed : Bool
  deriving DecidableEq, Repr, Inhabited

/-- An output endpoint (R340): its channel, staging slots past the producer pointer, producer pointer, and reserved
order-out slots. -/
structure OutEp where
  ch : Option Nat := none
  stage : Tab Token := []
  ptr : Nat := 0
  orders : List OrderRes := []
  deriving DecidableEq, Repr, Inhabited

/-- An input endpoint (R339): its channel, which holds the filled slots, and the consumer pointer. -/
structure InEp where
  ch : Option Nat := none
  ptr : Nat := 0
  deriving DecidableEq, Repr, Inhabited

/-- The register file of a context slot (R374). -/
structure RegFile where
  k : Vector Word 8 := Vector.replicate 8 0
  s : Vector Word 8 := Vector.replicate 8 0
  w : Vector Vec 4 := Vector.replicate 4 0
  p : Vector Bool 8 := Vector.replicate 8 false
  deriving DecidableEq, Repr, Inhabited

/-- A compute element's context slot (R374 to R378). -/
structure CeCtx where
  regs : RegFile := {}
  stat : BitVec 7 := 0
  seed : BitVec 32 := 1
  lhnd : Word := 0
  ghnd : Word := 0
  phnd : Word := 0
  jhnd : Word := 0
  quota : Nat := 0
  launch : Nat := 0
  lpage : Nat := 0
  part : Nat := 0
  binds : List Binding := List.replicate 4 {}
  next : Nat := 0
  ins : List InEp := List.replicate 8 {}
  outs : List OutEp := List.replicate 8 {}
  fir : Firing := {}
  dec : List Decoded := []
  winBase : Nat := 0
  winSize : Nat := 0
  pend : List Acc := []
  accNext : Nat := 0
  fenceRel : List (Option Nat) := List.replicate 64 none   -- by binding × 16 + stream (R289)
  waited : Nat := 0
  watched : Bool := false
  heldAccs : List Nat := []      -- accesses whose request stands in a system token that a router holds (R18)
  late : BitVec 7 := 0           -- status bits that the banks set at the end of this cycle (R376)
  poolIn : List Nat := []        -- first pool entry of each input endpoint, unbound ones included (R338)
  poolOut : List Nat := []       -- and of each output endpoint
  deriving DecidableEq, Repr, Inhabited

/-! ## Routers, channels, pages -/

/-- The state of a router operator (R236). -/
structure OpSlot where
  placed : Option FmtC := none
  instr : Option Instr := none
  launch : Nat := 0
  part : Nat := 0
  ins : List (Option Nat) := [none, none, none]
  out0 : List Nat := []
  out1 : Option Nat := none
  loop : Bool := false               -- CARRY PHASE is LOOP
  held : Option Token := none        -- REPEAT's held token
  copies : Nat := 0
  left : Nat := 0
  run : Bool := false                -- COUNT and SPLOOP RUN
  i : BitVec 32 := 0
  n : BitVec 32 := 0
  base : BitVec 32 := 0
  lb : Nat := 0                      -- SWITCH LB
  next : Nat := 0                    -- SPLOOP, range mode: next index
  stop : Nat := 0                    -- SPLOOP, range mode: the end
  mask : BitVec 64 := 0              -- SPLOOP, mask mode: the remaining set
  seq : BitVec 32 := 0               -- SEQ S, SMERGE EXP
  prev : Option (BitVec 32) := none  -- SMERGE PREV
  faulted : Option Nat := none       -- class code of its fault (R222)
  faultIn : Nat := 0                 -- the input the fault names
  ends : Nat := 0
  points : Nat := 0
  fired : Bool := false              -- has acted in this cycle (R216)
  switch : Bool := false             -- the placed word is a SWITCH: its outputs are ways (R229)
  stuck : Option Token := none       -- a token given on a way that no channel binds, which is held (R18, R400)
  waited : Nat := 0                  -- cycles of waiting tokens and no firing at its router (R47)
  watched : Bool := false            -- the WATCHDOG record of this wait is written
  deriving DecidableEq, Repr, Inhabited

/-- An end of a placed channel. -/
inductive EndRef where
  | ceIn (key n : Nat)
  | ceOut (key n : Nat)
  | op (key port : Nat)
  | mnIn (mn ctx n : Nat)
  | mnOut (mn ctx : Nat)
  | mtIn (mt ctx n : Nat)
  | mtOut (mt ctx n : Nat)
  | convoyOut (pd n : Nat)
  | convoyIn (pd : Nat)
  | trapq (part : Nat)
  deriving DecidableEq, Repr, Inhabited

/-- A hop of a route (R13, R14): the link it crosses, the capacity it adds, and the tokens in its buffers, oldest
first. The last hop is the local port of the consumer's router and holds none. -/
structure Hop where
  link : Nat
  cap : Nat
  toks : List Token
  deriving DecidableEq, Repr, Inhabited

/-- A placed channel (R15, R338 to R346). A token rests in exactly one of its places: `startq` (published or in a
holding slot, not yet granted), a hop, `ring`, `refill` or `endq` (the consumer's endpoint). `arrived` is, for
each token of the endpoint, the cycle in which it arrived there (R418, WATCHDOG). -/
structure Chan where
  launch : Nat
  num : Nat
  part : Nat
  ctx : Nat
  src : EndRef
  dst : EndRef
  depth : Nat
  order : Bool
  spill : Bool
  quota : Nat           -- reserved segments (KiB)
  segs : Nat            -- segments the ring holds: reserved and from the extension
  startq : List Token
  hops : List Hop
  endq : List Token
  ring : List Token
  refill : List Token
  credit : Nat
  freed : Nat           -- credits on their way back to the producer
  blocked : Nat         -- consecutive blocked cycles
  recorded : Bool       -- the QUOTA record of this blocking is written
  arrived : List Nat
  lost : Nat            -- 1: the ring's head met an error (R348)
  nums : List (Nat × Nat) := []   -- of each hop: channel number and context slot at its far end; of the last, local one, the
                                  -- endpoint's number, or 16 (1 + port) + number of the input slot an operator takes from (R400)
  stuckAt : Option Nat := none    -- tokens in the hops ahead of the first token that a receiver holds (R18)
  debt : Nat := 0                 -- credits that are taken back before the producer gets more (R345, R415)
  held : List Nat := []           -- segments of the spill area that the ring holds, the reserved ones first (R343)
  entries : List Nat := []        -- the segment × 4 + entry of each token of the refill buffer and the ring (R343)
  deriving DecidableEq, Repr, Inhabited

/-- A route entry (R400). -/
structure RouteEntry where
  v : Bool := false
  opin : Bool := false
  odir : Nat := 0
  och : Nat := 0
  launch : Nat := 0     -- whose channel it is (the model's own: retirement clears the entries of a launch)
  deriving DecidableEq, Repr, Inhabited

/-- A page's context counter and registers (R353, R380). -/
structure Page where
  owner : Option Nat := none
  quantum : Nat := 512
  turn : Nat := 512                     -- the QUANTUM of the current turn
  used : Nat := 0
  idle : Nat := 0
  active : Nat := 0
  drain : Bool := false
  drainFrom : Nat := 0
  yielded : Bool := false
  resident : List Nat := [0, 0, 0, 0]   -- launch in each slot; 0 for a free slot
  therm : BitVec 12 := 0
  thermLimit : Nat := Config.thermLimitReset
  thermWait : Nat := 0                  -- cycles before the next thermal request (R431)
  thermAt : Option Nat := none          -- the cycle of the sensor's last reading (R380)
  givenAt : Option Nat := none          -- the cycle it was assigned in: one mapped out in it is skipped (R463)
  mapout : Bool := false
  clearing : Bool := false              -- R277: serves no request until PAGE_CLEAR
  gating : Bool := false                -- R276: taken; its banks gate once they have served what is queued
  poolIdle : List Nat := [0, 0, 0, 0]   -- idle cycles of the endpoint pools of an empty slot (R275)
  poolDrowsy : List Bool := [false, false, false, false]
  deriving DecidableEq, Repr, Inhabited

/-- A broadcast-bus transfer (R20): driver, data, receiver mask and context slot; `fill` gives a weight-buffer
offset and a number of bytes for a fill on a column bus. -/
structure BusXfer where
  driver : Nat
  data : Vec
  mask : BitVec 8
  ctx : Nat
  fill : Option (Nat × Nat)
  deriving DecidableEq, Repr, Inhabited

/-- A broadcast bus (R19, R20). -/
structure Bus where
  waiting : List BusXfer := []
  held : Option BusXfer := none
  last : Nat := 0
  deriving DecidableEq, Repr, Inhabited

/-- A mesh link's arbiter: the (context, channel) last granted (R12), and cycles since its last uncorrectable token. -/
structure Link where
  last : Nat := 0
  lostAt : Option Nat := none
  deriving DecidableEq, Repr, Inhabited

/-! ## Memory tiles -/

/-- Bank power (R275, R276, R278). -/
inductive BankPower where
  | awake
  | drowsy
  | waking (left : Nat)
  | powering (left : Nat)
  | gated
  deriving DecidableEq, Repr, Inhabited

/-- A bank (R268 to R278). -/
structure Bank where
  power : BankPower := .gated
  idle : Nat := 0
  last : Nat := 0                -- the port served last (R270)
  served : Tab Nat := []         -- by port: the cycle in which it was last served
  queue : List BankReq := []
  tile : Nat := 0                -- the tile whose gather slot was served last (R204)
  writeback : List Nat := []     -- lines whose corrected word is still to be written back (R274)
  deriving DecidableEq, Repr, Inhabited

/-- A request slot (R279): FREE, ACCEPTED or DONE. -/
inductive GatherSlot where
  | free
  | accepted (r : GatherReq)
  | done (r : GatherReq)
  deriving DecidableEq, Repr, Inhabited

/-- The kinds of copy-like commands (R239). -/
inductive CopyKind where
  | copy
  | fill (mn woff nu tag : Nat) (tensor : Option Vec)    -- WLOAD, with the record of its decoder when ENT is 1
  | replay
  | spmm (desc : Vec) (tensor : Vec) (acc nw : Bool)
  deriving DecidableEq, Repr, Inhabited

/-- The state of a copy-like command (R208). -/
inductive CopyState where
  | pending | complete | faulted | killed
  deriving DecidableEq, Repr, Inhabited

/-- A copy-like command (R205 to R208): its place words, length, next chunk and promise number. `after` are the
accesses of its stream that it starts after (R288). -/
structure Copy where
  seq : BitVec 32
  ctx : Nat
  ce : Nat
  launch : Nat
  str : Nat
  kind : CopyKind
  src : Word
  dst : Word
  len : Nat
  chunk : Nat
  done : Nat
  state : CopyState
  acc : Nat                -- the access that carries its order-out (R191)
  after : List Nat
  path : Nat := 0          -- SPMM: 0 not started, 1 a program under USE, 2 the fallback, 3 a program stopped (R335), 4 the
                           -- fallback stopped, 5 the fallback met a malformed block (R325), 6 a program whose record is gone
  prog : List (BitVec 32) := []   -- SPMM: the micro-operations, then the scale words
  dir : Nat := 0           -- SPMM: the directory record of its program, and the VER it runs under
  ver : BitVec 16 := 0
  next : Nat := 0          -- SPMM: the flat position from which its next non-zero is taken, and the accumulator of a row begun;
  rowAcc : Option Vec := none   -- `chunk` is its next row (R335)
  startAt : Option (Nat × Nat) := none   -- SPMM: the cycle in which it took its program, and its path before (R332)
  lpage : Nat := 0         -- logical page of the context that issued it
  deriving DecidableEq, Repr, Inhabited

/-- A directory record of the pattern store (R329). -/
structure PatRec where
  valid : Bool := false
  lastUse : BitVec 32 := 0
  slot : Nat := 0
  gen : Nat := 0
  tr : Nat := 0
  tc : Nat := 0
  ver : BitVec 16 := 0
  st : Nat := 0
  use : Nat := 0
  nnz : Nat := 0
  uops : Nat := 0
  scw : Nat := 0
  basew : Nat := 0
  wfirst : Nat := 0
  wlast : Nat := 0
  opage : Nat := 0
  octx : Nat := 0
  ostr : Nat := 0
  instAt : Option Nat := none   -- the cycle of its install (R332)
  deriving DecidableEq, Repr, Inhabited

/-- A compile (R327): the directory record, the owner, the record of the tensor it read, and its progress. -/
structure Compile where
  dir : Nat
  ce : Nat
  launch : Nat
  handle : Word
  tile : Word
  tensor : Vec
  after : List Nat
  running : Bool
  ver : BitVec 16
  big : Bool           -- the header's NNZ exceeds the limit: installs as ST 3
  nnz : Nat
  due : Nat            -- the cycle from which it may install
  faulted : Bool
  deriving DecidableEq, Repr, Inhabited

/-- A step-cache entry (R317). -/
structure StepEntry where
  valid : Bool := false
  key : BitVec 32 := 0
  step : BitVec 32 := 0
  age : Nat := 0
  limit : Nat := 0
  len : Nat := 0
  place : Word := 0
  lastUse : BitVec 63 := 0
  sig : List (BitVec 32) := []
  deriving DecidableEq, Repr, Inhabited

/-- A pending signature of a context (R257). -/
structure PendSig where
  key : BitVec 32
  step : BitVec 32
  sig : List (BitVec 32)
  deriving DecidableEq, Repr, Inhabited

/-- A lookup waiting for its decision (R318): the issuing context, its access, descriptor and stream hand-off. -/
structure Lookup where
  ce : Nat
  acc : Nat
  desc : Vec
  bare : Bool          -- SCSTEP: no signature
  after : List Nat
  str : Nat
  deriving DecidableEq, Repr, Inhabited

/-- A translation-cache entry (R404). -/
structure XEntry where
  vpage : Nat          -- virtual address of the page
  size : Nat           -- bytes
  ppage : Nat
  wr : Bool
  deriving DecidableEq, Repr, Inhabited

/-- A memory tile (R268 to R286, R317, R329, R404). -/
structure MemTile where
  banks : List Bank := List.replicate 16 {}
  lost : List Nat := []                       -- uncorrectable words: offset / 8 (R274)
  gather : List GatherSlot := List.replicate 64 .free
  gatherIn : List GatherReq := []             -- requests waiting to be accepted
  order : List (Nat × List Nat) := []         -- per element: accepted slots in order (R280)
  copies : List Copy := []
  input : List BankReq := []                  -- direct requests that found their bank's queue full (R270)
  gatherAt : Option Nat := none               -- the cycle of the last acceptance (R279)
  copySeq : Tab (BitVec 32) := []             -- by issuing context, physical page × 4 + slot (R206)
  copyLast : Nat := 0
  dir : Tab PatRec := []
  store : Tab (BitVec 32) := []
  stale : List (Nat × Nat × Nat) := []        -- words of invalidated programs still in use: record, first word, number (R331)
  compiles : List Compile := []
  sweep : Nat := 0
  steps : Tab StepEntry := []
  pending : Tab PendSig := []                 -- by context slot
  lookups : List Lookup := []
  xcache : List XEntry := []
  outstanding : Nat := 0
  deriving DecidableEq, Repr, Inhabited

/-! ## Matrix nodes -/

/-- Accumulator tile states (R383). -/
inductive TileState where
  | idle | busy | ready
  deriving DecidableEq, Repr, Inhabited

/-- The tile state word's fields (R383); NFLT and OLDSEQ are counted from the node's fragments. The owner is a context:
physical page × 4 + slot. -/
structure AccTile where
  state : TileState := .idle
  owner : Nat := 0
  owned : Bool := false
  waitrel : Bool := false
  idleAt : Option Nat := none   -- the cycle in which it became IDLE: it is taken in a later one (R386)
  deriving DecidableEq, Repr, Inhabited

/-- An accepted fragment (R243, R384), or a pending one (R389): its context, MATCTL word, A rows taken, arrival
cycle, and whether the array has started it. -/
structure Fragment where
  ctx : Nat
  word : Word
  rows : List Vec
  arrive : Nat
  started : Bool
  due : Nat
  deriving DecidableEq, Repr, Inhabited

/-- A weight-buffer region record (R247). -/
structure Region where
  woff : Nat
  nu : Nat
  tag : Nat
  resident : Bool
  launch : Nat
  fill : Nat × Nat × BitVec 32 := (0, 0, 0)   -- the copy that fills it: launch, logical page of the issuer, number
  deriving DecidableEq, Repr, Inhabited

/-- A saved tile entry (R390, R391): its node as logical page × 2 + number, and its owner's context. -/
structure TileEntry where
  node : Nat
  tile : Nat
  ctx : Nat
  busy : Bool
  contents : List (Nat × Byte)
  arrive : Nat
  deriving DecidableEq, Repr, Inhabited

/-- A context's endpoints at a matrix node (R242). -/
structure MnCtx where
  ctl : Option Nat := none
  rows : Option Nat := none
  out : Option Nat := none
  bus : List Vec := []            -- A operands taken from a broadcast bus (R20)
  pend : List Fragment := []
  dead : Bool := false            -- service ended by TRET kill (R242)
  faulted : Option Token := none  -- the token a record of the node names
  faultIn : Nat := 0
  reserved : Nat := 0             -- DONE slots reserved on out0 (R384)
  waited : Nat := 0               -- cycles in which tokens wait and the node does nothing for the context (R47)
  watched : Bool := false         -- the WATCHDOG record of this wait is written
  deriving DecidableEq, Repr, Inhabited

/-- A matrix node (R242 to R249, R383 to R392). -/
structure MatNode where
  tiles : List AccTile := List.replicate 8 {}
  frags : List Fragment := []
  ctxs : List MnCtx := List.replicate 4 {}
  regions : List Region := []
  restores : List TileEntry := []
  last : Nat := 0
  nextStart : Nat := 0
  clearing : Bool := false        -- passing to another partition (R392)
  deriving DecidableEq, Repr, Inhabited

/-! ## Stream ports, controllers, walkers -/

/-- Stream modes (R209). -/
inductive StreamMode where
  | readTensor | writeTensor | readQueue | writeQueue
  deriving DecidableEq, Repr, Inhabited

/-- An open stream (R209 to R212, R311 to R316). -/
structure Stream where
  mode : StreamMode
  ce : Nat
  launch : Nat
  str : Nat
  port : Nat
  mt : Nat
  ch : Nat                  -- the channel of the memory tile's endpoint
  tensor : Vec              -- the sealed record (tensor modes)
  header : Nat              -- queue header's virtual address (queue modes)
  pos : Nat                 -- next element of the walk
  ready : Nat               -- read walks: elements below this index have been fetched with their granule
  skipTo : Nat              -- elements from `skipFrom` to below this index belong to granules that TRET skip discarded (R314)
  lastm : Bool
  ended : Bool              -- the walk has delivered its last token
  credit : Nat
  held : List (Vec × Nat)   -- pushes held at the port, with their access
  checked : Bool            -- the queue header or tensor form has been checked
  faulted : Option Nat
  faultAddr : Nat
  after : List Nat
  closing : Bool := false   -- left open at its launch's retirement: it still writes its held pushes (R209)
  ahead : List Vec := []           -- read walks: tokens fetched and not yet delivered (R311)
  skipFrom : Nat := 0
  faultGran : Nat := 0             -- the granule in which the walk faulted (R314)
  deriving DecidableEq, Repr, Inhabited

/-- A pseudo-channel or far channel (R305 to R309, R454). -/
structure DevChan where
  queue : List DevReq := []
  replies : List (DevReq × Vec × Bool) := []   -- performed requests whose reply is on its way; true: read lost, to be read again
  replay : List DevReq := []                   -- transfers to replay after a CRC failure
  rewrite : List Nat := []                     -- corrected sectors to rewrite (R307)
  refresh : Bool := false
  mapout : Bool := false
  spares : Nat := 0                            -- spare rows left (SPROW; log entry 5)
  lanes : Nat := 0                             -- spare lanes left (log entry 5)
  issues : Tab Nat := []                       -- d_p by partition (R454)
  deriving DecidableEq, Repr, Inhabited

/-- A page-table walk or waiting miss (R404): the virtual page, the level and table to be read next, and the
(translation cache, context) pairs it serves: a cache is a memory tile, or 2^20 + a stream port, and 2^40 stands for an engine
of the tile or the port. -/
structure Walk where
  part : Nat
  vpage : Nat
  level : Nat
  table : Nat
  running : Bool
  served : List (Nat × Nat)
  found : Option XEntry
  failed : Option (Nat × Bool × Nat)   -- level, refused, entry index (R418)
  closed : Bool := false               -- complete, and kept for the engines among those it serves, which take its failure
  deriving DecidableEq, Repr, Inhabited

/-! ## Convoy engines -/

/-- A routed row (R360, R363). -/
structure Row where
  data : Vec
  scores : Vec
  seq : BitVec 32
  step : BitVec 32
  deriving DecidableEq, Repr, Inhabited

/-- A send list of a context (physical page × 4 + slot) to the destination of a group entry (R360). -/
structure SendList where
  launch : Nat
  ce : Nat
  group : Nat
  rows : List Row
  deriving DecidableEq, Repr, Inhabited

/-- A header and its rows (R361). -/
structure Batch where
  header : BitVec 512
  rows : List Row
  sent : Nat
  sender : Nat := 0     -- the sending context: physical page × 4 + slot
  launch : Nat := 0     -- and its launch
  arrive : Nat := 0     -- the cycle in which it reached its ingress (R364)
  deriving DecidableEq, Repr, Inhabited

/-- The egress half of a die's engine for a partition (R360, R361): send lists, formed batches, and the convoy step
of each context. -/
structure Egress where
  lists : List SendList := []
  formed : List Batch := []
  steps : Tab (BitVec 32) := []
  last : Nat := 0
  deriving DecidableEq, Repr, Inhabited

/-- Pool page states (R364). -/
inductive PoolState where
  | free
  | filling (expert first : Nat)
  | running (expert : Nat) (step : BitVec 32)
  deriving DecidableEq, Repr, Inhabited

/-- An expert of an ingress (R364). -/
structure Expert where
  openBuf : Option Nat := none
  count : Nat := 0
  gen : BitVec 32 := 0
  closed : Bool := false
  deriving DecidableEq, Repr, Inhabited

/-- The ingress state of a partition on a die (R362 to R368). -/
structure Ingress where
  binder : Nat := 0
  out : List (Option Nat) := List.replicate 5 none
  ret : Option Nat := none
  arrived : List Batch := []
  batch : Option Batch := none       -- the batch being placed
  place : Nat := 0                   -- its next row
  step : BitVec 32 := 0
  final : Bool := false              -- FINAL processed: no step is open
  finalStep : List (BitVec 32) := [] -- steps a FINAL close names
  closes : Tab Nat := []             -- close counts of the open step and the fifteen after it, by distance
  experts : Tab Expert := []
  pool : Tab PoolState := []
  rowCount : Nat := 0
  give : List (List Token) := []     -- batch and control tokens not yet given, in order
  faultRow : Bool := false           -- a row write faulted (R372)
  dead : Bool := false               -- TRET kill ended its service (R372)
  deriving DecidableEq, Repr, Inhabited

/-! ## Launches, graphs, partitions -/

/-- Launch states (R32). -/
inductive LaunchState where
  | queued | resident | parked | saved | retired
  deriving DecidableEq, Repr, Inhabited

/-- Outcomes of a launch (R31). -/
inductive Outcome where
  | completed | killed | faulted
  deriving DecidableEq, Repr, Inhabited

/-- What a save keeps of one page of a launch (R413, R414). A resume reads these records; Machine/Saves.lean writes the bytes
of the save area, which no program reads (R412; log entry 8). -/
structure SavedPage where
  home : Nat × Nat                -- the physical page and slot it was saved from
  ces : List (Nat × CeCtx)
  windows : List (Nat × List (Nat × Byte))
  ops : List (Nat × OpSlot)
  tiles : List TileEntry
  pend : List (Nat × List Fragment)
  mns : List (Nat × MnCtx)
  copies : List (Nat × List Copy)
  copySeq : List (Nat × BitVec 32)        -- by memory tile, logical page × 2 + number
  pending : List (Nat × PendSig)
  streams : List (Nat × Stream)
  sends : List SendList
  step : Option (BitVec 32)
  counters : List (Nat × Nat)
  deriving DecidableEq, Repr, Inhabited

/-- A launch (R30 to R37, R349). `done`, `killed` and `faulted` count completion points for JOIN (R39). -/
structure Launch where
  part : Nat
  image : Nat
  args : List Word
  tbufs : List (Nat × Nat)        -- image slot, buffer identifier
  level : Nat
  blevel : Nat
  waited : Nat
  state : LaunchState
  graph : Nat
  super : Bool
  pages : List Nat                -- logical pages, in image order
  slots : List Nat                -- context slot on each
  counter : Nat
  done : Nat
  killed : Nat
  faulted : Nat
  anyFault : Bool
  anyKill : Bool
  outcome : Option Outcome
  placedAt : Nat                  -- placement number (R34)
  quota : Nat                     -- declared quotas in KiB (R343)
  ext : Tab Nat                   -- extension segments by page index (R343)
  extFree : Tab Nat               -- of which free
  parkedOn : List (Nat × Nat × Nat × BitVec 32)    -- the fills it waits for: node, and its copy (R249)
  save : List SavedPage
  saveIx : Nat := 0               -- index of its first page's save area (R349, R412)
  firstAt : Nat := 0              -- number of its first placement (R351)
  victimOf : Nat := 0             -- the pre-emption it was last a victim of (R351)
  queuedAt : Nat := 0             -- the cycle in which it was queued, and its issuer's place in that cycle (R352)
  issuer : Nat := 0
  deriving DecidableEq, Repr, Inhabited

/-- A graph instance (R38, R39). -/
structure Graph where
  part : Nat
  counter : Nat
  completed : Nat
  killed : Nat
  faulted : Nat
  phase : Option Nat              -- the phase instance it belongs to
  deriving DecidableEq, Repr, Inhabited

/-- A phase instance (R41, R438). -/
structure Phase where
  part : Nat
  entry : Nat
  counter : Nat
  completed : Nat
  killed : Nat
  faulted : Nat
  ending : Bool                   -- cancelled or evaluated (R182)
  startAt : Option Nat := none    -- the cycle it started in: one without templates is evaluated after it (R438)
  deriving DecidableEq, Repr, Inhabited

/-- A loaded image (R427): its body, or none where it is refused; `why` is the step of the rate check that refused it and the
first failing channel (R356). -/
structure Image where
  body : Option ImageBody
  lastNamed : Nat
  why : Option (Nat × Nat) := none
  deriving DecidableEq, Repr, Inhabited

/-- A sealed tensor slot (R395). -/
structure TensorSlot where
  live : Bool := false
  gen : BitVec 16 := 0
  record : Vec := 0
  deriving DecidableEq, Repr, Inhabited

/-- A page-map entry (R425). -/
structure PageEntry where
  v : Bool := false
  mov : Bool := false
  ppage : Nat := 0
  deriving DecidableEq, Repr, Inhabited

/-- Stop actions, weakest first (R408, R410). -/
inductive StopAction where
  | save | kill | retire
  deriving DecidableEq, Repr, Inhabited

/-- A stop collection (R408, R409): its launch, action, phase, and the units still to acknowledge. -/
structure Stop where
  launch : Nat
  action : StopAction
  phase : Nat
  waiting : List Nat
  requeue : Bool                  -- a pre-empted victim returns to its queue (R34)
  mark : Nat := 0                 -- the pre-emption it belongs to (R351)
  deriving DecidableEq, Repr, Inhabited

/-- Who asked for a page move (R430). -/
inductive MoveBy where
  | migr (uref : Word) | thermal | compact | host | mapout
  deriving DecidableEq, Repr, Inhabited

/-- A page move in progress (R432): logical page, old and new physical page, the step reached, and the launches
stopped for it. A rebinding after a mapping-out (R434) is one too; with no spare page its `dst` is its `src`. -/
structure Move where
  lpage : Nat
  src : Nat
  dst : Nat
  swap : Option Nat               -- compaction: the logical page that takes the old place (R429)
  step : Nat
  asker : MoveBy
  launches : List Nat
  deriving DecidableEq, Repr, Inhabited

/-- A collective member's command (R263 to R265). -/
structure Member where
  rank : Nat
  ce : Nat
  launch : Nat
  desc : Vec
  after : List Nat
  exchanged : Bool
  faulted : Bool
  status : Option Nat
  deriving DecidableEq, Repr, Inhabited

/-- A collective of a group (R264): its number on the group, the members of this package that have issued it, and
the descriptors and source data the exchange steps have brought, by rank. -/
structure Collective where
  grp : Nat
  seq : BitVec 32
  members : List Member
  data : List (Nat × Vec × List Byte)
  deriving DecidableEq, Repr, Inhabited

/-- A collective group table entry (R456): the member words in rank order. -/
structure GroupEntry where
  members : List Word := []
  deriving DecidableEq, Repr, Inhabited

/-- The partition registers that a job or the supervisor sets (R275, R320, R328, R342, R350, R358, R359). -/
structure PartRegs where
  drowsyIdle : BitVec 32 := 4096
  theta : BitVec 16 := 0
  patLimit : Nat := 1024
  panBase : Word := 0
  panSize : Nat := 0
  panFree : Nat := 0
  drvQbase : Word := 0
  drvAge : BitVec 32 := 0x00100000
  drvCompact : Bool := false
  cvyBatch : Nat := 32
  cvyNsrc : Nat := 1
  cvyCap : Nat := 32
  cvyPool : Word := 0
  cvyGent : Tab Word := []
  deriving DecidableEq, Repr, Inhabited

/-- A partition's job and host window (R43, R455 to R457, R465). -/
structure Job where
  running : Bool := false
  err : Nat := 0
  recAddr : Word := 0
  status : Word := 0
  id : Nat := 0
  phTab : Nat := 0
  nPhase : Nat := 0
  phase : Option Nat := none        -- the running phase instance
  superLaunch : Nat := 0
  superTrapq : Bool := false
  completed : Nat := 0
  killed : Nat := 0
  faulted : Nat := 0
  ending : Bool := false            -- END chosen or the job cancelled: it ends with its last retirement
  preload : Option Nat := none      -- the phase whose configuration is preloaded (R42)
  preloadSlots : List (Nat × Nat) := []
  starting : Bool := false          -- a START whose supervisor image is not loaded yet (R427, R457)
  superRec : Option Vec := none     -- the launch record of its supervisor, if it names one
  first : Nat := 0                  -- FIRST of its record
  toStart : List Word := []         -- templates of the started phase whose images are not loaded yet (R427, R438)
  dbgAddr : Nat := 0
  dbgData : Word := 0
  dbgStat : Nat := 0
  ckptDst : Word := 0
  ckptStay : Bool := false
  ckptSt : Nat := 0
  ckptErr : Nat := 0
  ckptLim : BitVec 32 := 0
  ckptRun : Bool := false
  ckptHeld : Bool := false          -- a checkpoint with STAY left the job stopped (R465)
  ckptCancel : Bool := false        -- a CANCEL waits for the checkpoint to end (R465)
  again : Option Nat := none        -- the cycle of a START that found a job running: taken, where the job ends in it (R457)
  deriving DecidableEq, Repr, Inhabited

/-- A partition (R395, R419, R424, R453). -/
structure Partition where
  pages : List Nat := []
  nl : Nat := 0
  map : Tab PageEntry := []
  weight : Nat := 1
  xareaBase : Nat := 0
  xareaLog2 : Nat := 0
  regs : PartRegs := {}
  job : Job := {}
  pred : BitVec 16 := 0
  traps : List (Bool × BitVec 512) := []  -- oldest first; true: of the supervisor's own units (R419)
  trapWait : List (Bool × BitVec 512) := []
  rseq : BitVec 16 := 0
  trapGive : List Token := []
  tensors : Tab TensorSlot := []
  tbufs : Tab Nat := []                   -- 0 EMPTY, 1 RESERVED, 2 FULL
  queues : List (List Nat) := [[], [], [], []]
  images : Tab Image := []
  wanted : List Nat := []                 -- image addresses a LAUNCH, GLAUNCH or phase waits for
  cgtab : Tab GroupEntry := []
  cseq : Tab (BitVec 32) := []            -- by group and member rank
  collectives : List Collective := []
  moves : List Move := []
  counters : Tab Nat := []
  counted : List Nat := []                -- numbers of the counters that an event of this cycle has moved (R449)
  invalidate : Bool := false              -- a write to the translation area waits (R405)
  ranges : List Nat := []                 -- the range table, as every tile and port of the partition has copied it (R404)
  predOld : BitVec 16 := 0                -- the predicates before the PSET writes of this cycle (R181)
  predLate : List (Nat × List (Nat × Nat × Bool)) := []   -- those writes, by page, tile and context slot
  popAt : Option Nat := none              -- the cycle of the last PART_TRAPPOP, which a FREC of it precedes (R458)
  evalAt : Option Nat := none             -- the cycle of the last phase evaluation, which its PSET writes precede (R437)
  barred : List Nat := []                 -- launches the Serai could not place, which bar their level and those below (R33)
  deriving DecidableEq, Repr, Inhabited

/-! ## The device -/

/-- The device registers of R453 and R459, with the state behind them. -/
structure Device where
  up : Bool := false
  mgt : Bool := true
  hostl : Bool := false
  linkReady : BitVec 18 := 0
  farReady : BitVec 8 := 0
  stackReady : BitVec 16 := 0
  dieReady : BitVec 8 := 0
  root : Bool := false
  pkg : BitVec 16 := 0
  own : BitVec 6 := 0b010000
  pcap : Nat := 4200
  lrtab : Nat := 0
  peers : Tab (BitVec 16) := []
  lanes : Tab Nat := []
  vfmap : Tab Word := []
  psel : Nat := 0
  pgassign : Tab Word := []               -- by partition (R453)
  fwVersion : Word := 0
  fwSlot : Bool := false
  fwStaged : Option Word := none
  aerHost : Bool := false
  msix : List (Nat × Nat) := []           -- messages sent: function (0 the PF, v + 1 VF v), vector
  answers : List (List Byte) := []        -- answers of the Mornos port, latest first
  withheld : Nat := 0                     -- turns withheld, in parts of 256 (R464)
  overPower : Nat := 0                    -- of which for the power of the last window
  slewAhead : Nat := 0
  slewBehind : Nat := 0
  slewAt : Nat := 0                       -- the cycle from which the next correction may come (R443)
  jobSeen : Bool := false                 -- a job has started since bring-up (R443, R463)
  counters : Tab Nat := []
  counted : List Nat := []        -- as a partition's
  functions : List Nat := []              -- functions that have reported (R463)
  deriving DecidableEq, Repr, Inhabited

/-- The state of the KG980. Keys of the tables: a page is its physical number p (R8); a compute-element context slot
is p × 64 + e × 4 + c for element e and slot c; a memory tile p × 2 + m; a matrix node p × 2 + n; a router y × 128 +
x; an operator slot (router × 4 + c) × 8 + i; a mesh link router × 5 + port (N, E, S, W, LOCAL); a bus 0 to 127 the
row buses and 128 to 255 the column buses, die × 16 + line; a placed channel launch × 65536 + n; a stream context
slot × 16 + s; a controller channel stack × 512 + pseudo-channel, or 8192 + module × 16 + channel; a partition 0 to
23; a convoy half partition × 8 + die. Addresses: scratch p × 2^21 + (m × 2^20 + offset); istore (p × 16 + e) × 2^16 +
offset; wbuf node × 2^19 + offset; accs node × 2^18 + ((tile × 64 + row) × 128 + column) × 4; device the canonical
physical address (near cells by their local form, R302). -/
structure State where
  agenda : List Turn                -- the schedule and the outside inputs still to come (the model's own; log entry 1)
  cur : Turn                        -- whose word is being executed (the model's own; log entry 2)
  free : Nat                        -- where the next free value is drawn (the model's own; log entry 3)
  cycle : BitVec 64
  slew : Int                        -- increments still withheld or added (R443)
  ce : Tab CeCtx
  ops : Tab OpSlot
  chans : Tab Chan
  routes : Tab RouteEntry           -- router × 320 + (input port × 4 + context slot) × 16 + channel number (R400)
  starts : Tab RouteEntry           -- by channel: the entry of its operator output or endpoint's first hop (R400)
  links : Tab Link
  buses : Tab Bus
  pages : Tab Page
  mts : Tab MemTile
  mns : Tab MatNode
  streams : Tab Stream
  ports : Tab Nat                   -- stream port: the stream last served (R311)
  portCache : Tab (List XEntry)     -- translation cache of a stream port for a partition: port × 32 + partition (R404)
  devChans : Tab DevChan
  walks : Tab (List Walk)           -- by die
  wcache : Tab (List (Nat × Word))  -- by die: entries read at levels 1 and 2, by physical address (R404)
  egress : Tab Egress
  ingress : Tab Ingress
  launches : Tab Launch
  graphs : Tab Graph
  phases : Tab Phase
  nextId : Nat                      -- identifiers HID given so far (R175)
  placements : Nat                  -- placements made so far (R34)
  parts : Tab Partition
  stops : List Stop
  dev : Device
  counters : Tab Nat                -- page-context counters: (page × 4 + slot) × 4096 + number; convoy counters: 2^32 + (launch × 8 + die) × 4096 + number
  counted : List Nat                -- those that an event of this cycle has moved (R449)
  perfReads : List (Nat × Nat)      -- reads of them in this cycle, each with its issuer's tile index (R449)
  scratch : Memory
  istore : Memory
  wbuf : Memory
  accs : Memory
  device : Memory
  lineScope : Tab ScopeRec          -- by scratch address of the line / 128
  sectorScope : Tab ScopeRec        -- by device address of the sector / 64
  sectorLost : List Nat             -- sectors that read as uncorrectable (R309)
  wordErrs : Tab Bool               -- errors of tile words still to be met by an engine (the model's own; log entry 90)
  sectorErrs : Tab SectorUpset      -- errors of sectors still to be met by an engine (the model's own; log entry 90)
  deriving DecidableEq, Repr, Inhabited

/-- The machine right after device reset: every table empty (each unit at its reset value), the cycle counter 0, no
page owned, no launch, nothing in memory, and the registers of R453 and R459 at their reset values. -/
def State.reset : State :=
  { agenda := [], cur := .event .cycleCounterAdvance, free := 0, cycle := 0, slew := 0,
    ce := [], ops := [], chans := [], routes := [], starts := [], links := [], buses := [], pages := [], mts := [], mns := [],
    streams := [], ports := [], portCache := [], devChans := [], walks := [], wcache := [], egress := [], ingress := [],
    launches := [], graphs := [], phases := [], nextId := 0, placements := 0, parts := [], stops := [], dev := {},
    counters := [], counted := [], perfReads := [], scratch := [], istore := [], wbuf := [], accs := [], device := [],
    lineScope := [], sectorScope := [], sectorLost := [], wordErrs := [], sectorErrs := [] }

end Sys2Proof.Machine
end

