-- ==== Sys2Proof/Machine/Tab.lean ====
section
/-!
DEFINITION. Sys2Proof/Machine/Tab.lean: reading and writing tables and memory. Every other file of the machine reads
and writes them through these operations only; the byte order is decided here (R3: little-endian).
-/

namespace Sys2Proof.Machine

/-- The entry of key k, or the default. -/
def tget {α : Type} (d : α) : Tab α → Nat → α
  | [], _ => d
  | (j, v) :: rest, k => if j = k then v else tget d rest k

/-- The entry of key k, if there is one. -/
def tfind {α : Type} : Tab α → Nat → Option α
  | [], _ => none
  | (j, v) :: rest, k => if j = k then some v else tfind rest k

/-- Writes the entry of key k, keeping the keys rising. -/
def tput {α : Type} : Tab α → Nat → α → Tab α
  | [], k, x => [(k, x)]
  | (j, v) :: rest, k, x =>
    if j = k then (k, x) :: rest
    else if k < j then (k, x) :: (j, v) :: rest
    else (j, v) :: tput rest k x

/-- Removes the entry of key k. -/
def tdel {α : Type} : Tab α → Nat → Tab α
  | [], _ => []
  | (j, v) :: rest, k => if j = k then tdel rest k else (j, v) :: tdel rest k

/-- Every key. -/
def tkeys {α : Type} (t : Tab α) : List Nat := t.map (·.1)

/-- Adds to a counter entry. -/
def tadd (t : Tab Nat) (k n : Nat) : Tab Nat := tput t k (tget 0 t k + n)

/-- Item n of a list, or the default. -/
def lget {α : Type} (d : α) (l : List α) (n : Nat) : α := l.getD n d

/-! ## Memory -/

/-- A list in rising order of a key; elements of one key keep their order. -/
def insertKey {α : Type} (key : α → Nat) (a : α) : List α → List α
  | [] => [a]
  | b :: rest => if key a < key b then a :: b :: rest else b :: insertKey key a rest
def sortKey {α : Type} (key : α → Nat) (l : List α) : List α := l.foldl (fun acc a => insertKey key a acc) []

/-- The byte at an address. -/
def Memory.read : Memory → Nat → Byte
  | [], _ => Memory.blank
  | (a, b) :: rest, k => if a = k then b else Memory.read rest k

/-- Writes one byte, keeping the canonical form: the blank value removes the entry. -/
def Memory.write : Memory → Nat → Byte → Memory
  | [], k, x => if x = Memory.blank then [] else [(k, x)]
  | (a, b) :: rest, k, x =>
    if a = k then (if x = Memory.blank then rest else (k, x) :: rest)
    else if k < a then (if x = Memory.blank then (a, b) :: rest else (k, x) :: (a, b) :: rest)
    else (a, b) :: Memory.write rest k x

/-- n bytes from an address, lowest first. -/
def Memory.readBytes (m : Memory) (a n : Nat) : List Byte := (List.range n).map fun i => m.read (a + i)

/-- Writes bytes from an address up. -/
def Memory.writeBytes : Memory → Nat → List Byte → Memory
  | m, _, [] => m
  | m, a, b :: bs => Memory.writeBytes (m.write a b) (a + 1) bs

/-- Removes every byte of a range: it then reads as written to zero (R276, R277). -/
def Memory.clear (m : Memory) (a n : Nat) : Memory := m.filter fun c => c.1 < a || a + n ≤ c.1

/-- Little-endian bytes as a number (R3). -/
def natOfBytes : List Byte → Nat
  | [] => 0
  | b :: bs => b.toNat + 256 * natOfBytes bs

/-- A number as n little-endian bytes. -/
def bytesOfNat : Nat → Nat → List Byte
  | 0, _ => []
  | n + 1, v => BitVec.ofNat 8 v :: bytesOfNat n (v / 256)

/-- n bytes at an address as a number. -/
def Memory.readNat (m : Memory) (a n : Nat) : Nat := natOfBytes (m.readBytes a n)

/-- Writes a number as n bytes. -/
def Memory.writeNat (m : Memory) (a n v : Nat) : Memory := m.writeBytes a (bytesOfNat n v)

/-- A 128-byte line as a vector (R50). -/
def Memory.readLine (m : Memory) (a : Nat) : Vec := BitVec.ofNat 1024 (m.readNat a 128)

/-- Writes the bytes of a line whose mask bit is set. -/
def Memory.writeMask (m : Memory) (a : Nat) (mask : BitVec 128) (data : Vec) : Memory :=
  (List.range 128).foldl (fun m i => if mask.getLsbD i then m.write (a + i) (data.extractLsb' (8 * i) 8) else m) m

/-! ## Bits -/

/-- Lane i of width w of a vector, as an unsigned number (R50). -/
def lane (v : Vec) (w i : Nat) : Nat := natBits v.toNat (w * i + w - 1) (w * i)

/-- A vector from the unsigned lanes of width w, lane 0 first; each lane keeps its low w bits. -/
def ofLanes (w : Nat) (ls : List Nat) : Vec :=
  BitVec.ofNat 1024 (ls.foldr (fun x acc => x % 2 ^ w + 2 ^ w * acc) 0)

/-- An n-bit number read as two's complement (R6 sext). -/
def sextN (v n : Nat) : Int := if v % 2 ^ n < 2 ^ (n - 1) then (v % 2 ^ n : Nat) else ((v % 2 ^ n : Nat) : Int) - 2 ^ n

/-- An integer's low n bits. -/
def lowBits (v : Int) (n : Nat) : Nat := (v % (2 ^ n : Nat)).toNat

/-- Bit n of a number. -/
def bitN (v n : Nat) : Bool := v / 2 ^ n % 2 == 1

/-- 1 for true. -/
def b2n (b : Bool) : Nat := if b then 1 else 0

/-- The ones among the low n bits. -/
def popN (v n : Nat) : Nat := ((List.range n).filter fun i => bitN v i).length

/-- ⌈a / b⌉. -/
def ceilDiv (a b : Nat) : Nat := (a + b - 1) / b

/-! ## Units of the state -/

def State.getCe (s : State) (k : Nat) : CeCtx := tget {} s.ce k
def State.setCe (s : State) (k : Nat) (c : CeCtx) : State := { s with ce := tput s.ce k c }
def State.getOp (s : State) (k : Nat) : OpSlot := tget {} s.ops k
def State.setOp (s : State) (k : Nat) (o : OpSlot) : State := { s with ops := tput s.ops k o }
def State.setChan (s : State) (k : Nat) (c : Chan) : State := { s with chans := tput s.chans k c }
def State.getPage (s : State) (k : Nat) : Page := tget {} s.pages k
def State.setPage (s : State) (k : Nat) (p : Page) : State := { s with pages := tput s.pages k p }
def State.getMt (s : State) (k : Nat) : MemTile := tget {} s.mts k
def State.setMt (s : State) (k : Nat) (m : MemTile) : State := { s with mts := tput s.mts k m }
def State.getMn (s : State) (k : Nat) : MatNode := tget {} s.mns k
def State.setMn (s : State) (k : Nat) (m : MatNode) : State := { s with mns := tput s.mns k m }
def State.getPart (s : State) (k : Nat) : Partition := tget {} s.parts k
def State.setPart (s : State) (k : Nat) (p : Partition) : State := { s with parts := tput s.parts k p }
def State.getDc (s : State) (k : Nat) : DevChan := tget {} s.devChans k
def State.setDc (s : State) (k : Nat) (c : DevChan) : State := { s with devChans := tput s.devChans k c }
def State.getEgress (s : State) (k : Nat) : Egress := tget {} s.egress k
def State.setEgress (s : State) (k : Nat) (e : Egress) : State := { s with egress := tput s.egress k e }
def State.getIngress (s : State) (k : Nat) : Ingress := tget {} s.ingress k
def State.setIngress (s : State) (k : Nat) (e : Ingress) : State := { s with ingress := tput s.ingress k e }
def State.setLaunch (s : State) (k : Nat) (l : Launch) : State := { s with launches := tput s.launches k l }
def State.setGraph (s : State) (k : Nat) (g : Graph) : State := { s with graphs := tput s.graphs k g }
def State.setPhase (s : State) (k : Nat) (p : Phase) : State := { s with phases := tput s.phases k p }

/-- Applies a change to a compute-element context. -/
def State.mapCe (s : State) (k : Nat) (f : CeCtx → CeCtx) : State := s.setCe k (f (s.getCe k))
/-- Applies a change to a partition. -/
def State.mapPart (s : State) (k : Nat) (f : Partition → Partition) : State := s.setPart k (f (s.getPart k))
/-- Applies a change to a memory tile. -/
def State.mapMt (s : State) (k : Nat) (f : MemTile → MemTile) : State := s.setMt k (f (s.getMt k))
/-- Applies a change to a matrix node. -/
def State.mapMn (s : State) (k : Nat) (f : MatNode → MatNode) : State := s.setMn k (f (s.getMn k))
/-- Applies a change to a page. -/
def State.mapPage (s : State) (k : Nat) (f : Page → Page) : State := s.setPage k (f (s.getPage k))
/-- Applies a change to a channel that is placed. -/
def State.mapChan (s : State) (k : Nat) (f : Chan → Chan) : State :=
  match tfind s.chans k with
  | some c => s.setChan k (f c)
  | none => s
/-- Applies a change to a launch that exists. -/
def State.mapLaunch (s : State) (k : Nat) (f : Launch → Launch) : State :=
  match tfind s.launches k with
  | some l => s.setLaunch k (f l)
  | none => s

/-! ## Geometry (R8 to R11, R19, R21) -/

/-- Page-local positions of the twelve compute elements in row-major order (R9). -/
def cePos : List Nat := [0, 1, 2, 3, 4, 7, 8, 11, 12, 13, 14, 15]

/-- The page-local tile index of compute element e. -/
def ceTile (e : Nat) : Nat := lget 0 cePos e

/-- The compute element at a page-local tile index, if there is one. -/
def tileCe (t : Nat) : Option Nat :=
  if cePos.contains t then some (cePos.findIdx (· == t)) else none

/-- x of the north-west tile of a page, and y (R8). -/
def pageX (p : Nat) : Nat := (p % 32) * 4
def pageY (p : Nat) : Nat := (p / 32) * 4

/-- The router of page-local tile t of page p. -/
def routerOf (p t : Nat) : Nat := (pageY p + t / 4) * 128 + pageX p + t % 4

/-- Router coordinates. -/
def rx (r : Nat) : Nat := r % 128
def ry (r : Nat) : Nat := r / 128

/-- The fabric die of a page (R8). -/
def pageDie (p : Nat) : Nat := (pageY p / 32) * 4 + pageX p / 32

/-- The cluster of a page (R8). -/
def pageCluster (p : Nat) : Nat := (pageY p / 8) * 16 + pageX p / 8

/-- The coordinate word of R10. -/
def xyWord (x y : Nat) : Nat := x + 256 * y

/-- Page-local tile of memory tile m, and of matrix node n (R9). -/
def mtTile (m : Nat) : Nat := if m = 0 then 6 else 9
def mnTile (n : Nat) : Nat := if n = 0 then 5 else 10

/-- Whether two pages share an edge (R428). -/
def pagesTouch (p q : Nat) : Bool :=
  (p / 32 == q / 32 && (p + 1 == q || q + 1 == p)) || (p + 32 == q || q + 32 == p)

/-- The key of a compute-element context. -/
def ceKey (page e ctx : Nat) : Nat := page * 64 + e * 4 + ctx
def cePage (k : Nat) : Nat := k / 64
def ceElem (k : Nat) : Nat := k / 4 % 16
def ceSlot (k : Nat) : Nat := k % 4

/-- The home memory tile of a compute element's context (R194). -/
def homeMt (k : Nat) : Nat := cePage k * 2 + ceElem k % 2

/-- Scratch address (the key space of `State.scratch`) of a memory tile's byte. -/
def scratchAddr (mt off : Nat) : Nat := mt * 2 ^ 20 + off

end Sys2Proof.Machine
end

