-- ==== Sys2Proof/Machine/Flags.lean ====
section
/-!
DEFINITION. Sys2Proof/Machine/Flags.lean: number formats, rounding and flags (03_numbers.md, R49 to R63), on exact
values. A finite value is a sign, a natural magnitude and a power of two; every operation computes its exact result
and rounds it once. Flags are the low bits of CTX_STAT (R375).
-/

namespace Sys2Proof.Machine

/-- Flags as the low bits of CTX_STAT: NV, DZ, OF, UF, NX (R56, R375). -/
abbrev Flags := BitVec 7

def flagNV : Flags := 0x01
def flagDZ : Flags := 0x02
def flagOF : Flags := 0x04
def flagUF : Flags := 0x08
def flagNX : Flags := 0x10
def flagScopeMiss : Flags := 0x20
def flagQuotaHit : Flags := 0x40

/-! ## Integers (R51, R52, R111) -/

/-- `ext(v, t)` of R111: the low w(t) bits, signed for s types and unsigned otherwise. -/
def extT (t : Ty) (v : Nat) : Int := if t.signed then sextN v t.width else ((v % 2 ^ t.width : Nat) : Int)

/-- The least value of an integer type, and the greatest. -/
def tyMin (t : Ty) : Int := if t.signed then -(2 ^ (t.width - 1) : Nat) else 0
def tyMax (t : Ty) : Int := if t.signed then ((2 ^ (t.width - 1) : Nat) : Int) - 1 else ((2 ^ t.width : Nat) : Int) - 1

/-- `sat(v, t)` of R6. -/
def satT (t : Ty) (v : Int) : Int := if v < tyMin t then tyMin t else if tyMax t < v then tyMax t else v

/-- `wrap(v, t)` of R111: reduced modulo 2^w(t) into the range of t. -/
def wrapT (t : Ty) (v : Int) : Int := extT t (lowBits v t.width)

/-- `fit(v, t)` of R111. -/
def fitT (sat : Bool) (t : Ty) (v : Int) : Int := if sat then satT t v else wrapT t v

/-- A scalar result as the delivered 64-bit value: sign-extended for s types, zero-extended for all others (R50). -/
def scalarOf (t : Ty) (v : Int) : Word :=
  if t.signed then BitVec.ofInt 64 v else BitVec.ofNat 64 (lowBits v t.width)

/-- Quotient toward zero and remainder with the corner cases of R52. -/
def divT (a b : Int) : Int := if b = 0 then 0 else a.tdiv b
def remT (a b : Int) : Int := if b = 0 then a else a - b * a.tdiv b

/-! ## Floating-point formats (R53, R54) -/

/-- Exponent bits, mantissa bits and bias of a floating-point type (R53). -/
def fExp (t : Ty) : Nat := match t with | .fp32 | .bf16 => 8 | .fp16 | .e5m2 => 5 | .e4m3 => 4 | _ => 0
def fMan (t : Ty) : Nat := match t with | .fp32 => 23 | .fp16 => 10 | .bf16 => 7 | .e5m2 => 2 | .e4m3 => 3 | _ => 0
def fBias (t : Ty) : Int := match t with | .fp32 | .bf16 => 127 | .fp16 | .e5m2 => 15 | .e4m3 => 7 | _ => 0

/-- The exponent of the smallest normal. -/
def fEmin (t : Ty) : Int := 1 - fBias t

/-- The largest finite magnitude as an integer times 2^`fMaxExp`. -/
def fMaxSig (t : Ty) : Nat := if t = .e4m3 then 14 else 2 ^ (fMan t + 1) - 1
def fMaxExp (t : Ty) : Int := if t = .e4m3 then 5 else (2 ^ fExp t : Nat) - 2 - fBias t - fMan t

/-- A decoded value. -/
inductive FVal where
  | nan (signalling : Bool)
  | inf (neg : Bool)
  | fin (neg : Bool) (mag : Nat) (ex : Int)
  deriving DecidableEq, Repr, Inhabited

/-- The value of a pattern of type t (R53, R54). -/
def fDecode (t : Ty) (bits : Nat) : FVal :=
  let m := fMan t
  let e := natBits bits (t.width - 2) m
  let f := bits % 2 ^ m
  let neg := bitN bits (t.width - 1)
  if e = 2 ^ fExp t - 1 ∧ t ≠ .e4m3 then
    (if f = 0 then .inf neg else .nan (!bitN f (m - 1)))
  else if t = .e4m3 ∧ e = 15 ∧ f = 7 then .nan false
  else if e = 0 then .fin neg f (fEmin t - m)
  else .fin neg (2 ^ m + f) ((e : Int) - fBias t - m)

/-- The canonical NaN (R54). -/
def canon (t : Ty) : Nat :=
  match t with
  | .fp32 => 0x7FC00000 | .bf16 => 0x7FC0 | .fp16 => 0x7E00 | .e4m3 => 0x7F | .e5m2 => 0x7E | _ => 0

def FVal.isNan : FVal → Bool
  | .nan _ => true
  | _ => false

def FVal.isSig : FVal → Bool
  | .nan s => s
  | _ => false

/-- The sign of a value; a NaN has none. -/
def FVal.neg : FVal → Bool
  | .nan _ => false
  | .inf n => n
  | .fin n _ _ => n

/-- NV when an operand is signalling (R54). -/
def sigFlag (vs : List FVal) : Flags := if vs.any FVal.isSig then flagNV else 0

/-- The sign bit of type t. -/
def signBit (t : Ty) (neg : Bool) : Nat := if neg then 2 ^ (t.width - 1) else 0

/-- The infinity of type t; e4m3 has none and takes its canonical NaN (R58). -/
def infBits (t : Ty) (neg : Bool) : Nat :=
  if t = .e4m3 then canon t else signBit t neg + (2 ^ fExp t - 1) * 2 ^ fMan t

/-- The largest finite value of type t. -/
def maxBits (t : Ty) (neg : Bool) : Nat :=
  signBit t neg + (if t = .e4m3 then 0x7E else (2 ^ fExp t - 1) * 2 ^ fMan t - 1)

/-- ⌊log2 (num / den × 2^ex)⌋ for a positive value. -/
def ilog2 (num den : Nat) (ex : Int) : Int :=
  let l : Int := (Nat.log2 num : Int) - (Nat.log2 den : Int)
  let below : Bool := if 0 ≤ l then num < den * 2 ^ l.toNat else num * 2 ^ (-l).toNat < den
  (if below then l - 1 else l) + ex

/-- num / den × 2^ex in units of 2^q, rounded in mode md (R57): the integer, and whether it is inexact. -/
def roundAt (md : Nat) (neg : Bool) (num den : Nat) (ex q : Int) : Nat × Bool :=
  let sh := ex - q
  let n := if 0 ≤ sh then num * 2 ^ sh.toNat else num
  let d := if 0 ≤ sh then den else den * 2 ^ (-sh).toNat
  let k := n / d
  let r := n % d
  let up : Bool := match md with
    | 0 => decide (d < 2 * r) || (decide (2 * r = d) && k % 2 == 1)
    | 1 => false
    | 2 => neg && r != 0
    | _ => !neg && r != 0
  (if up then k + 1 else k, r != 0)

/-- Encodes k × 2^q, k below 2^(m+1) or just reaching it (R53). -/
def fEncode (t : Ty) (neg : Bool) (k : Nat) (q : Int) : Nat :=
  let m := fMan t
  let (k, q) := if k = 2 ^ (m + 1) then (2 ^ m, q + 1) else (k, q)
  if k < 2 ^ m then signBit t neg + k
  else signBit t neg + (q + m + fBias t).toNat * 2 ^ m + (k - 2 ^ m)

/-- The delivery of an overflow (R58). -/
def overflow (t : Ty) (md : Nat) (sat neg : Bool) : Nat × Flags :=
  let big := if sat then maxBits t neg
    else match md with
      | 0 => infBits t neg
      | 1 => maxBits t neg
      | 2 => if neg then infBits t neg else maxBits t neg
      | _ => if neg then maxBits t neg else infBits t neg
  (big, flagOF ||| flagNX)

/-- `rnd(x, f, m)` of R6 for x = ± num / den × 2^ex, with saturation to finite when `sat` (R57, R58). A zero keeps
its sign. -/
def rnd (t : Ty) (md : Nat) (sat neg : Bool) (num den : Nat) (ex : Int) : Nat × Flags :=
  if num = 0 then (signBit t neg, 0) else
  let e := ilog2 num den ex
  let q := max e (fEmin t) - fMan t
  let (k, inexact) := roundAt md neg num den ex q
  let past : Bool := if q ≤ fMaxExp t then decide (fMaxSig t * 2 ^ (fMaxExp t - q).toNat < k)
    else decide (fMaxSig t < k * 2 ^ (q - fMaxExp t).toNat)
  if past then overflow t md sat neg
  else
    -- tiny after rounding (R56): the value rounded with an unbounded exponent lies below the smallest normal
    let free := roundAt md neg num den ex (e - fMan t)
    let tiny : Bool := decide (e < fEmin t) && !(decide (e = fEmin t - 1) && free.1 == 2 ^ (fMan t + 1))
    (fEncode t neg k q, (if inexact then flagNX else 0) ||| (if tiny && inexact then flagUF else 0))

/-- The sign of an exact zero sum (R55): the common sign when every term is zero of one sign, else by the mode. -/
def zeroSign (md : Nat) (signs : List Bool) (allZero : Bool) : Bool :=
  if allZero && signs.all (· == true) then true
  else if allZero && signs.all (· == false) then false
  else md == 2

/-- An exact product (R57); none when it is 0 × ∞. NaNs are the caller's. -/
def fProd (a b : FVal) : Option FVal :=
  match a, b with
  | .fin na ma ea, .fin nb mb eb => some (.fin (na != nb) (ma * mb) (ea + eb))
  | .inf na, .inf nb => some (.inf (na != nb))
  | .inf na, .fin nb mb _ => if mb = 0 then none else some (.inf (na != nb))
  | .fin na ma _, .inf nb => if ma = 0 then none else some (.inf (na != nb))
  | v, _ => some v

/-- The exact sum of finite terms: signed integer times 2^ex, at the least exponent of the terms. -/
def sumFin (vs : List FVal) : Int × Int :=
  let ex := vs.foldl (fun acc v => match v with | .fin _ m e => if m = 0 then acc else min acc e | _ => acc) (4096 : Int)
  let total := vs.foldl (fun (acc : Int) v => match v with
    | .fin n m e => if m = 0 then acc else acc + (if n then -1 else 1) * (m * 2 ^ (e - ex).toNat : Nat)
    | _ => acc) 0
  (total, ex)

/-- The sum of terms that hold no NaN, rounded once (R57): opposite infinities are invalid. -/
def fSum (t : Ty) (md : Nat) (vs : List FVal) : Nat × Flags :=
  let pos := vs.any (· == .inf false)
  let negs := vs.any (· == .inf true)
  if pos && negs then (canon t, flagNV)
  else if pos then (infBits t false, 0)
  else if negs then (infBits t true, 0)
  else
    let (v, ex) := sumFin vs
    if v = 0 then
      let zero := vs.all fun | .fin _ m _ => m == 0 | _ => false
      (signBit t (zeroSign md (vs.map FVal.neg) zero), 0)
    else rnd t md false (v < 0) v.natAbs 1 ex

/-- FADD (R144): an infinite result of e4m3 cannot arise from finite e4m3 operands. -/
def fAdd (t : Ty) (md : Nat) (a b : Nat) : Nat × Flags :=
  let x := fDecode t a; let y := fDecode t b
  if x.isNan || y.isNan then (canon t, sigFlag [x, y]) else fSum t md [x, y]

/-- A pattern with its sign inverted. -/
def negBits (t : Ty) (a : Nat) : Nat := if bitN a (t.width - 1) then a - 2 ^ (t.width - 1) else a + 2 ^ (t.width - 1)

/-- FSUB (R144). -/
def fSub (t : Ty) (md : Nat) (a b : Nat) : Nat × Flags :=
  let x := fDecode t a; let y := fDecode t b
  if x.isNan || y.isNan then (canon t, sigFlag [x, y]) else fSum t md [x, fDecode t (negBits t (b % 2 ^ t.width))]

/-- FMUL (R144). -/
def fMul (t : Ty) (md : Nat) (a b : Nat) : Nat × Flags :=
  let x := fDecode t a; let y := fDecode t b
  if x.isNan || y.isNan then (canon t, sigFlag [x, y])
  else match fProd x y with
    | none => (canon t, flagNV)
    | some (.fin n m e) => rnd t md false n m 1 e
    | some (.inf n) => (infBits t n, 0)
    | some (.nan _) => (canon t, 0)

/-- FFMA (R144): one rounding; a NaN addend beside 0 × ∞ raises NV. -/
def fFma (t : Ty) (md : Nat) (a b c : Nat) : Nat × Flags :=
  let x := fDecode t a; let y := fDecode t b; let z := fDecode t c
  if x.isNan || y.isNan then (canon t, sigFlag [x, y, z])
  else match fProd x y with
    | none => (canon t, flagNV)
    | some p => if z.isNan then (canon t, sigFlag [z]) else fSum t md [p, z]

/-- FDIV (R144). -/
def fDiv (t : Ty) (md : Nat) (a b : Nat) : Nat × Flags :=
  let x := fDecode t a; let y := fDecode t b
  if x.isNan || y.isNan then (canon t, sigFlag [x, y])
  else match x, y with
    | .inf _, .inf _ => (canon t, flagNV)
    | .inf n, .fin n' _ _ => (infBits t (n != n'), 0)
    | .fin n _ _, .inf n' => (signBit t (n != n'), 0)
    | .fin n m e, .fin n' m' e' =>
      if m' = 0 then
        (if m = 0 then (canon t, flagNV)
         else if t = .e4m3 then (canon t, flagDZ ||| flagNV) else (infBits t (n != n'), flagDZ))
      else rnd t md false (n != n') m m' (e - e')
    | _, _ => (canon t, 0)

/-- A power of two beyond ± 4,096 rounds as one at the bound does in every format, so shifts stay small. -/
def clampExp (n : Int) : Int := if n < -4096 then -4096 else if 4096 < n then 4096 else n

/-- FSCALE (R145): a × 2^n. -/
def fScale (t : Ty) (md : Nat) (a : Nat) (n : Int) : Nat × Flags :=
  match fDecode t a with
  | .nan s => (canon t, if s then flagNV else 0)
  | .inf ng => (infBits t ng, 0)
  | .fin ng m e => rnd t md false ng m 1 (e + clampExp n)

/-- FROUND (R146). -/
def fRound (t : Ty) (md : Nat) (a : Nat) : Nat × Flags :=
  match fDecode t a with
  | .nan s => (canon t, if s then flagNV else 0)
  | .inf ng => (infBits t ng, 0)
  | .fin ng m e =>
    if 0 ≤ e ∨ m = 0 then (a % 2 ^ t.width, 0)
    else
      let (k, inexact) := roundAt md ng m 1 e 0
      ((rnd t 1 false ng k 1 0).1, if inexact then flagNX else 0)

/-- A key that orders the patterns that are no NaN, −0 below +0 (R55). -/
def fKey (t : Ty) (a : Nat) : Int :=
  let mag := a % 2 ^ (t.width - 1)
  if bitN a (t.width - 1) then -(mag : Int) - 1 else mag

/-- FMIN and FMAX: minimumNumber and maximumNumber (R55, R147); the operand returned keeps its bits. -/
def fMinMax (t : Ty) (isMax : Bool) (a b : Nat) : Nat × Flags :=
  let x := fDecode t a; let y := fDecode t b
  let fl := sigFlag [x, y]
  let a' := a % 2 ^ t.width
  let b' := b % 2 ^ t.width
  if x.isNan && y.isNan then (canon t, fl)
  else if x.isNan then (b', fl)
  else if y.isNan then (a', fl)
  else if isMax then ((if fKey t a < fKey t b then b' else a'), fl)
  else ((if fKey t b < fKey t a then b' else a'), fl)

/-- FCLAMP (R147): FMIN(FMAX(a, lo), hi). -/
def fClamp (t : Ty) (a lo hi : Nat) : Nat × Flags :=
  let (m, f1) := fMinMax t true a lo
  let (r, f2) := fMinMax t false m hi
  (r, f1 ||| f2)

/-- FABS and FNEG (R148). -/
def fAbs (t : Ty) (a : Nat) : Nat × Flags :=
  match fDecode t a with
  | .nan s => (canon t, if s then flagNV else 0)
  | _ => (a % 2 ^ (t.width - 1), 0)
def fNeg (t : Ty) (a : Nat) : Nat × Flags :=
  match fDecode t a with
  | .nan s => (canon t, if s then flagNV else 0)
  | _ => (negBits t (a % 2 ^ t.width), 0)

/-- Whether a value is an exact zero. -/
def FVal.isZero : FVal → Bool
  | .fin _ m _ => m == 0
  | _ => false

/-- FCMP (R55, R149): 0 EQ, 1 LT, 2 LE, 3 UN. −0 equals +0. -/
def fCmp (t : Ty) (cond : Nat) (a b : Nat) : Bool × Flags :=
  let x := fDecode t a; let y := fDecode t b
  let un := x.isNan || y.isNan
  let zz := x.isZero && y.isZero
  let r := match cond with
    | 0 => !un && (zz || fKey t a == fKey t b)
    | 1 => !un && !zz && decide (fKey t a < fKey t b)
    | 2 => !un && (zz || decide (fKey t a ≤ fKey t b))
    | _ => un
  (r, sigFlag [x, y])

/-- FCLASS (R150). -/
def fClass (t : Ty) (a : Nat) : Nat × Flags :=
  match fDecode t a with
  | .nan s => (if s then 8 else 9, if s then flagNV else 0)
  | .inf n => (if n then 0 else 7, 0)
  | .fin n m _ =>
    let normal : Bool := decide (2 ^ fMan t ≤ m)
    (if m = 0 then (if n then 3 else 4) else if normal then (if n then 1 else 6) else (if n then 2 else 5), 0)

/-! ## Correctly rounded functions (R60, R151) -/

/-- ⌊√n⌋, from the highest bit down. -/
def isqrt (n : Nat) : Nat :=
  (List.range (Nat.log2 n / 2 + 1)).reverse.foldl (fun r i => if (r + 2 ^ i) * (r + 2 ^ i) ≤ n then r + 2 ^ i else r) 0

/-- An enclosed positive value: lo / 2^p below it, hi / 2^p above it, never equal to either. -/
structure Encl where
  lo : Nat
  hi : Nat

/-- An irrational value rounded to nearest even from an enclosure: the two bounds agree, or there is no answer. -/
def rndEncl (t : Ty) (neg : Bool) (v : Encl) (p : Nat) (ex : Int) : Option (Nat × Flags) :=
  let a := rnd t 0 false neg (2 * v.lo + 1) 2 (ex - p)
  let b := rnd t 0 false neg (2 * v.hi - 1) 2 (ex - p)
  if a.1 = b.1 then some a else none

/-- e^(num / den) − 1 for 0 < num / den ≤ 1/2, enclosed at p fraction bits: the exponential series with the terms
rounded down and up, and the tail below one unit. -/
def expSeries (p num den : Nat) : Nat → Nat → Nat → Nat → Nat → Encl
  | 0, _, _, sLo, sHi => ⟨sLo, sHi + 2⟩
  | fuel + 1, n, tm, sLo, sHi =>
    -- tm is the previous term rounded down
    let lo := tm * num / (den * n)
    let hi := ceilDiv ((tm + 1) * num) (den * n)
    if hi ≤ 1 then ⟨sLo, sHi + 4⟩ else expSeries p num den fuel (n + 1) lo (sLo + lo) (sHi + hi + 2)

/-- e^(num / den) for 0 < num / den ≤ 2^9, at p fraction bits: the argument over 2^10, then ten squarings. -/
def expEncl (p num den : Nat) : Encl :=
  let e := expSeries p num (den * 2 ^ 10) 400 1 (2 ^ p) 0 0
  (List.range 10).foldl (fun (v : Encl) _ => ⟨v.lo * v.lo / 2 ^ p, ceilDiv (v.hi * v.hi) (2 ^ p) + 1⟩)
    ⟨2 ^ p + e.lo, 2 ^ p + e.hi⟩

/-- artanh(num / den) for 0 < num / den ≤ 1/3, at p fraction bits: the odd series. -/
def artanhSeries (p num den : Nat) : Nat → Nat → Nat → Nat → Nat → Nat → Encl
  | 0, _, _, _, sLo, sHi => ⟨sLo, sHi + 2⟩
  | fuel + 1, n, pLo, pHi, sLo, sHi =>
    -- pLo and pHi bound (num / den)^n
    if pHi ≤ 1 then ⟨sLo, sHi + 4⟩ else
    artanhSeries p num den fuel (n + 2) (pLo * num * num / (den * den)) (ceilDiv (pHi * num * num) (den * den))
      (sLo + pLo / n) (sHi + ceilDiv pHi n)

def artanhEncl (p num den : Nat) : Encl :=
  artanhSeries p num den 1200 1 (2 ^ p * num / den) (ceilDiv (2 ^ p * num) den) 0 0

/-- ln 2 = 2 artanh(1/3). -/
def ln2Encl (p : Nat) : Encl := let a := artanhEncl p 1 3; ⟨2 * a.lo, 2 * a.hi⟩

/-- 2^f for a fraction 0 < f = num / 2^b < 1: e^(f ln 2), the exponent bounded by ln 2's enclosure. -/
def exp2Encl (p num b : Nat) : Encl :=
  let l := ln2Encl p
  ⟨(expEncl p (num * l.lo) (2 ^ (b + p))).lo, (expEncl p (num * l.hi) (2 ^ (b + p))).hi⟩

/-- Fraction bits tried in turn until the bounds of an enclosure round alike; correct rounding of 24-bit results of
these functions is settled far below the first. -/
def precisions : List Nat := [320, 640, 1280]

/-- The first precision that decides. -/
def firstSome {α β : Type} (f : α → Option β) (d : β) : List α → β
  | [] => d
  | x :: xs => match f x with | some r => r | none => firstSome f d xs

/-- FEXP2 of ± mag × 2^ex (R60): exact for an integer, else irrational. -/
def fExp2 (t : Ty) (neg : Bool) (mag : Nat) (ex : Int) : Nat × Flags :=
  -- |x| ≥ 4096 rounds as 2^(± 4096) does
  let fb : Nat := (-ex).toNat
  let whole : Nat := if 0 ≤ ex then mag * 2 ^ (min ex 64).toNat else mag / 2 ^ fb
  if 4096 ≤ whole then
    rnd t 0 false false 3 2 (if neg then -4097 else 4096)
  else
    let frac := if 0 ≤ ex then 0 else mag % 2 ^ fb
    if frac = 0 then rnd t 0 false false 1 1 (if neg then -(whole : Int) else whole)
    else
      let n : Int := if neg then -(whole : Int) - 1 else whole
      let f := if neg then 2 ^ fb - frac else frac
      firstSome (fun p => rndEncl t false (exp2Encl p f fb) p n) (0, 0) precisions

/-- FLOG2 of mag × 2^ex, mag > 0 (R60). -/
def fLog2 (t : Ty) (mag : Nat) (ex : Int) : Nat × Flags :=
  let l := Nat.log2 mag
  let e : Int := (l : Int) + ex
  if mag = 2 ^ l then rnd t 0 false (e < 0) e.natAbs 1 0
  else
    firstSome (fun p =>
      let a := artanhEncl p (mag - 2 ^ l) (mag + 2 ^ l)
      let l2 := ln2Encl p
      let fLo := 2 ^ p * (2 * a.lo) / l2.hi
      let fHi := ceilDiv (2 ^ p * (2 * a.hi)) l2.lo
      let lo : Int := e * 2 ^ p + fLo
      let hi : Int := e * 2 ^ p + fHi
      if 0 < lo then rndEncl t false ⟨lo.toNat, hi.toNat⟩ p 0
      else if hi < 0 then rndEncl t true ⟨(-hi).toNat, (-lo).toNat⟩ p 0
      else none) (0, 0) precisions

/-- e^|x| for |x| = mag × 2^ex below 2^9. -/
def expOf (p mag : Nat) (ex : Int) : Encl :=
  expEncl p (if 0 ≤ ex then mag * 2 ^ ex.toNat else mag) (if 0 ≤ ex then 1 else 2 ^ (-ex).toNat)

/-- Whether mag × 2^ex reaches 2^8. -/
def past256 (mag : Nat) (ex : Int) : Bool := 8 ≤ (Nat.log2 mag : Int) + ex

/-- FSIG of ± mag × 2^ex, mag > 0 (R60): E / (E + 1) or 1 / (E + 1) with E = e^|x|. -/
def fSig (t : Ty) (neg : Bool) (mag : Nat) (ex : Int) : Nat × Flags :=
  if past256 mag ex then
    (if neg then rnd t 0 false false 3 2 (-400) else rnd t 0 false false (2 ^ 400 - 1) 1 (-400))
  else
    firstSome (fun p =>
      let e := expOf p mag ex
      if neg then rndEncl t false ⟨2 ^ (2 * p) / (2 ^ p + e.hi), ceilDiv (2 ^ (2 * p)) (2 ^ p + e.lo)⟩ p 0
      else rndEncl t false ⟨2 ^ p * e.lo / (2 ^ p + e.lo), ceilDiv (2 ^ p * e.hi) (2 ^ p + e.hi)⟩ p 0) (0, 0) precisions

/-- FTANH of ± mag × 2^ex, mag > 0 (R60): (E − 1) / (E + 1) with E = e^(2|x|). -/
def fTanh (t : Ty) (neg : Bool) (mag : Nat) (ex : Int) : Nat × Flags :=
  if past256 mag (ex + 1) then rnd t 0 false neg (2 ^ 400 - 1) 1 (-400)
  else
    firstSome (fun p =>
      let e := expOf p mag (ex + 1)
      rndEncl t neg ⟨2 ^ p * (e.lo - 2 ^ p) / (2 ^ p + e.lo), ceilDiv (2 ^ p * (e.hi - 2 ^ p)) (2 ^ p + e.hi)⟩ p 0)
      (0, 0) precisions

/-- FSQRT of mag × 2^ex, mag > 0 (R60): the integer root of a scaled magnitude with a sticky half unit. -/
def fSqrt (t : Ty) (mag : Nat) (ex : Int) : Nat × Flags :=
  let odd : Nat := (ex % 2).toNat
  let n := mag * 2 ^ odd * 2 ^ 128
  let r := isqrt n
  rnd t 0 false false (2 * r + (if r * r = n then 0 else 1)) 2 ((ex - odd) / 2 - 64)

/-- FRSQ of mag × 2^ex, mag > 0 (R60). -/
def fRsq (t : Ty) (mag : Nat) (ex : Int) : Nat × Flags :=
  let odd : Nat := (ex % 2).toNat
  let m := mag * 2 ^ odd
  let p := 128 + Nat.log2 m
  let r := isqrt (2 ^ (2 * p) / m)
  rnd t 0 false false (2 * r + (if r * r * m = 2 ^ (2 * p) then 0 else 1)) 2 (-((ex - odd) / 2) - p)

/-- The functions of R60. -/
inductive FFun where
  | rcp | rsq | sqrt | exp2 | log2 | sig | tanh
  deriving DecidableEq, Repr

/-- The special cases of R60's table, and the correctly rounded value elsewhere. -/
def fFun (f : FFun) (t : Ty) (a : Nat) : Nat × Flags :=
  let one := (rnd t 0 false false 1 1 0).1
  match fDecode t a with
  | .nan s => (canon t, if s then flagNV else 0)
  | .inf n =>
    match f with
    | .exp2 => (if n then 0 else infBits t false, 0)
    | .log2 | .sqrt => if n then (canon t, flagNV) else (infBits t false, 0)
    | .rcp => (signBit t n, 0)
    | .rsq => if n then (canon t, flagNV) else (0, 0)
    | .sig => (if n then 0 else one, 0)
    | .tanh => (if n then negBits t one else one, 0)
  | .fin n m e =>
    if m = 0 then
      match f with
      | .exp2 => (one, 0)
      | .log2 => (infBits t true, flagDZ)
      | .rcp | .rsq => (infBits t n, flagDZ)
      | .sqrt | .tanh => (signBit t n, 0)
      | .sig => ((rnd t 0 false false 1 2 0).1, 0)
    else
      match f with
      | .rcp => rnd t 0 false n 1 m (-e)
      | .exp2 => fExp2 t n m e
      | .sig => fSig t n m e
      | .tanh => fTanh t n m e
      | .log2 => if n then (canon t, flagNV) else fLog2 t m e
      | .rsq => if n then (canon t, flagNV) else fRsq t m e
      | .sqrt => if n then (canon t, flagNV) else fSqrt t m e

/-! ## Conversion (R59, R61, R154, R156) -/

/-- The next CTX_SEED (R61). -/
def seedNext (x : BitVec 32) : BitVec 32 :=
  let x := if x = 0 then 1 else x
  let x := x ^^^ (x <<< 13)
  let x := x ^^^ (x >>> 17)
  x ^^^ (x <<< 5)

/-- Stochastic rounding of ± mag × 2^ex to a narrow format (R61), with the advanced state. -/
def stochastic (t : Ty) (sat neg : Bool) (mag : Nat) (ex : Int) (seed : BitVec 32) : Nat × Flags :=
  if mag = 0 then (signBit t neg, 0) else
  let e := ilog2 mag 1 ex
  let q := max e (fEmin t) - fMan t
  let d : Nat := (q - ex).toNat
  let kept := if ex ≤ q then mag / 2 ^ d else mag * 2 ^ (ex - q).toNat
  let disc := mag % 2 ^ d
  let d' := min d 32
  let disc' := disc / 2 ^ (d - d')
  let k := if 0 < d ∧ 2 ^ d' ≤ disc' + seed.toNat % 2 ^ d' then kept + 1 else kept
  let past : Bool := if q ≤ fMaxExp t then decide (fMaxSig t * 2 ^ (fMaxExp t - q).toNat < k)
    else decide (fMaxSig t < k * 2 ^ (q - fMaxExp t).toNat)
  if past then overflow t 0 sat neg
  else
    let inexact : Bool := disc != 0 || k != kept
    let tiny : Bool := decide (k < 2 ^ fMan t)
    (fEncode t neg k q, (if inexact then flagNX else 0) ||| (if tiny && inexact then flagUF else 0))

/-- A value rounded to an integer of type t, then saturated (R59): out of range gives the bound with NV. `quiet`
drops NV at the bound (CVTS between integers, R156). -/
def toInt (t : Ty) (md : Nat) (quiet neg : Bool) (mag : Nat) (ex : Int) : Int × Flags :=
  let (k, inexact) := roundAt md neg mag 1 (clampExp ex) 0
  let v : Int := if neg then -(k : Int) else k
  if v < tyMin t then (tyMin t, if quiet then 0 else flagNV)
  else if tyMax t < v then (tyMax t, if quiet then 0 else flagNV)
  else (v, if inexact then flagNX else 0)

/-- One element's conversion from src to dst of the exact value a × 2^sc (R154, R156): rounding mode, stochastic state
when it is stochastic, saturation to finite. -/
def convert (dst src : Ty) (md : Nat) (sr : Option (BitVec 32)) (sat : Bool) (sc : Int) (a : Nat) : Nat × Flags :=
  if src.isInt then
    let v := extT src a
    if dst.isInt then
      let (r, fl) := toInt dst md true (v < 0) v.natAbs sc
      (lowBits r dst.width, if sc < 0 then fl else 0)
    else match sr with
      | some seed => stochastic dst sat (v < 0) v.natAbs 0 seed
      | none => rnd dst md sat (v < 0) v.natAbs 1 (clampExp sc)
  else
    match fDecode src a with
    | .nan s => if dst.isInt then (0, flagNV) else (canon dst, if s then flagNV else 0)
    | .inf n =>
      if dst.isInt then (lowBits (if n then tyMin dst else tyMax dst) dst.width, flagNV)
      else if sat then (maxBits dst n, 0)
      else if dst = .e4m3 then (canon dst, flagNV)
      else (infBits dst n, 0)
    | .fin n m e =>
      if dst.isInt then
        let (r, fl) := toInt dst md false n m (e + clampExp sc)
        (lowBits r dst.width, fl)
      else match sr with
        | some seed => stochastic dst sat n m e seed
        | none => rnd dst md sat n m 1 (e + clampExp sc)

/-! ## Immediates (R62, R63) -/

/-- An IMM7 as a signed integer. -/
def imm7 (v : BitVec 7) : Int := v.toInt

/-- An IMM7 of a floating-point operation (R63). -/
def imm7F (t : Ty) (v : BitVec 7) : Nat := (rnd t 0 (t = .e4m3 : Bool) (v.toInt < 0) v.toInt.natAbs 1 0).1

/-- An IMM16, a bf16 pattern, of a floating-point operation (R63). -/
def imm16F (t : Ty) (v : BitVec 16) : Nat :=
  if t = .bf16 ∧ !(fDecode .bf16 v.toNat).isNan then v.toNat
  else (convert t .bf16 0 none (t = .e4m3 : Bool) 0 v.toNat).1

/-- An IMM16 of an integer operation: sign-extended for s types and zero-extended for z types (R62). -/
def imm16I (t : Ty) (v : BitVec 16) : Int := extT t (lowBits (if t.signed then v.toInt else v.toNat) t.width)

end Sys2Proof.Machine
end

