-- ==== Sys2Proof/Machine/Operands.lean ====
section
/-!
DEFINITION. Sys2Proof/Machine/Operands.lean: reading the sources and writing the targets of a compute-element
instruction (R77 to R85, R111, R112, R142, R165), and moving a firing to its next instruction.
-/

namespace Sys2Proof.Machine

/-- The number of a slot (R81). -/
def SlotName.no : SlotName → Nat
  | .a => 0 | .b => 1 | .c => 2

/-- Lane i holds i, at lane width w (LANEIDX, R78). A scalar operation gives w = 0 and reads 0. -/
def laneIdx (w : Nat) : Vec := if w = 0 then 0 else ofLanes w (List.range (1024 / w))

/-- The physical coordinates of a compute element (R10). -/
def ceXy (k : Nat) : Nat :=
  let r := routerOf (cePage k) (ceTile (ceElem k))
  xyWord (rx r) (ry r)

/-- What an instruction reads its sources from: the key of its context and the context. -/
structure Rd where
  key : Nat
  c : CeCtx

/-- The sources of the running instruction of a state. -/
def State.rdAt (s : State) (k : Nat) : Rd := ⟨k, s.getCe k⟩

/-- The token that CHAN source in i at an offset names: the copy taken as the block fired (R28, R187). -/
def Rd.tok (r : Rd) (i off : Nat) : Token := lget default (lget [] r.c.fir.toks i) off

/-- The 1,024-bit value of a source (R77 to R79): narrower values have zeros above; an IMM7 is sign-extended to 64
bits (R112). `w` is the instruction's lane width, 0 for a scalar operation. -/
def Rd.raw (r : Rd) (w : Nat) (sl : SlotName) : Src → Vec
  | .slot => tget 0 r.c.fir.slots (3 * r.c.fir.idx + SlotName.no sl)
  | .k n => (r.c.regs.k[n.toNat]!).toVec
  | .s n => (r.c.regs.s[n.toNat]!).toVec
  | .w n => r.c.regs.w[n.toNat]!
  | .p n => BitVec.ofNat 1024 (b2n (r.c.regs.p[n.toNat]!))
  | .zero => 0
  | .ones => BitVec.allOnes 1024
  | .laneidx => laneIdx w
  | .ctxid => BitVec.ofNat 1024 (ceSlot r.key)
  | .pageid => BitVec.ofNat 1024 r.c.lpage
  | .tilexy => BitVec.ofNat 1024 (ceXy r.key)
  | .chan i off => (r.tok i.toNat off.toNat).data
  | .imm v => Word.toVec (v.signExtend 64)

/-- The 64-bit value of a source (R79, R112): counts, indices, lane values, addresses, handles. -/
def Rd.w64 (r : Rd) (sl : SlotName) (x : Src) : Word := (r.raw 0 sl x).toWord

/-- An IMM7 of an integer operation of type t (R62): sign-extended for s types and, as bits, for floating-point
types (log entry 10); zero-extended for z types. -/
def immInt (t : Ty) (v : BitVec 7) : Int := if t.signed || t.isFloat then v.toInt else (v.toNat : Int)

/-- A scalar source of type t (R111). -/
def Rd.int (r : Rd) (t : Ty) (sl : SlotName) : Src → Int
  | .imm v => extT t (lowBits (immInt t v) t.width)
  | x => extT t (r.raw 0 sl x).toNat

/-- A vector source of type t, as lanes (R112). -/
def Rd.ints (r : Rd) (t : Ty) (sl : SlotName) : Src → List Int
  | .imm v => List.replicate t.lanes (extT t (lowBits (immInt t v) t.width))
  | x => (List.range t.lanes).map fun i => extT t (lane (r.raw t.width sl x) t.width i)

/-- A vector source as unsigned lanes (R112). -/
def Rd.nats (r : Rd) (t : Ty) (sl : SlotName) (x : Src) : List Nat := (r.ints t sl x).map fun v => lowBits v t.width

/-- A vector source taken whole, an IMM7 sign-extended to the lane width as a bit pattern (R129). -/
def Rd.whole (r : Rd) (t : Ty) (sl : SlotName) : Src → Vec
  | .imm v => ofLanes t.width (List.replicate t.lanes (lowBits v.toInt t.width))
  | x => r.raw t.width sl x

/-- A scalar floating-point source of type t, as a pattern (R142, R63). -/
def Rd.flt (r : Rd) (t : Ty) (sl : SlotName) : Src → Nat
  | .imm v => imm7F t v
  | x => (r.raw 0 sl x).toNat % 2 ^ t.width

/-- A vector floating-point source of type t, as patterns (R142). -/
def Rd.flts (r : Rd) (t : Ty) (sl : SlotName) : Src → List Nat
  | .imm v => List.replicate t.lanes (imm7F t v)
  | x => (List.range t.lanes).map fun i => lane (r.raw t.width sl x) t.width i

/-- The floating-point operands of a scalar or vector form: one pattern, or one per lane. -/
def Rd.fops (r : Rd) (vec : Bool) (t : Ty) (sl : SlotName) (x : Src) : List Nat :=
  if vec then r.flts t sl x else [r.flt t sl x]

/-- The integer operands of FSCALE (R145). -/
def Rd.fscales (r : Rd) (vec : Bool) (t : Ty) (sl : SlotName) (x : Src) : List Int :=
  match vec, x with
  | false, .imm v => [v.toInt]
  | false, x => [sextN (r.raw 0 sl x).toNat 32]
  | true, .imm v => List.replicate t.lanes v.toInt
  | true, x => (List.range t.lanes).map fun i => sextN (lane (r.raw t.width sl x) t.width i) t.width

/-! ## Targets -/

/-- Changes item n of a list. -/
def lmod {α : Type} (l : List α) (n : Nat) (f : α → α) : List α := l.modify n f

/-- How many slots of out j this firing has already published, at an earlier fault (R28, R187): OUT offsets count
from the producer pointer as the block fired (log entry 11). -/
def Firing.pub (f : Firing) (j : Nat) : Nat := tget 0 f.published j

/-- Writes an output slot, data and kind together (R165); a slot already published is gone. -/
def CeCtx.stageTok (c : CeCtx) (j off : Nat) (t : Token) : CeCtx :=
  if off < c.fir.pub j then c
  else { c with outs := lmod c.outs j fun o => { o with stage := tput o.stage (off - c.fir.pub j) t } }

/-- deliver(v) to one target (R81, R82, R165); `vec` says the result is a 1,024-bit one. -/
def CeCtx.putTgt (c : CeCtx) (vec : Bool) (v : Vec) : Tgt → CeCtx
  | .none => c
  | .slot i sl => { c with fir := { c.fir with slots := tput c.fir.slots (3 * i.toNat + SlotName.no sl) v } }
  | .s n => { c with regs := { c.regs with s := c.regs.s.setIfInBounds n.toNat v.toWord } }
  | .w n => { c with regs := { c.regs with w := c.regs.w.setIfInBounds n.toNat v } }
  | .p n => { c with regs := { c.regs with p := c.regs.p.setIfInBounds n.toNat (v.getLsbD 0) } }
  | .out j off => c.stageTok j.toNat off.toNat ⟨if vec then 1 else 0, v, 0⟩

/-- TA is written first and TB second (R82). -/
def CeCtx.put2 (c : CeCtx) (vec : Bool) (v : Vec) (ta tb : Tgt) : CeCtx := (c.putTgt vec v ta).putTgt vec v tb

/-- Raises flags: they are sticky (R56). -/
def CeCtx.flag (c : CeCtx) (f : Flags) : CeCtx := { c with stat := c.stat ||| f }

/-- The firing moves to its next instruction. -/
def CeCtx.bump (c : CeCtx) : CeCtx :=
  { c with fir := { c.fir with idx := c.fir.idx + 1, hold := .none, skip := false } }

/-- The result of an instruction that only computes: a value, whether it is a vector, and its flags. -/
structure Res where
  val : Vec
  vec : Bool
  flags : Flags := 0

/-- A scalar integer result of type t (R111). -/
def Res.int (t : Ty) (v : Int) (fl : Flags := 0) : Res := ⟨(scalarOf t v).toVec, false, fl⟩

/-- A scalar result that is an unsigned 64-bit value. -/
def Res.nat (v : Nat) (fl : Flags := 0) : Res := ⟨Word.toVec (BitVec.ofNat 64 v), false, fl⟩

/-- A vector result from lanes of type t. -/
def Res.lanes (t : Ty) (vs : List Int) : Res := ⟨ofLanes t.width (vs.map fun v => lowBits v t.width), true, 0⟩

/-- A floating-point result: one pattern, zero-extended, or one per lane; flags are the union (R56, R142). -/
def Res.flts (vec : Bool) (w : Nat) (rs : List (Nat × Flags)) : Res :=
  ⟨if vec then ofLanes w (rs.map (·.1)) else BitVec.ofNat 1024 (lget (0, 0) rs 0).1, vec,
    rs.foldl (fun acc r => acc ||| r.2) 0⟩

/-- The key of the context whose instruction runs: the one whose turn it is. -/
def State.key (s : State) : Nat :=
  match s.cur with
  | .ce k => k
  | .op k => k
  | .event _ | .wordError _ _ | .sectorError _ _ | .evict _ _ | .systemError _ _ _ _ => 0

/-- An instruction of format T or I that only computes (R84: these have no guard and no side effect): it delivers its
result to TA and TB, raises its flags, and the firing goes on. -/
def CeCtx.result (c : CeCtx) (ta tb : Tgt) (r : Res) : CeCtx := ((c.put2 r.vec r.val ta tb).flag r.flags).bump

/-- A computing instruction of format T. -/
def State.pureT (s : State) (f : FmtT) (g : Rd → Res) : State :=
  s.mapCe s.key fun c => c.result f.ta f.tb (g ⟨s.key, c⟩)

/-- A computing instruction of format I. -/
def State.pureI (s : State) (f : FmtI) (g : Rd → Res) : State :=
  s.mapCe s.key fun c => c.result f.ta f.tb (g ⟨s.key, c⟩)

/-! ## Guards (R84, R85) -/

/-- The guard of a format X instruction: bit 0 of SB; a skipped instruction acts as if it were false (R187). -/
def Rd.guardX (r : Rd) (f : FmtX) : Bool := !r.c.fir.skip && (r.raw 0 .b f.sb).getLsbD 0

/-- The guard of a format M instruction: SC of class REG or SLOT; other classes give no guard. -/
def Rd.guardM (r : Rd) (f : FmtM) : Bool :=
  !r.c.fir.skip && match f.sc with
    | .chan _ _ | .imm _ => true
    | x => (r.raw 0 .c x).getLsbD 0

/-- Delivers a value to the one target of format X or M and goes on. -/
def CeCtx.give (c : CeCtx) (vec : Bool) (v : Vec) (ta : Tgt) : CeCtx := (c.putTgt vec v ta).bump

end Sys2Proof.Machine
end

