-- ==== Sys2Proof/Machine/Work.lean ====
section
/-!
DEFINITION. Sys2Proof/Machine/Work.lean: the lives of launches, graphs, phases and jobs (02_work.md, R30 to R43), and
the stop collector (20_tbl_stops.md, R407 to R411), as operations the instructions and events share.
-/

namespace Sys2Proof.Machine

/-- The entries that satisfy a test. -/
def tfilter {α : Type} (t : Tab α) (p : Nat → α → Bool) : Tab α := t.filter fun e => p e.1 e.2

/-- Changes every entry. -/
def tmap {α : Type} (t : Tab α) (f : Nat → α → α) : Tab α := t.map fun e => (e.1, f e.1 e.2)

/-! ## Identifiers and handles (R175) -/

/-- A handle: kind in [63:60], identifier in [31:0]. -/
def handle (kind id : Nat) : Word := BitVec.ofNat 64 (kind * 2 ^ 60 + id % 2 ^ 32)

def handleKind (h : Word) : Nat := natBits h.toNat 63 60
def handleId (h : Word) : Nat := natBits h.toNat 31 0

/-- Takes a new identifier. Identifiers are numbered from 1 (log entry 12). -/
def State.newId (s : State) : Nat × State := (s.nextId + 1, { s with nextId := s.nextId + 1 })

/-! ## Pages and contexts of a launch -/

/-- The physical page a logical page of a partition is bound to (R425); none when its entry has V = 0. -/
def State.phys (s : State) (part lp : Nat) : Option Nat :=
  let e := tget {} (s.getPart part).map lp
  if e.v then some e.ppage else none

/-- The logical page bound to a physical page of a partition. -/
def State.logical (s : State) (part pp : Nat) : Option Nat :=
  ((s.getPart part).map.find? fun e => e.2.v && e.2.ppage == pp).map (·.1)

/-- The launch's contexts: image page, physical page and context slot of each. -/
def State.places (s : State) (l : Launch) : List (Nat × Nat × Nat) :=
  (List.range l.pages.length).filterMap fun i =>
    (s.phys l.part (lget 0 l.pages i)).map fun p => (i, p, lget 0 l.slots i)

/-- Whether a launch holds context slots. -/
def Launch.resident (l : Launch) : Bool := l.state == .resident || l.state == .parked

/-- The launch with an identifier, or one that never was. -/
def State.launchD (s : State) (id : Nat) : Launch :=
  (tfind s.launches id).getD
    { part := 0, image := 0, args := [], tbufs := [], level := 0, blevel := 0, waited := 0, state := .retired,
      graph := 0, super := false, pages := [], slots := [], counter := 0, done := 0, killed := 0, faulted := 0,
      anyFault := false, anyKill := false, outcome := none, placedAt := 0, quota := 0, ext := [], extFree := [],
      parkedOn := [], save := [] }

/-- A stop is being collected for the launch (R408). -/
def State.stopping (s : State) (id : Nat) : Bool := s.stops.any fun st => st.launch == id

/-- The context keys of a page's slot. -/
def pageCes (p c : Nat) : List Nat := (List.range 12).map fun e => ceKey p e c

/-- The operator keys of a page's slot. -/
def pageOps (p c : Nat) : List Nat :=
  (List.range 16).flatMap fun t => (List.range 8).map fun i => (routerOf p t * 4 + c) * 8 + i

/-- The job of a partition stands still for a checkpoint (R465). -/
def Partition.held (p : Partition) : Bool := p.job.ckptRun || p.job.ckptHeld

/-- The body of a launch's image (R427). -/
def State.imageOf (s : State) (l : Launch) : Option ImageBody :=
  match tfind (s.getPart l.part).images l.image with
  | some im => im.body
  | none => none

/-! ## MSI-X and the VF map (R452, R457, R458) -/

/-- The byte of HOST_VFMAP that belongs to VF v. -/
def Device.vfByte (d : Device) (v : Nat) : Nat :=
  natBits (tget 0 d.vfmap (v / 8)).toNat (8 * (v % 8) + 7) (8 * (v % 8))

/-- The partition a VF is bound to. -/
def Device.vfPart (d : Device) (v : Nat) : Option Nat :=
  if 128 ≤ d.vfByte v then some (d.vfByte v % 32) else none

/-- The VFs bound to a partition. -/
def Device.vfsOf (d : Device) (part : Nat) : List Nat := (List.range 128).filter fun v => d.vfPart v == some part

/-- Sends an MSI-X vector of each VF bound to a partition. -/
def State.msix (s : State) (part vec : Nat) : State :=
  { s with dev := { s.dev with msix := s.dev.msix ++ (s.dev.vfsOf part).map fun v => (v + 1, vec) } }

/-! ## Counters (R445, R447) -/

/-- An event counter saturates at 48 bits (R445). -/
def countUp (t : Tab Nat) (k n : Nat) : Tab Nat := tput t k (min (2 ^ 48 - 1) (tget 0 t k + n))

/-- Notes that a counter has moved in this cycle (R449). -/
def note (k : Nat) (l : List Nat) : List Nat := if l.contains k then l else k :: l

/-- Adds to a page-context counter. -/
def State.countPage (s : State) (page ctx num n : Nat) : State :=
  let k := (page * 4 + ctx) * 4096 + num
  { s with counters := countUp s.counters k n, counted := note k s.counted }

/-- Adds to a convoy counter. -/
def State.countCvy (s : State) (launch die num n : Nat) : State :=
  let k := 2 ^ 32 + (launch * 8 + die) * 4096 + num
  { s with counters := countUp s.counters k n, counted := note k s.counted }

/-- Adds to a partition counter. -/
def State.countPart (s : State) (part num n : Nat) : State :=
  s.mapPart part fun p => { p with counters := countUp p.counters num n, counted := note num p.counted }

/-- Adds to a device counter. -/
def State.countDev (s : State) (num n : Nat) : State :=
  { s with dev := { s.dev with counters := countUp s.dev.counters num n, counted := note num s.dev.counted } }

/-! ## Tile buffers (R35, R36) -/

/-- Sets a tile buffer's state; a TBWAIT that names it and the state has seen it (R180). -/
def State.setTbuf (s : State) (part buf st : Nat) : State :=
  let s := s.mapPart part fun p => { p with tbufs := tput p.tbufs buf st }
  { s with ce := tmap s.ce fun _ c =>
      if c.part ≠ part ∨ c.launch = 0 then c else
      { c with binds := c.binds.map fun b =>
          match b.wait with
          | .tbuf n want tgt seen => if n = buf ∧ want = st then { b with wait := .tbuf n want tgt true } else { b with wait := .tbuf n want tgt seen }
          | _ => b } }

/-- The state of a tile buffer. -/
def State.tbuf (s : State) (part buf : Nat) : Nat := tget 0 (s.getPart part).tbufs buf

/-- The buffers of a launch with the use its image declares (R108). -/
def State.tbufUses (s : State) (l : Launch) : List (Nat × TbufUse) :=
  match s.imageOf l with
  | none => []
  | some b => l.tbufs.filterMap fun e => (b.tbufs[e.1]?).map fun u => (e.2, u)

/-! ## Freeing what a launch holds (R31, R392, R412) -/

/-- A matrix node without what a context (physical page × 4 + slot) owns: its tiles become IDLE with their contents
unchanged, and its restores go (R392). -/
def MatNode.freeOwner (m : MatNode) (own cycle : Nat) : MatNode :=
  { m with
    tiles := m.tiles.map fun t => if t.owned && t.owner == own then { idleAt := some cycle } else t
    restores := m.restores.filter fun r => r.ctx != own }

/-- A matrix node without the fragments and endpoints of a context slot of its page (R392). -/
def MatNode.freeCtx (m : MatNode) (c : Nat) : MatNode :=
  { m with frags := m.frags.filter fun f => f.ctx != c, ctxs := m.ctxs.set c {} }

/-- The record of a fill (node, and the copy that fills it) is still FILLING. -/
def State.filling (s : State) (f : Nat × Nat × Nat × BitVec 32) : Bool :=
  (s.getMn f.1).regions.any fun r => !r.resident && r.fill == f.2

/-- A parked launch returns to RESIDENT when no fill it waits for is FILLING any more (R249). -/
def State.unpark (s : State) : State :=
  { s with launches := tmap s.launches fun _ l =>
      if l.state ≠ .parked then l
      else
        let left := l.parkedOn.filter s.filling
        { l with parkedOn := left, state := if left.isEmpty then .resident else .parked } }

/-- A memory tile without the state of a context slot of its page. -/
def MemTile.freeCtx (m : MemTile) (c : Nat) : MemTile :=
  { m with
    pending := tdel m.pending c
    lookups := m.lookups.filter fun x => ceSlot x.ce != c }

/-- A memory tile without some compiles: a record that still waits for one of them returns to ST 0. -/
def MemTile.dropCompiles (m : MemTile) (p : Compile → Bool) : MemTile :=
  { m with
    compiles := m.compiles.filter fun c => !p c
    dir := m.dir.map fun e => if e.2.st == 1 && m.compiles.any (fun c => c.dir == e.1 && p c) then (e.1, { e.2 with st := 0 }) else e }

/-- A memory tile without a launch's commands. A FAULTED compile keeps its place until TRET (R337). -/
def MemTile.freeLaunch (m : MemTile) (launch : Nat) : MemTile :=
  ({ m with copies := m.copies.filter fun x => x.launch != launch } : MemTile).dropCompiles fun c => c.launch == launch && !c.faulted

/-- Frees a context slot of a page: its compute-element contexts, operators, matrix-node and memory-tile state. -/
def State.freeSlot (s : State) (p c : Nat) : State :=
  let s := { s with
    ce := tfilter s.ce fun k _ => !(cePage k == p && ceSlot k == c)
    ops := tfilter s.ops fun k _ => !(pageOps p c).contains k
    counters := tfilter s.counters fun k _ => !(k / 4096 == p * 4 + c) }
  let s := s.mapPage p fun g => { g with resident := g.resident.set c 0 }
  let s := { s with egress := tmap s.egress fun _ e => { e with
    lists := e.lists.filter fun x => x.ce != p * 4 + c, steps := tdel e.steps (p * 4 + c) } }
  let s := { s with
    mns := tmap s.mns fun _ m => m.freeOwner (p * 4 + c) s.cycle.toNat
    mts := tmap s.mts fun _ m => { m with copySeq := tdel m.copySeq (p * 4 + c) } }
  let s := (List.range 2).foldl (fun s n =>
    if (tfind s.mns (p * 2 + n)).isSome then s.mapMn (p * 2 + n) (·.freeCtx c) else s) s
  (List.range 2).foldl (fun s m =>
    if (tfind s.mts (p * 2 + m)).isSome then s.mapMt (p * 2 + m) (·.freeCtx c) else s) s

/-- Segments a launch holds of its partition's spill area: quotas, extensions and save areas (R343, R412). -/
def Launch.segments (l : Launch) : Nat :=
  l.quota + (l.ext.map (·.2)).sum + Config.saveAreaKib * l.pages.length

/-- What stays of a stream that its launch leaves open: the pushes that its port holds, which belong to no access any more
and are still written (R209). -/
def Stream.closed (x : Stream) : Stream :=
  { x with closing := true, ended := true, credit := 0, after := [], ahead := [], held := x.held.map fun h => (h.1, 2 ^ 64) }

/-- Closes the streams of a launch that retires, as SCLOSE does (R209): those with held pushes go on under numbers of their
own, the others go. -/
def closeStreams (t : Tab Stream) (id : Nat) : Tab Stream :=
  (t.filter fun e => e.2.launch == id && e.2.mode == .writeQueue && !e.2.held.isEmpty && e.2.faulted.isNone && !e.2.closing).foldl
    (fun t e => tput t (2 ^ 40 + id * 2 ^ 32 + e.1) e.2.closed) (tfilter t fun _ x => x.launch != id || x.closing)

/-- An ingress at its binder's retirement: all of its state is as at reset, but for batches that are not yet taken (R372). -/
def Ingress.unbound (g : Ingress) : Ingress := { arrived := g.arrived }

/-- Frees everything a launch holds on the package (R31): contexts, operators, channels with their tokens, streams,
copies, send lists, spill segments and save areas. -/
def State.freeLaunch (s : State) (id : Nat) : State :=
  let l := s.launchD id
  let s := if l.resident then (s.places l).foldl (fun s p => s.freeSlot p.2.1 p.2.2) s else s
  let placed := l.resident || l.state == .saved
  let s := { s with
    chans := tfilter s.chans fun k _ => k / 65536 != id
    routes := tfilter s.routes fun _ r => r.launch != id
    starts := tfilter s.starts fun k _ => k / 65536 != id
    streams := closeStreams s.streams id
    stops := s.stops.filter fun x => x.launch != id
    mts := tmap s.mts fun _ m => m.freeLaunch id
    mns := tmap s.mns fun _ m => { m with regions := m.regions.filter fun r => r.resident || r.launch != id }
    egress := tmap s.egress fun _ e => { e with lists := e.lists.filter fun x => x.launch != id }
    ingress := tmap s.ingress fun _ g => if g.binder = id then g.unbound else g
    counters := tfilter s.counters fun k _ => !(2 ^ 32 ≤ k && (k - 2 ^ 32) / 4096 / 8 == id) }
  s.unpark.mapPart l.part fun p => { p with
    regs := if placed then { p.regs with panFree := p.regs.panFree + l.segments } else p.regs
    queues := p.queues.map fun q => q.filter (· != id)
    collectives := p.collectives.map fun c => { c with members := c.members.filter fun m => m.launch != id } }

/-! ## Graphs, phases and the job (R37 to R43) -/

/-- Saturating counts of the status word (R39). -/
def satAdd (max a b : Nat) : Nat := min max (a + b)

/-- The status word of R39. -/
def statusWord (completed killed faulted : Nat) : Word :=
  BitVec.ofNat 64 (min 0xFFFF faulted * 2 ^ 48 + min 0xFFFF killed * 2 ^ 32 + min 0xFFFFFFFF completed)

/-- A child's outcome at a counter. -/
def outcomeOf (faulted killed : Nat) : Outcome := if faulted ≠ 0 then .faulted else if killed ≠ 0 then .killed else .completed

/-- A graph has ended: its phase, if it has one, counts it (R39, R41). -/
def State.phaseChild (s : State) (ph : Nat) (o : Outcome) : State :=
  match tfind s.phases ph with
  | none => s
  | some p =>
    if p.counter = 0 then s
    else s.setPhase ph { p with
      counter := p.counter - 1
      completed := p.completed + (if o = .completed then 1 else 0)
      killed := p.killed + (if o = .killed then 1 else 0)
      faulted := p.faulted + (if o = .faulted then 1 else 0) }

/-- A launch of a graph has retired (R31, R39). -/
def State.graphChild (s : State) (g : Nat) (o : Outcome) : State :=
  match tfind s.graphs g with
  | none => s
  | some x =>
    if x.counter = 0 then s
    else
      let x := { x with
        counter := x.counter - 1
        completed := x.completed + (if o = .completed then 1 else 0)
        killed := x.killed + (if o = .killed then 1 else 0)
        faulted := x.faulted + (if o = .faulted then 1 else 0) }
      let s := s.setGraph g x
      match x.phase with
      | some ph => if x.counter = 0 then s.phaseChild ph (outcomeOf x.faulted x.killed) else s
      | none => s

/-- The job ends once it is ending and its last launch has retired: the status word over phases is written and MSI-X
vector 0 sent (R43, R457). Handles stay valid until then (R175). -/
def State.jobSettle (s : State) (part : Nat) : State :=
  let p := s.getPart part
  let live := s.launches.any fun e => e.2.part == part && e.2.state != .retired
  if !(p.job.running && p.job.ending) || live then s
  else
    let j := p.job
    let ph := j.phase.bind (tfind s.phases)
    -- the phase that was running when the job was cancelled counts by its graphs (R39)
    let o := ph.map fun x => outcomeOf x.faulted (x.killed + j.toStart.length)
    let j := { j with
      completed := j.completed + (if o = some Outcome.completed then 1 else 0)
      killed := j.killed + (if o = some Outcome.killed then 1 else 0)
      faulted := j.faulted + (if o = some Outcome.faulted then 1 else 0) }
    let s := s.setPart part { p with
      barred := [], predLate := [], predOld := p.pred
      job := { j with running := false, ending := false, status := statusWord j.completed j.killed j.faulted,
                      phase := none, preload := none, preloadSlots := [], toStart := [], superLaunch := 0, superTrapq := false,
                      ckptHeld := false, ckptCancel := false },
      images := [], wanted := [], collectives := [], trapGive := []
      -- every LIVE tensor slot becomes FREE (R395)
      tensors := tmap p.tensors fun _ x => if x.live then { live := false, gen := x.gen + 1, record := 0 } else x }
    let ours (id : Nat) : Bool := (s.launchD id).part == part
    let s := { s with
      streams := tfilter s.streams fun _ x => !(x.closing && ours x.launch)
      mts := tmap s.mts fun _ m => m.dropCompiles fun c => ours c.launch
      launches := tfilter s.launches fun _ l => l.part != part
      graphs := tfilter s.graphs fun _ g => g.part != part
      phases := tfilter s.phases fun _ x => x.part != part }
    s.msix part 0

/-- Retires one launch with its outcome (R31, R35): its tile buffers change in one step, everything it holds is
freed, and its graph counts it. Its status stays readable. -/
def State.retireOne (s : State) (id : Nat) (o : Outcome) : State :=
  let l := s.launchD id
  if l.state = .retired then s else
  let uses := s.tbufUses l
  let s := uses.foldl (fun s e =>
    match e.2, o with
    | .result, .completed => s.setTbuf l.part e.1 2
    | .result, _ => s.setTbuf l.part e.1 0
    | .consuming, .completed => s.setTbuf l.part e.1 0
    | _, _ => s) s
  let s := s.freeLaunch id
  let s := s.mapLaunch id fun x => { x with state := .retired, outcome := some o, counter := 0, save := [], parkedOn := [] }
  -- without its supervisor, a partition's records go to the host (R420)
  let s := if !l.super then s else s.mapPart l.part fun p =>
    { p with job := { p.job with superLaunch := 0, superTrapq := false }, trapGive := [] }
  s.graphChild l.graph o

/-- The queued launches of the same graph instance that name a result buffer of a launch as an input (R37). -/
def State.dependants (s : State) (id : Nat) : List Nat :=
  let l := s.launchD id
  let results := (s.tbufUses l).filterMap fun e => if e.2 = .result then some e.1 else none
  (s.launches.filter fun e =>
    e.2.state == .queued && e.2.part == l.part && e.2.graph == l.graph &&
    (s.tbufUses e.2).any fun u => u.2 != .result && results.contains u.1).map (·.1)

/-- Declared completion points of a launch's image (R30). -/
def State.declaredEnds (s : State) (l : Launch) : Nat :=
  match s.imageOf l with
  | none => 0
  | some b => (b.tiles.flatMap fun t => t.tasks.map (·.ends)).sum + (b.ops.map (·.ends)).sum

/-- Retires launches with their outcomes, and R37's dependants with them. -/
def State.retireAll : Nat → List (Nat × Outcome) → State → State
  | 0, _, s => s
  | _, [], s => s
  | fuel + 1, (id, o) :: rest, s =>
    let l := s.launchD id
    if l.state = .retired then State.retireAll fuel rest s
    else
      let deps := if o = .completed then [] else s.dependants id
      -- a launch retired while queued counts its declared points as killed (R39, R40)
      let s := if l.state = .queued then s.mapLaunch id fun x => { x with killed := s.declaredEnds l } else s
      State.retireAll fuel (deps.map (fun d => (d, Outcome.killed)) ++ rest) (s.retireOne id o)

/-- Retires a launch, with the dependants R37 names, and ends the job if that was its last. -/
def State.retire (s : State) (id : Nat) (o : Outcome) : State :=
  let part := (s.launchD id).part
  (State.retireAll (2 * s.launches.length + 2 + s.launches.length * s.launches.length) [(id, o)] s).jobSettle part

/-! ## Stops (R408 to R411) -/

/-- Unit numbers of STOP_ACKNOWLEDGE: a kind and an identifier. -/
def unitNo (kind id : Nat) : Nat := kind * 2 ^ 56 + id
def unitKind (u : Nat) : Nat := u / 2 ^ 56
def unitId (u : Nat) : Nat := u % 2 ^ 56

/-- The stop unit of a copy-like command: its memory tile, the context that issued it, and its number. -/
def copyUnit (mt : Nat) (x : Copy) : Nat := unitNo 3 ((mt * 4096 + (cePage x.ce * 4 + ceSlot x.ce)) * 2 ^ 32 + x.seq.toNat)

/-- Phase 1: every compute-element context (kind 1) and operator (kind 2) of the launch. -/
def State.phase1 (s : State) (id : Nat) : List Nat :=
  (s.ce.filter fun e => e.2.launch == id).map (fun e => unitNo 1 e.1) ++
  (s.ops.filter fun e => e.2.launch == id).map (fun e => unitNo 2 e.1)

/-- Phase 2 (R408): copy-like commands (3), matrix-node contexts (4), streams (5), rings (6), convoy send lists (7),
collective members (8), compiles (9). -/
def State.phase2 (s : State) (id : Nat) : List Nat :=
  let l := s.launchD id
  let copies := s.mts.flatMap fun m => (m.2.copies.filter fun c => c.launch == id && (c.state == .pending || c.state == .faulted)).map
    fun c => copyUnit m.1 c
  let nodes := (s.places l).flatMap fun p => (List.range 2).filterMap fun n =>
    let k := p.2.1 * 2 + n
    if (tfind s.mns k).isSome then some (unitNo 4 (k * 4 + p.2.2)) else none
  let streams := (s.streams.filter fun e => e.2.launch == id).map fun e => unitNo 5 e.1
  let rings := (s.chans.filter fun e => e.2.launch == id && e.2.refill != []).map fun e => unitNo 6 e.1
  let sends := (s.egress.filter fun e => e.2.lists.any fun x => x.launch == id).map fun e => unitNo 7 e.1
  let members := (s.getPart l.part).collectives.flatMap fun c => (c.members.filter fun m => m.launch == id).map
    fun m => unitNo 8 ((c.grp * 4096 + m.rank) * 2 ^ 32 + c.seq.toNat)
  let compiles := s.mts.flatMap fun m => (m.2.compiles.filter fun c => c.launch == id).map
    fun c => unitNo 9 (m.1 * 256 + c.dir)
  copies ++ nodes ++ streams ++ rings ++ sends ++ members ++ compiles

/-- A unit that has acknowledged the second phase of its launch's stop does no more (R408, R409). -/
def State.unitStopped (s : State) (launch unit : Nat) : Bool :=
  s.stops.any fun x => x.launch == launch && x.phase == 2 && !x.waiting.contains unit

/-- The second phase of a launch's stop has been sent (R408). -/
def State.stopping2 (s : State) (id : Nat) : Bool := s.stops.any fun x => x.launch == id && x.phase == 2

/-- The stronger of two actions: RETIRE above KILL above SAVE (R410). -/
def StopAction.join : StopAction → StopAction → StopAction
  | .retire, _ | _, .retire => .retire
  | .kill, _ | _, .kill => .kill
  | .save, .save => .save

/-- Starts a stop of a resident launch; a stop already being collected is joined (R410). -/
def State.startStop (s : State) (id : Nat) (a : StopAction) (requeue : Bool := false) (mark : Nat := 0) : State :=
  if s.stopping id then
    { s with stops := s.stops.map fun x => if x.launch = id then { x with action := x.action.join a } else x }
  else { s with stops := s.stops ++ [⟨id, a, 1, s.phase1 id, requeue, mark⟩] }

/-- Completion points of the launch's units not yet reached: those of faulted units, and of the others (R30, R40). -/
def State.pointsLeft (s : State) (id : Nat) : Nat × Nat :=
  let ofBind (b : Binding) : Nat × Nat :=
    if !b.bound then (0, 0) else if b.state = .faulted then (b.ends - b.points, 0) else (0, b.ends - b.points)
  let bs := (s.ce.filter fun e => e.2.launch == id).flatMap fun e => e.2.binds.map ofBind
  let os := (s.ops.filter fun e => e.2.launch == id).map fun e =>
    if e.2.faulted.isSome then (e.2.ends - e.2.points, 0) else (0, e.2.ends - e.2.points)
  ((bs ++ os).map (·.1) |>.sum, (bs ++ os).map (·.2) |>.sum)

/-- Completion points of a saved launch not yet reached. -/
def savedPointsLeft (l : Launch) : Nat × Nat :=
  let ofBind (b : Binding) : Nat × Nat :=
    if !b.bound then (0, 0) else if b.state = .faulted then (b.ends - b.points, 0) else (0, b.ends - b.points)
  let bs := l.save.flatMap fun p => p.ces.flatMap fun e => e.2.binds.map ofBind
  let os := l.save.flatMap fun p => p.ops.map fun e =>
    if e.2.faulted.isSome then (e.2.ends - e.2.points, 0) else (0, e.2.ends - e.2.points)
  ((bs ++ os).map (·.1) |>.sum, (bs ++ os).map (·.2) |>.sum)

/-- Counts completion points toward a launch: completed, killed, faulted. At zero the launch is stopped with RETIRE
(R30, R31, R40); a point that arrives at zero has no effect. -/
def State.countPoints (s : State) (id completed killed faulted : Nat) : State :=
  let l := s.launchD id
  if l.state = .retired ∨ l.counter = 0 ∨ completed + killed + faulted = 0 then s
  else
    -- what arrives at zero has no effect
    let completed := min completed l.counter
    let killed := min killed (l.counter - completed)
    let faulted := min faulted (l.counter - completed - killed)
    let l := { l with
      counter := l.counter - (completed + killed + faulted)
      done := l.done + completed
      killed := l.killed + killed
      faulted := l.faulted + faulted
      anyKill := l.anyKill || killed ≠ 0
      anyFault := l.anyFault || faulted ≠ 0 }
    let s := s.setLaunch id l
    if l.counter = 0 then s.startStop id .retire else s

/-- The outcome of a launch whose counter is zero (R31). -/
def Launch.result (l : Launch) : Outcome := if l.anyFault then .faulted else if l.anyKill then .killed else .completed

/-- A unit of a launch that has a fault stands FAULTED: a binding, an operator, or an engine command or node context, which
have no completion points (R30, R242). -/
def State.faultStands (s : State) (id : Nat) : Bool :=
  let l := s.launchD id
  let ces := (s.ce.filter fun e => e.2.launch == id).map (·.2) ++ l.save.flatMap fun p => p.ces.map (·.2)
  let ops := (s.ops.filter fun e => e.2.launch == id).map (·.2) ++ l.save.flatMap fun p => p.ops.map (·.2)
  let copies := s.mts.flatMap (fun m => m.2.copies.filter fun x => x.launch == id) ++
    l.save.flatMap fun p => p.copies.flatMap (·.2)
  let streams := (s.streams.filter fun e => e.2.launch == id).map (·.2) ++ l.save.flatMap fun p => p.streams.map (·.2)
  let nodes := (s.places l).flatMap (fun p => (List.range 2).map fun n => lget {} (s.getMn (p.2.1 * 2 + n)).ctxs p.2.2) ++
    l.save.flatMap fun p => p.mns.map (·.2)
  (ces.any fun c => c.binds.any fun b => b.bound && b.state == .faulted) || (ops.any fun o => o.faulted.isSome) ||
  (copies.any fun x => x.state == .faulted) || (s.mts.any fun m => m.2.compiles.any fun c => c.launch == id && c.faulted) ||
  (streams.any fun x => x.faulted.isSome && !x.closing) || (nodes.any fun x => x.faulted.isSome) ||
  (s.ingress.any fun e => e.2.binder == id && e.2.faultRow) || (s.chans.any fun e => e.2.launch == id && e.2.lost == 1) ||
  (s.getPart l.part).collectives.any fun c => c.members.any fun m => m.launch == id && m.faulted

/-- Counts every unit not yet ended as killed, or as faulted where it was FAULTED (R40), and retires the launch: faulted if a
unit of it was FAULTED, else killed (R31). -/
def State.killAll (s : State) (id : Nat) : State :=
  let l := s.launchD id
  let (f, k) := if l.state = .saved then savedPointsLeft l else s.pointsLeft id
  let l := if l.counter = 0 then l else
    let f := min f l.counter
    let k := min k (l.counter - f)
    { l with counter := 0, killed := l.killed + k, faulted := l.faulted + f,
             anyKill := true, anyFault := l.anyFault || s.faultStands id }
  (s.setLaunch id l).retire id l.result

/-- Cancels one launch (R40): a queued child retires at once as killed, a saved one is killed from its save, and a
resident one is stopped with KILL. -/
def State.cancelLaunch (s : State) (id : Nat) : State :=
  let l := s.launchD id
  match l.state with
  | .queued => s.retire id .killed
  | .saved => s.killAll id
  | .resident | .parked => s.startStop id .kill
  | .retired => s

/-- Cancels every launch of a list. -/
def State.cancelList (s : State) (ids : List Nat) : State := ids.foldl State.cancelLaunch s

/-- The launches of a graph instance. -/
def State.graphLaunches (s : State) (g : Nat) : List Nat :=
  (s.launches.filter fun e => e.2.graph == g).map (·.1)

/-- Cancels a graph instance (R40). -/
def State.cancelGraph (s : State) (g : Nat) : State := s.cancelList (s.graphLaunches g)

/-- Cancels a phase (R40, R182): one already being cancelled or evaluated is left alone. -/
def State.cancelPhase (s : State) (ph : Nat) : State :=
  match tfind s.phases ph with
  | none => s
  | some p =>
    if p.ending then s
    else
      let gs := (s.graphs.filter fun e => e.2.phase == some ph).map (·.1)
      gs.foldl State.cancelGraph (s.setPhase ph { p with ending := true })

/-- Cancels the running job at job scope (R40, R43): every launch of the partition is cancelled, the supervisor too,
and no phase is evaluated. -/
def State.cancelJob (s : State) (part : Nat) : State :=
  let p := s.getPart part
  if !p.job.running || p.job.ending then s
  else
    let s := s.setPart part { p with job := { p.job with ending := true } }
    let ids := (s.launches.filter fun e => e.2.part == part).map (·.1)
    (s.cancelList ids).jobSettle part

/-- The partition a launch belongs to. -/
def State.partOf (s : State) (id : Nat) : Nat := (s.launchD id).part

/-- Whether a launch is its partition's supervisor (R420). -/
def State.isSuper (s : State) (id : Nat) : Bool := (s.launchD id).super && id != 0

end Sys2Proof.Machine
end

