-- ==== Sys2Proof/Machine/Ops.lean ====
section
/-!
DEFINITION. Sys2Proof/Machine/Ops.lean: the operations every family shares. Channels and endpoints (R15, R339 to R346);
fault records and the trap queue (R416 to R420); TAKING AN EXCEPTION, which on this machine is `State.ceFault` for a
compute element (R28, R187, R417), with the return from one, TRET on a compute element (`State.ceReturn`), beside it;
and the start and end of a block's firing (R27 to R29, R100).
-/

namespace Sys2Proof.Machine

/-! ## Fault records (R416 to R418) -/

/-- The fault classes of R418. -/
inductive FaultClass where
  | illegal | slotWindow | indexRange | accBusy | xlate | protect | align | handle | promiseMiss | quota | memUe
  | linkDown | watchdog | swTrap | breakPoint | gated | config | seqDup | migrate
  deriving DecidableEq, Repr, Inhabited

/-- The class codes of R418. -/
def FaultClass.code : FaultClass → Nat
  | .illegal => 1 | .slotWindow => 2 | .indexRange => 3 | .accBusy => 4 | .xlate => 5 | .protect => 6 | .align => 7
  | .handle => 8 | .promiseMiss => 9 | .quota => 0xA | .memUe => 0xB | .linkDown => 0xC | .watchdog => 0xD
  | .swTrap => 0xE | .breakPoint => 0xF | .gated => 0x10 | .config => 0x11 | .seqDup => 0x12 | .migrate => 0x13

/-- What a raising unit puts in its record (R417); CYCLE and RSEQ are added as it is written. -/
structure Rec where
  cls : FaultClass
  kind : Nat
  ctx : Nat
  xy : Nat
  uref : Word
  slot : Nat := 0
  hdr : Bool := false
  index : Nat := 0
  word : Nat := 0
  addr : Nat := 0
  detail : Nat := 0
  waiting : Nat := 0xE0E0E0E0E0E0E0E0
  aux : Nat := 0

/-- The 64 bytes of a record, with RSEQ zero (R417). -/
def Rec.bits (r : Rec) (cycle : BitVec 64) : BitVec 512 :=
  BitVec.ofNat 64 r.aux ++ cycle ++ BitVec.ofNat 64 r.waiting ++ BitVec.ofNat 64 r.detail ++ BitVec.ofNat 64 r.addr ++
  BitVec.ofNat 64 r.word ++ r.uref ++ BitVec.ofNat 8 r.cls.code ++ BitVec.ofNat 4 r.kind ++ BitVec.ofNat 2 r.ctx ++
  BitVec.ofBool r.hdr ++ BitVec.ofNat 7 r.index ++ BitVec.ofNat 3 r.slot ++ (0 : BitVec 9) ++ BitVec.ofNat 14 r.xy ++
  (0 : BitVec 16)

/-- A unit reference word (R416). -/
def urefWord (ukind lpage tile ctx slot id : Nat) : Word :=
  BitVec.ofNat 4 ukind ++ BitVec.ofNat 9 lpage ++ BitVec.ofNat 4 tile ++ BitVec.ofNat 2 ctx ++ BitVec.ofNat 3 slot ++
  (0 : BitVec 10) ++ BitVec.ofNat 32 id

/-- The coordinate word of a page-local tile of a physical page (R10). -/
def tileXy (page t : Nat) : Nat := let r := routerOf page t; xyWord (rx r) (ry r)

/-- The logical page a physical page is bound to, as records name it; its own number if it is bound to none. -/
def State.lpageOf (s : State) (part pp : Nat) : Nat := (s.logical part pp).getD pp

/-! ## The trap queue (R419, R420, R458) -/

/-- Whether records of the partition go to a supervisor: one is placed and binds a trapq channel, or is queued. -/
def State.superUp (s : State) (part : Nat) : Bool :=
  let j := (s.getPart part).job
  j.superTrapq || (j.superLaunch != 0 && (s.launchD j.superLaunch).state == .queued)

/-- The supervisor's trapq channel (R420). -/
def State.trapChan (s : State) (part : Nat) : Option Nat :=
  (s.chans.find? fun e => e.2.src == .trapq part).map (·.1)

/-- The Drover gives one SCALAR token carrying RSEQ, and holds it until the channel can take it (R420). -/
def State.trapToken (s : State) (part : Nat) (rseq : BitVec 16) : State :=
  let t : Token := ⟨0, rseq.setWidth 1024, 0⟩
  match s.trapChan part with
  | some ch => s.mapChan ch fun c => { c with startq := c.startq ++ [t] }
  | none => s.mapPart part fun p => { p with trapGive := p.trapGive ++ [t] }

/-- A record enters the queue: it takes the next RSEQ, and the supervisor or the host is told (R419, R420, R458). -/
def State.enterRecord (s : State) (part : Nat) (own : Bool) (bits : BitVec 512) : State :=
  let p := s.getPart part
  let toSuper := !own && s.superUp part
  let s := s.setPart part { p with
    traps := p.traps ++ [(own, bits ||| p.rseq.setWidth 512)]
    rseq := p.rseq + 1 }
  if toSuper then s.trapToken part p.rseq
  else if p.traps.isEmpty then s.msix part 1 else s

/-- A record's CYCLE (R417). -/
def recordCycle (b : BitVec 512) : BitVec 64 := b.extractLsb' 384 64

/-- A record's place among those of its cycle: by physical page, then tile, then context slot, from its XY and CTX (R417, R419). -/
def recordPlace (b : BitVec 512) : Nat :=
  let x := (b.extractLsb' 16 7).toNat
  let y := (b.extractLsb' 24 6).toNat
  (((y / 4 * 32 + x / 4) * 4 + y % 4) * 4 + x % 4) * 4 + (b.extractLsb' 50 2).toNat

/-- A record's RSEQ (R417). -/
def recordRseq (b : BitVec 512) : BitVec 16 := b.extractLsb' 0 16

/-- A record with another RSEQ. -/
def withRseq (b : BitVec 512) (n : BitVec 16) : BitVec 512 := b.extractLsb' 16 496 ++ n

/-- The records at the end of a queue that are written in the cycle of a record and stand after it (R419). -/
def laterRecords (es : List (Bool × BitVec 512)) (b : BitVec 512) : Nat :=
  (es.reverse.takeWhile fun e => recordCycle e.2 == recordCycle b && recordPlace b < recordPlace e.2).length

/-- A record enters the queue among those of its own cycle: it stands before the ones that R419 puts after it, which take
the RSEQ after theirs. -/
def State.placeRecord (s : State) (part : Nat) (own : Bool) (bits : BitVec 512) : State :=
  let n := laterRecords (s.getPart part).traps bits
  (s.enterRecord part own bits).mapPart part fun q =>
    let m := q.traps.length - (n + 1)
    let moved := (List.range n).map fun i =>
      let e := lget default q.traps (m + i)
      (e.1, withRseq e.2 (recordRseq e.2 + 1))
    if n = 0 then q else { q with traps := q.traps.take m ++ (own, withRseq bits (q.rseq - BitVec.ofNat 16 (n + 1))) :: moved }

/-- Writes a fault record (R417, R419): 512 places, 16 more for the supervisor's own units, and one further place for
them that also interrupts the host and cancels the job; a record that finds no place waits. -/
def State.record (s : State) (part : Nat) (own : Bool) (r : Rec) : State :=
  let p := s.getPart part
  let n := (p.traps.filter fun e => e.1 == own).length
  let bits := r.bits s.cycle
  if own then
    if n < Config.trapSuperPlaces then s.placeRecord part own bits
    else if n = Config.trapSuperPlaces then ((s.placeRecord part own bits).msix part 1).cancelJob part
    else s.setPart part { p with trapWait := p.trapWait ++ [(own, bits)] }
  else if p.trapWait.isEmpty && n < Config.trapPlaces then s.placeRecord part own bits
  else
    -- records of one cycle wait in their order, too
    let m := p.trapWait.length - laterRecords p.trapWait bits
    s.setPart part { p with trapWait := p.trapWait.take m ++ (own, bits) :: p.trapWait.drop m }

/-- Takes the oldest record off the queue (R186). -/
def State.popRecord (s : State) (part : Nat) : Option (BitVec 512) × State :=
  let p := s.getPart part
  match p.traps with
  | [] => (none, s)
  | (_, b) :: rest => (some b, s.setPart part { p with traps := rest })

/-- Whether a record of a unit still waits for a place (R40, R410, R419). -/
def State.recordWaits (s : State) (part : Nat) (uref : Word) : Bool :=
  (s.getPart part).trapWait.any fun e => e.2.extractLsb' 64 64 == uref

/-! ## Channels and endpoints (R15, R339 to R346) -/

/-- The channel with a key, or an empty one. -/
def State.chanD (s : State) (ch : Nat) : Chan := (tfind s.chans ch).getD default

/-- The channel of input n, and of output n, of a context. -/
def CeCtx.inCh (c : CeCtx) (n : Nat) : Option Nat := (lget {} c.ins n).ch
def CeCtx.outCh (c : CeCtx) (n : Nat) : Option Nat := (lget {} c.outs n).ch

/-- The filled slots of an endpoint. -/
def State.filled (s : State) : Option Nat → List Token
  | none => []
  | some ch => (s.chanD ch).endq

/-- TASK_TRIGGER (R25): an IDLE binding whose trigger channel holds a token becomes RUNNABLE at its first block, with
an empty return stack. -/
def State.trigger (s : State) (k : Nat) : State :=
  s.mapCe k fun c => { c with binds := c.binds.map fun b =>
    if b.bound && b.state == .idle && (s.filled (c.inCh b.trigger)) != [] then
      { b with state := .runnable, pc := b.entry, stack := [] } else b }

/-- Triggers the bindings of a channel's consumer, when that is a compute element. -/
def State.triggerDst (s : State) (ch : Nat) : State :=
  match (s.chanD ch).dst with
  | .ceIn k _ => s.trigger k
  | _ => s

/-- The page of a router. -/
def routerPage (r : Nat) : Nat := ry r / 4 * 32 + rx r / 4

/-- The physical page and context slot of the launch on the image page that binds a channel to convoy.in0 (R362). -/
def State.convoyPlace (s : State) (c : Chan) : Nat × Nat :=
  let l := s.launchD c.launch
  match (s.imageOf l).bind fun b => b.chans[c.num]? with
  | some ⟨_, .convoyIn g, _, _, _, _, _⟩ => ((s.phys l.part (l.pages.getD g 0)).getD 0, l.slots.getD g 0)
  | _ => (0, c.ctx)

/-- The physical page and context slot of a channel's consumer (R343). -/
def State.consumer (s : State) (ch : Nat) : Nat × Nat :=
  match (s.chanD ch).dst with
  | .ceIn k _ => (cePage k, ceSlot k)
  | .op k _ => (routerPage (k / 32), k / 8 % 4)
  | .mnIn m c _ => (m / 2, c)
  | .mtIn m c _ => (m / 2, c)
  | _ => s.convoyPlace (s.chanD ch)

/-- Room of a ring (R345): four tokens for every segment, less those it and its refill buffer hold. -/
def Chan.room (c : Chan) : Nat := 4 * c.segs - c.ring.length - c.refill.length

/-- The entries of a ring, each as segment × 4 + place, and the lowest that no token holds (R343; log entry 115). -/
def Chan.slots (c : Chan) : List Nat := c.held.flatMap fun g => (List.range 4).map fun i => 4 * g + i
def Chan.freeEntry (c : Chan) : Nat := (c.slots.find? fun e => !c.entries.contains e).getD 0

/-- A token that arrives enters the endpoint: the ring holds none, and a slot is free (R344). -/
def Chan.direct (c : Chan) : Bool := c.ring.isEmpty && c.refill.isEmpty && c.endq.length < c.depth

/-- A token enters its input endpoint, or is diverted to its ring (R339, R344). -/
def State.arrive (s : State) (ch : Nat) (t : Token) : State :=
  let c := s.chanD ch
  if c.direct then
    (s.setChan ch { c with endq := c.endq ++ [t], arrived := c.arrived ++ [s.cycle.toNat] }).triggerDst ch
  else
    let (pg, x) := s.consumer ch
    (s.setChan ch { c with ring := c.ring ++ [t], entries := c.entries ++ [c.freeEntry] }).countPage pg x 0x120 1

/-- n tokens are freed at the consumer: their credit starts back to the producer (R340). -/
def State.freeTokens (s : State) (ch n : Nat) : State :=
  s.mapChan ch fun c => { c with
    endq := c.endq.drop n
    freed := c.freed + min n c.endq.length
    arrived := c.arrived.drop n }

/-- Takes the head token of an endpoint. -/
def State.takeHead (s : State) (ch : Nat) : Option Token × State :=
  ((s.chanD ch).endq.head?, s.freeTokens ch 1)

/-- A producer with credit: a compute element. Router operators and engines have none (R340, R341). -/
def Chan.credited (c : Chan) : Bool := match c.src with | .ceOut _ _ => true | _ => false

/-- Tokens a producer publishes on a channel wait at its start for the first hop, in order (R340). -/
def State.publish (s : State) (ch : Nat) (ts : List Token) : State :=
  s.mapChan ch fun c => { c with startq := c.startq ++ ts, credit := if c.credited then c.credit - ts.length else c.credit }

/-- Room in the endpoint buffer of an engine, which holds the channel's depth (R338, R341). -/
def State.engineRoom (s : State) (ch : Nat) : Nat := (s.chanD ch).depth - (s.chanD ch).startq.length

/-- The free slots of an output endpoint past its producer pointer (R340): the lesser of the credit and the staging
slots not awaiting departure, less the slots that order-outs have reserved (R283). -/
def State.freeSlots (s : State) (o : OutEp) : Nat :=
  match o.ch with
  | none => 0
  | some ch =>
    let c := s.chanD ch
    min (c.credit - o.orders.length) (c.depth - c.startq.length - o.orders.length)

/-- PADV's move of n: slots leave in order with their kinds and are reset to SCALAR 0 (R165, R167, R340). -/
def State.moveOut (s : State) (k j n : Nat) : State :=
  let c := s.getCe k
  let o := lget {} c.outs j
  match o.ch with
  | none => s
  | some ch =>
    let ts := (List.range n).map fun i => tget default o.stage i
    let rest := (o.stage.filter fun e => n ≤ e.1).map fun e => (e.1 - n, e.2)
    let depth := max 1 (s.chanD ch).depth
    (s.setCe k { c with outs := c.outs.set j { o with stage := rest, ptr := (o.ptr + n) % depth } }).publish ch ts

/-- ADV's move of n (R167, R339). -/
def State.moveIn (s : State) (k i n : Nat) : State :=
  let c := s.getCe k
  let e := lget {} c.ins i
  match e.ch with
  | none => s
  | some ch =>
    let depth := max 1 (s.chanD ch).depth
    (s.setCe k { c with ins := c.ins.set i { e with ptr := (e.ptr + n) % depth } }).freeTokens ch n

/-- Applies the pointer moves of a firing, in index order, and forgets them; `pub` keeps what a later part of the same
firing must know (R28). -/
def State.applyMoves (s : State) (k : Nat) : State :=
  let f := (s.getCe k).fir
  let s := f.advMoves.foldl (fun s m => s.moveIn k m.1 m.2) s
  let s := f.padvMoves.foldl (fun s m => s.moveOut k m.1 m.2) s
  s.mapCe k fun c => { c with fir := { c.fir with
    advMoves := [], padvMoves := []
    published := f.padvMoves.foldl (fun t m => tadd t m.1 m.2) c.fir.published } }

/-! ## Taking an exception on a compute element (R28, R187, R417) -/

/-- The running instruction's word. -/
def Firing.word (f : Firing) : Word := lget 0 f.block.words f.idx

/-- WAITING of R417: the head kind and the count of each bound input. -/
def State.waitingWord (s : State) (c : CeCtx) : Nat :=
  (List.range 8).foldl (fun acc i =>
    let b := match c.inCh i with
      | none => 0xE0
      | some ch => let q := (s.chanD ch).endq; (lget default q 0).kind * 32 + min 31 q.length
    acc + b * 2 ^ (8 * i)) 0

/-- The unit reference word of a task binding. -/
def State.ceUref (k bind : Nat) (c : CeCtx) : Word :=
  urefWord 1 c.lpage (ceTile (ceElem k)) (ceSlot k) bind 0

/-- A record of a compute element's binding. -/
def State.ceRecord (s : State) (k bind : Nat) (cls : FaultClass) (addr detail : Nat) (index : Nat := 0)
    (hdr : Bool := false) (word : Nat := 0) : State :=
  let c := s.getCe k
  s.record c.part (s.isSuper c.launch)
    { cls := cls, kind := 0, ctx := ceSlot k, xy := ceXy k, uref := State.ceUref k bind c, slot := bind, hdr := hdr,
      index := index, word := word, addr := addr, detail := detail, waiting := s.waitingWord c }

/-- TAKES AN EXCEPTION: the running instruction, at index n, raises a fault. Every side effect below n stands, with the
pointer moves applied up to n − 1, and nothing of n or above happens (R28); the firing is kept as the binding's residue,
the binding becomes FAULTED with its program counter at this block (R25, R26, R187), and a record naming n is written
(R417). -/
def State.ceFault (s : State) (k : Nat) (cls : FaultClass) (addr detail : Nat) : State :=
  let s := s.applyMoves k
  let f := (s.getCe k).fir
  let s := s.mapCe k fun c => { c with
    fir := { f with hold := .none, skip := false }
    binds := lmod c.binds f.bind fun b => { b with state := .faulted, retry := false } }
  s.ceRecord k f.bind cls addr detail f.idx false f.word.toNat

/-- RETURNS FROM AN EXCEPTION: TRET's effect on a faulted compute-element binding (R187). Retry executes the instruction
again; skip runs it with a false guard; a block rejected at fetch is refetched on retry, and skip leaves it as it is; a
PROMISE_MISS binding waits for its copy again on retry, and on skip goes on. -/
def CeCtx.returned (c : CeCtx) (bind : Nat) (skip : Bool) : CeCtx :=
  let b := lget {} c.binds bind
  let residue := c.fir.active && c.fir.bind == bind
  if residue then
    { c with
      fir := { c.fir with skip := skip }
      binds := lmod c.binds bind fun b => { b with state := .runnable } }
  else if b.retry then
    { c with binds := lmod c.binds bind fun b =>
      if skip then { b with state := .runnable, wait := .none, retry := false }
      else { b with state := .sleeping, retry := false } }
  else if skip then c
  else { c with binds := lmod c.binds bind fun b => { b with state := .runnable } }

/-- A binding that faulted at its fetch: it has no residue, and waits for no copy. TRET skip does not act on it (R187). -/
def CeCtx.atFetch (c : CeCtx) (bind : Nat) : Bool := !(c.fir.active && c.fir.bind == bind) && !(lget {} c.binds bind).retry

/-- The return from an exception on a context of the package. -/
def State.ceReturn (s : State) (k bind : Nat) (skip : Bool) : State := s.mapCe k fun c => c.returned bind skip

/-! ## Fetching and firing a block (R27 to R29, R94 to R101) -/

/-- The instruction-store address of an offset of a context's window (R466). -/
def istoreAddr (k : Nat) (c : CeCtx) (off : Nat) : Nat := (cePage k * 16 + ceElem k) * 2 ^ 16 + c.winBase + off

/-- Header fields (R94). -/
def hdrCount (h : BitVec 128) : Nat := natBits h.toNat 123 117 + 1
def hdrWait (h : BitVec 128) (i : Nat) : Nat := natBits h.toNat (69 + 6 * i) (64 + 6 * i)
def hdrFree (h : BitVec 128) (j : Nat) : Nat := natBits h.toNat (21 + 6 * j) (16 + 6 * j)

/-- What the fetch checks across a block read from a word of a legal opcode, as raw fields: its source fields in slot
order (X has slots a and b, I has a only; R83), its target fields, its order-out field, and the output channel and offset
it names by IMM19 or SUB (R164, R167). -/
structure Shape where
  srcs : List (BitVec 9)
  tgts : List (BitVec 11)
  oo : BitVec 5 := 0
  send : Option (Nat × Nat) := none
  padv : Option Nat := none

/-- The shape of a word, by its opcode's format (R98); none where the opcode is illegal in a block (R99). -/
def shape (w : Word) : Option Shape :=
  let op := (fld w 56 8).toNat
  if typeRow w = some 4 then none else
  match fmtOf w with
  | .c => none
  | .i => some { srcs := [fld w 40 9], tgts := [fld w 11 11, fld w 0 11] }
  | .t => some { srcs := [fld w 40 9, fld w 31 9, fld w 22 9], tgts := [fld w 11 11, fld w 0 11] }
  | .m => some { srcs := [fld w 34 9, fld w 25 9, fld w 16 9], tgts := [fld w 5 11], oo := fld w 0 5 }
  | .x =>
    let imm := (fld w 0 19).toNat
    some { srcs := [fld w 39 9, fld w 30 9], tgts := [fld w 19 11],
           send := if op == 0x70 || op == 0x73 || op == 0x76 || op == 0x77 then
             some (natBits imm 6 4, natBits imm 3 0) else none,
           padv := if op == 0x72 then some ((fld w 48 8).toNat % 8) else none }

/-- The targets of a shape that name something. -/
def Shape.named (x : Shape) : List Tgt := x.tgts.filterMap fun t => match decTgt t with | .ok y => some y | .error _ => none

/-- The slots that a word's targets name. -/
def Shape.slots (x : Shape) : List (Nat × Nat) :=
  x.named.filterMap fun t => match t with | .slot i sl => some (i.toNat, SlotName.no sl) | _ => none

/-- The output channels and offsets an instruction writes by targets and by IMM19 (R164). -/
def Shape.outs (x : Shape) : List (Nat × Nat) :=
  (x.named.filterMap fun t => match t with | .out j off => some (j.toNat, off.toNat) | _ => none) ++ x.send.toList

/-- The channel an order-out field names (R87). -/
def Shape.order (x : Shape) : Option Nat :=
  match decOO x.oo with | .ok (some j) => some j.toNat | _ => none

/-- Whether a register target is declared by the header (R94). -/
def tgtDeclared (h : BitVec 128) : Tgt → Bool
  | .s n => h.getLsbD (8 + n.toNat)
  | .w n => h.getLsbD (112 + n.toNat)
  | .p _ => h.getLsbD 116
  | _ => true

/-- The rows Slots, Registers and Channels of R100, and the part of Fields that another instruction decides, for
instruction n of a block; `reg` says that it writes a k or special register. -/
def blockRow (h : BitVec 128) (sh : List (Option Shape)) (n : Nat) (x : Shape) (reg : Bool) : Option Nat :=
  let all : List (Nat × Shape) := (List.range sh.length).filterMap fun i => (lget none sh i).map fun x => (i, x)
  let srcOf (i sl : Nat) : Option (BitVec 9) := (lget none sh i).bind fun y => y.srcs[sl]?
  let isSlot (v : Option (BitVec 9)) : Bool := match v with | some v => v.extractLsb' 7 2 == 0 | none => false
  -- Fields: a slot that the named instruction does not have, or whose source is not of class SLOT (R83)
  if x.slots.any (fun e => n < e.1 && !isSlot (srcOf e.1 e.2)) then some 6
  -- Slots (R83): an earlier or the same instruction, a slot named twice, a SLOT source with no producer
  else if x.slots.any (fun e => e.1 ≤ n) then some 7
  else if x.slots.any (fun e => 1 < ((all.flatMap fun y => y.2.slots).filter (· == e)).length) then some 7
  else if (List.range x.srcs.length).any (fun sl => isSlot x.srcs[sl]? &&
    !(all.any fun y => y.1 < n && y.2.slots.contains (n, sl))) then some 7
  -- Registers (R94)
  else if reg || x.named.any (fun t => !tgtDeclared h t) then some 8
  -- Channels (R87, R95)
  else if x.srcs.any (fun y => y.extractLsb' 7 2 == 2 &&
    hdrWait h (y.extractLsb' 4 3).toNat ≤ (y.extractLsb' 0 4).toNat) then some 9
  else if x.outs.any (fun o => hdrFree h o.1 ≤ o.2) then some 9
  else
    let orders (j : Nat) := (all.filter fun y => y.2.order == some j).map (·.1)
    let writes (j : Nat) := all.any fun y => y.2.outs.any (·.1 == j) || y.2.padv == some j
    let clash (j : Nat) := orders j != [] && writes j
    if (match x.order with
        | some j => clash j || (((orders j).drop (hdrFree h j)).contains n)
        | none => false) then some 9
    else if (x.outs.map (·.1) ++ x.padv.toList).any clash then some 9
    else none

/-- The first row of R100's table that instruction n of a block fails, if any. The order of the rows decides where an
instruction fails several (log entry 9). -/
def insRow (h : BitVec 128) (ws : List Word) (n : Nat) : Option Nat :=
  let w := lget 0 ws n
  let sh := ws.map shape
  match lget none sh n with
  | none => some 4
  | some x =>
    match ceWord w with
    | .ok _ => blockRow h sh n x false
    | .error e => if e.row < 8 then some e.row else blockRow h sh n x true

/-- Why a block is rejected at fetch (R100, R101): the failing row, and the instruction, or none for the header. -/
structure Reject where
  row : Nat
  index : Option Nat

/-- The checks of R100 on a header and the bytes of its words. `bound out i need` says that the header may ask for `need`
slots of input (output) i. -/
def checkBlock (bound : Bool → Nat → Nat → Bool) (h : BitVec 128) (bytes : List Byte) : Except Reject (List Word) :=
  let n := hdrCount h
  if natBits h.toNat 127 124 ≠ 5 ∨ !((List.range 8).all fun i => bound false i (hdrWait h i) && bound true i (hdrFree h i)) then
    .error ⟨2, none⟩
  else if (bytes.map (·.toNat)).sum % 256 ≠ natBits h.toNat 7 0 then .error ⟨3, none⟩
  else
    let ws := (List.range n).map fun i => BitVec.ofNat 64 (natOfBytes ((bytes.drop (8 * i)).take 8))
    match (List.range n).findSome? fun i => (insRow h ws i).map fun r => (r, i) with
    | some (r, i) => .error ⟨r, some i⟩
    | none => .ok ws

/-- BLOCK_FETCH_CHECK (R100, R101): the block at an address, or why it is rejected. -/
def State.fetch (s : State) (k pc : Nat) : Except Reject Decoded :=
  let c := s.getCe k
  if 0xFFF0 < pc ∨ pc % 16 ≠ 0 ∨ c.winSize < pc + 16 then .error ⟨1, none⟩
  else
    let h := BitVec.ofNat 128 (s.istore.readNat (istoreAddr k c pc) 16)
    let n := hdrCount h
    let bound (out : Bool) (i need : Nat) : Bool :=
      need == 0 || (match (if out then c.outCh i else c.inCh i) with | none => false | some k => need ≤ (s.chanD k).depth)
    if c.winSize < pc + 16 * (1 + (n + 1) / 2) then .error ⟨1, none⟩
    else
      match checkBlock bound h (s.istore.readBytes (istoreAddr k c (pc + 16)) (8 * n)) with
      | .error r => .error r
      | .ok ws => .ok ⟨pc, h, ws⟩

/-- The element holds its fetches: a copy of its launch into its window has written and is not complete (R299). -/
def State.codeHold (s : State) (k : Nat) : Bool :=
  let c := s.getCe k
  s.mts.any fun e => e.2.copies.any fun x =>
    x.launch == c.launch && x.kind == .copy && x.done != 0 && (x.state == .pending || x.state == .faulted) &&
    natBits x.dst.toNat 63 62 == 2 && natBits x.dst.toNat 29 21 == c.lpage && natBits x.dst.toNat 19 16 == ceElem k

/-- The block a binding stands at: a decoded block is used until it is flushed (R101, R299). -/
def State.blockOf (s : State) (k pc : Nat) : Except Reject Decoded :=
  match (s.getCe k).dec.find? fun d => d.address == pc with
  | some d => .ok d
  | none => s.fetch k pc

/-- R27: every WAIT and FREE of the header is met. -/
def State.blockReady (s : State) (k : Nat) (h : BitVec 128) : Bool :=
  let c := s.getCe k
  (List.range 8).all fun i =>
    hdrWait h i ≤ (s.filled (c.inCh i)).length && hdrFree h i ≤ (if hdrFree h i = 0 then 0 else s.freeSlots (lget {} c.outs i))

/-- The context is stopped by an error on a channel it consumes, or by a token on a way without a channel (R18, R348, R400). -/
def State.chanStops (s : State) (page ctx : Nat) : Bool :=
  (s.chans.any fun e => (e.2.lost != 0 || e.2.stuckAt.isSome) && s.consumer e.1 == (page, ctx)) ||
  (s.ce.any fun e => !e.2.heldAccs.isEmpty && cePage e.1 == page && ceSlot e.1 == ctx) ||
  s.ops.any fun e => e.2.stuck.isSome && routerPage (e.1 / 32) == page && e.1 / 8 % 4 == ctx

/-- A context may start blocks and operator firings: its page serves it, it is the active slot and nothing drains, its
launch is resident, not parked and not being stopped, no tile entry of it waits to be restored, no channel error stops it,
and its page's turn is not withheld (R18, R44, R277, R348, R354, R391, R408, R464). -/
def State.mayFire (s : State) (page ctx launch : Nat) : Bool :=
  let p := s.getPage page
  launch != 0 && !s.chanStops page ctx && !(s.cycle.toNat % 256 < s.dev.withheld) && !p.clearing && p.active == ctx && !p.drain && (s.launchD launch).state == .resident &&
    !s.stopping launch && !(s.mns.any fun e => e.2.restores.any fun r => r.ctx == page * 4 + ctx)

/-- The binding that would fire next: the first RUNNABLE one from `next`, round-robin, whose block is fireable or is
rejected at fetch (R25, R29). -/
def State.nextBinding (s : State) (k : Nat) : Option (Nat × Except Reject Decoded) :=
  let c := s.getCe k
  ((List.range 4).map fun i => (c.next + i) % 4).findSome? fun i =>
    let b := lget {} c.binds i
    if b.bound && b.state == .runnable && !(!(c.dec.any fun d => d.address == b.pc) && s.codeHold k) then
      match s.blockOf k b.pc with
      | .error r => some (i, .error r)
      | .ok d => if s.blockReady k d.header then some (i, .ok d) else none
    else none

/-- A context slot has a block that would fire, or a block that goes on after TRET or a resume (R44). -/
def State.ceFireable (s : State) (k : Nat) : Bool :=
  let c := s.getCe k
  if c.fir.active then (lget {} c.binds c.fir.bind).state == .runnable else (s.nextBinding k).isSome

/-- A block fires: the input tokens within its WAIT counts are read as they stand (R28), and it is kept decoded. -/
def State.fire (s : State) (k bind : Nat) (d : Decoded) : State :=
  s.mapCe k fun c => { c with
    binds := lmod c.binds bind fun b => { b with state := .firing }
    dec := if c.dec.any (fun x => x.address == d.address) then c.dec else c.dec ++ [d]
    waited := 0
    watched := false
    fir := { active := true, bind := bind, block := d, cycle := s.cycle.toNat,
             toks := (List.range 8).map fun i => (s.filled (c.inCh i)).take (hdrWait d.header i) } }

/-- A block is rejected at fetch: an ILLEGAL record, and the binding FAULTED at that block (R101). -/
def State.rejectBlock (s : State) (k bind : Nat) (r : Reject) : State :=
  let c := s.getCe k
  let pc := (lget {} c.binds bind).pc
  let s := s.mapCe k fun c => { c with binds := lmod c.binds bind fun b => { b with state := .faulted, retry := false } }
  -- a header outside the window has no word to name (log entry 99)
  let word := match r.index with
    | some i => s.istore.readNat (istoreAddr k c (pc + 16 + 8 * i)) 8
    | none => if c.winSize < pc + 16 then 0 else s.istore.readNat (istoreAddr k c (pc + 8)) 8
  s.ceRecord k bind .illegal 0 r.row (r.index.getD 0) r.index.isNone word

/-! ## Waits (R172, R173, R178) -/

/-- The status word of the counter a handle names, once it is zero (R39, R178). -/
def State.joinStatus (s : State) (h : Word) : Option Word :=
  match handleKind h with
  | 1 => match tfind s.launches (handleId h) with
    | some l => if l.state = .retired ∨ (l.counter = 0 ∧ l.state ≠ .queued) then some (statusWord l.done l.killed l.faulted) else none
    | none => none
  | 2 => match tfind s.graphs (handleId h) with
    | some g => if g.counter = 0 then some (statusWord g.completed g.killed g.faulted) else none
    | none => none
  | 3 => match tfind s.phases (handleId h) with
    | some p => if p.counter = 0 then some (statusWord p.completed p.killed p.faulted) else none
    | none => none
  | _ => none

/-- A wait ends: the s register, if the wait names one, takes the value, and the binding is RUNNABLE (R178, R180,
R266). -/
def State.wake (s : State) (k bind : Nat) (give : Option (BitVec 3 × Word)) : State :=
  s.mapCe k fun c => { c with
    binds := lmod c.binds bind fun b => { b with state := .runnable, wait := .none }
    regs := match give with
      | some (n, v) => { c.regs with s := c.regs.s.setIfInBounds n.toNat v }
      | none => c.regs }

/-! ## The end of a block (R28, R29, R48) -/

/-- A block offset of IMM19 (R91): a target below the window keeps a number that no fetch accepts. -/
def blockTarget (pc : Nat) (imm : BitVec 19) : Nat := lowBits ((pc : Int) + 16 * imm.toInt) 24

/-- The sequential next block (R29). -/
def Decoded.nextPc (d : Decoded) : Nat := d.address + 16 * (1 + (d.words.length + 1) / 2)

/-- NEXT_BLOCK_CHOICE (R29, R169): the binding after a firing without TEND. -/
def nextBlock (f : Firing) (b : Binding) : Binding :=
  match f.target with
  | some (t, true) => { b with pc := t, stack := f.block.nextPc :: b.stack }
  | some (t, false) => { b with pc := t }
  | none =>
    if f.ret then { b with pc := lget 0 b.stack 0, stack := b.stack.drop 1 }
    else { b with pc := f.block.nextPc }

/-- PSET's writes reach the predicate network as the block ends (R181). -/
def predAfter (q : BitVec 16) (ws : List (Nat × Nat × Bool)) : BitVec 16 :=
  ws.foldl (fun q w =>
    let old := q.getLsbD w.1
    let new := match w.2.1 with | 1 => old || w.2.2 | 2 => old && w.2.2 | _ => w.2.2
    if new then q ||| BitVec.twoPow 16 w.1 else q &&& ~~~(BitVec.twoPow 16 w.1)) q

/-- The launch parks if a fill that a WRES.park of the block saw is still FILLING (R249). -/
def State.parkLaunch (s : State) (launch : Nat) (fills : List (Nat × Nat × Nat × BitVec 32)) : State :=
  match fills.filter s.filling with
  | [] => s
  | fs =>
    if (s.launchD launch).resident then s.mapLaunch launch fun l => { l with state := .parked, parkedOn := l.parkedOn ++ fs } else s

/-- The order in which PSET writes of one cycle apply: by physical page, tile index and context slot (R181). -/
def psetKey (k : Nat) : Nat := cePage k * 64 + ceTile (ceElem k) * 4 + ceSlot k

/-- A context's PSET writes reach the predicate network in this cycle: with those that came earlier in it, in the order of
R181, they apply to the predicates as they stood before it. -/
def Partition.psets (p : Partition) (k : Nat) (ws : List (Nat × Nat × Bool)) : Partition :=
  if ws.isEmpty then p
  else
    let old := if p.predLate.isEmpty then p.pred else p.predOld
    let late := (p.predLate.takeWhile fun e => e.1 ≤ psetKey k) ++ [(psetKey k, ws)] ++ (p.predLate.dropWhile fun e => e.1 ≤ psetKey k)
    { p with predOld := old, predLate := late, pred := late.foldl (fun q e => predAfter q e.2) old }

/-- A firing's PSET writes would reach the network in a cycle whose phase evaluation they had to precede (R437): its block ends in a
later cycle. -/
def State.psetLate (s : State) (part : Nat) (f : Firing) : Bool :=
  !f.psets.isEmpty && (s.getPart part).evalAt == some s.cycle.toNat

/-- The end of a block: pointer moves, predicates and order-outs of false guards take effect, the next block is chosen,
a wait or a turn's end is set, and last of all a TEND's completion point is counted (R26, R28, R29, R170 to R173). -/
def State.blockEnd (s : State) (k : Nat) : State :=
  let f := (s.getCe k).fir
  let s := s.applyMoves k
  let c := s.getCe k
  let s := s.mapPart c.part fun p => p.psets k f.psets
  let b := lget {} c.binds f.bind
  let b := if f.tend then
      { b with state := .idle, stack := [], wait := .none, points := b.points + 1 }
    else
      let b := nextBlock f b
      match f.waitSet, f.wait with
      | true, .cycles 0 => { b with state := .runnable, wait := .none }
      | true, w => { b with state := .sleeping, wait := w }
      | false, _ => { b with state := .runnable, wait := .none }
  let s := s.setCe k { c with
    binds := c.binds.set f.bind b
    next := (f.bind + 1) % 4
    fir := {}
    outs := c.outs.map fun o => { o with orders := o.orders.map fun r =>
      { r with performed := r.performed || !(c.pend.any fun a => a.id == r.acc) } } }
  let s := match b.wait with
    | .join h tgt => (match s.joinStatus h with | some v => s.wake k f.bind (some (tgt, v)) | none => s)
    | _ => s
  let s := if f.yield then s.mapPage (cePage k) fun p =>
    if p.active = ceSlot k then { p with yielded := true } else p else s
  let s := s.parkLaunch c.launch f.park
  let s := s.trigger k
  if f.tend then s.countPoints c.launch 1 0 0 else s

/-- BLOCK_FIRING on a context: a firing at its last instruction's end ends; a residue that TRET or a resume made
RUNNABLE goes on; otherwise the next fireable block fires (R25, R28, R187). -/
def State.blockFiring (s : State) (k : Nat) : State :=
  let c := s.getCe k
  if c.fir.active then
    match (lget {} c.binds c.fir.bind).state with
    | .firing => if c.fir.block.words.length ≤ c.fir.idx && !s.psetLate c.part c.fir then s.blockEnd k else s
    | .runnable =>
      if s.mayFire (cePage k) (ceSlot k) c.launch then
        s.setCe k { c with binds := lmod c.binds c.fir.bind fun b => { b with state := .firing }, waited := 0, watched := false }
      else s
    | _ => s
  else if s.mayFire (cePage k) (ceSlot k) c.launch then
    match s.nextBinding k with
    | some (i, .ok d) => s.fire k i d
    | some (i, .error r) => s.rejectBlock k i r
    | none => s
  else s

end Sys2Proof.Machine
end

