-- ==== Sys2Proof/Machine/Access.lean ====
section
/-!
DEFINITION. Sys2Proof/Machine/Access.lean: memory. Addresses and translation (R192 to R194, R301 to R303, R402, R403),
scope records (R197, R273, R291, R292), line and sector operations (R269, R272, R304), and how an access of a task is
issued, sent in the order of its stream, and performed (R195, R202, R288, R289).
-/

namespace Sys2Proof.Machine

/-- A fault that a check raises. -/
structure Err where
  cls : FaultClass
  addr : Nat
  detail : Nat := 0

/-- The result of a check: a value, a fault, or `none` where the access must wait. -/
abbrev Try (α : Type) := Except (Option Err) α

/-! ## Scratchpad addresses (R192, R425) -/

/-- The running context's launch is being stopped. The stop, and so the move that asks for it, waits until the context's accesses
are performed: a moving page holds none of them, and they go to the page it leaves (R196, R425, R432; log entry 48). -/
def State.leaving (s : State) : Bool :=
  match s.cur with
  | .ce k => s.stopping (s.getCe k).launch
  | _ => false

/-- The memory tile and offset of a scratchpad address, checked in the order of R192. A page being moved holds the
access (R425), and so does a page that is not cleared yet for its new owner (R277). -/
def State.scratchAt (s : State) (part a size : Nat) : Try (Nat × Nat) :=
  let p := s.getPart part
  let lp := natBits a 29 21
  let e := tget {} p.map lp
  let mt := e.ppage * 2 + natBits a 20 20
  if 2 ^ 30 ≤ a ∨ p.nl ≤ lp then .error (some ⟨.protect, a, 0⟩)
  else if e.mov && !s.leaving then .error none
  else if e.v && (s.getPage e.ppage).clearing then .error none
  else if !e.v || (s.getPage e.ppage).mapout || (s.getMt mt).banks.any (fun b => b.power == .gated) then .error (some ⟨.gated, a, 0⟩)
  else if a % size ≠ 0 then .error (some ⟨.align, a, 0⟩)
  else .ok (mt, a % 2 ^ 20)

/-! ## Device addresses (R301 to R303) -/

/-- The canonical physical address: near cells by their local form, far cells as they are. -/
def canonAddr (pa : Nat) : Nat :=
  if pa < 2 ^ 40 then pa
  else if pa < 2 ^ 41 then
    let a := pa - 2 ^ 40
    let hi := natBits a 39 36
    let lo := natBits a 15 12
    a - hi * 2 ^ 36 - lo * 2 ^ 12 + (lo ^^^ hi) * 2 ^ 36 + hi * 2 ^ 12
  else pa

/-- The controller channel of a canonical address: stack × 512 + pseudo-channel, or 8192 + module × 16 + channel. -/
def devChannel (ca : Nat) : Nat :=
  if ca < 2 ^ 40 then natBits ca 39 36 * 512 + (natBits ca 16 8 ^^^ natBits ca 25 17 ^^^ natBits ca 34 26)
  else
    let f := ca - 2 ^ 41
    8192 + natBits f 40 38 * 16 + (natBits f 11 8 ^^^ natBits f 15 12)

/-- A range of physical addresses leaves every window of R301. -/
def leavesWindows (pa n : Nat) : Bool :=
  let win (a : Nat) : Nat := if a < 2 ^ 40 then 0 else if a < 2 ^ 41 then 1 else if a < 2 ^ 42 then 2 else 3
  n == 0 || win pa == 3 || win pa != win (pa + n - 1)

/-- n bytes at a physical address; elements of a sector are contiguous in the canonical form too. -/
def State.devRead (s : State) (pa n : Nat) : List Byte := (List.range n).map fun i => s.device.read (canonAddr (pa + i))

/-- A number of n bytes at a physical address. -/
def State.devNat (s : State) (pa n : Nat) : Nat := natOfBytes (s.devRead pa n)

/-- A request to this sector ends in MEM_UE: its channel is mapped out, or the sector reads as uncorrectable (R309). -/
def State.devLost (s : State) (pa : Nat) : Bool :=
  let ca := canonAddr pa
  (s.getDc (devChannel ca)).mapout || s.sectorLost.contains (ca / 64)

/-- Whether any byte of a physical range is lost. -/
def State.devLostIn (s : State) (pa n : Nat) : Bool :=
  (List.range ((pa + n + 63) / 64 - pa / 64)).any fun i => s.devLost ((pa / 64 + i) * 64)

/-- Drops what the caches and walkers of a partition hold, and restarts its walks (R405). -/
def State.dropCaches (s : State) (part : Nat) : State :=
  let pages := (s.getPart part).pages
  let root := (s.devNat ((s.getPart part).xareaBase + 1024) 8)
  { s with
    mts := tmap s.mts fun k m => if pages.contains (k / 2) then { m with xcache := [] } else m
    portCache := tfilter s.portCache fun k _ => k % 32 != part
    wcache := tmap s.wcache fun _ _ => []
    walks := tmap s.walks fun _ ws => (ws.filter fun w => !(w.part == part && w.closed)).map fun w =>
      if w.part = part then { w with level := 0, table := natBits root 41 16 * 2 ^ 16, found := none, failed := none } else w }

/-- The copies of the range table take its present contents (R402, R405). -/
def State.loadRanges (s : State) (part : Nat) : State :=
  s.mapPart part fun p => { p with
    ranges := if p.xareaLog2 = 0 then [] else (List.range 64).map fun n => s.devNat (p.xareaBase + 16 * n) 16 }

/-- The physical addresses that reach a cell: a near cell has a local and a striped name (R302). -/
def cellNames (pa : Nat) : List Nat :=
  let l := canonAddr pa
  if l < 2 ^ 40 then
    let hi := natBits l 15 12
    let lo := natBits l 39 36 ^^^ hi
    [l, 2 ^ 40 + (l - natBits l 39 36 * 2 ^ 36 - hi * 2 ^ 12) + hi * 2 ^ 36 + lo * 2 ^ 12]
  else [l]

/-- The partitions whose translation area a physical address lies in (R402). -/
def State.xareaOf (s : State) (pa : Nat) : List Nat :=
  (s.parts.filter fun e =>
    e.2.xareaLog2 != 0 && (cellNames pa).any fun a => e.2.xareaBase / 2 ^ e.2.xareaLog2 == a / 2 ^ e.2.xareaLog2).map (·.1)

/-- Writes bytes within one 64-byte sector at a physical address. A sector written whole is no longer uncorrectable
(R309); a write into a translation area drops the partition's caches first, and its range-table copies take the table as it
then stands (R405). -/
def State.devWriteSector (s : State) (pa : Nat) (bs : List Byte) : State :=
  let areas := s.xareaOf pa
  let s := areas.foldl State.dropCaches s
  let ca := canonAddr pa
  areas.foldl State.loadRanges { s with
    device := s.device.writeBytes ca bs
    sectorLost := if bs.length = 64 then s.sectorLost.filter (· != ca / 64) else s.sectorLost }

/-- Writes bytes at a physical address, sector by sector, in ascending order. -/
def State.devWrite : Nat → State → Nat → List Byte → State
  | 0, s, _, _ => s
  | fuel + 1, s, pa, bs =>
    if bs.isEmpty then s
    else
      let n := 64 - pa % 64
      State.devWrite fuel (s.devWriteSector pa (bs.take n)) (pa + n) (bs.drop n)

/-! ## Translation (R402, R403) -/

/-- Where a walk ended: level, refused, entry (R418). -/
structure XMiss where
  level : Nat
  refused : Bool
  entry : Nat

/-- DETAIL of an XLATE record (R418). -/
def XMiss.detail (m : XMiss) : Nat := m.level + 8 * b2n m.refused + 16 * m.entry

/-- Entry n of the range table, when it is valid and not refused: virtual base, physical base, length, WR. -/
def rangeEntry (w : Nat) : Option (Nat × Nat × Nat × Bool) :=
  let v := natBits w 55 16 * 2 ^ 16
  let p := natBits w 89 64 * 2 ^ 16
  let n := natBits w 121 96 * 2 ^ 16
  if bitN w 63 && natBits w 127 122 == 0 && natBits w 95 90 == 0 && natBits w 61 56 == 0 && natBits w 15 0 == 0 &&
    n != 0 && v + n ≤ 2 ^ 56 && !leavesWindows p n then some (v, p, n, bitN w 62) else none

/-- The range table's answer, from the copy that every memory tile and stream port of the partition holds (R404): the
lowest-numbered valid entry that contains the address. -/
def State.rangeFind (s : State) (part va : Nat) : Option (Nat × Bool) :=
  (s.getPart part).ranges.findSome? fun w =>
    match rangeEntry w with
    | some (v, b, len, wr) => if v ≤ va ∧ va < v + len then some (b + (va - v), wr) else none
    | none => none

/-- The index of an address at a level, and what a leaf of the level maps (R403). -/
def walkIndex (level va : Nat) : Nat :=
  match level with
  | 0 => natBits va 55 43 | 1 => natBits va 42 34 | 2 => natBits va 33 25 | _ => natBits va 24 16
def leafSize (level : Nat) : Nat := match level with | 1 => 2 ^ 34 | 2 => 2 ^ 25 | _ => 2 ^ 16

/-- What one level's entry says: the next table, a leaf, or the end of the walk (R403). -/
inductive LevelRead where
  | next (table : Nat)
  | leaf (page : Nat) (wr : Bool)
  | stop (m : XMiss)

/-- Reads the entry of a walk at a level of a table. -/
def levelEntry (areaBase areaLog2 level va e : Nat) : LevelRead :=
  let idx := walkIndex level va
  let leaf := bitN e 61
  let pa := natBits e 41 12 * 2 ^ 12
  let refused : LevelRead := .stop ⟨level, true, idx⟩
  if !bitN e 63 then .stop ⟨level, false, idx⟩
  else if natBits e 60 42 ≠ 0 ∨ natBits e 11 0 ≠ 0 ∨ (leaf ∧ level = 0) ∨ (!leaf ∧ level = 3) then refused
  else if leaf then
    if pa % leafSize level ≠ 0 ∨ leavesWindows pa (leafSize level) then refused else .leaf pa (bitN e 62)
  else if pa / 2 ^ areaLog2 ≠ areaBase / 2 ^ areaLog2 then refused
  else .next pa

/-- The level-0 table of a partition, from its root word; none where the area or the root is missing. -/
def State.rootTable (s : State) (part : Nat) : Option Nat :=
  let p := s.getPart part
  if p.xareaLog2 = 0 then none
  else
    let w := s.devNat (p.xareaBase + 1024) 8
    if bitN w 63 then some (natBits w 41 16 * 2 ^ 16) else none

/-- A whole walk from a level on. -/
def State.walkFrom (s : State) (part va : Nat) : Nat → Nat → Nat → Except XMiss XEntry
  | 0, level, _ => .error ⟨level, false, 0⟩
  | fuel + 1, level, table =>
    let p := s.getPart part
    match levelEntry p.xareaBase p.xareaLog2 level va (s.devNat (table + 8 * walkIndex level va) 8) with
    | .next t => State.walkFrom s part va fuel (level + 1) t
    | .leaf pg wr => .ok ⟨va - va % leafSize level, leafSize level, pg, wr⟩
    | .stop m => .error m

/-- A functional translation: the physical address, and whether writes are allowed. The units that have no translation cache
of their own make it, the loader and the convoy engines among them. -/
def State.translate (s : State) (part va : Nat) : Except XMiss (Nat × Bool) :=
  match s.rangeFind part va with
  | some r => .ok r
  | none =>
    match s.rootTable part with
    | none => .error ⟨7, false, 0⟩
    | some t =>
      match s.walkFrom part va 4 0 t with
      | .ok e => .ok (e.ppage + (va - e.vpage), e.wr)
      | .error m => .error m

/-- The first byte of the spill area and the byte past its end (R342). -/
def Partition.spillArea (p : Partition) : Nat × Nat :=
  let b := natBits p.regs.panBase.toNat 55 10 * 1024
  (b, b + 1024 * p.regs.panSize)

/-- A program's access reaches the spill area (R342). -/
def State.inSpill (s : State) (part va n : Nat) : Bool :=
  let a := (s.getPart part).spillArea
  va < a.2 && a.1 < va + n

/-- A translation of an access that faults: XLATE, or PROTECT for a write through a read-only mapping (R194). -/
def State.translateFor (s : State) (part va : Nat) (write : Bool) : Try Nat :=
  if 2 ^ 56 ≤ va then .error (some ⟨.protect, va, 0⟩)
  else if s.inSpill part va 1 then .error (some ⟨.protect, va, 0⟩)
  else
    match s.translate part va with
    | .ok (pa, wr) => if write && !wr then .error (some ⟨.protect, va, 0⟩) else .ok pa
    | .error m => .error (some ⟨.xlate, va, m.detail⟩)

/-! ## Scope (R197, R273, R291, R292) -/

/-- The scope instance of a level that holds a compute element (R8, R273). -/
def State.scopeOf (s : State) (k level : Nat) : Nat :=
  match level with
  | 0 => ceXy k | 1 => cePage k | 2 => pageCluster (cePage k) | 3 => pageDie (cePage k) | 4 => s.dev.pkg.toNat | _ => 0

/-- The record of a release (R273). -/
def State.releaseRec (s : State) (k level : Nat) : ScopeRec := ⟨level, s.scopeOf k level⟩

/-- An acquire by a context reads a release whose instance does not contain it: SCOPE_MISS is set (R292), and it stands at
the end of the cycle whatever the context writes to CTX_STAT in it (R376). -/
def State.acquire (s : State) (k : Nat) (r : Option ScopeRec) : State :=
  match r with
  | some r => if s.scopeOf k r.level = r.who then s
    else s.mapCe k fun c => { (c.flag flagScopeMiss) with late := c.late ||| flagScopeMiss }
  | none => s

/-! ## Arithmetic at banks and controllers (R70, R199, R200, R213, R272) -/

/-- One element addition: wrapping, or one RNE rounding with canonical NaNs; no flag. -/
def addElem (t : Ty) (a b : Nat) : Nat :=
  if t.isFloat then (fAdd t 0 a b).1 else (a + b) % 2 ^ t.width

/-- The smaller or larger of two elements: by the signedness of t, or minimumNumber and maximumNumber (R55). -/
def minMaxElem (t : Ty) (isMax : Bool) (a b : Nat) : Nat :=
  if t.isFloat then (fMinMax t isMax a b).1
  else if (extT t a < extT t b) == isMax then b else a

/-- The new value of a read-modify-write (R199). `b` is the operand; a compare-and-swap takes the expected value from its
low w(t) bits and the new one from the next w(t). -/
def atomNew (op : AtomOp) (t : Ty) (old : Nat) (b : Vec) : Nat :=
  let w := t.width
  let x := lane b w 0
  match op with
  | .add => addElem t old x
  | .min => minMaxElem t false old x
  | .max => minMaxElem t true old x
  | .and => old &&& x
  | .or => old ||| x
  | .xor => old ^^^ x
  | .xchg => x
  | .cas => if old = x then lane b w 1 else old

/-- BEW's operation on one element (R200). -/
def bewElem (op : Nat) (t : Ty) (a b : Nat) : Nat :=
  match op with
  | 0 => addElem t a b
  | 1 => minMaxElem t false a b
  | 2 => minMaxElem t true a b
  | 3 => a &&& b
  | 4 => a ||| b
  | _ => a ^^^ b

/-! ## Watched writes (R331) -/

/-- The owner context of a pattern record (R329, R446). -/
def State.patCount (s : State) (mt : Nat) (r : PatRec) (num : Nat) : State :=
  s.countPage ((s.phys ((s.getPage (mt / 2)).owner.getD 0) r.opage).getD (mt / 2)) r.octx num 1

/-- Words of the pattern store that an entry occupies (R326). -/
def PatRec.words (r : PatRec) : Nat := r.uops + [0, 32, 64, 0].getD r.scw 0

/-- Frees a run of words of the store. -/
def freeWords (store : Tab (BitVec 32)) (base n : Nat) : Tab (BitVec 32) := tfilter store fun a _ => !(base ≤ a && a < base + n)

/-- A record loses a user of its program. With the last one the words of a program that was invalidated are free (R331). -/
def MemTile.unuse (m : MemTile) (dir : Nat) : MemTile :=
  let r := tget {} m.dir dir
  let r := { r with use := r.use - 1 }
  if r.use ≠ 0 then { m with dir := tput m.dir dir r }
  else
    let old := m.stale.filter fun e => e.1 == dir
    let store := old.foldl (fun t e => freeWords t e.2.1 e.2.2) m.store
    let m := { m with stale := m.stale.filter fun e => e.1 != dir }
    if r.st = 2 then { m with dir := tput m.dir dir r, store := store }
    else { m with dir := tput m.dir dir { r with uops := 0, scw := 0 }, store := freeWords store r.basew r.words }

/-- An unfinished SPMM holds its program under USE (R331). -/
def Copy.usesProgram (x : Copy) : Bool := x.path == 1 && (x.state == .pending || x.state == .faulted)

/-- An SPMM gives up its hold on its program (R331, R335). -/
def State.releaseUse (s : State) (mt : Nat) (x : Copy) : State := if x.usesProgram then s.mapMt mt (·.unuse x.dir) else s

/-- Takes one event off a page-context counter. -/
def State.uncountPage (s : State) (page ctx num : Nat) : State :=
  { s with counters := tput s.counters ((page * 4 + ctx) * 4096 + num) (tget 0 s.counters ((page * 4 + ctx) * 4096 + num) - 1) }

/-- A write that invalidates a record, or the record's removal, precedes the start of an SPMM in the same cycle: a command that
has taken the program in this cycle has not started (R332). -/
def State.unstart (s : State) (mt dir : Nat) : State :=
  let back (x : Copy) : Option Nat :=
    match x.startAt with
    | some (c, path) => if x.path = 1 ∧ x.dir = dir ∧ c = s.cycle.toNat then some path else none
    | none => none
  ((s.getMt mt).copies.filter fun x => (back x).isSome).foldl (fun s x =>
    let s := s.mapMt mt fun m => { (m.unuse dir) with copies := m.copies.map fun y =>
      if y == x then { y with path := (back x).getD 0, prog := [], startAt := none } else y }
    if back x = some 0 then s.uncountPage (cePage x.ce) x.ctx 0x111 else s) s

/-- WATCHED_WRITE_INVALIDATE: a write to a watched line invalidates the records that watch it, in its bank cycle. It precedes
an install and the start of an SPMM in that cycle: the install counts as discarded (R332). -/
def State.watch (s : State) (mt line : Nat) : State :=
  (s.getMt mt).dir.foldl (fun s e =>
    let r := e.2
    if r.valid && r.st != 0 && r.wfirst ≤ line && line ≤ r.wlast then
      let s := s.unstart mt e.1
      let r := tget {} (s.getMt mt).dir e.1
      let late := r.instAt == some s.cycle.toNat
      let r' := { r with ver := r.ver + 1, st := 0, uops := if r.use = 0 then 0 else r.uops, scw := if r.use = 0 then 0 else r.scw,
                         instAt := none }
      let s := (s.mapMt mt fun m => { m with
        dir := tput m.dir e.1 r'
        store := if r.use = 0 then freeWords m.store r.basew r.words else m.store }).patCount mt r 0x112
      if late then
        let page := (s.phys ((s.getPage (mt / 2)).owner.getD 0) r.opage).getD (mt / 2)
        (s.uncountPage page r.octx 0x110).patCount mt r 0x115
      else s
    else s) s

/-! ## Lines of a memory tile (R268, R269, R274) -/

/-- A word of the range is uncorrectable. -/
def State.scratchLost (s : State) (mt off n : Nat) : Bool :=
  (s.getMt mt).lost.any fun w => off < 8 * w + 8 && 8 * w < off + n

/-- n bytes of a memory tile. -/
def State.scratchRead (s : State) (mt off n : Nat) : List Byte := s.scratch.readBytes (scratchAddr mt off) n

/-- Words of a memory tile that have been written whole are correctable again (R274). -/
def State.wordsWhole (s : State) (mt : Nat) (whole : Nat → Bool) : State :=
  if (s.getMt mt).lost.isEmpty then s else s.mapMt mt fun m => { m with lost := m.lost.filter fun w => !whole w }

/-- Writes bytes of a memory tile: every line touched is a watched write, and words written whole are correctable
again. -/
def State.scratchWrite (s : State) (mt off : Nat) (bs : List Byte) : State :=
  let n := bs.length
  if n = 0 then s
  else
    let s := { s with scratch := s.scratch.writeBytes (scratchAddr mt off) bs }
    let s := s.wordsWhole mt fun w => off ≤ 8 * w && 8 * w + 8 ≤ off + n
    (List.range ((off + n - 1) / 128 + 1 - off / 128)).foldl (fun s i => s.watch mt (off / 128 + i)) s

/-- The new contents of a line, or none for a read. -/
def LineOp.apply (op : LineOp) (old : Vec) : Option Vec :=
  match op with
  | .read => none
  | .write mask data =>
    some (BitVec.ofNat 1024 (natOfBytes ((List.range 128).map fun i =>
      if mask.getLsbD i then data.extractLsb' (8 * i) 8 else old.extractLsb' (8 * i) 8)))
  | .atom op t off b =>
    let w := t.width
    let i := 8 * off / w
    some (ofLanes w ((List.range t.lanes).map fun j =>
      if j = i then atomNew op t (lane old w j) b else lane old w j))
  | .bew op t b =>
    let w := t.width
    some (ofLanes w ((List.range t.lanes).map fun j => bewElem op t (lane old w j) (lane b w j)))
  | .adds t elems =>
    let w := t.width
    some (ofLanes w (elems.foldl (fun ls e => lmod ls e.1 fun x => addElem t x e.2.toNat)
      ((List.range t.lanes).map fun j => lane old w j)))

/-- A line operation writes a word of its line (by number, 0 to 15) whole, without reading it. -/
def LineOp.whole : LineOp → Nat → Bool
  | .write mask _, i => (List.range 8).all fun j => mask.getLsbD (8 * i + j)
  | _, _ => false

/-- One line operation of a bank (R269): the line as it stood, and the state after. A release sets the scope record and an
acquire reads it in the same cycle (R273). -/
def State.lineOp (s : State) (r : BankReq) (mt k : Nat) : Vec × State :=
  let a := scratchAddr mt (128 * r.line)
  let old := s.scratch.readLine a
  let s := match r.op.apply old with
    | none => s
    | some v =>
      (({ s with scratch := s.scratch.writeBytes a (bytesOfNat 128 v.toNat) }).wordsWhole mt fun w =>
        w / 16 == r.line && r.op.whole (w % 16)).watch mt r.line
  let s := if r.sem.getLsbD 0 then s.acquire k (tfind s.lineScope (a / 128)) else s
  let s := if r.sem.getLsbD 1 then { s with lineScope := tput s.lineScope (a / 128) (s.releaseRec k r.sco) } else s
  (old, s)

/-- The accepted slots that wait for a line of a bank, the oldest first: of those, thirty-two at most wait on it (R204,
R279). Each with its request and the line. -/
def MemTile.gatherWaits (m : MemTile) (bank : Nat) : List (Nat × GatherReq × Nat) :=
  let wants := (List.range m.gather.length).filterMap fun i =>
    match lget .free m.gather i with
    | .accepted r =>
      if r.dev then none
      else (r.left.find? fun e => lget 0 r.eas e / 128 % 16 == bank).map fun e => (i, r, lget 0 r.eas e / 128)
    | _ => none
  (sortKey (fun x => x.2.1.arrive) wants).take 32

/-- The head of the gather engine's port of a bank: the oldest slot that waits on it; among slots accepted in one cycle, in
rotation over their issuing tiles, after the tile last served (R204). -/
def MemTile.gatherHead (m : MemTile) (bank : Nat) : Option (Nat × GatherReq × Nat) :=
  match m.gatherWaits bank with
  | [] => none
  | w :: ws =>
    let turn (x : Nat × GatherReq × Nat) : Nat := (ceElem x.2.1.ce + 16 - (lget {} m.banks bank).tile - 1) % 16
    some (ws.foldl (fun b x => if x.2.1.arrive == b.2.1.arrive && turn x < turn b then x else b) w)

/-- Nothing that arrived earlier waits at a bank: an engine's line operation is the oldest request (R270). -/
def State.bankFree (s : State) (mt bank : Nat) : Bool :=
  (lget {} (s.getMt mt).banks bank).queue.isEmpty && ((s.getMt mt).gatherHead bank).isNone

/-- A bank is awake; a drowsy one starts its wake of 24 cycles (R275). -/
def State.bankAwake (s : State) (mt bank : Nat) : Bool × State :=
  let m := s.getMt mt
  match (lget {} m.banks bank).power with
  | .awake => (true, s)
  | .drowsy => (false, s.setMt mt { m with banks := lmod m.banks bank fun b => { b with power := .waking Config.bankWakeCycles } })
  | _ => (false, s)

/-- Every bank a range of a memory tile lies in is awake, and no earlier request waits there; drowsy ones start to wake. An
engine waits for them (R270, R275). -/
def State.banksAwake (s : State) (mt off n : Nat) : Bool × State :=
  ((List.range (min 16 ((off + n + 127) / 128 - off / 128))).map fun i => (off / 128 + i) % 16).foldl
    (fun acc b => let (ok, s) := acc.2.bankAwake mt b; (acc.1 && ok && s.bankFree mt b, s)) (true, s)

/-- A bank has performed a line operation for a port: its idle count restarts (R270, R275). -/
def State.touchBank (s : State) (mt bank port : Nat) : State :=
  s.mapMt mt fun m => { m with banks := lmod m.banks bank fun b => { b with idle := 0, last := port } }

/-! ## Accesses of a task (R86, R87, R195, R202, R288, R289) -/

/-- Two accesses of one task that stream order or a fence orders: the later waits for the earlier. -/
def Acc.blocks (e a : Acc) : Bool :=
  e.bind == a.bind &&
  match e.kind, a.kind with
  | .engine, _ => false
  | .fence m, .fence m' => (m &&& m') != 0
  | .fence m, _ => m.getLsbD a.str
  | _, .fence m' => m'.getLsbD e.str
  | _, _ => e.str == a.str

/-- Requests a bank's queue holds (R270). -/
def bankQueue : Nat := 16

/-- A direct request enters its bank's queue. -/
def MemTile.enqueue (m : MemTile) (req : BankReq) (cycle : Nat) : MemTile :=
  { m with banks := lmod m.banks (req.line % 16) fun b => { b with queue := b.queue ++ [{ req with arrive := cycle }] } }

/-- A direct request has room in its bank's queue. -/
def MemTile.queueRoom (m : MemTile) (req : BankReq) : Bool := (lget {} m.banks (req.line % 16)).queue.length < bankQueue

/-- A direct request reaches the memory tile: it enters its bank's queue, or waits in the tile's input, behind what waits
there (R270). -/
def MemTile.request (m : MemTile) (req : BankReq) (cycle : Nat) : MemTile :=
  if m.input.isEmpty && m.queueRoom req then m.enqueue req cycle else { m with input := m.input ++ [req] }

/-- The tile's input moves on: the requests at its head that find room enter their queues, in order (R270). -/
def MemTile.drain (cycle : Nat) : List BankReq → MemTile → MemTile
  | [], m => { m with input := [] }
  | r :: rest, m => if m.queueRoom r then MemTile.drain cycle rest (m.enqueue r cycle) else { m with input := r :: rest }

/-- Sends an access to its bank, controller or gather engine. -/
def State.sendAcc (s : State) (k : Nat) (a : Acc) : State :=
  match a.kind with
  | .bank mt req =>
    s.mapMt mt fun m => m.request req s.cycle.toNat
  | .range mt off count _ _ =>
    if count = 0 then s else s.mapMt mt fun m => m.request ⟨0, 0, off / 128, .read, 0, 0, .ce k a.id⟩ s.cycle.toNat
  | .gather mt req => s.mapMt mt fun m => { m with gatherIn := m.gatherIn ++ [{ req with arrive := s.cycle.toNat }] }
  | .push st data =>
    match tfind s.streams st with
    | some x => { s with streams := tput s.streams st { x with held := x.held ++ [(data, a.id)] } }
    | none => s
  | .dev ch req =>
    let s := s.mapMt req.tile fun m => { m with outstanding := m.outstanding + 1 }
    s.setDc ch (let d := s.getDc ch; { d with queue := d.queue ++ [{ req with arrive := s.cycle.toNat }] })
  | _ => s

/-- The places taken of a tile's 256 outstanding sector requests: those sent, and those a miss keeps while it waits (R204,
R213, R404). -/
def State.sectorsTaken (s : State) (tile : Nat) : Nat :=
  (s.getMt tile).outstanding +
    (s.ce.filter fun e => homeMt e.1 == tile && (match e.2.fir.hold with | .xlate _ => true | _ => false)).length

/-- An access may be sent: every access that orders it has been performed, and a device request finds one of the tile's
256 places free (R204, R213). -/
def State.maySend (s : State) (before : List Acc) (a : Acc) : Bool :=
  !(before.any fun e => e.blocks a) &&
  match a.kind with
  | .dev _ req => s.sectorsTaken req.tile < 256
  | _ => true

/-- An access's ORDER token may be published from now on (R87, R269). -/
def CeCtx.performOrder (c : CeCtx) (acc : Nat) : CeCtx :=
  { c with outs := c.outs.map fun o => { o with orders := o.orders.map fun r =>
      if r.acc = acc then { r with performed := true } else r } }

/-- What an access that is performed as soon as its stream comes to it does, or none for an access that is sent away: a
fence, the credit of QPOP, an SFLUSH (the port's writes are performed as it takes them), and SCLOSE, which ends its
stream (R202, R209, R211, R212). A push on a stream that is gone is dropped. -/
def State.atOnce (s : State) (a : Acc) : Option State :=
  match a.kind with
  | .fence _ | .flush _ => some s
  | .pop st n =>
    match tfind s.streams st with
    | some x => some { s with streams := tput s.streams st { x with credit := x.credit + n } }
    | none => some s
  | .close st => some { s with streams := tdel s.streams st }
  | .push st _ => if (tfind s.streams st).isSome then none else some s
  | _ => none

/-- Goes once through the accesses of a context in issue order: one that acts at once and that nothing blocks is
performed, and an access that nothing orders any more is sent. `keep` are those gone through that remain. -/
def State.pumpLoop (k : Nat) : List Acc → List Acc → State → List Acc × State
  | [], keep, s => (keep, s)
  | a :: rest, keep, s =>
    match s.atOnce a with
    | some s' =>
      if keep.any fun e => e.blocks a then State.pumpLoop k rest (keep ++ [a]) s
      else State.pumpLoop k rest keep (s'.mapCe k fun c => c.performOrder a.id)
    | none =>
      if !a.sent && s.maySend keep a then State.pumpLoop k rest (keep ++ [{ a with sent := true }]) (s.sendAcc k a)
      else State.pumpLoop k rest (keep ++ [a]) s

/-- Sends what may be sent and performs the fences that are due. -/
def State.pump (s : State) (k : Nat) : State :=
  let (keep, s) := State.pumpLoop k (s.getCe k).pend [] s
  s.mapCe k fun c => { c with pend := keep }

/-- An access has been performed: it leaves the list, its ORDER token may go, and what it held is sent. -/
def State.performed (s : State) (k acc : Nat) : State :=
  (s.mapCe k fun c => { (c.performOrder acc) with pend := c.pend.filter fun a => a.id != acc }).pump k

/-- The accesses of a binding that engine work issued now must follow (R288). -/
def CeCtx.handoff (c : CeCtx) (str : Nat) : List Nat :=
  (c.pend.filter fun a => a.bind == c.fir.bind &&
    match a.kind with | .engine => false | .fence m => m.getLsbD str | _ => a.str == str).map (·.id)

/-- Whether the accesses an engine command follows have been performed. -/
def State.handed (s : State) (k : Nat) (after : List Nat) : Bool :=
  !((s.getCe k).pend.any fun a => after.contains a.id)

/-- Every access the running task has issued is performed (R297): what LAUNCH, GLAUNCH and TBMARK wait for. -/
def CeCtx.allPerformed (c : CeCtx) : Bool :=
  !(c.pend.any fun a => a.bind == c.fir.bind && (match a.kind with | .engine => false | _ => true))

/-- The semantics an access is issued with: a write that a release fence precedes is a release of the wider scope
(R289). -/
def CeCtx.semOf (c : CeCtx) (f : FmtM) (write : Bool) : BitVec 2 × Nat :=
  match write, lget none c.fenceRel (c.fir.bind * 16 + f.str.toNat) with
  | true, some lv => (f.sem ||| 2, if f.sem.getLsbD 1 then max lv f.sco.toNat else lv)
  | _, _ => (f.sem, f.sco.toNat)

/-- Reserves the order-out slot of an instruction (R87). -/
def CeCtx.reserve (c : CeCtx) (oo : OrderOut) (acc : Nat) : CeCtx :=
  match oo with
  | none => c
  | some j => { c with outs := lmod c.outs j.toNat fun o => { o with orders := o.orders ++ [⟨acc, false⟩] } }

/-- Issues an access of the running instruction: it is numbered, its order-out slot is reserved, and it is sent when its
stream allows. A value-delivering instruction holds the firing until its value returns; any other goes on (R195). -/
def State.issue (s : State) (k : Nat) (f : FmtM) (addr : Nat) (value : Bool) (kind : Nat → AccKind) : State :=
  let c := s.getCe k
  let id := c.accNext
  let a : Acc := { id := id, addr := addr, idx := c.fir.idx, bind := c.fir.bind, str := f.str.toNat, ty := f.ty,
                   kind := kind id, sent := false, value := value, oo := f.oo.map fun _ => id }
  let c := { (c.reserve f.oo id) with accNext := id + 1, pend := c.pend ++ [a] }
  let c := if value then { c with fir := { c.fir with hold := .value id } } else c.bump
  (s.setCe k c).pump k

/-- A memory instruction whose access is performed as soon as it is issued: an empty XFENCE, a status read, credit. -/
def CeCtx.instant (c : CeCtx) (f : FmtM) : CeCtx :=
  let c := c.reserve f.oo c.accNext
  { (c.performOrder c.accNext) with accNext := c.accNext + 1 }

/-- A false guard (R85): nothing is accessed, 0 is delivered, and an order-out's token is published at block end. -/
def State.noAccess (s : State) (k : Nat) (f : FmtM) : State :=
  s.mapCe k fun c => let c := c.reserve f.oo c.accNext; ({ c with accNext := c.accNext + 1 }).give false 0 f.ta

/-- The frame of a memory instruction: it waits while the firing is held, checks its order-in (R86), and acts only with a
true guard (R84, R85). `go` is what it does then. -/
def State.memInstr (s : State) (f : FmtM) (go : Nat → Rd → State → State) : State :=
  let k := s.key
  let r := s.rdAt k
  if r.c.fir.hold ≠ .none then s
  else
    let badOrder := !r.c.fir.skip && match f.sc with
      | .chan i off => (r.tok i.toNat off.toNat).kind != 2
      | _ => false
    if badOrder then s.ceFault k .illegal 0 0xF
    else if !r.guardM f then s.noAccess k f
    else go k r s

/-- The frame of an instruction of format T that can fault (R159, R238): it waits while the firing is held; TRET skip
delivers 0 to both targets and changes nothing (R85, R187; log entry 13). -/
def State.engine (s : State) (f : FmtT) (go : Nat → Rd → State → State) : State :=
  let k := s.key
  let r := s.rdAt k
  if r.c.fir.hold ≠ .none then s
  else if r.c.fir.skip then s.mapCe k fun c => (c.put2 false 0 f.ta f.tb).bump
  else go k r s

/-- Delivers the value of an engine instruction to both targets and goes on. -/
def State.give2 (s : State) (k : Nat) (f : FmtT) (vec : Bool) (v : Vec) : State :=
  s.mapCe k fun c => (c.put2 vec v f.ta f.tb).bump

/-- The record of a live tensor handle (R250, R395). -/
def State.tensor (s : State) (part : Nat) (h : Word) : Option Vec :=
  let t := tget {} (s.getPart part).tensors (natBits h.toNat 11 0)
  if handleKind h = 8 ∧ t.live ∧ t.gen.toNat = natBits h.toNat 59 44 then some t.record else none

/-- A check's outcome decides: go on, raise its fault, or wait. -/
def State.check {α : Type} (s : State) (k : Nat) (e : Try α) (go : α → State) : State :=
  match e with
  | .ok a => go a
  | .error none => s
  | .error (some e) => s.ceFault k e.cls e.addr e.detail

/-- A data operand at the access's type (R191): an IMM7 is widened by R62, converted by R63, and stands in every lane. -/
def Rd.data (r : Rd) (t : Ty) (sl : SlotName) : Src → Vec
  | .imm v => ofLanes t.width (List.replicate t.lanes (if t.isFloat then imm7F t v else lowBits (immInt t v) t.width))
  | x => r.raw 0 sl x

/-- A data operand of a vector access: LANEIDX has the access's lane width (R78, R191). -/
def Rd.vdata (r : Rd) (t : Ty) (sl : SlotName) : Src → Vec
  | .laneidx => laneIdx t.width
  | x => r.data t sl x

/-- The second register of a pair source (R191). -/
def Rd.pair2 (r : Rd) : Src → Vec
  | .w n => r.c.regs.w[(n.toNat + 1) % 4]!
  | _ => 0

/-! ## The device address of an access (R194, R342, R404) -/

/-- A miss of a context (2^40: an engine) in a translation cache goes to the walker of a die: it joins the walk or waiting
miss of its virtual page, or waits to be walked; none where the die holds 512 waiting misses already (R404). -/
def State.walkMiss (s : State) (part die cache who va : Nat) : Option State :=
  let ws := tget [] s.walks die
  let vp := va / 2 ^ 16 * 2 ^ 16
  if 512 ≤ ((ws.filter (!·.closed)).map fun w => w.served.length).sum then none
  else
    let same (w : Walk) : Bool := w.part == part && w.vpage == vp && !w.closed
    let s := s.countPart part 0x320 1
    if ws.any same then
      let s := { s with walks := tput s.walks die (ws.map fun w => if same w then { w with served := w.served ++ [(cache, who)] } else w) }
      some (s.countPart part 0x322 1)
    else
      let w : Walk := { part := part, vpage := vp, level := 0, table := 0, running := false, served := [(cache, who)],
                        found := none, failed := none }
      some { s with walks := tput s.walks die (ws ++ [w]) }

/-- A translation that may be refused: a write through a read-only mapping raises PROTECT (R194). -/
def allowAt (va : Nat) (write : Bool) (r : Nat × Bool) : Try Nat :=
  if write && !r.2 then .error (some ⟨.protect, va, 0⟩) else .ok r.1

/-- The entry of a translation cache for an address. -/
def xcacheFind (c : List XEntry) (va : Nat) : Option XEntry := c.find? fun e => e.vpage ≤ va && va < e.vpage + e.size

/-- The translation of an access of a compute element: by the range table, by the cache of its home memory tile, or by a
walk, for which the access waits; so does a miss that finds no room at its walker, and its place among the tile's sector
requests is kept (R194, R402, R404). -/
def State.xlate (s : State) (k va : Nat) (write : Bool) : Try Nat × State :=
  let part := (s.getCe k).part
  match s.rangeFind part va with
  | some r => (allowAt va write r, s)
  | none =>
    let m := s.getMt (homeMt k)
    match xcacheFind m.xcache va with
    | some e =>
      (allowAt va write (e.ppage + (va - e.vpage), e.wr), s.setMt (homeMt k) { m with xcache := e :: m.xcache.erase e })
    | none =>
      let s := (s.walkMiss part (pageDie (cePage k)) (homeMt k) k va).getD s
      (.error none, s.mapCe k fun c => { c with fir := { c.fir with hold := .xlate va } })

/-- The checks of a device virtual address, in the order of R194: bits [63:56], alignment, and the translation. -/
def State.devAt (s : State) (k va size : Nat) (write : Bool) : Try Nat × State :=
  if 2 ^ 56 ≤ va ∨ s.inSpill (s.getCe k).part va size then (.error (some ⟨.protect, va, 0⟩), s)
  else if va % size ≠ 0 then (.error (some ⟨.align, va, 0⟩), s)
  else s.xlate k va write

/-! ## The translation of an engine's access (R207, R314, R404) -/

/-- The level code that marks a walk ended by a table sector no read can give (R309). -/
def walkLost : Nat := 8

/-- The context that stands for an engine among those a walk serves. -/
def engineMiss : Nat := 2 ^ 40

/-- The translation cache of a stream port, and the die of a translation cache: the die of its memory tile or port (R21). -/
def portXcache (port : Nat) : Nat := 2 ^ 20 + port
def portDie (port : Nat) : Nat :=
  if port < 64 then port / 8 else lget 0 (if port < 72 then [0, 1, 4, 5] else [2, 3, 6, 7]) ((port - 64) % 8 / 2)
def cacheDie (id : Nat) : Nat := if id < 2 ^ 20 then pageDie (id / 2) else portDie (id - 2 ^ 20)

/-- What a translation cache holds for a partition. -/
def State.xcacheOf (s : State) (part id : Nat) : List XEntry :=
  if id < 2 ^ 20 then (s.getMt id).xcache else tget [] s.portCache ((id - 2 ^ 20) * 32 + part)

/-- Changes what a translation cache holds for a partition. -/
def State.setXcache (s : State) (part id : Nat) (c : List XEntry) : State :=
  if id < 2 ^ 20 then s.mapMt id fun m => { m with xcache := c }
  else { s with portCache := tput s.portCache ((id - 2 ^ 20) * 32 + part) c }

/-- A translation cache takes a leaf; the least recently used entry makes room (R404). -/
def xcacheFill (e : XEntry) (c : List XEntry) : List XEntry := (e :: c.filter fun y => y.vpage != e.vpage).take 256

/-- An engine takes the failure of the walk that served it. -/
def Walk.leave (w : Walk) (id : Nat) : List Walk :=
  let rest := w.served.filter (· != (id, engineMiss))
  if rest.isEmpty then [] else [{ w with served := rest }]

/-- The error a failed walk raises for an address (R309, R418). -/
def walkErr (va : Nat) : Nat × Bool × Nat → Err
  | (level, refused, entry) => if level = walkLost then ⟨.memUe, va, 1⟩ else ⟨.xlate, va, XMiss.detail ⟨level, refused, entry⟩⟩

/-- The translation of an engine's access, through the cache of its memory tile or stream port: by the range table, by the
cache, or by a walk, for which the engine waits. `via` is none for a unit that has no translation cache. -/
def State.translateVia (s : State) (part : Nat) (via : Option Nat) (va : Nat) (write : Bool) : Try Nat × State :=
  match via with
  | none => (s.translateFor part va write, s)
  | some id =>
    if 2 ^ 56 ≤ va ∨ s.inSpill part va 1 then (.error (some ⟨.protect, va, 0⟩), s)
    else
      match s.rangeFind part va with
      | some r => (allowAt va write r, s)
      | none =>
        let c := s.xcacheOf part id
        match xcacheFind c va with
        | some e => (allowAt va write (e.ppage + (va - e.vpage), e.wr), s.setXcache part id (e :: c.erase e))
        | none =>
          let die := cacheDie id
          let ws := tget [] s.walks die
          let mine (w : Walk) : Bool := w.part == part && w.vpage == va / 2 ^ 16 * 2 ^ 16 && w.served.contains (id, engineMiss)
          match ws.find? mine with
          | none => (.error none, (s.walkMiss part die id engineMiss va).getD s)
          | some w =>
            match w.closed, w.failed with
            | true, some m =>
              (.error (some (walkErr va m)), { s with walks := tput s.walks die (ws.flatMap fun x => if x == w then w.leave id else [x]) })
            | _, _ => (.error none, s)

/-- Delivers the value of the held memory instruction of a context and lets the firing go on (R195). -/
def State.deliver (s : State) (k : Nat) (vec : Bool) (v : Vec) : State :=
  s.mapCe k fun c =>
    match decM c.fir.word with
    | .ok f => c.give vec v f.ta
    | .error _ => c

/-- An access that will not be performed leaves the context, and the order-out slot it reserved with it. -/
def CeCtx.dropAcc (c : CeCtx) (acc : Nat) : CeCtx :=
  { c with pend := c.pend.filter fun a => a.id != acc
           outs := c.outs.map fun o => { o with orders := o.orders.filter fun r => r.acc != acc } }

/-- The access's own value was uncorrectable: it is not delivered, and the instruction raises MEM_UE (R195). -/
def State.valueLost (s : State) (k acc addr detail : Nat) : State :=
  ((s.mapCe k (·.dropAcc acc)).ceFault k .memUe addr detail).pump k

/-- ext(v, t): an element as a scalar result (R198). -/
def extElem (t : Ty) (v : Nat) : Vec := (scalarOf t (extT t v)).toVec

end Sys2Proof.Machine
end

