-- ==== Sys2Proof/Machine/MemInstr.lean ====
section
/-!
DEFINITION. Sys2Proof/Machine/MemInstr.lean: the memory instructions of format M (08, R191 to R214).
-/

namespace Sys2Proof.Machine

/-! ## Scratchpad (R198 to R201) -/

/-- Issues one line operation of the bank an address lies in, after the checks of R192. `op` is given the byte offset in
the line. -/
def State.bankAcc (s : State) (k : Nat) (f : FmtM) (a size : Nat) (value write : Bool) (op : Nat → LineOp) : State :=
  s.check k (s.scratchAt (s.getCe k).part a size) fun p =>
    let q := (s.getCe k).semOf f write
    s.issue k f a value fun id => .bank p.1
      { port := 0, arrive := 0, line := p.2 / 128, op := op (p.2 % 128), sem := q.1, sco := q.2, owner := .ce k id }

/-- A write of n bytes at a byte offset of a line. -/
def maskedWrite (off n v : Nat) : LineOp :=
  .write (BitVec.ofNat 128 ((2 ^ n - 1) * 2 ^ off)) (BitVec.ofNat 1024 (v * 2 ^ (8 * off)))

/-- LD (R198). -/
def execLd (f : FmtM) (s : State) : Host.Outcome State Fault Refusal :=
  .next (s.memInstr f fun k r s => s.bankAcc k f (r.w64 .a f.sa).toNat (f.ty.width / 8) true false fun _ => .read)

/-- ST (R198). -/
def execSt (f : FmtM) (s : State) : Host.Outcome State Fault Refusal :=
  .next (s.memInstr f fun k r s =>
    s.bankAcc k f (r.w64 .a f.sa).toNat (f.ty.width / 8) false true fun off =>
      maskedWrite off (f.ty.width / 8) (lane (r.data f.ty .b f.sb) f.ty.width 0))

/-- LDV (R198). -/
def execLdv (f : FmtM) (s : State) : Host.Outcome State Fault Refusal :=
  .next (s.memInstr f fun k r s => s.bankAcc k f (r.w64 .a f.sa).toNat 128 true false fun _ => .read)

/-- STV (R198). -/
def execStv (f : FmtM) (s : State) : Host.Outcome State Fault Refusal :=
  .next (s.memInstr f fun k r s =>
    s.bankAcc k f (r.w64 .a f.sa).toNat 128 false true fun _ => .write (BitVec.allOnes 128) (r.vdata f.ty .b f.sb))

/-- The byte mask of the lanes of a vector that are not all zero (R198). -/
def laneMask (w : Nat) (v : Vec) : BitVec 128 :=
  BitVec.ofNat 128 ((List.range (1024 / w)).foldl (fun acc i =>
    if lane v w i = 0 then acc else acc + (2 ^ (w / 8) - 1) * 2 ^ (w / 8 * i)) 0)

/-- STVM (R198). -/
def execStvm (f : FmtM) (s : State) : Host.Outcome State Fault Refusal :=
  .next (s.memInstr f fun k r s =>
    s.bankAcc k f (r.w64 .a f.sa).toNat 128 false true fun _ =>
      .write (laneMask f.ty.width (r.pair2 f.sb)) (r.data f.ty .b f.sb))

/-- A bank atomic (R199): indivisible at its bank, delivering the old value. -/
def State.atomic (s : State) (f : FmtM) (op : AtomOp) : State :=
  s.memInstr f fun k r s =>
    s.bankAcc k f (r.w64 .a f.sa).toNat (f.ty.width / 8) true true fun off => .atom op f.ty off (r.data f.ty .b f.sb)

/-- AADD (R199). -/
def execAadd (f : FmtM) (s : State) : Host.Outcome State Fault Refusal := .next (s.atomic f .add)
/-- AMIN (R199). -/
def execAmin (f : FmtM) (s : State) : Host.Outcome State Fault Refusal := .next (s.atomic f .min)
/-- AMAX (R199). -/
def execAmax (f : FmtM) (s : State) : Host.Outcome State Fault Refusal := .next (s.atomic f .max)
/-- AAND (R199). -/
def execAand (f : FmtM) (s : State) : Host.Outcome State Fault Refusal := .next (s.atomic f .and)
/-- AOR (R199). -/
def execAor (f : FmtM) (s : State) : Host.Outcome State Fault Refusal := .next (s.atomic f .or)
/-- AXOR (R199). -/
def execAxor (f : FmtM) (s : State) : Host.Outcome State Fault Refusal := .next (s.atomic f .xor)
/-- AXCHG (R199). -/
def execAxchg (f : FmtM) (s : State) : Host.Outcome State Fault Refusal := .next (s.atomic f .xchg)
/-- ACAS (R199). -/
def execAcas (f : FmtM) (s : State) : Host.Outcome State Fault Refusal := .next (s.atomic f .cas)
/-- AFADD (R199): the bank's addition of a floating-point type, one RNE rounding and no flag. -/
def execAfadd (f : FmtM) (s : State) : Host.Outcome State Fault Refusal := .next (s.atomic f .add)

/-- BEW (R200): the operation and bits [6:3] of a are checked first. It reads its line, so it holds the firing until it is
performed, and an uncorrectable word raises MEM_UE at its own index (R195). -/
def execBew (f : FmtM) (s : State) : Host.Outcome State Fault Refusal :=
  .next (s.memInstr f fun k r s =>
    let a := (r.w64 .a f.sa).toNat
    let op := a % 8
    if a / 8 % 16 ≠ 0 ∨ 5 < op ∨ (2 < op ∧ f.ty.isFloat) then s.ceFault k .illegal 0 0xF
    else s.bankAcc k f (a - op) 128 true true fun _ => .bew op f.ty (r.vdata f.ty .b f.sb))

/-- BRED (R201). -/
def execBred (f : FmtM) (s : State) : Host.Outcome State Fault Refusal :=
  .next (s.memInstr f fun k r s =>
    let a := (r.w64 .a f.sa).toNat
    let c := (r.w64 .b f.sb).toNat
    let count := natBits c 19 0
    let op := natBits c 22 20
    let size := f.ty.width / 8
    if 2 < op ∨ natBits c 63 23 ≠ 0 then s.ceFault k .illegal 0 0xF
    else s.check k (s.scratchAt r.c.part a size) fun p =>
      if 2 ^ 20 < p.2 + count * size then s.ceFault k .protect a 0
      else if count = 0 then s.mapCe k fun c => (c.instant f).give false 0 f.ta
      else s.issue k f a true fun _ => .range p.1 p.2 count op none)

/-! ## Fences (R202, R289) -/

/-- A fence over the streams of a mask. Its release part makes each later write of those streams a release of its scope,
until their next fence. -/
def State.fenceOver (s : State) (k : Nat) (f : FmtM) (mask : BitVec 16) : State :=
  let rel := if f.sem = 1 then none else some f.sco.toNat
  let s := s.issue k f 0 false fun _ => .fence mask
  s.mapCe k fun c => { c with fenceRel := (List.range 16).foldl (fun l i =>
    if mask.getLsbD i then l.set (c.fir.bind * 16 + i) rel else l) c.fenceRel }

/-- FENCE (R202). -/
def execFence (f : FmtM) (s : State) : Host.Outcome State Fault Refusal :=
  .next (s.memInstr f fun k _ s => s.fenceOver k f (BitVec.allOnes 16))

/-- XFENCE (R202). -/
def execXfence (f : FmtM) (s : State) : Host.Outcome State Fault Refusal :=
  .next (s.memInstr f fun k r s => s.fenceOver k f ((r.w64 .a f.sa).extractLsb' 0 16))

/-! ## Place words (R193) -/

/-- The aperture and address of a place word, or none where a bit that must be zero is not. -/
def place (w : Word) : Option (Nat × Nat) :=
  let v := w.toNat
  let ap := natBits v 63 62
  let ok := natBits v 61 56 == 0 && match ap with
    | 0 => natBits v 55 30 == 0
    | 1 => true
    | 2 => natBits v 55 30 == 0 && !bitN v 20 && natBits v 19 16 ≤ 11
    | _ => false
  if ok then some (ap, natBits v 55 0) else none

/-! ## Gathers and scatters (R203) -/

/-- Elements of a gather of a type. -/
def gatherLanes (t : Ty) : Nat := if t.width = 64 then 16 else 32

/-- An access of the running task on stream `str` that follows a write into the partition's translation area waits for it,
since its translation is to use the new tables (R293, R405): something not yet performed orders it, and such a write of the
task is among what is pending. -/
def State.tableWait (s : State) (k str : Nat) : Bool :=
  let c := s.getCe k
  let next : Acc := { id := c.accNext, addr := 0, idx := 0, bind := c.fir.bind, str := str, ty := .z64, kind := .flush 0,
                      sent := false, value := false, oo := none }
  let area (a : Nat) : Bool := (s.xareaOf a).contains c.part
  (c.pend.any fun e => e.blocks next) && c.pend.any fun e => e.bind == c.fir.bind &&
    match e.kind with
    | .dev _ r => (match r.op with | .read _ => false | _ => true) && area r.addr
    | .gather _ g => g.dev && g.kind != .gather && g.eas.any area
    | _ => false

/-- The checked address of every element: the memory tile that serves the request, and each element's scratchpad offset
or canonical device address; the lowest failing lane names the fault. -/
def State.gatherEas (s : State) (k : Nat) (t : Ty) (dev : Bool) (base : Nat) (write : Bool) :
    List Int → Nat × List Nat → Try (Nat × List Nat) × State
  | [], acc => (.ok acc, s)
  | i :: rest, (_, eas) =>
    let ea := (base : Int) + i * (t.width / 8 : Nat)
    let a := lowBits ea 64
    if dev then
      match s.devAt k a (t.width / 8) write with
      | (.ok pa, s) => State.gatherEas s k t dev base write rest (homeMt k, eas ++ [canonAddr pa])
      | (.error e, s) => (.error e, s)
    else
      match s.scratchAt (s.getCe k).part a (t.width / 8) with
      | .ok p =>
        if a / 2 ^ 20 = base / 2 ^ 20 then State.gatherEas s k t dev base write rest (p.1, eas ++ [p.2])
        else (.error (some ⟨.protect, a, 0⟩), s)
      | .error e => (.error e, s)

/-- GATHER, SCATTER and SCATADD: every check, then the request to the gather engine. A gather holds the firing until its
result returns, and a SCATADD, which reads what it adds to, until it is done; a scatter, until a slot accepts it (R195,
R279). -/
def State.gatherInstr (s : State) (f : FmtM) (kind : GatherKind) : State :=
  s.memInstr f fun k r s =>
    let w := r.w64 .a f.sa
    match place w with
    | some (ap, base) =>
      if ap = 2 then s.ceFault k .protect w.toNat 0
      else if ap = 1 && s.tableWait k f.str.toNat then s
      else
        let idx := (List.range (gatherLanes f.ty)).map fun i => sextN (lane (r.raw f.ty.width .b f.sb) 32 i) 32
        match s.gatherEas k f.ty (ap == 1) base (kind != .gather) idx (0, []) with
        | (.ok (mt, eas), s) =>
          let q := (s.getCe k).semOf f (kind != .gather)
          let req : GatherReq := { ce := k, acc := r.c.accNext, kind := kind, sem := q.1, sco := q.2, ty := f.ty, dev := ap == 1,
                                   vas := idx.map fun i => lowBits ((base : Int) + i * (f.ty.width / 8 : Nat)) 64, eas := eas,
                                   data := r.pair2 f.sb, left := List.range eas.length, asked := [], result := 0,
                                   arrive := 0, bad := none }
          let s := s.issue k f base true fun _ => .gather mt req
          if kind != .scatter then s
          else s.mapCe k fun c => { c with
            fir := { c.fir with hold := .gather }
            pend := c.pend.map fun a => if a.id = r.c.accNext then { a with value := false } else a }
        | (.error none, s) => s
        | (.error (some e), s) => s.ceFault k e.cls e.addr e.detail
    | none => s.ceFault k .protect w.toNat 0

/-- GATHER (R203). -/
def execGather (f : FmtM) (s : State) : Host.Outcome State Fault Refusal := .next (s.gatherInstr f .gather)
/-- SCATTER (R203). -/
def execScatter (f : FmtM) (s : State) : Host.Outcome State Fault Refusal := .next (s.gatherInstr f .scatter)
/-- SCATADD (R203). -/
def execScatadd (f : FmtM) (s : State) : Host.Outcome State Fault Refusal := .next (s.gatherInstr f .scatadd)

/-! ## Copies (R205 to R208) -/

/-- A promise word (R206). -/
def promiseWord (lpage mt ctx launch seq : Nat) : Word :=
  BitVec.ofNat 64 (6 * 2 ^ 60 + (2 * lpage + mt % 2) % 2 ^ 10 * 2 ^ 50 + ctx % 4 * 2 ^ 48 + launch % 2 ^ 16 * 2 ^ 32 + seq % 2 ^ 32)

/-- The context of a compute-element context slot (physical page × 4 + slot), and the one that issued a command. -/
def ceCtxOf (k : Nat) : Nat := cePage k * 4 + ceSlot k
def Copy.who (x : Copy) : Nat := ceCtxOf x.ce

/-- What names a fill for as long as its launch lives, wherever its pages move: its launch, the logical page of its issuer, and
its number. -/
def Copy.fillId (x : Copy) : Nat × Nat × BitVec 32 := (x.launch, x.lpage, x.seq)

/-- The engine and the copy of the context that a promise names, if it names one (R206). -/
def State.findCopy (s : State) (k : Nat) (p : Word) : Option (Nat × Copy) :=
  let c := s.getCe k
  let v := p.toNat
  if natBits v 63 60 ≠ 6 ∨ natBits v 47 32 ≠ c.launch % 2 ^ 16 ∨ natBits v 49 48 ≠ ceSlot k then none
  else (s.phys c.part (natBits v 59 51)).bind fun page =>
    let mt := page * 2 + natBits v 50 50
    ((s.getMt mt).copies.find? fun x =>
      x.launch == c.launch && x.who == ceCtxOf k && x.seq.toNat == natBits v 31 0).map fun x => (mt, x)

/-- The copies of a context that occupy entries of an engine (R205). -/
def MemTile.pendingCopies (m : MemTile) (who : Nat) : Nat :=
  (m.copies.filter fun x => x.who == who && (x.state == .pending || x.state == .faulted)).length

/-- Hands a copy-like command to an engine: it takes the context's next number there, and its promise is the value. A
copy of no bytes completes at once. -/
def State.newCopy (s : State) (k mt lpage str acc : Nat) (kind : CopyKind) (src dst : Word) (len : Nat) : Word × State :=
  let c := s.getCe k
  let m := s.getMt mt
  let seq := tget 0 m.copySeq (ceCtxOf k)
  let x : Copy := { seq := seq, ctx := ceSlot k, ce := k, launch := c.launch, str := str, kind := kind, src := src,
                    dst := dst, len := len, chunk := 0, done := 0,
                    state := if len = 0 then .complete else .pending, acc := acc, after := c.handoff str, lpage := c.lpage }
  (promiseWord lpage mt (ceSlot k) c.launch seq.toNat,
    s.setMt mt { m with copies := m.copies ++ [x], copySeq := tput m.copySeq (ceCtxOf k) (seq + 1) })

/-- Reserves the order-out of an engine command: it is published when the command completes (R191). -/
def CeCtx.engineAcc (c : CeCtx) (f : FmtM) (done : Bool) : CeCtx :=
  let id := c.accNext
  let c := c.reserve f.oo id
  let c := { c with accNext := id + 1 }
  if done then c.performOrder id
  else if f.oo.isSome then
    { c with pend := c.pend ++ [{ id := id, addr := 0, idx := c.fir.idx, bind := c.fir.bind, str := f.str.toNat, ty := f.ty,
                                   kind := .engine, sent := true, value := false, oo := some id }] }
  else c

/-- The context of a launch on a logical page and element, with its window (R466). -/
def State.windowOf (s : State) (launch part lp e : Nat) : Option Nat :=
  (s.phys part lp).bind fun page =>
    ((List.range 4).map fun x => ceKey page e x).find? fun k =>
      let c := s.getCe k
      c.launch == launch && c.winSize != 0

/-- The checks of COPY at issue, in the order R205 lists them. -/
def State.copyCheck (s : State) (c : CeCtx) (d : Vec) : Try Unit :=
  let src := d.extractLsb' 0 64
  let dst := d.extractLsb' 64 64
  let len := natBits d.toNat 159 128
  let protect (w : Word) : Try Unit := .error (some ⟨.protect, w.toNat, 0⟩)
  let extent (ap a : Nat) : Bool := ap != 0 || a + len ≤ (s.getPart c.part).nl * 2 ^ 21
  if d.toNat / 2 ^ 160 ≠ 0 then .error (some ⟨.illegal, 0, 0xF⟩)
  else
    match place src, place dst with
    | none, _ => protect src
    | some (ap, sa), q =>
      if ap = 2 then protect src
      else match q with
        | none => protect dst
        | some (dp, da) =>
          if !extent ap sa then protect src
          else if !extent dp da then protect dst
          else if dp == 2 && !((s.windowOf c.launch c.part (natBits da 29 21) (natBits da 19 16)).any fun k =>
              len = 0 || natBits da 15 0 + len ≤ (s.getCe k).winSize) then protect dst
          else if sa % 8 ≠ 0 then .error (some ⟨.align, src.toNat, 0⟩)
          else if da % 8 ≠ 0 then .error (some ⟨.align, dst.toNat, 0⟩)
          else if len % 8 ≠ 0 then .error (some ⟨.align, len, 0⟩)
          else .ok ()

/-- COPY (R205, R206). -/
def execCopy (f : FmtM) (s : State) : Host.Outcome State Fault Refusal :=
  .next (s.memInstr f fun k r s =>
    let d := r.raw 0 .a f.sa
    let mt := homeMt k
    s.check k (s.copyCheck r.c d) fun _ =>
      let len := natBits d.toNat 159 128
      if 32 ≤ (s.getMt mt).pendingCopies (ceCtxOf k) then s
      else
        let (p, s) := s.newCopy k mt r.c.lpage f.str.toNat r.c.accNext .copy (d.extractLsb' 0 64) (d.extractLsb' 64 64) len
        s.mapCe k fun c => (c.engineAcc f (len == 0)).give false p.toVec f.ta)

/-- The status of a promise (R208). -/
def copyStatus : Option (Nat × Copy) → Word
  | none => 1
  | some (_, x) =>
    BitVec.ofNat 64 (x.done * 2 ^ 32 + match x.state with
      | .pending => 0 | .complete => 1 | .faulted => 2 | .killed => 3)

/-- CPSTAT (R208). A completed copy's release has the scope of the device, which every element of the package lies in. -/
def execCpstat (f : FmtM) (s : State) : Host.Outcome State Fault Refusal :=
  .next (s.memInstr f fun k r s =>
    let v := copyStatus (s.findCopy k (r.w64 .a f.sa))
    s.mapCe k fun c => (c.instant f).give false v.toVec f.ta)

/-! ## Streams and queues (R209 to R212) -/

/-- The key of a context's stream. -/
def streamKey (k str : Nat) : Nat := k * 16 + str

/-- An SCLOSE of the stream has been issued and is not performed yet. -/
def CeCtx.closing (c : CeCtx) (key : Nat) : Bool := c.pend.any fun a => match a.kind with | .close x => x == key | _ => false

/-- The port that serves a stream (R310). -/
def State.portFor (s : State) (k : Nat) (far : Bool) : Nat :=
  let page := cePage k
  let die := pageDie page
  let px := page % 32
  let _ := s
  if !far then die * 8 + px % 8
  else
    let i := match die with | 0 => 0 | 1 => 1 | 4 => 2 | 5 => 3 | 2 => 0 | 3 => 1 | 6 => 2 | _ => 3
    (if die = 0 ∨ die = 1 ∨ die = 4 ∨ die = 5 then 64 else 72) + 2 * i + px % 2

/-- A device virtual address lies in the far tier. -/
def State.isFar (s : State) (part va : Nat) : Bool :=
  match s.translate part va with
  | .ok (pa, _) => 2 ^ 41 ≤ pa
  | .error _ => false

/-- The channel of a memory tile's endpoint in a context slot. -/
def State.mtChan (s : State) (mt ctx n : Nat) (out : Bool) : Option Nat :=
  (s.chans.find? fun e => if out then e.2.src == .mtOut mt ctx n else e.2.dst == .mtIn mt ctx n).map (·.1)

/-- Stream modes by code (R209). -/
def streamMode : Nat → StreamMode
  | 0 => .readTensor | 1 => .writeTensor | 2 => .readQueue | _ => .writeQueue

/-- SOPEN (R209): its checks, then the stream is open and its walk follows the accesses of its stream. -/
def execSopen (f : FmtM) (s : State) : Host.Outcome State Fault Refusal :=
  .next (s.memInstr f fun k r s =>
    let a := r.w64 .a f.sa
    let c := (r.w64 .b f.sb).toNat
    let key := streamKey k f.str.toNat
    let mode := streamMode (natBits c 1 0)
    let queue := mode == .readQueue || mode == .writeQueue
    let mt := cePage k * 2 + natBits c 7 7
    let chan := s.mtChan mt (ceSlot k) (natBits c 10 8) (mode == .readTensor || mode == .readQueue)
    let used := chan.all fun ch => s.streams.any fun e => e.1 != key && e.2.ch == ch
    let again := (tfind s.streams key).isSome
    if natBits c 31 12 ≠ 0 ∨ natBits c 6 2 ≠ 0 ∨ (queue ∧ natBits c 63 32 ≠ 0) ∨ (bitN c 11 ∧ mode ≠ .readTensor) ∨ used ∨
        (again ∧ !r.c.closing key) then s.ceFault k .illegal 0 0xF
    else if again then s
    else
      let rec? : Option Vec := if queue then some 0 else s.tensor r.c.part a
      match rec? with
      | none => s.ceFault k .handle a.toNat 0
      | some t =>
        if queue ∧ a.toNat % 64 ≠ 0 then s.ceFault k .align a.toNat 0
        else
          let far := if queue then s.isFar r.c.part a.toNat else bitN t.toNat 135 && s.isFar r.c.part (natBits t.toNat 55 0)
          let port := s.portFor k far
          if 64 ≤ (s.streams.filter fun e => e.2.port == port && e.2.faulted != some FaultClass.config.code).length then s
          else
            let x : Stream := { mode := mode, ce := k, launch := r.c.launch, str := f.str.toNat, port := port, mt := mt,
                                ch := chan.getD 0, tensor := t, header := a.toNat, pos := natBits c 63 32, ready := 0, skipTo := 0, lastm := bitN c 11,
                                ended := false, credit := 0, held := [],
                                checked := mode == .readTensor || (mode == .writeTensor && !bitN t.toNat 142 && natBits t.toNat 139 138 == 0),
                                faulted := none, faultAddr := 0,
                                after := r.c.handoff f.str.toNat }
            { s with streams := tput s.streams key x }.mapCe k fun c => (c.instant f).give false 0 f.ta)

/-- SCLOSE (R209). -/
def execSclose (f : FmtM) (s : State) : Host.Outcome State Fault Refusal :=
  .next (s.memInstr f fun k _ s => s.issue k f 0 false fun _ => .close (streamKey k f.str.toNat))

/-- The stream of a context in a given mode, unless its SCLOSE has been issued. -/
def State.openStream (s : State) (k str : Nat) (mode : StreamMode) : Option Stream :=
  if (s.getCe k).closing (streamKey k str) then none
  else (tfind s.streams (streamKey k str)).filter fun x => x.mode == mode

/-- QPUSH (R211): a seventeenth push held by the stream holds the block. -/
def execQpush (f : FmtM) (s : State) : Host.Outcome State Fault Refusal :=
  .next (s.memInstr f fun k r s =>
    let key := streamKey k f.str.toNat
    match s.openStream k f.str.toNat .writeQueue with
    | none => s.ceFault k .illegal 0 0xF
    | some _ =>
      let held := (r.c.pend.filter fun a => match a.kind with | .push x _ => x == key | _ => false).length
      if 16 ≤ held then s else s.issue k f 0 false fun _ => .push key (r.raw 0 .b f.sb))

/-- QPOP (R211). -/
def execQpop (f : FmtM) (s : State) : Host.Outcome State Fault Refusal :=
  .next (s.memInstr f fun k r s =>
    let key := streamKey k f.str.toNat
    let a := (r.w64 .a f.sa).toNat
    let owed := (r.c.pend.map fun p => match p.kind with | .pop x n => if x = key then n else 0 | _ => 0).sum
    match s.openStream k f.str.toNat .readQueue with
    | none => s.ceFault k .illegal 0 0xF
    | some x =>
      if a = 0 ∨ 64 < a ∨ 65535 < x.credit + owed + a then s.ceFault k .illegal 0 0xF
      else s.issue k f 0 false fun _ => .pop key a)

/-- SFLUSH (R212). -/
def execSflush (f : FmtM) (s : State) : Host.Outcome State Fault Refusal :=
  .next (s.memInstr f fun k _ s => s.issue k f 0 false fun _ => .flush (streamKey k f.str.toNat))

/-- IFLUSH (R214): discards the decoded blocks of the context's window that share a 16-byte unit with the range. -/
def execIflush (f : FmtM) (s : State) : Host.Outcome State Fault Refusal :=
  .next (s.memInstr f fun k r s =>
    let a := natBits (r.w64 .a f.sa).toNat 15 0
    let n := natBits (r.w64 .b f.sb).toNat 16 0
    if a % 16 ≠ 0 then s.ceFault k .align (r.w64 .a f.sa).toNat 0
    else s.mapCe k fun c =>
      let stop := min (a + n) c.winSize
      let c := { c with dec := c.dec.filter fun d => !(a < stop && d.address < ceilDiv stop 16 * 16 && a < d.nextPc) }
      (c.instant f).give false 0 f.ta)

/-! ## The random aperture (R213) -/

/-- Issues a device-memory request of one element, once its translation is known. -/
def State.devAcc (s : State) (k : Nat) (f : FmtM) (va : Nat) (value write : Bool) (op : DevOp) : State :=
  if s.tableWait k f.str.toNat then s else
  match s.devAt k va (f.ty.width / 8) write with
  | (.error none, s) => s
  | (.error (some e), s) => s.ceFault k e.cls e.addr e.detail
  | (.ok pa, s) =>
    let c := s.getCe k
    let q := c.semOf f write
    let ca := canonAddr pa
    s.issue k f va value fun id => .dev (devChannel ca)
      { addr := ca, op := op, part := c.part, group := k * 2 ^ 32 + id, arrive := 0, sem := q.1, sco := q.2,
        owner := .ce k id, tile := homeMt k }

/-- LDG (R213). -/
def execLdg (f : FmtM) (s : State) : Host.Outcome State Fault Refusal :=
  .next (s.memInstr f fun k r s => s.devAcc k f (r.w64 .a f.sa).toNat true false (.read (f.ty.width / 8)))

/-- STG (R213). -/
def execStg (f : FmtM) (s : State) : Host.Outcome State Fault Refusal :=
  .next (s.memInstr f fun k r s =>
    s.devAcc k f (r.w64 .a f.sa).toNat false true
      (.write (bytesOfNat (f.ty.width / 8) (lane (r.data f.ty .b f.sb) f.ty.width 0))))

/-- AGADD (R213). -/
def execAgadd (f : FmtM) (s : State) : Host.Outcome State Fault Refusal :=
  .next (s.memInstr f fun k r s =>
    s.devAcc k f (r.w64 .a f.sa).toNat true true (.atom .add f.ty (r.data f.ty .b f.sb)))

end Sys2Proof.Machine
end

