-- ==== Sys2Proof/Machine/Router.lean ====
section
/-!
DEFINITION. Sys2Proof/Machine/Router.lean: the router operators (09_isa_router.md, R216 to R236): what each one's rule
does with the tokens at its heads, the firing of an operator slot, in-band configuration, and its faults.
-/

namespace Sys2Proof.Machine

/-- What an operator's rule does with the tokens at its heads (R216, R220): it waits, faults, or fires, taking tokens,
giving at most one on each output (OUT0 with the way, for SWITCH), and changing its state; `point` says that a SINK took
a LAST. -/
inductive OpAct where
  | wait
  | fault (cls : FaultClass) (input addr detail : Nat)
  | fire (takes : List Nat) (give0 : Option (Nat × Token)) (give1 : Option Token) (o : OpSlot) (point : Bool)

/-- The tokens at the three heads. -/
abbrev Heads := List (Option Token)

/-- Token classes at operator ports (R219). -/
def Token.isMark (t : Token) : Bool := t.kind == 3
def Token.isData (t : Token) : Bool := t.kind == 0 || t.kind == 1 || t.kind == 2 || t.kind == 5 || t.kind == 6

/-- The mark code and the argument of a MARK (R17). -/
def Token.mark (t : Token) : Nat := lane t.data 8 0
def Token.arg (t : Token) : Nat := natBits t.data.toNat 63 32

/-- A MARK with a given code. -/
def Token.is (t : Token) (code : Nat) : Bool := t.isMark && t.mark == code

/-- Mark codes (R17). -/
def markEndRow : Nat := 1
def markBound : Nat := 4
def markLast : Nat := 5
def markDone : Nat := 6

/-- A SCALAR token, and a MARK token. -/
def scalarTok (v : Nat) : Token := ⟨0, BitVec.ofNat 1024 v, 0⟩
def markTok (code arg : Nat) : Token := ⟨3, BitVec.ofNat 1024 (code + arg * 2 ^ 32), 0⟩

/-- The head of input i. -/
def Heads.at (h : Heads) (i : Nat) : Option Token := lget none h i

/-- A control or predicate value: bit 0 exclusive-ORed with INV (R219). -/
def ctlBit (f : FmtC) (t : Token) : Bool := t.data.getLsbD 0 ^^ f.param.getLsbD 0

/-- A control, predicate or index token of a kind other than SCALAR is ILLEGAL and stays (R219). -/
def needScalar (i : Nat) (t : Token) (go : OpAct) : OpAct :=
  if t.kind = 0 then go else .fault .illegal i 0 0xF

/-- A rule that takes tokens and gives one on OUT0. -/
def give0 (takes : List Nat) (t : Token) (o : OpSlot) : OpAct := .fire takes (some (0, t)) none o false

/-- STEER's rule (R224). -/
def steerRule (f : FmtC) (o : OpSlot) (h : Heads) : OpAct :=
  match h.at 0, h.at 1 with
  | some d, some c =>
    needScalar 1 c <|
      if d.is markLast then .fire [0] (some (0, d)) (some d) o false
      else if ctlBit f c then .fire [0, 1] none (some d) o false
      else .fire [0, 1] (some (0, d)) none o false
  | some d, none => if d.is markLast then .fire [0] (some (0, d)) (some d) o false else .wait
  | none, some c => needScalar 1 c .wait
  | none, none => .wait

/-- MERGE's rule (R225). -/
def mergeRule (f : FmtC) (o : OpSlot) (h : Heads) : OpAct :=
  let last (x : Option Token) : Bool := match x with | some t => t.is markLast | none => false
  let body : OpAct :=
    if last (h.at 0) && last (h.at 1) then give0 [0, 1] ((h.at 0).getD default) o
    else match h.at 2 with
      | none => .wait
      | some c =>
        let i := b2n (ctlBit f c)
        match h.at i with
        | some d => if d.is markLast then .wait else give0 [2, i] d o
        | none => .wait
  match h.at 2 with
  | some c => needScalar 2 c body
  | none => body

/-- CARRY's rule (R226). -/
def carryRule (f : FmtC) (o : OpSlot) (h : Heads) : OpAct :=
  let body : OpAct :=
    if !o.loop then
      match h.at 0 with
      | some d => give0 [0] d { o with loop := !d.isMark }
      | none => .wait
    else
      match h.at 2, h.at 1 with
      | some c, some d =>
        if ctlBit f c then give0 [2, 1] d o else .fire [2, 1] none (some d) { o with loop := false } false
      | _, _ => .wait
  match h.at 2 with
  | some c => needScalar 2 c body
  | none => body

/-- NREP of REPEAT (R217). -/
def nrep (f : FmtC) : Nat := natBits f.param.toNat 12 1

/-- REPEAT's rule (R227). -/
def repeatRule (f : FmtC) (o : OpSlot) (h : Heads) : OpAct :=
  let fixed := nrep f ≠ 0
  let body : OpAct :=
    match o.held with
    | none =>
      match h.at 0 with
      | none => .wait
      | some d =>
        if d.is markBound then .fire [0] none none (if fixed then { o with copies := d.arg } else o) false
        else if d.isMark then give0 [0] d o
        else if !fixed then .fire [0] none none { o with held := some d } false
        else .fire [0] none none
          { o with left := o.copies, held := if o.copies = 0 then none else some d } false
    | some t =>
      if fixed then
        .fire [] (some (0, t)) none { o with left := o.left - 1, held := if o.left ≤ 1 then none else some t } false
      else
        match h.at 1 with
        | none => .wait
        | some c => if ctlBit f c then give0 [1] t o else .fire [1] none none { o with held := none } false
  match h.at 1 with
  | some c => if fixed then body else needScalar 1 c body
  | none => body

/-- COUNT's fields (R217). -/
def cntLastm (f : FmtC) : Bool := f.param.getLsbD 20
def cntStep (f : FmtC) : Nat := natBits f.param.toNat 19 12
def cntFixn (f : FmtC) : Nat := natBits f.param.toNat 11 0

/-- COUNT's rule (R228). -/
def countRule (f : FmtC) (o : OpSlot) (h : Heads) : OpAct :=
  match h.at 0 with
  | some d =>
    if d.is markBound then .fire [0] none none { o with n := BitVec.ofNat 32 d.arg } false
    else if o.run then running
    else if d.isMark then give0 [0] d o
    else needScalar 0 d <|
      .fire [0] none none
        { o with base := d.data.extractLsb' 32 32, i := 0, run := true
                 n := if cntFixn f = 0 then d.data.extractLsb' 0 32 else o.n } false
  | none => if o.run then running else .wait
where
  /-- An action of a count in progress. -/
  running : OpAct :=
    if o.i.toNat < o.n.toNat then
      .fire [] (some (0, scalarTok ((o.base + o.i * BitVec.ofNat 32 (cntStep f)).toNat))) (some (scalarTok 1))
        { o with i := o.i + 1 } false
    else
      .fire [] (if cntLastm f then some (0, markTok markLast 0) else none) (some (scalarTok 0))
        { o with run := false } false

/-- The ways of a SWITCH (R229). -/
def ways (f : FmtC) : Nat := natBits f.param.toNat 3 0 + 1

/-- SWITCH's rule (R229). -/
def switchRule (f : FmtC) (o : OpSlot) (h : Heads) : OpAct :=
  let body : OpAct :=
    match h.at 0 with
    | none => .wait
    | some d =>
      if d.is markLast then
        if o.lb + 1 < ways f then .fire [] (some (o.lb, d)) none { o with lb := o.lb + 1 } false
        else .fire [0] (some (o.lb, d)) none { o with lb := 0 } false
      else match h.at 1 with
        | none => .wait
        | some x =>
          let v := natBits x.data.toNat 31 0
          if v < ways f then .fire [0, 1] (some (v, d)) none o false else .fault .indexRange 0 v (ways f)
  match h.at 1 with
  | some x => needScalar 1 x body
  | none => body

/-- SPLOOP's fields (R217). -/
def spRowm (f : FmtC) : Bool := f.param.getLsbD 20
def spMask (f : FmtC) : Bool := natBits f.param.toNat 1 0 == 1

/-- The smallest remaining index, if the set is not empty (R230). -/
def spFirst (f : FmtC) (o : OpSlot) : Option Nat :=
  if spMask f then (List.range 64).find? fun i => o.mask.getLsbD i
  else if o.next < o.stop then some o.next else none

/-- SPLOOP's rule (R230). -/
def sploopRule (f : FmtC) (o : OpSlot) (h : Heads) : OpAct :=
  let finish (takes : List Nat) (o : OpSlot) : OpAct :=
    .fire takes (if spRowm f then some (0, markTok markEndRow 0) else none) (some (scalarTok 0))
      { o with run := false } false
  if o.run then
    match spFirst f o with
    | none => finish [] o
    | some i =>
      .fire [] (some (0, scalarTok i)) (some (scalarTok 1))
        { o with next := i + 1, mask := o.mask &&& ~~~(BitVec.twoPow 64 i) } false
  else
    match h.at 0 with
    | none => .wait
    | some d =>
      if d.isMark then give0 [0] d o
      else needScalar 0 d <|
        let o := { o with run := true, next := natBits d.data.toNat 31 0, stop := natBits d.data.toNat 63 32
                          mask := d.data.extractLsb' 0 64 }
        match spFirst f o with
        | none => finish [0] o
        | some _ => .fire [0] none none o false

/-- START of SEQ and SMERGE, zero-extended (R217). -/
def seqStart (f : FmtC) : BitVec 32 := BitVec.ofNat 32 (natBits f.param.toNat 19 0)

/-- SEQ's rule (R231). -/
def seqRule (f : FmtC) (o : OpSlot) (h : Heads) : OpAct :=
  match h.at 0 with
  | none => .wait
  | some d =>
    if d.isMark then
      give0 [0] d (if d.mark = markLast ∧ f.param.getLsbD 20 then { o with seq := seqStart f } else o)
    else if d.kind = 2 ∨ d.kind = 6 then .fault .illegal 0 0 0xF
    else
      let tag : BitVec 32 := if d.kind = 5 then d.rhdr.extractLsb' 32 32 else 0
      give0 [0] ⟨5, d.data, tag ++ o.seq⟩ { o with seq := o.seq + 1 }

/-- d(x, y) of R232: the difference modulo 2^32, read as signed. -/
def seqDiff (x y : BitVec 32) : Int := (x - y).toInt

/-- The sequence number of a ROW (R17). -/
def Token.seqNo (t : Token) : BitVec 32 := t.rhdr.extractLsb' 0 32

/-- SMERGE's rule (R232). -/
def smergeRule (f : FmtC) (o : OpSlot) (h : Heads) : OpAct :=
  let bad (x : Option Token) : Bool := match x with | some t => t.kind != 5 && !t.isMark | none => false
  let row (x : Option Token) : Option (BitVec 32) :=
    match x with | some t => if t.kind = 5 then some t.seqNo else none | none => none
  let other (x : Option Token) : Bool := match x with | some t => t.isMark && t.mark != markLast | none => false
  let last (x : Option Token) : Bool := match x with | some t => t.is markLast | none => false
  let dup (i : Nat) (q : BitVec 32) : OpAct := .fault .seqDup i q.toNat i
  let take (i : Nat) (o : OpSlot) : OpAct := match h.at i with | some t => give0 [i] t o | none => .wait
  let restart : OpSlot := { o with seq := seqStart f, prev := none }
  if bad (h.at 0) then .fault .illegal 0 0 0xF
  else if bad (h.at 1) then .fault .illegal 1 0 0xF
  else if !f.param.getLsbD 20 then
    -- dense mode
    let early (x : Option Token) : Option (BitVec 32) := (row x).filter fun q => seqDiff q o.seq < 0
    match early (h.at 0), early (h.at 1) with
    | some q, _ => dup 0 q
    | none, some q => dup 1 q
    | none, none =>
      if row (h.at 0) = some o.seq ∧ row (h.at 1) = some o.seq then dup 1 o.seq
      else if row (h.at 0) = some o.seq then take 0 { o with seq := o.seq + 1 }
      else if row (h.at 1) = some o.seq then take 1 { o with seq := o.seq + 1 }
      else if other (h.at 0) then take 0 o
      else if other (h.at 1) then take 1 o
      else if last (h.at 0) && last (h.at 1) then .fire [0, 1] (some (0, (h.at 0).getD default)) none restart false
      else .wait
  else if (h.at 0).isNone || (h.at 1).isNone then .wait
  else if other (h.at 0) then take 0 o
  else if other (h.at 1) then take 1 o
  else
    -- sorted mode, a ROW or LAST at both heads
    let old (x : Option Token) : Option (BitVec 32) :=
      (row x).filter fun q => match o.prev with | some p => seqDiff q p ≤ 0 | none => false
    match old (h.at 0), old (h.at 1) with
    | some q, _ => dup 0 q
    | none, some q => dup 1 q
    | none, none =>
      match row (h.at 0), row (h.at 1) with
      | some a, some b =>
        if a = b then dup 1 b
        else if seqDiff a b < 0 then take 0 { o with prev := some a } else take 1 { o with prev := some b }
      | some a, none => take 0 { o with prev := some a }
      | none, some b => take 1 { o with prev := some b }
      | none, none => .fire [0, 1] (some (0, (h.at 0).getD default)) none restart false

/-- FORK's rule (R233). -/
def forkRule (_f : FmtC) (o : OpSlot) (h : Heads) : OpAct :=
  match h.at 0 with
  | some d => .fire [0] (some (0, d)) (some d) o false
  | none => .wait

/-- SINK's rule (R234). -/
def sinkRule (_f : FmtC) (o : OpSlot) (h : Heads) : OpAct :=
  match h.at 0 with
  | some d =>
    let point := d.is markLast && o.points < o.ends
    .fire [0] none none (if point then { o with points := o.points + 1 } else o) point
  | none => .wait

/-- FILTER's rule (R235). -/
def filterRule (f : FmtC) (o : OpSlot) (h : Heads) : OpAct :=
  let body : OpAct :=
    match h.at 0 with
    | none => .wait
    | some d =>
      if d.isMark then give0 [0] d o
      else match h.at 1 with
        | none => .wait
        | some c => .fire [0, 1] (if ctlBit f c then some (0, d) else none) none o false
  match h.at 1 with
  | some c => needScalar 1 c body
  | none => body

/-- SYNC's rule (R235). -/
def syncRule (f : FmtC) (o : OpSlot) (h : Heads) : OpAct :=
  let ins := if f.in2.dir = .none then [0, 1] else [0, 1, 2]
  if ins.any fun i => (h.at i).isNone then .wait
  else match h.at (natBits f.param.toNat 1 0) with
    | some t => .fire ins (some (0, t)) (some t) o false
    | none => .wait

/-! ## An operator slot -/

/-- The word fields of an operator's instruction. -/
def fmtCOf : Instr → Option FmtC
  | .steer f | .merge f | .carry f | .repeat f | .count f | .switch f | .sploop f | .seq f | .smerge f | .fork f
  | .sink f | .filter f | .sync f => some f
  | _ => none

/-- The same operator with other word fields. -/
def withFields (g : FmtC → FmtC) : Instr → Instr
  | .steer f => .steer (g f) | .merge f => .merge (g f) | .carry f => .carry (g f) | .repeat f => .repeat (g f)
  | .count f => .count (g f) | .switch f => .switch (g f) | .sploop f => .sploop (g f) | .seq f => .seq (g f)
  | .smerge f => .smerge (g f) | .fork f => .fork (g f) | .sink f => .sink (g f) | .filter f => .filter (g f)
  | .sync f => .sync (g f)
  | i => i

/-- The slot's operator is a SWITCH, whose OUT0 names ways (R229). -/
def OpSlot.isSwitch (o : OpSlot) : Bool := match o.instr with | some (.switch _) => true | _ => false

/-- The rule of an operator. -/
def opRule (i : Instr) (o : OpSlot) (h : Heads) : OpAct :=
  match i with
  | .steer f => steerRule f o h | .merge f => mergeRule f o h | .carry f => carryRule f o h
  | .repeat f => repeatRule f o h | .count f => countRule f o h | .switch f => switchRule f o h
  | .sploop f => sploopRule f o h | .seq f => seqRule f o h | .smerge f => smergeRule f o h
  | .fork f => forkRule f o h | .sink f => sinkRule f o h | .filter f => filterRule f o h
  | .sync f => syncRule f o h
  | _ => .wait

/-- The control, predicate or index input of an operator (R219). -/
def ctlIn : Instr → Option Nat
  | .steer _ | .switch _ | .filter _ => some 1
  | .merge _ | .carry _ => some 2
  | .repeat f => if nrep f = 0 then some 1 else none
  | _ => none

/-- The channel of input i of an operator, unless its word leaves the port NONE (R221). -/
def OpSlot.inCh (o : OpSlot) (f : FmtC) (i : Nat) : Option Nat :=
  let p := match i with | 0 => f.in0 | 1 => f.in1 | _ => f.in2
  if p.dir = .none then none else lget none o.ins i

/-- The tokens at the heads of an operator's inputs. -/
def State.opHeads (s : State) (o : OpSlot) (f : FmtC) : Heads :=
  (List.range 3).map fun i => (s.filled (o.inCh f i)).head?

/-- The lowest-numbered input with a CONFIG token at its head (R220). -/
def State.opConfig (s : State) (o : OpSlot) (f : FmtC) : Option Nat :=
  (List.range 3).find? fun i => match (s.opHeads o f).at i with | some t => t.kind == 4 | none => false

/-- A MARK stands at the head of a control, predicate or index input (R219). -/
def State.opMark (s : State) (o : OpSlot) (i : Instr) (f : FmtC) : Option Nat :=
  (ctlIn i).filter fun n => match (s.opHeads o f).at n with | some t => t.isMark | none => false

/-- The initial state a word gives an operator (R236). -/
def OpSlot.restart (o : OpSlot) (i : Instr) : OpSlot :=
  let o := { o with loop := false, held := none, copies := 0, left := 0, run := false, i := 0, n := 0, base := 0, lb := 0,
                    next := 0, stop := 0, mask := 0, seq := 0, prev := none }
  match i with
  | .repeat f => { o with copies := nrep f }
  | .count f => { o with n := BitVec.ofNat 32 (cntFixn f) }
  | .seq f | .smerge f => { o with seq := seqStart f }
  | _ => o

/-- The holding slots of OUT0 and OUT1 are empty (R216, R229). -/
def State.hold0 (s : State) (o : OpSlot) : Bool := o.stuck.isNone && o.out0.all fun ch => (s.chanD ch).startq.isEmpty
def State.hold1 (s : State) (o : OpSlot) : Bool :=
  match o.out1 with | some ch => (s.chanD ch).startq.isEmpty | none => true

/-- The page, page-local tile, context slot and operator slot of an operator's key. -/
def opPage (k : Nat) : Nat := (ry (k / 32) / 4) * 32 + rx (k / 32) / 4
def opTile (k : Nat) : Nat := 4 * (ry (k / 32) % 4) + rx (k / 32) % 4
def opCtx (k : Nat) : Nat := k / 8 % 4

/-- An operator may take an action in this cycle (R216, R222). -/
def State.opMay (s : State) (k : Nat) : Bool :=
  let o := s.getOp k
  !o.fired && o.faulted.isNone && s.mayFire (opPage k) (opCtx k) o.launch

/-- The WAITING word of an operator (R417). -/
def State.opWaiting (s : State) (o : OpSlot) (f : FmtC) : Nat :=
  (List.range 8).foldl (fun acc i =>
    let b := match (if i < 3 then o.inCh f i else none) with
      | none => 0xE0
      | some ch => let q := (s.chanD ch).endq; (lget default q 0).kind * 32 + min 31 q.length
    acc + b * 2 ^ (8 * i)) 0

/-- The unit reference word of an operator (R416). -/
def State.opUref (s : State) (k : Nat) : Word :=
  urefWord 2 (s.lpageOf (s.getOp k).part (opPage k)) (opTile k) (opCtx k) (k % 8) 0

/-- An operator faults: it takes and gives nothing, becomes FAULTED, and its record is written (R222). -/
def State.opFault (s : State) (k : Nat) (f : FmtC) (word : Word) (cls : FaultClass) (input addr detail : Nat) : State :=
  let o := s.getOp k
  let s := s.setOp k { o with faulted := some cls.code, faultIn := input, fired := true }
  s.record o.part (s.isSuper o.launch)
    { cls := cls, kind := 3, ctx := opCtx k, xy := tileXy (opPage k) (opTile k), uref := s.opUref k, slot := k % 8,
      word := word.toNat, addr := addr, detail := detail, waiting := s.opWaiting o f }

/-- Takes the head tokens of inputs. -/
def State.opTake (s : State) (o : OpSlot) (f : FmtC) (takes : List Nat) : State :=
  takes.foldl (fun s i => match o.inCh f i with | some ch => s.freeTokens ch 1 | none => s) s

/-- Puts a token in the holding slot of an output (R216). -/
def State.opGive (s : State) (ch : Option Nat) (t : Token) : State :=
  match ch with
  | some ch => s.mapChan ch fun c => { c with startq := c.startq ++ [t] }
  | none => s

/-- A token is given on a way that no channel binds, which a CONFIG to SWITCH can bring about: its entry has V = 0, so the token
is held, the context stops, and MEM_UE names the router (R18, R400). -/
def State.opStuck (s : State) (k : Nat) (t : Token) : State :=
  let o := s.getOp k
  (s.setOp k { o with stuck := some t }).record o.part (s.isSuper o.launch)
    { cls := .memUe, kind := 3, ctx := opCtx k, xy := tileXy (opPage k) (opTile k), uref := 0, detail := 3 }

/-- A firing of an operator: it takes, gives, and changes its state whole, or not at all (R216). -/
def State.opFire (s : State) (k : Nat) (f : FmtC) (takes : List Nat) (g0 : Option (Nat × Token)) (g1 : Option Token)
    (o' : OpSlot) (point : Bool) : State :=
  let o := s.getOp k
  let g0 := if f.out0.dir = .none then none else g0
  let g1 := if f.out1.dir = .none then none else g1
  if (g0.isSome && !s.hold0 o) || (g1.isSome && !s.hold1 o) then s
  else
    let s := s.opTake o f takes
    let s := s.setOp k { o' with fired := true }
    let s := match g0 with
      | some (w, t) => if w < o.out0.length || !o.isSwitch then s.opGive (o.out0[w]?) t else s.opStuck k t
      | none => s
    let s := match g1 with | some t => s.opGive o.out1 t | none => s
    if point then s.countPoints o.launch 1 0 0 else s

/-- The frame of an operator's own rule, the third choice of R220: it acts only where no CONFIG and no control MARK
comes first. -/
def State.operator (s : State) (i : Instr) (f : FmtC) (rule : OpSlot → Heads → OpAct) : State :=
  let k := s.key
  let o := s.getOp k
  if !s.opMay k || (s.opConfig o f).isSome || (s.opMark o i f).isSome then s
  else
    match rule o (s.opHeads o f) with
    | .wait => s
    | .fault cls input addr detail => s.opFault k f ((encode i).getD 0) cls input addr detail
    | .fire takes g0 g1 o' point => s.opFire k f takes g0 g1 o' point

/-- Whether R220 would take an action in this cycle if the context were active (R44); `holding` says whether a full
holding slot counts (R284). -/
def State.opReady (s : State) (o : OpSlot) (holding : Bool) : Bool :=
  match o.instr, o.instr.bind fmtCOf with
  | some i, some f =>
    o.faulted.isNone &&
    ((s.opConfig o f).isSome || (s.opMark o i f).isSome ||
      match opRule i o (s.opHeads o f) with
      | .wait => false
      | .fault _ _ _ _ => true
      | .fire _ g0 g1 _ _ =>
        !holding || !((g0.isSome && f.out0.dir != .none && !s.hold0 o) || (g1.isSome && f.out1.dir != .none && !s.hold1 o)))
  | _, _ => false

/-! ## In-band configuration (R221) -/

/-- The word a CONFIG payload gives an operator whose placed word is p: payload ports of NONE unbind, others keep the
placed binding. None where the payload is invalid. -/
def configWord (k : Nat) (p : FmtC) (old : Instr) (payload : Word) : Option Instr :=
  match decC payload with
  | .error _ => none
  | .ok v =>
  let port (pl py : Port) : Option Port :=
    if py.dir = .none then some py else if pl.dir = .none then none else some pl
  match port p.in0 v.in0, port p.in1 v.in1, port p.in2 v.in2, port p.out0 v.out0, port p.out1 v.out1 with
  | some a, some b, some c, some d, some e =>
    let w := encC (fld payload 56 8) { in0 := a, in1 := b, in2 := c, out0 := d, out1 := e, param := v.param }
    let sink (i : Instr) : Bool := match i with | .sink _ => true | _ => false
    -- ROWBUS and COLBUS only where the tile has such a bus (R19, R93)
    let bus (q : Port) : Bool :=
      (q.dir != .rowbus || ry (k / 32) % 4 == 1 || ry (k / 32) % 4 == 2) &&
      (q.dir != .colbus || rx (k / 32) % 4 == 1 || rx (k / 32) % 4 == 2)
    match routerWord w with
    | some i => if sink i == sink old && [a, b, c, d, e].all bus then some i else none
    | none => none
  | _, _, _, _, _ => none

/-- CONFIG_TOKEN_TAKE (R220, R221): the operator takes a CONFIG token alone and replaces its word, or faults. -/
def State.takeConfig (s : State) (k : Nat) : State :=
  let o := s.getOp k
  match o.instr, o.placed with
  | some i, some p =>
    match fmtCOf i with
    | none => s
    | some f =>
      match s.opConfig o f with
      | none => s
      | some n =>
        if !s.opMay k then s
        else
          let payload := match (s.opHeads o f).at n with | some t => t.data.toWord | none => 0
          match configWord k p i payload with
          | none => s.opFault k f payload .config n 0 0
          | some i' =>
            let s := s.opTake o f [n]
            s.setOp k { (o.restart i') with instr := some i', fired := true }
  | _, _ => s

/-- CONTROL_MARK_DISCARD (R219, R220): a MARK at a control, predicate or index input is discarded alone. -/
def State.discardMark (s : State) (k : Nat) : State :=
  let o := s.getOp k
  match o.instr, o.instr.bind fmtCOf with
  | some i, some f =>
    if !s.opMay k || (s.opConfig o f).isSome then s
    else match s.opMark o i f with
      | none => s
      | some n => (s.opTake o f [n]).setOp k { o with fired := true }
  | _, _ => s

/-- The step R220 chooses for an operator slot. -/
def State.opChoice (s : State) (k : Nat) : Option Instr :=
  let o := s.getOp k
  match o.instr, o.instr.bind fmtCOf with
  | some i, some f =>
    some (if (s.opConfig o f).isSome then .configTokenTake k
      else if (s.opMark o i f).isSome then .controlMarkDiscard k
      else i)
  | _, _ => none

/-- TRET on a faulted operator (R222): retry evaluates R220 again, skip discards the tokens the class names. -/
def State.opSkip (s : State) (o : OpSlot) (skip : Bool) : State :=
  match skip, o.instr.bind fmtCOf with
  | true, some f => s.opTake o f (if o.faulted = some FaultClass.indexRange.code then [0, 1] else [o.faultIn])
  | _, _ => s

/-- TRET retry or skip on a faulted operator of the package. -/
def State.opReturn (s : State) (k : Nat) (skip : Bool) : State :=
  let o := s.getOp k
  (s.opSkip o skip).setOp k { o with faulted := none }

/-! ## The meanings -/

/-- STEER (R224). -/
def execSteer (f : FmtC) (s : State) : Host.Outcome State Fault Refusal := .next (s.operator (.steer f) f (steerRule f))
/-- MERGE (R225). -/
def execMerge (f : FmtC) (s : State) : Host.Outcome State Fault Refusal := .next (s.operator (.merge f) f (mergeRule f))
/-- CARRY (R226). -/
def execCarry (f : FmtC) (s : State) : Host.Outcome State Fault Refusal := .next (s.operator (.carry f) f (carryRule f))
/-- REPEAT (R227). -/
def execRepeat (f : FmtC) (s : State) : Host.Outcome State Fault Refusal := .next (s.operator (.repeat f) f (repeatRule f))
/-- COUNT (R228). -/
def execCount (f : FmtC) (s : State) : Host.Outcome State Fault Refusal := .next (s.operator (.count f) f (countRule f))
/-- SWITCH (R229). -/
def execSwitch (f : FmtC) (s : State) : Host.Outcome State Fault Refusal := .next (s.operator (.switch f) f (switchRule f))
/-- SPLOOP (R230). -/
def execSploop (f : FmtC) (s : State) : Host.Outcome State Fault Refusal := .next (s.operator (.sploop f) f (sploopRule f))
/-- SEQ (R231). -/
def execSeq (f : FmtC) (s : State) : Host.Outcome State Fault Refusal := .next (s.operator (.seq f) f (seqRule f))
/-- SMERGE (R232). -/
def execSmerge (f : FmtC) (s : State) : Host.Outcome State Fault Refusal := .next (s.operator (.smerge f) f (smergeRule f))
/-- FORK (R233). -/
def execFork (f : FmtC) (s : State) : Host.Outcome State Fault Refusal := .next (s.operator (.fork f) f (forkRule f))
/-- SINK (R234). -/
def execSink (f : FmtC) (s : State) : Host.Outcome State Fault Refusal := .next (s.operator (.sink f) f (sinkRule f))
/-- FILTER (R235). -/
def execFilter (f : FmtC) (s : State) : Host.Outcome State Fault Refusal := .next (s.operator (.filter f) f (filterRule f))
/-- SYNC (R235). -/
def execSync (f : FmtC) (s : State) : Host.Outcome State Fault Refusal := .next (s.operator (.sync f) f (syncRule f))
/-- CONFIG_TOKEN_TAKE (R221). -/
def execConfigTokenTake (op : Nat) (s : State) : Host.Outcome State Fault Refusal := .next (s.takeConfig op)
/-- CONTROL_MARK_DISCARD (R219). -/
def execControlMarkDiscard (op : Nat) (s : State) : Host.Outcome State Fault Refusal := .next (s.discardMark op)

end Sys2Proof.Machine
end

