-- ==== Sys2Proof/Machine/Banks.lean ====
section
/-!
DEFINITION. Sys2Proof/Machine/Banks.lean: the banks of a memory tile and its gather engine (11_mem_tiles.md, R268 to R280):
serving a line, errors, power, clearing, and the slots of gathers and scatters.
-/

namespace Sys2Proof.Machine

/-! ## Uncorrectable words (R195, R274) -/

/-- The partition a memory tile belongs to. -/
def State.mtPart (s : State) (mt : Nat) : Nat := (s.getPage (mt / 2)).owner.getD 0

/-- A read of a line finds an uncorrectable word: it stays so until it is written whole, and is counted. -/
def State.markLost (s : State) (mt off : Nat) (err : WordErr) : State :=
  if err ≠ .lost ∨ (s.getMt mt).lost.contains (off / 8) then s
  else (s.mapMt mt fun m => { m with lost := m.lost ++ [off / 8] }).countPart (s.mtPart mt) 0x301 1

/-- A read of a line finds a single-bit error, which it corrects: it is counted, and the word is to be written back. -/
def State.markFixed (s : State) (mt line : Nat) (err : WordErr) : State :=
  if err ≠ .corrected then s
  else (s.mapMt mt fun m => { m with banks := lmod m.banks (line % 16) fun b =>
      { b with writeback := b.writeback ++ [line] } }).countPart (s.mtPart mt) 0x300 1

/-- The request of an access met an uncorrectable error: the instruction that waits for its value raises MEM_UE; an access
that holds none has changed nothing and publishes nothing, and its record names its instruction (R195, R286; log entry 21). -/
def State.accLost (s : State) (k : Nat) (a : Acc) (addr detail : Nat) : State :=
  if a.value then s.valueLost k a.id addr detail
  else ((s.ceRecord k a.bind .memUe addr detail a.idx).mapCe k (·.dropAcc a.id)).pump k

/-! ## Serving a bank (R269, R270) -/

/-- The bytes of its line that a request reads, for the check bits: their offset in the line and number. -/
def State.readSpan (s : State) (k : Nat) (a : Acc) (op : LineOp) : Nat × Nat :=
  let w := a.ty.width / 8
  match op, a.kind with
  | .write _ _, _ => (0, 0)
  | .atom _ _ off _, _ => (off, w)
  | .read, .range _ off count _ _ => (off % 128, min (count * w) (128 - off % 128))
  | .read, _ => (match ceWord (s.getCe k).fir.word with | .ok (.ldv _) => (0, 128) | _ => (a.addr % 128, w))
  | _, _ => (0, 128)

/-- One step of BRED's reduction (R201). -/
def bredStep (op : Nat) (t : Ty) (acc : Option (BitVec 64)) (v : Nat) : Option (BitVec 64) :=
  some (match acc with
    | none => BitVec.ofNat 64 v
    | some x => BitVec.ofNat 64 (bewElem op t x.toNat v))

/-- BRED has read one line of its range: it asks for the next, or delivers. -/
def State.bredLine (s : State) (k : Nat) (a : Acc) (old : Vec) (mt off count op : Nat) (acc : Option (BitVec 64)) : State :=
  let w := a.ty.width
  let n := min count ((128 - off % 128) * 8 / w)
  let acc := (List.range n).foldl (fun x i => bredStep op a.ty x (lane old w (off % 128 * 8 / w + i))) acc
  if n = count then
    (s.performed k a.id).deliver k false (extElem a.ty (acc.getD 0).toNat)
  else
    let a' := { a with kind := .range mt (off + n * w / 8) (count - n) op acc }
    (s.mapCe k fun c => { c with pend := c.pend.map fun x => if x.id = a.id then a' else x }).sendAcc k a'

/-- The semantics of a range's line read: .acq on the line that holds the last element (R201). -/
def State.bredSem (s : State) (k : Nat) (a : Acc) : BitVec 2 :=
  match a.kind with
  | .range _ off count _ _ =>
    if off % 128 + count * (a.ty.width / 8) ≤ 128 then (match decM (s.getCe k).fir.word with | .ok f => f.sem | .error _ => 0) else 0
  | _ => 0

/-- A direct request of a compute element is served: its line operation is made, the access is performed, and its value
goes back (R198 to R201, R269). -/
def State.serveDirect (s : State) (mt : Nat) (q : BankReq) (err : WordErr) : State :=
  match q.owner with
  | .gather _ _ => s
  | .ce k id =>
    match (s.getCe k).pend.find? (·.id == id) with
    | none => (s.lineOp q mt k).2
    | some a =>
      let (lo, n) := s.readSpan k a q.op
      let s := if n = 0 then s else (s.markLost mt (128 * q.line + lo) err).markFixed mt q.line err
      if s.scratchLost mt (128 * q.line + lo) n then s.accLost k a a.addr 0
      else
        match a.kind with
        | .range _ off count op acc =>
          let (old, s) := s.lineOp { q with sem := s.bredSem k a } mt k
          s.bredLine k a old mt off count op acc
        | _ =>
          let (old, s) := s.lineOp q mt k
          let s := s.performed k id
          if !a.value then s
          else
            match q.op with
            | .atom _ t off _ => s.deliver k false (extElem t (lane old t.width (8 * off / t.width)))
            | .bew _ _ _ => s.deliver k false 0
            | _ => if n = 128 then s.deliver k true old else s.deliver k false (extElem a.ty (lane old a.ty.width (8 * lo / a.ty.width)))

/-! ## Gather slots (R203, R204, R279, R280) -/

/-- Whether a slot's request is done, and what the slot becomes: a done scatter frees it at once. -/
def GatherReq.settle (r : GatherReq) : GatherSlot :=
  if !r.left.isEmpty then .accepted r else if r.kind == .gather then .done r else .free

/-- Elements of a request have been served: the slot, and the access of a scatter or of a SCATADD, which holds its firing until
then, settle. -/
def State.gatherServed (s : State) (mt slot : Nat) (r : GatherReq) : State :=
  let s := s.mapMt mt fun m => { m with gather := m.gather.set slot r.settle }
  if r.left.isEmpty && r.kind != .gather then
    match (s.getCe r.ce).pend.find? (·.id == r.acc), r.bad with
    | some a, some i => s.accLost r.ce a (lget 0 r.vas i) (b2n r.dev)
    | some a, none => let s := s.performed r.ce r.acc; if a.value then s.deliver r.ce false 0 else s
    | none, _ => s
  else s

/-- The elements of a request whose data lies in a unit of `size` bytes. -/
def GatherReq.inUnit (r : GatherReq) (size unit : Nat) : List Nat := r.left.filter fun e => lget 0 r.eas e / size == unit

/-- Puts the elements a read has returned into a gather's result. `v` holds the unit's bytes. -/
def GatherReq.take (r : GatherReq) (size : Nat) (es : List Nat) (v : Vec) : GatherReq :=
  let w := r.ty.width
  { r with
    result := es.foldl (fun x e => x ||| BitVec.ofNat 1024 (lane v w (lget 0 r.eas e % size * 8 / w) * 2 ^ (w * e))) r.result
    left := r.left.filter fun e => !es.contains e }

/-- The elements a unit's scatter writes: place in the unit, and value, in ascending lane order. -/
def GatherReq.elems (r : GatherReq) (size : Nat) (es : List Nat) : List (Nat × BitVec 64) :=
  let w := r.ty.width
  es.map fun e => (lget 0 r.eas e % size * 8 / w, BitVec.ofNat 64 (lane r.data w e))

/-- The line operation of a slot on one line (R203, R272): lanes that name one address apply in ascending lane order. -/
def GatherReq.lineOp (r : GatherReq) (es : List Nat) : LineOp :=
  match r.kind with
  | .gather => .read
  | .scatadd => .adds r.ty (r.elems 128 es)
  | .scatter =>
    let w := r.ty.width
    let ps := r.elems 128 es
    .write (BitVec.ofNat 128 (ps.foldl (fun m p => m ||| ((2 ^ (w / 8) - 1) * 2 ^ (w / 8 * p.1))) 0))
      (ofLanes w (ps.foldl (fun ls p => ls.set p.1 p.2.toNat) (List.replicate (1024 / w) 0)))

/-- The gather engine's head request of a bank is served. -/
def State.serveGather (s : State) (mt slot : Nat) (r : GatherReq) (line : Nat) (err : WordErr) : State :=
  let es := r.inUnit 128 line
  let w := r.ty.width / 8
  let reads := r.kind != .scatter
  let s := if reads then (s.markLost mt (lget 0 r.eas (es.headD 0)) err).markFixed mt line err else s
  let lost := es.filter fun e => reads && s.scratchLost mt (lget 0 r.eas e) w
  match lost with
  | e :: _ =>
    s.gatherServed mt slot { r with
      left := r.left.filter fun x => !es.contains x
      bad := some (match r.bad with | some b => min b e | none => e) }
  | [] =>
    let q : BankReq := { port := 1, arrive := 0, line := line, op := r.lineOp es, sem := r.sem, sco := r.sco, owner := .gather mt slot }
    let (old, s) := s.lineOp q mt r.ce
    s.gatherServed mt slot (if r.kind == .gather then r.take 128 es old else { r with left := r.left.filter fun x => !es.contains x })

/-- The bank's choice between its two ports with requests of their own: the head that arrived first, and among heads of one
cycle in rotation after the port served last (R270). True for the compute elements' port. -/
def Bank.direct (b : Bank) (q : BankReq) (r : GatherReq) : Bool :=
  let a0 := max q.arrive (tget 0 b.served 0)
  let a1 := max r.arrive (tget 0 b.served 1)
  a0 < a1 || (a0 == a1 && b.last != 0)

/-- Nothing waits at a bank of a tile. -/
def MemTile.bankEmpty (m : MemTile) (bank : Nat) : Bool :=
  m.input.isEmpty && (lget {} m.banks bank).queue.isEmpty && (m.gatherHead bank).isNone

/-- Banks of a page that was taken gate once they have served what was queued, and power up for the next owner (R276). The
contents of a tile are lost with its last bank. -/
def State.settleGates (s : State) (page : Nat) : State :=
  let g := s.getPage page
  if !g.gating then s
  else
    let next : BankPower := if g.owner.isSome then .powering Config.bankPowerUpCycles else .gated
    let off (p : BankPower) : Bool := match p with | .gated | .powering _ => true | _ => false
    let s := (List.range 2).foldl (fun s i => s.mapMt (page * 2 + i) fun m => { m with
      banks := (List.range m.banks.length).map fun j =>
        let b := lget {} m.banks j
        if !off b.power && m.bankEmpty j then { b with power := next, idle := 0, writeback := [] } else b }) s
    (List.range 2).foldl (fun s i =>
      let mt := page * 2 + i
      if !(s.getMt mt).banks.all (fun b => off b.power) then s.mapPage page fun g => { g with gating := true }
      else
        let s := s.mapMt mt fun m => { m with lost := [] }
        { s with
          scratch := s.scratch.clear (scratchAddr mt 0) (2 ^ 20)
          lineScope := tfilter s.lineScope fun l _ => l < mt * 2 ^ 13 || (mt + 1) * 2 ^ 13 ≤ l })
      (s.mapPage page fun g => { g with gating := false })

/-- BANK_SERVE (R269, R270, R275): a bank that is awake serves one request in a cycle; a drowsy bank that a request has reached
starts its wake. A page that is being cleared serves none but those that were queued when it was taken (R276, R277). The other
engines make their line operations in their own steps (log entry 8). -/
def State.bankServe (s : State) (mt bank : Nat) (err : WordErr) : State :=
  let m := s.getMt mt
  let b := lget {} m.banks bank
  let g := s.getPage (mt / 2)
  let used (p : Nat) (q : List BankReq) (tile : Nat) : State :=
    let b' := { b with queue := q, idle := 0, last := p, tile := tile, served := tput b.served p s.cycle.toNat }
    let m' := { m with banks := m.banks.set bank b' }
    s.setMt mt (m'.drain s.cycle.toNat m'.input)
  let direct (q : BankReq) (rest : List BankReq) : State := ((used 0 rest b.tile).serveDirect mt q err).settleGates (mt / 2)
  let gather (x : Nat × GatherReq × Nat) : State :=
    ((used 1 b.queue (ceElem x.2.1.ce)).serveGather mt x.1 x.2.1 x.2.2 err).settleGates (mt / 2)
  if (g.clearing && !g.gating) || b.served.any (fun e => e.2 == s.cycle.toNat) then s
  else match b.power, b.queue, m.gatherHead bank with
  | _, [], none => s
  | .awake, q :: rest, none => direct q rest
  | .awake, [], some x => gather x
  | .awake, q :: rest, some x => if b.direct q x.2.1 then direct q rest else gather x
  | .drowsy, _, _ => (s.bankAwake mt bank).2
  | _, _, _ => s

/-- BANK_SERVE. -/
def execBankServe (mt bank : Nat) (err : WordErr) (s : State) : Host.Outcome State Fault Refusal := .next (s.bankServe mt bank err)

/-- BANK_ECC_WRITEBACK (R274): a corrected word is written back in a free cycle of its bank. -/
def execBankEccWriteback (mt bank : Nat) (s : State) : Host.Outcome State Fault Refusal :=
  let m := s.getMt mt
  let b := lget {} m.banks bank
  .next (if b.power == .awake && b.queue.isEmpty && (m.gatherHead bank).isNone && !b.writeback.isEmpty then
      s.setMt mt { m with banks := m.banks.set bank { b with writeback := b.writeback.drop 1, idle := 0 } }
    else s)

/-! ## Power (R275, R276) -/

/-- BANK_DROWSE (R275): an awake bank that nothing waits for, and that has been idle for its partition's number of cycles. -/
def execBankDrowse (mt bank : Nat) (s : State) : Host.Outcome State Fault Refusal :=
  let m := s.getMt mt
  let b := lget {} m.banks bank
  let limit := (s.getPart (s.mtPart mt)).regs.drowsyIdle.toNat
  .next (if b.power == .awake && limit != 0 && limit ≤ b.idle && b.queue.isEmpty && (m.gatherHead bank).isNone then
      s.setMt mt { m with banks := m.banks.set bank { b with power := .drowsy } }
    else s)

/-- BANK_WAKE_END (R275): the 24 cycles of a wake are over. -/
def execBankWakeEnd (mt bank : Nat) (s : State) : Host.Outcome State Fault Refusal :=
  let m := s.getMt mt
  let b := lget {} m.banks bank
  .next (if b.power == .waking 0 then s.setMt mt { m with banks := m.banks.set bank { b with power := .awake, idle := 0 } } else s)

/-- BANK_POWER_UP (R276): the 600 cycles are over, and every bank of the tile reads zero. -/
def execBankPowerUp (mt : Nat) (s : State) : Host.Outcome State Fault Refusal :=
  let m := s.getMt mt
  .next (if m.banks.all (·.power == .powering 0) then
      let a := scratchAddr mt 0
      let s := s.setMt mt { m with
        banks := m.banks.map fun b => { b with power := .awake, idle := 0, writeback := [] }, lost := [] }
      { s with
        scratch := s.scratch.clear a (2 ^ 20)
        lineScope := tfilter s.lineScope fun l _ => l < a / 128 || (a + 2 ^ 20) / 128 ≤ l }
    else s)

/-- PAGE_CLEAR (R277): once the old partition's launches have left the page and its nodes are clear (R392), every other
store of it is emptied, and the page serves its new owner. -/
def execPageClear (page : Nat) (s : State) : Host.Outcome State Fault Refusal :=
  let p := s.getPage page
  .next (if !p.clearing || p.gating || p.resident.any (· != 0) || (List.range 2).any (fun n => (s.getMn (page * 2 + n)).clearing) then s
    else
      let s := s.setPage page { p with clearing := false }
      let s := { s with
        ce := tfilter s.ce fun k _ => cePage k != page
        ops := tfilter s.ops fun k _ => opPage k != page
        routes := tfilter s.routes fun k _ => routerPage (k / 320) != page
        istore := s.istore.clear (page * 2 ^ 20) (2 ^ 20) }
      (List.range 2).foldl (fun s n =>
        if (tfind s.mts (page * 2 + n)).isNone then s
        else s.mapMt (page * 2 + n) fun m => { m with dir := [], store := [], stale := [], compiles := [], steps := [], pending := [], lookups := [], xcache := [] }) s)

/-! ## Accepting and returning (R279, R280) -/

/-- The compute element of a context key. -/
def elemOf (k : Nat) : Nat := k / 4

/-- The request in a slot. -/
def GatherSlot.req : GatherSlot → Option GatherReq
  | .free => none
  | .accepted r => some r
  | .done r => some r

/-- Slots an element holds at a gather engine. -/
def MemTile.slotsOf (m : MemTile) (e : Nat) : Nat :=
  (m.gather.filter fun x => match x.req with | some r => elemOf r.ce == e | none => false).length

/-- Sends the sector requests of accepted device slots while the tile has places among its 256 (R204). -/
def State.sendSectors : Nat → State → Nat → State
  | 0, s, _ => s
  | fuel + 1, s, mt =>
    let m := s.getMt mt
    let next := (List.range m.gather.length).findSome? fun i =>
      match lget .free m.gather i with
      | .accepted r => if r.dev then (r.left.find? fun e => !r.asked.contains e).map fun e => (i, r, e) else none
      | _ => none
    match next with
    | none => s
    | some (i, r, e) =>
      if 256 ≤ s.sectorsTaken mt then s
      else
        let sector := lget 0 r.eas e / 64
        let es := r.inUnit 64 sector
        let c := s.getCe r.ce
        let op : DevOp := match r.kind with
          | .gather => .read 64 | .scatter => .puts r.ty (r.elems 64 es) | .scatadd => .adds r.ty (r.elems 64 es)
        let ch := devChannel (64 * sector)
        let q : DevReq := { addr := 64 * sector, op := op, part := c.part, group := r.ce * 2 ^ 32 + r.acc, arrive := s.cycle.toNat,
                            sem := r.sem, sco := r.sco, owner := .gather mt i, tile := mt }
        let r' := { r with asked := r.asked ++ es }
        let s := s.setMt mt { m with gather := m.gather.set i (.accepted r'), outstanding := m.outstanding + 1 }
        State.sendSectors fuel (s.setDc ch (let d := s.getDc ch; { d with queue := d.queue ++ [q] })) mt

/-- GATHER_ACCEPT (R279): in a cycle, the first waiting request whose element holds fewer than sixteen slots takes the lowest
free slot. A scatter's block goes on. -/
def State.gatherAccept (s : State) (mt : Nat) : State :=
  let m := s.getMt mt
  if m.gatherAt = some s.cycle.toNat then s
  else match m.gatherIn.find? (fun r => m.slotsOf (elemOf r.ce) < 16), m.gather.findIdx? (· == .free) with
  | some r, some i =>
    let r := { r with arrive := s.cycle.toNat }
    let e := elemOf r.ce
    let mine := ((m.order.find? (·.1 == e)).map (·.2)).getD []
    let s := s.setMt mt { m with
      gatherIn := m.gatherIn.erase (m.gatherIn.find? (fun r => m.slotsOf (elemOf r.ce) < 16) |>.getD r)
      gather := m.gather.set i (.accepted r)
      gatherAt := some s.cycle.toNat
      order := if r.kind == .gather then tput m.order e (mine ++ [i]) else m.order }
    let s := s.countPage (cePage r.ce) (ceSlot r.ce) 0x130 1
    let s := if r.kind == .gather then s else s.mapCe r.ce fun c => if c.fir.hold == .gather then c.bump else c
    if r.dev then State.sendSectors 64 s mt else s
  | _, _ => s

/-- GATHER_ACCEPT. -/
def execGatherAccept (mt : Nat) (s : State) : Host.Outcome State Fault Refusal := .next (s.gatherAccept mt)

/-- GATHER_RETURN (R280): the result of an element's oldest gather, if it is done, goes back and its slot is free. -/
def State.gatherReturn (s : State) (mt e : Nat) : State :=
  let m := s.getMt mt
  match (m.order.find? (·.1 == e)).map (·.2) with
  | some (i :: rest) =>
    match lget .free m.gather i with
    | .done r =>
      let s := s.setMt mt { m with
        gather := m.gather.set i .free, order := if rest.isEmpty then tdel m.order e else tput m.order e rest }
      match r.bad with
      | some b => s.valueLost r.ce r.acc (lget 0 r.vas b) (b2n r.dev)
      | none => (s.performed r.ce r.acc).deliver r.ce true r.result
    | _ => s
  | _ => s

/-- GATHER_RETURN. -/
def execGatherReturn (mt ce : Nat) (s : State) : Host.Outcome State Fault Refusal := .next (s.gatherReturn mt ce)

end Sys2Proof.Machine
end

