-- ==== Sys2Proof/Machine/Control.lean ====
section
/-!
DEFINITION. Sys2Proof/Machine/Control.lean: the channel, token, block and task instructions of format X (07, R163 to
R174 and R180, R181).
-/

namespace Sys2Proof.Machine

/-- The frame of an instruction of format X (R84, R163, R187): it waits while the firing is held; with a false guard it
delivers 0 and does nothing else. -/
def State.instrX (s : State) (f : FmtX) (go : Nat → Rd → State → State) : State :=
  let k := s.key
  let r := s.rdAt k
  if r.c.fir.hold ≠ .none then s
  else if !r.guardX f then s.mapCe k fun c => c.give false 0 f.ta
  else go k r s

/-- Source a of a format X instruction. -/
def Rd.xa (r : Rd) (f : FmtX) : Word := r.w64 .a f.sa

/-- Changes the running firing and goes on. -/
def State.onFiring (s : State) (k : Nat) (g : Firing → Firing) : State :=
  s.mapCe k fun c => { c with fir := g c.fir }.bump

/-- Delivers a scalar and goes on. -/
def State.giveX (s : State) (k : Nat) (f : FmtX) (v : Word) : State := s.mapCe k fun c => c.give false v.toVec f.ta

/-! ## Tokens (R164 to R168) -/

/-- The output channel and offset of IMM19 (R164). -/
def imOch (f : FmtX) : Nat := natBits f.imm.toNat 6 4
def imOoff (f : FmtX) : Nat := natBits f.imm.toNat 3 0

/-- Writes a token into the output slot of R164 and goes on. -/
def State.writeTok (s : State) (k : Nat) (f : FmtX) (t : Token) : State :=
  s.mapCe k fun c => (c.stageTok (imOch f) (imOoff f) t).bump

/-- The token SEND writes (R166). -/
def sendTok (r : Rd) (f : FmtX) : Token :=
  let kind := f.sub.toNat % 8
  let a := r.raw 0 .a f.sa
  let hdr := r.c.regs.s[natBits f.imm.toNat 10 8]!
  match kind with
  | 1 => ⟨1, a, 0⟩
  | 5 => ⟨5, a, hdr⟩
  | n => ⟨n, a.toWord.toVec, 0⟩

/-- SEND (R166). -/
def execSend (f : FmtX) (s : State) : Host.Outcome State Fault Refusal :=
  .next (s.instrX f fun k r s => s.writeTok k f (sendTok r f))

/-- OSEND (R166). -/
def execOsend (f : FmtX) (s : State) : Host.Outcome State Fault Refusal :=
  .next (s.instrX f fun k _ s => s.writeTok k f ⟨2, 0, 0⟩)

/-- MARK (R166). -/
def execMark (f : FmtX) (s : State) : Host.Outcome State Fault Refusal :=
  .next (s.instrX f fun k r s => s.writeTok k f (markTok f.sub.toNat ((r.xa f).toNat % 2 ^ 32)))

/-- CFGSEND (R166). -/
def execCfgsend (f : FmtX) (s : State) : Host.Outcome State Fault Refusal :=
  .next (s.instrX f fun k r s => s.writeTok k f ⟨4, (r.xa f).toVec, 0⟩)

/-- ADV (R167). -/
def execAdv (f : FmtX) (s : State) : Host.Outcome State Fault Refusal :=
  .next (s.instrX f fun k r s =>
    let i := f.sub.toNat % 8
    let n := (r.xa f).toNat + f.imm.toNat
    let used := tget 0 r.c.fir.advUsed i
    if hdrWait r.c.fir.block.header i < used + n then s.ceFault k .slotWindow used i
    else s.onFiring k fun x => { x with
      advUsed := tput x.advUsed i (used + n)
      advMoves := if n = 0 then x.advMoves else x.advMoves ++ [(i, n)] })

/-- PADV (R167). -/
def execPadv (f : FmtX) (s : State) : Host.Outcome State Fault Refusal :=
  .next (s.instrX f fun k r s =>
    let j := f.sub.toNat % 8
    let n := (r.xa f).toNat + f.imm.toNat
    let used := tget 0 r.c.fir.padvUsed j
    if hdrFree r.c.fir.block.header j < used + n then s.ceFault k .slotWindow used (j + 2 ^ 8)
    else s.onFiring k fun x => { x with
      padvUsed := tput x.padvUsed j (used + n)
      padvMoves := if n = 0 then x.padvMoves else x.padvMoves ++ [(j, n)] })

/-- The token that source a names, of class CHAN (R168). -/
def Rd.tokA (r : Rd) (f : FmtX) : Token :=
  match f.sa with
  | .chan i off => r.tok i.toNat off.toNat
  | _ => default

/-- What TKIND delivers (R168). -/
def tkindOf (t : Token) : Word := BitVec.ofNat 64 (t.kind % 8 + (if t.kind = 3 then t.mark * 2 ^ 8 else 0))

/-- What MARKARG delivers (R168). -/
def markargOf (t : Token) : Word := if t.kind = 3 then BitVec.ofNat 64 t.arg else if t.kind = 5 then t.rhdr else 0

/-- TKIND (R168). -/
def execTkind (f : FmtX) (s : State) : Host.Outcome State Fault Refusal :=
  .next (s.instrX f fun k r s => s.giveX k f (tkindOf (r.tokA f)))

/-- MARKARG (R168). -/
def execMarkarg (f : FmtX) (s : State) : Host.Outcome State Fault Refusal :=
  .next (s.instrX f fun k r s => s.giveX k f (markargOf (r.tokA f)))

/-! ## The next block and the end of a task (R169 to R171) -/

/-- The return stack of the running binding, as it stood at firing. -/
def Rd.stack (r : Rd) : List Nat := (lget {} r.c.binds r.c.fir.bind).stack

/-- EXIT (R169). -/
def execExit (f : FmtX) (s : State) : Host.Outcome State Fault Refusal :=
  .next (s.instrX f fun k _ s =>
    s.onFiring k fun x => { x with target := some (blockTarget x.block.address f.imm, false) })

/-- CALL (R26, R169). -/
def execCall (f : FmtX) (s : State) : Host.Outcome State Fault Refusal :=
  .next (s.instrX f fun k r s =>
    if 8 ≤ r.stack.length ∨ r.c.fir.called then s.ceFault k .illegal 0 0xF
    else s.onFiring k fun x => { x with target := some (blockTarget x.block.address f.imm, true), called := true })

/-- RET (R26, R169). -/
def execRet (f : FmtX) (s : State) : Host.Outcome State Fault Refusal :=
  .next (s.instrX f fun k r s =>
    if r.stack.isEmpty ∨ r.c.fir.ret then s.ceFault k .illegal 0 0xF
    else s.onFiring k fun x => { x with ret := true })

/-- TEND (R170). -/
def execTend (f : FmtX) (s : State) : Host.Outcome State Fault Refusal :=
  .next (s.instrX f fun k _ s => s.onFiring k fun x => { x with tend := true })

/-- YIELD (R171). -/
def execYield (f : FmtX) (s : State) : Host.Outcome State Fault Refusal :=
  .next (s.instrX f fun k _ s => s.onFiring k fun x => { x with yield := true })

/-! ## Waits, traps and predicates (R172 to R174, R180, R181) -/

/-- A firing sets one wait at most; a second raises ILLEGAL (R173). -/
def State.setWait (s : State) (k : Nat) (w : Wait) : State :=
  if (s.getCe k).fir.waitSet then s.ceFault k .illegal 0 0xF
  else s.onFiring k fun x => { x with waitSet := true, wait := w }

/-- SLEEP (R172). -/
def execSleep (f : FmtX) (s : State) : Host.Outcome State Fault Refusal :=
  .next (s.instrX f fun k r s =>
    let a := r.xa f
    s.setWait k (if f.sub.getLsbD 0 then .copy a (64 * f.imm.toNat) f.imm.toNat else .cycles (natBits a.toNat 31 0)))

/-- TRAP (R174): raises SW_TRAP, with a in its address field and the code. -/
def execTrap (f : FmtX) (s : State) : Host.Outcome State Fault Refusal :=
  .next (s.instrX f fun k r s => s.ceFault k .swTrap (r.xa f).toNat f.imm.toNat)

/-- BRK (R174): raises BREAK. -/
def execBrk (f : FmtX) (s : State) : Host.Outcome State Fault Refusal :=
  .next (s.instrX f fun k r s => s.ceFault k .breakPoint (r.xa f).toNat f.imm.toNat)

/-- PSET (R181): a side effect at block end. -/
def execPset (f : FmtX) (s : State) : Host.Outcome State Fault Refusal :=
  .next (s.instrX f fun k r s => s.onFiring k fun x => { x with
    psets := x.psets ++ [(natBits f.sub.toNat 3 0, natBits f.sub.toNat 5 4, (r.xa f).getLsbD 0)] })

/-- TBMARK (R180): a release of device scope, it waits until every access of the task is performed (R297). -/
def execTbmark (f : FmtX) (s : State) : Host.Outcome State Fault Refusal :=
  .next (s.instrX f fun k r s =>
    let a := (r.xa f).toNat
    if Config.tileBuffers ≤ a then s.ceFault k .handle a 0
    else if !r.c.allPerformed then s
    else if s.tbuf r.c.part a = 1 then s.ceFault k .protect a 0
    else (s.setTbuf r.c.part a (f.sub.toNat % 4)).mapCe k CeCtx.bump)

/-- The s register a wait delivers to: TA is REG s (R178, R180, R266). -/
def waitReg : Tgt → BitVec 3
  | .s n => n
  | _ => 0

/-- TBWAIT (R180). -/
def execTbwait (f : FmtX) (s : State) : Host.Outcome State Fault Refusal :=
  .next (s.instrX f fun k r s =>
    let a := (r.xa f).toNat
    if Config.tileBuffers ≤ a then s.ceFault k .handle a 0
    else s.setWait k (.tbuf a (f.sub.toNat % 4) (waitReg f.ta) false))

/-! ## Handles (R175, R178) -/

/-- A handle names a launch, graph, phase or job of the partition. -/
def State.knownHandle (s : State) (part : Nat) (h : Word) : Bool :=
  let id := handleId h
  natBits h.toNat 59 32 == 0 &&
  match handleKind h with
  | 1 => match tfind s.launches id with | some l => l.part == part | none => false
  | 2 => match tfind s.graphs id with | some g => g.part == part | none => false
  | 3 => match tfind s.phases id with | some p => p.part == part | none => false
  | 4 => (s.getPart part).job.running && (s.getPart part).job.id == id
  | _ => false

/-- The counter is that of the joining task's own launch, or of a graph, phase or job that contains it (R39). -/
def CeCtx.ownCounter (c : CeCtx) (h : Word) : Bool :=
  handleKind h == 4 || h == c.lhnd || h == c.ghnd || (h == c.phnd && c.phnd != 0)

/-- JOIN (R178). -/
def execJoin (f : FmtX) (s : State) : Host.Outcome State Fault Refusal :=
  .next (s.instrX f fun k r s =>
    let h := r.xa f
    if !s.knownHandle r.c.part h then s.ceFault k .handle h.toNat 0
    else if r.c.ownCounter h then s.ceFault k .protect h.toNat 0
    else s.setWait k (.join h (waitReg f.ta)))

end Sys2Proof.Machine
end

