-- ==== Sys2Proof/Machine/Place.lean ====
section
/-!
DEFINITION. Sys2Proof/Machine/Place.lean: how an engine reads and writes places (R193, R207, R270, R304): in ascending pieces
that lie within one 64-byte block, each checked and translated as it is reached; and the lasting errors of device memory
(R309).
-/

namespace Sys2Proof.Machine

/-- An engine as the memories see it: the translation cache it goes through, if it has one, and its port at a bank (R270):
2 the copy engine, 3 the pattern engine and the step cache, 4 the stream ports and the Pannier. -/
structure Engine where
  via : Option Nat := none
  port : Nat := 2

/-- An engine of a memory tile, and a stream port. -/
def tileEngine (mt port : Nat) : Engine := ⟨some mt, port⟩
def portEngine (port : Nat) : Engine := ⟨some (portXcache port), 4⟩

/-! ## Lasting errors of device memory (R309) -/

/-- A lasting array error: the row goes to a spare one, or the channel is mapped out; the sector reads as uncorrectable. -/
def State.arrayLost (s : State) (ch part sector : Nat) : State :=
  let s := s.countPart part 0x313 1
  let d := s.getDc ch
  let s := s.setDc ch (if d.spares = 0 then { d with mapout := true } else { d with spares := d.spares - 1 })
  { s with sectorLost := if s.sectorLost.contains sector then s.sectorLost else s.sectorLost ++ [sector] }

/-- A lasting interface error: the lane goes to a spare one, or the channel is mapped out; a write leaves its sector
uncorrectable. -/
def State.laneLost (s : State) (ch part sector : Nat) (writes : Bool) : State :=
  let s := s.countPart part 0x313 1
  let d := s.getDc ch
  let s := s.setDc ch (if d.lanes = 0 then { d with mapout := true } else { d with lanes := d.lanes - 1 })
  if writes && !s.sectorLost.contains sector then { s with sectorLost := s.sectorLost ++ [sector] } else s

/-! ## An engine's turn at a controller (R304 to R306, R454) -/

/-- Sectors that are being read again or whose transfer is replayed. -/
def DevChan.again (d : DevChan) : List Nat :=
  (d.replay.map (·.addr / 64)) ++ (d.replies.filterMap fun e => if e.2.2 then some (e.1.addr / 64) else none)

/-- The requests that may issue: the first of each sector, none that waits for a watched write, none whose sector is being
read again or replayed. -/
def DevChan.eligible (d : DevChan) : List DevReq :=
  (List.range d.queue.length).filterMap fun i =>
    d.queue[i]?.bind fun r =>
      if r.held || d.again.contains (r.addr / 64) || (d.queue.take i).any (fun q => q.addr / 64 == r.addr / 64) then none else some r

/-- The partition that issues, of those that wait, and the counts after (R454). -/
def State.issuer (s : State) (issues : Tab Nat) : List Nat → Option Nat × Tab Nat
  | [] => (none, issues)
  | [p] => (some p, [])
  | p :: ps =>
    let w (q : Nat) : Nat := (s.getPart q).weight
    let less (q b : Nat) : Bool :=
      let x := tget 0 issues q * w b
      let y := tget 0 issues b * w q
      x < y || (x == y && q < b)
    let best := ps.foldl (fun b q => if less q b then q else b) p
    (some best, tadd issues best 1)

/-- An engine's request of a partition, which reaches a channel now, is the channel's choice: no refresh holds the channel,
nothing of its sector is before it, no request of its partition waits, and the weighted share falls on its partition. The
counts after, or none where it waits (R304 to R306, R454). -/
def State.devTurn (s : State) (part ca : Nat) : Option (Tab Nat) :=
  let d := s.getDc (devChannel ca)
  let parts := (d.eligible.map (·.part)).eraseDups
  if d.refresh || d.again.contains (ca / 64) || d.queue.any (fun q => q.addr / 64 == ca / 64) || parts.contains part then none
  else
    match s.issuer d.issues (parts ++ [part]) with
    | (some p, t) => if p = part then some t else none
    | (none, _) => none

/-- An engine's access meets what struck its sector (R307 to R309): it is performed, or ends in MEM_UE with this DETAIL. -/
def State.meetSector (s : State) (ch part sector : Nat) (writes : Bool) : Option Nat × State :=
  match tfind s.sectorErrs sector with
  | none => (none, s)
  | some e =>
    let s := { s with sectorErrs := tdel s.sectorErrs sector }
    match e, writes with
    | .corrected, false =>
      let s := s.countPart part 0x310 1
      (none, s.setDc ch (let d := s.getDc ch; { d with rewrite := d.rewrite ++ [sector] }))
    | .transient, false => (none, s.countPart part 0x311 1)
    | .lasting, false => (some 1, s.arrayLost ch part sector)
    | .crc, _ => (none, s.countPart part 0x312 1)
    | .lane, w => (some 2, (s.countPart part 0x312 1).laneLost ch part sector w)
    | _, true => (none, s)

/-- An engine's access to the sector of a physical address: it waits for its turn, is performed, or ends in MEM_UE. `a` is the
address its record names. -/
def State.sectorAt (s : State) (part pa a : Nat) (writes : Bool) : Try Unit × State :=
  let ca := canonAddr pa
  let ch := devChannel ca
  if (s.getDc ch).mapout then (.error (some ⟨.memUe, a, 1⟩), s)
  else
    match s.devTurn part ca with
    | none => (.error none, s)
    | some t =>
      let s := s.setDc ch { s.getDc ch with issues := t }
      if !writes && s.sectorLost.contains (ca / 64) then (.error (some ⟨.memUe, a, 1⟩), s)
      else
        match s.meetSector ch part (ca / 64) writes with
        | (none, s) => (.ok (), s)
        | (some d, s) => (.error (some ⟨.memUe, a, d⟩), s)

/-! ## Words of a memory tile (R274) -/

/-- An engine's read meets the errors that struck the words of its range: a correctable one is corrected, counted and to be
written back; a word that another one struck is uncorrectable from then on. -/
def State.meetWords (s : State) (mt off n : Nat) : State :=
  let hit := s.wordErrs.filter fun e => mt * 2 ^ 17 + off / 8 ≤ e.1 && e.1 * 8 < mt * 2 ^ 20 + off + n
  hit.foldl (fun s e =>
    let w := e.1 - mt * 2 ^ 17
    let part := (s.getPage (mt / 2)).owner.getD 0
    let s := { s with wordErrs := tdel s.wordErrs e.1 }
    if e.2 then
      if (s.getMt mt).lost.contains w then s else (s.mapMt mt fun m => { m with lost := m.lost ++ [w] }).countPart part 0x301 1
    else (s.mapMt mt fun m => { m with banks := lmod m.banks (w / 16 % 16) fun b => { b with writeback := b.writeback ++ [w / 16] } }).countPart part 0x300 1) s

/-! ## Reading -/

/-- Reads n bytes within one 64-byte block of a place. An engine waits for a drowsy bank, for earlier requests and for a page
that moves; an uncorrectable word or sector is MEM_UE (R274, R309). -/
def State.readPiece (s : State) (part ap a n : Nat) (e : Engine := {}) : Try (List Byte) × State :=
  if ap = 0 then
    match s.scratchAt part a 1 with
    | .error e => (.error e, s)
    | .ok (mt, off) =>
      match s.banksAwake mt off n with
      | (false, s) => (.error none, s)
      | (true, s) =>
        let s := s.meetWords mt off n
        if s.scratchLost mt off n then (.error (some ⟨.memUe, a, 0⟩), s)
        else (.ok (s.scratchRead mt off n), s.touchBank mt (off / 128 % 16) e.port)
  else
    match s.translateVia part e.via a false with
    | (.error e, s) => (.error e, s)
    | (.ok pa, s) =>
      match s.sectorAt part pa a false with
      | (.error e, s) => (.error e, s)
      | (.ok _, s) => (.ok (s.devRead pa n), s)

/-- Reads n bytes from a place, piece by piece. -/
def State.readPlace (part ap : Nat) (e : Engine) : Nat → State → Nat → Nat → List Byte → Try (List Byte) × State
  | 0, s, _, _, acc => (.ok acc, s)
  | fuel + 1, s, a, n, acc =>
    if n = 0 then (.ok acc, s)
    else
      let m := min n (64 - a % 64)
      match s.readPiece part ap a m e with
      | (.error e, s) => (.error e, s)
      | (.ok bs, s) => State.readPlace part ap e fuel s (a + m) (n - m) (acc ++ bs)

/-- Reads n bytes from a place. -/
def State.readAt (s : State) (part ap a n : Nat) (e : Engine := {}) : Try (List Byte) × State :=
  State.readPlace part ap e (n / 64 + 2) s a n []

/-! ## Writing -/

/-- Checks that a piece of a place may be written, and where it lies. -/
inductive Spot where
  | scratch (mt off : Nat)
  | device (pa : Nat)
  | code (at_ : Nat)

/-- Where a piece of a destination lies: an AP 2 place in the window of the launch's context (R466). -/
def State.spotOf (s : State) (part launch ap a n : Nat) (e : Engine := {}) : Try Spot × State :=
  if ap = 0 then
    match s.scratchAt part a 1 with
    | .error e => (.error e, s)
    | .ok (mt, off) =>
      match s.banksAwake mt off n with
      | (false, s) => (.error none, s)
      | (true, s) => (.ok (.scratch mt off), s)
  else if ap = 1 then
    match s.translateVia part e.via a true with
    | (.error e, s) => (.error e, s)
    | (.ok pa, s) =>
      match s.sectorAt part pa a true with
      | (.error e, s) => (.error e, s)
      | (.ok _, s) => (.ok (.device pa), s)
  else
    match s.windowOf launch part (natBits a 29 21) (natBits a 19 16) with
    | some k =>
      let c := s.getCe k
      if c.winSize < natBits a 15 0 + n then (.error (some ⟨.protect, a, 0⟩), s)
      else (.ok (.code (istoreAddr k c (natBits a 15 0))), s)
    | none => (.error (some ⟨.protect, a, 0⟩), s)

/-- The pieces of a destination, all checked before any is written. -/
def State.spots (part launch ap : Nat) (e : Engine) : Nat → State → Nat → List Byte → List (Spot × List Byte) →
    Try (List (Spot × List Byte)) × State
  | 0, s, _, _, acc => (.ok acc, s)
  | fuel + 1, s, a, bs, acc =>
    if bs.isEmpty then (.ok acc, s)
    else
      let m := min bs.length (64 - a % 64)
      match s.spotOf part launch ap a m e with
      | (.error e, s) => (.error e, s)
      | (.ok p, s) => State.spots part launch ap e fuel s (a + m) (bs.drop m) (acc ++ [(p, bs.take m)])

/-- Writes one piece through a bank port. -/
def State.writeSpot (port : Nat) (s : State) (p : Spot × List Byte) : State :=
  match p.1 with
  | .scratch mt off => (s.scratchWrite mt off p.2).touchBank mt (off / 128 % 16) port
  | .device pa => s.devWriteSector pa p.2
  | .code x => { s with istore := s.istore.writeBytes x p.2 }

/-- Writes bytes to a place, after every piece has been checked. -/
def State.writeAt (s : State) (part launch ap a : Nat) (bs : List Byte) (e : Engine := {}) : Try Unit × State :=
  match State.spots part launch ap e (bs.length / 64 + 2) s a bs [] with
  | (.error e, s) => (.error e, s)
  | (.ok ps, s) => (.ok (), ps.foldl (State.writeSpot e.port) s)

/-! ## Completion releases (R207, R273, R304) -/

/-- Sets the scope record of the line or sector that a 64-byte block of a destination lies in. A block that nothing maps any
more has none. -/
def State.releaseBlock (s : State) (r : ScopeRec) (part ap a : Nat) : State :=
  match ap with
  | 0 =>
    let e := tget {} (s.getPart part).map (natBits a 29 21)
    if e.v then
      { s with lineScope := tput s.lineScope (scratchAddr (e.ppage * 2 + natBits a 20 20) (a % 2 ^ 20) / 128) r } else s
  | 1 =>
    match s.translate part a with
    | .ok (pa, _) => { s with sectorScope := tput s.sectorScope (canonAddr pa / 64) r }
    | .error _ => s
  | _ => s

/-- A release over a range: every line or sector of it takes the scope record. -/
def State.releaseAs (s : State) (r : ScopeRec) (part ap a n : Nat) : State :=
  if n = 0 then s
  else (List.range ((a + n - 1) / 64 + 1 - a / 64)).foldl (fun s i => s.releaseBlock r part ap ((a / 64 + i) * 64)) s

/-- A completion release over a destination range at device scope (R207, R273). -/
def State.releaseRange (s : State) (part ap a n : Nat) : State := s.releaseAs ⟨4, s.dev.pkg.toNat⟩ part ap a n

end Sys2Proof.Machine
end

