-- ==== Sys2Proof/Machine/Sums.lean ====
section
/-!
DEFINITION. Sys2Proof/Machine/Sums.lean: the fixed sums of the engines: elements with codebook and block scale (R64, R65),
the matrix-node sum (R67, R68), and the fused multiply-add of SPMM (R71).
-/

namespace Sys2Proof.Machine

/-- The exact value of an element before scaling: a c4 code stands for its bf16 codebook entry (R64). -/
def elemVal (t : Ty) (book : Nat → Nat) (bits : Nat) : FVal :=
  match t with
  | .c4 => fDecode .bf16 (book (bits % 16))
  | _ =>
    if t.isFloat then fDecode t (bits % 2 ^ t.width)
    else let v := extT t bits; .fin (v < 0) v.natAbs 0

/-- A value times its block scale, exactly (R65). -/
def scaleBy (scale : Option Nat) (v : FVal) : FVal :=
  match scale, v with
  | none, v => v
  | some e, v =>
    if e = 0xFF then .nan false
    else match v with
      | .fin n m x => .fin n m (x + e - 127)
      | v => v

/-- An exact product, NaN where it has no value. -/
def prodVal (a b : FVal) : FVal :=
  if a.isNan || b.isNan then .nan false
  else (fProd a b).getD (.nan false)

/-- ⌊log2 |p|⌋ of a non-zero finite value. -/
def floorLog2 (m : Nat) (ex : Int) : Int := (Nat.log2 m : Int) + ex

/-- The truncated terms of a group, summed exactly in units of 2^(emax − 47) (R67). -/
def truncSum (ps : List FVal) (emax : Int) : Int :=
  ps.foldl (fun acc p => match p with
    | .fin n m ex =>
      let sh := ex - (emax - 47)
      let q := if 0 ≤ sh then m * 2 ^ sh.toNat else m / 2 ^ (-sh).toNat
      acc + (if n then -(q : Int) else q)
    | _ => acc) 0

/-- One group of the matrix-node sum (R67): the accumulator, an fp32 pattern, after it. -/
def groupSum (acc : Nat) (ps : List FVal) : Nat :=
  let nan := ps.any FVal.isNan
  let pos := ps.contains (.inf false)
  let neg := ps.contains (.inf true)
  let a := fDecode .fp32 acc
  let plus (x : FVal) : Nat := if a.isNan then canon .fp32 else (fSum .fp32 0 [a, x]).1
  if nan || (pos && neg) then canon .fp32
  else if pos then plus (.inf false)
  else if neg then plus (.inf true)
  else
    let emaxs := ps.filterMap fun p => match p with | .fin _ m ex => if m = 0 then none else some (floorLog2 m ex) | _ => none
    match emaxs with
    | [] => acc
    | e :: es =>
      let emax := es.foldl max e
      let sum := truncSum ps emax
      if sum = 0 then acc else plus (.fin (sum < 0) sum.natAbs (emax - 47))

/-- Groups of sixteen, in ascending k. -/
def groups16 : Nat → List FVal → List (List FVal)
  | 0, _ => []
  | _, [] => []
  | n + 1, ps => ps.take 16 :: groups16 n (ps.drop 16)

/-- The matrix-node sum of one element: floating-point pairs by groups (R67), the s8 pair exactly and wrapping (R68). -/
def nodeSum (int : Bool) (acc : Nat) (as bs : List FVal) : Nat :=
  let ps := List.zipWith prodVal as bs
  if int then
    let total := ps.foldl (fun (t : Int) p => match p with | .fin n m _ => t + (if n then -(m : Int) else m) | _ => t) (acc : Int)
    lowBits total 32
  else (groups16 8 ps).foldl groupSum acc

/-- rne32(a × x + c) of R71, with canonical NaNs. -/
def fmaVal (a : FVal) (x c : Nat) : Nat :=
  let xv := fDecode .fp32 x
  let cv := fDecode .fp32 c
  match prodVal a xv with
  | .nan _ => canon .fp32
  | p => if cv.isNan then canon .fp32 else (fSum .fp32 0 [p, cv]).1

/-- The bits of element n of a packed area of w-bit elements (R50). -/
def packedElem (bytes : List Byte) (w n : Nat) : Nat :=
  let v := natOfBytes ((bytes.drop (n * w / 8)).take ((w + 7) / 8))
  v / 2 ^ (n * w % 8) % 2 ^ w

end Sys2Proof.Machine
end

