-- ==== Sys2Proof/Machine/Tensor.lean ====
section
/-!
DEFINITION. Sys2Proof/Machine/Tensor.lean: sealed tensors (R250, R251, R395 to R398), the places of their elements, and
entropy-coded elements (R315).
-/

namespace Sys2Proof.Machine

/-! ## The record (R396) -/

def recFmt (r : Vec) : Nat := natBits r.toNat 131 128
def recRank (r : Vec) : Nat := natBits r.toNat 134 132
def recDev (r : Vec) : Bool := bitN r.toNat 135
def recBlk (r : Vec) : Nat := natBits r.toNat 137 136
def recForm (r : Vec) : Nat := natBits r.toNat 139 138
def recShape (r : Vec) : Nat := natBits r.toNat 141 140
def recEnt (r : Vec) : Bool := bitN r.toNat 142
def recLen (r : Vec) (c : Nat) : Nat := natBits r.toNat (4 * c + 195) (4 * c + 192)
def recDim (r : Vec) (d : Nat) : Nat := natBits r.toNat (32 * d + 287) (32 * d + 256)
def recStride (r : Vec) (d : Nat) : Nat := natBits r.toNat (64 * d + 447) (64 * d + 384)
def recBook (r : Vec) (c : Nat) : Nat := natBits r.toNat (16 * c + 655) (16 * c + 640)
def recTbStride (r : Vec) : Nat := natBits r.toNat 927 896
def recBase (r : Vec) : Nat := natBits r.toNat 55 0
def recSbase (r : Vec) : Nat := natBits r.toNat 119 64

/-- The element type of a record, if its code names one. -/
def recTy (r : Vec) : Option Ty := match decTy (BitVec.ofNat 4 (recFmt r)) with | .ok t => some t | .error _ => none

/-- The dimensions the rank covers, and the number of elements. -/
def recDims (r : Vec) : List Nat := (List.range (recRank r)).map (recDim r)
def recTotal (r : Vec) : Nat := (recDims r).foldl (· * ·) 1

/-- The checks of TSEAL in ascending code order (R398); none when all pass but the slot's. -/
def sealError (r : Vec) : Option Nat :=
  let v := r.toNat
  let rank := recRank r
  let form := recForm r
  let above := (List.range 4).any fun d => 1 ≤ rank && rank ≤ 4 && rank ≤ d && (recDim r d != 0 || recStride r d != 0)
  let lens := (List.range 16).map (recLen r)
  let w := match recTy r with | some t => t.width | none => 8
  let sparseTy := match recTy r with
    | some .s8 | some .z8 | some .s16 | some .z16 | some .e4m3 | some .e5m2 | some .bf16 | some .fp16 | some .c4 => true
    | _ => false
  let c4 := recTy r == some .c4
  let packed := c4 || recTy r == some .b1
  if natBits v 1023 992 ≠ 0 ∨ natBits v 959 928 ≠ 0 ∨ natBits v 191 143 ≠ 0 ∨ natBits v 127 120 ≠ 0 ∨ natBits v 63 56 ≠ 0 ∨
      above ∨ (!recEnt r ∧ natBits v 255 192 ≠ 0) ∨ (!c4 ∧ natBits v 895 640 ≠ 0) ∨ (form ≠ 0 ∧ natBits v 639 384 ≠ 0) ∨
      (form = 0 ∧ recTbStride r ≠ 0) ∨ (recBlk r = 0 ∧ recSbase r ≠ 0) then some 1
  else if (recTy r).isNone ∨ (recEnt r ∧ !c4) ∨ (form ≠ 0 ∧ !sparseTy) then some 2
  else if rank = 0 ∨ 4 < rank ∨ (recDims r).any (· == 0) ∨ (form ≠ 0 ∧ rank ≠ 2) then some 3
  else if form = 0 ∧ (recStride r 0 ≠ 1 ∨ recBase r % max 1 (w / 8) ≠ 0 ∨
      (packed ∧ (List.range rank).any fun d => d != 0 && recStride r d * w % 8 != 0)) then some 4
  else if (recEnt r ∧ recBase r % 4 ≠ 0) ∨ (form ≠ 0 ∧ (recBase r % 16 ≠ 0 ∨ recTbStride r % 16 ≠ 0)) then some 4
  else if c4 ∧ (List.range 16).any fun c => natBits (recBook r c) 14 7 == 0xFF then some 5
  else if recEnt r ∧ (lens.any (12 < ·) ∨ (lens.map fun l => if l = 0 then 0 else 2 ^ (12 - l)).sum ≠ 4096) then some 6
  else if recBlk r = 3 ∨ recShape r ≠ 0 ∨ (form ≠ 0 ∧ (recSbase r ≠ 0 ∨ recEnt r)) then some 7
  else none

/-- A handle word (R250). -/
def tensorHandle (gen : BitVec 16) (slot : Nat) : Word := BitVec.ofNat 64 (8 * 2 ^ 60 + gen.toNat * 2 ^ 44 + slot)

/-- TSEAL (R250, R395, R398). -/
def execTseal (f : FmtT) (s : State) : Host.Outcome State Fault Refusal :=
  .next (s.engine f fun k r s =>
    let rec_ := r.raw 0 .a f.sa
    let t := (s.getPart r.c.part).tensors
    match sealError rec_, (List.range Config.tensorSlots).find? fun n => !(tget {} t n).live with
    | some e, _ => s.give2 k f false (BitVec.ofNat 1024 e)
    | none, none => s.give2 k f false 8
    | none, some n =>
      let x := tget {} t n
      let s := s.mapPart r.c.part fun p => { p with tensors := tput p.tensors n { x with live := true, record := rec_ } }
      s.give2 k f false (tensorHandle x.gen n).toVec)

/-- The directory index of a compile whose record is gone: past the 256 records. -/
def noRecord : Nat := 256

/-- A pattern record leaves the directory: its words are free, a compile in progress for it is discarded (a FAULTED one keeps
its place until TRET, R337), and an SPMM that runs its program goes on with the words it began with (R255, R331, R332). -/
def MemTile.dropPattern (m : MemTile) (dir : Nat) : MemTile :=
  let r := tget {} m.dir dir
  { m with
    dir := tdel m.dir dir
    store := (m.stale.filter fun e => e.1 == dir).foldl (fun t e => freeWords t e.2.1 e.2.2) (freeWords m.store r.basew r.words)
    stale := m.stale.filter fun e => e.1 != dir
    compiles := m.compiles.filterMap fun c => if c.dir ≠ dir then some c else if c.faulted then some { c with dir := noRecord } else none
    copies := m.copies.map fun x => if x.path = 1 ∧ x.dir = dir then { x with path := 6 } else x }

/-- A record's removal precedes the start of an SPMM in the same cycle (R332). -/
def State.dropPattern (s : State) (mt dir : Nat) : State := (s.unstart mt dir).mapMt mt (·.dropPattern dir)

/-- TDROP (R251): it also removes every pattern-store entry compiled under the handle. -/
def execTdrop (f : FmtT) (s : State) : Host.Outcome State Fault Refusal :=
  .next (s.engine f fun k r s =>
    let h := r.w64 .a f.sa
    match s.tensor r.c.part h with
    | none => s.give2 k f false 0
    | some _ =>
      let n := natBits h.toNat 11 0
      let x := tget {} (s.getPart r.c.part).tensors n
      let s := s.mapPart r.c.part fun p => { p with tensors := tput p.tensors n { live := false, gen := x.gen + 1, record := 0 } }
      let pages := (s.getPart r.c.part).pages
      let s := (s.mts.filter fun e => pages.contains (e.1 / 2)).foldl (fun s e =>
        (tkeys (tfilter e.2.dir fun _ d => d.slot == n && d.gen == x.gen.toNat)).foldl (fun s i => s.dropPattern e.1 i) s) s
      s.give2 k f false 1)

/-- TQUERY (R251). -/
def execTquery (f : FmtT) (s : State) : Host.Outcome State Fault Refusal :=
  .next (s.engine f fun k r s =>
    let q := (r.w64 .b f.sb).toNat
    let v : Word := match s.tensor r.c.part (r.w64 .a f.sa) with
      | none => 0
      | some t => if q < 16 then t.extractLsb' (64 * q) 64 else if q = 16 then 1 else 0
    s.give2 k f false v.toVec)

/-! ## Elements (R397) -/

/-- The coordinates of a flat index. -/
def coords (dims : List Nat) (e : Nat) : List Nat :=
  match dims with
  | [] => []
  | d :: ds => e % d :: coords ds (e / d)

/-- The bit offset past BASE of a flat index of a dense record. -/
def elemBit (r : Vec) (w e : Nat) : Nat :=
  w * ((List.zipWith (fun c d => c * recStride r d) (coords (recDims r) e) (List.range 4)).sum)

/-! ## Entropy-coded elements (R315) -/

/-- Symbols in canonical order: ascending length, then ascending value. -/
def canonOrder (lens : List Nat) : List Nat :=
  (List.range 12).flatMap fun l => (List.range 16).filter fun c => lens.getD c 0 == l + 1

/-- Decodes one symbol: at each length, the code read so far is one of that length's codes, or the next bit is read. A bit
that cannot be read ends it there. -/
def decodeSym (lens : List Nat) (rd : Nat → Option Bool) : Nat → Nat → Nat → Nat → Nat → Nat → Except Nat (Nat × Nat)
  | 0, _, _, _, _, pos => .ok (0, pos)
  | fuel + 1, l, code, first, index, pos =>
    match rd pos with
    | none => .error pos
    | some b =>
      let code := 2 * code + b2n b
      let n := (lens.filter (· == l)).length
      if code < first + n then .ok ((canonOrder lens).getD (index + code - first) 0, pos + 1)
      else decodeSym lens rd fuel (l + 1) code ((first + n) * 2) (index + n) (pos + 1)

/-- Decodes n symbols from a bit position, most significant bit of each byte first: the symbols, and the position past them. -/
def decodeSyms (lens : List Nat) (rd : Nat → Option Bool) : Nat → Nat → List Nat → Except Nat (List Nat × Nat)
  | 0, pos, acc => .ok (acc.reverse, pos)
  | n + 1, pos, acc =>
    match decodeSym lens rd 12 1 0 0 0 pos with
    | .error p => .error p
    | .ok (c, pos) => decodeSyms lens rd n pos (c :: acc)

/-- Bit p of an area of bytes, most significant bit of each byte first, where the engine could read its byte now. -/
def bitOf (s : State) (part ap base : Nat) (e : Engine) (p : Nat) : Option Bool :=
  match (s.readPiece part ap (base + p / 8) 1 e).1 with
  | .ok bs => some ((bs.getD 0 0).getLsbD (7 - p % 8))
  | .error _ => none

/-- Decodes the first n symbols of segment i of an entropy-coded stream, and reads the bytes they take. -/
def State.segment (s : State) (part ap base : Nat) (lens : List Nat) (e : Engine) (i n : Nat) : Try (List Nat) × State :=
  match s.readAt part ap (base + 4 * i) 4 e with
  | (.error x, s) => (.error x, s)
  | (.ok bs, s) =>
    let start := base + natOfBytes bs
    match decodeSyms lens (bitOf s part ap start e) n 0 [] with
    | .error p =>
      match s.readPiece part ap (start + p / 8) 1 e with
      | (.error x, s) => (.error x, s)
      | (.ok _, s) => (.error none, s)
    | .ok (cs, pos) =>
      match s.readAt part ap start ((pos + 7) / 8) e with
      | (.error x, s) => (.error x, s)
      | (.ok _, s) => (.ok cs, s)

/-- Symbols from a flat index on: n of them, from as many segments as they need. -/
def State.symbols (part ap base : Nat) (lens : List Nat) (e : Engine) : Nat → State → Nat → Nat → List Nat → Try (List Nat) × State
  | 0, s, _, _, acc => (.ok acc, s)
  | fuel + 1, s, i, n, acc =>
    if n = 0 then (.ok acc, s)
    else
      let off := i % 4096
      let m := min n (4096 - off)
      match s.segment part ap base lens e (i / 4096) (off + m) with
      | (.error x, s) => (.error x, s)
      | (.ok ss, s) => State.symbols part ap base lens e fuel s (i + m) (n - m) (acc ++ ss.drop off)

end Sys2Proof.Machine
end

