-- ==== Sys2Proof/Machine/Matrix.lean ====
section
/-!
DEFINITION. Sys2Proof/Machine/Matrix.lean: matrix nodes (R19, R20, R96, R97, R241 to R249, R383 to R392): the
instructions that reach them, the fragments they take, start and complete, and the broadcast buses.
-/

namespace Sys2Proof.Machine

/-! ## The MATCTL word (R96) -/

def mcMop (w : Word) : Nat := natBits w.toNat 63 60
def mcAcc (w : Word) : Nat := natBits w.toNat 59 57
def mcAccum (w : Word) : Bool := bitN w.toNat 56
def mcM (w : Word) : Nat := natBits w.toNat 55 50 + 1
def mcK (w : Word) : Nat := natBits w.toNat 49 43 + 1
def mcN (w : Word) : Nat := natBits w.toNat 42 36 + 1
def mcAfmt (w : Word) : Nat := natBits w.toNat 35 32
def mcBfmt (w : Word) : Nat := natBits w.toNat 31 28
def mcWoff (w : Word) : Nat := natBits w.toNat 27 15
def mcSeq (w : Word) : Nat := natBits w.toNat 14 0

/-- The types a legal pair names. -/
def tyOfCode (c : Nat) : Ty := match decTy (BitVec.ofNat 4 c) with | .ok t => t | .error _ => .z8

/-- Tokens of a row of A, and units of a row of B (R242). -/
def rowTokens (w : Word) : Nat := ceilDiv (mcK w * (tyOfCode (mcAfmt w)).width) 1024
def rowUnits (w : Word) : Nat := ceilDiv (mcN w * (tyOfCode (mcBfmt w)).width) 512

/-- Weight-buffer key of a byte of a node, and accumulator key of an element of a tile. -/
def wbufAddr (mn off : Nat) : Nat := mn * 2 ^ 19 + off
def accAddr (mn tile row col : Nat) : Nat := mn * 2 ^ 18 + ((tile * 64 + row) * 128 + col) * 4

/-- SCALED of the region a fragment names (R242). -/
def State.scaled (s : State) (mn : Nat) (w : Word) : Bool := (s.wbuf.read (wbufAddr mn (64 * mcWoff w + 32))).getLsbD 0

/-- The last weight unit a fragment reads (R242). -/
def State.lastUnit (s : State) (mn : Nat) (w : Word) : Nat :=
  mcWoff w + mcK w * rowUnits w + if s.scaled mn w then ceilDiv (4 * mcK w) 64 else 0

/-- A codebook entry in the header of the region. -/
def State.regionBook (s : State) (mn : Nat) (w : Word) (c : Nat) : Nat := s.wbuf.readNat (wbufAddr mn (64 * mcWoff w + 2 * c)) 2

/-- A MATCTL that the node refuses (R97, R242). -/
def State.matctlBad (s : State) (mn : Nat) (w : Word) : Bool :=
  if mcMop w = 2 then false
  else
    2 < mcMop w || !matPair (mcAfmt w) (mcBfmt w) || 8191 < s.lastUnit mn w ||
    (tyOfCode (mcBfmt w) == .s8 && s.scaled mn w) ||
    (tyOfCode (mcBfmt w) == .c4 && (List.range 16).any fun c => natBits (s.regionBook mn w c) 14 7 == 0xFF)

/-! ## A node's tiles and contexts -/

/-- A token is a fragment, not a DONE fence. -/
def Fragment.real (f : Fragment) : Bool := mcMop f.word != 2

/-- Fragments accepted on a tile and not completed, in order. -/
def MatNode.onTile (m : MatNode) (t : Nat) : List Fragment := m.frags.filter fun f => f.real && mcAcc f.word == t

/-- A tile, and a context, of a node. -/
def MatNode.tile (m : MatNode) (t : Nat) : AccTile := lget {} m.tiles t
def MatNode.ctx (m : MatNode) (c : Nat) : MnCtx := lget {} m.ctxs c

/-- Changes a context of a node. -/
def State.mapMnCtx (s : State) (mn c : Nat) (f : MnCtx → MnCtx) : State :=
  s.mapMn mn fun m => { m with ctxs := lmod m.ctxs c f }

/-- Changes a tile of a node. -/
def State.mapTile (s : State) (mn t : Nat) (f : AccTile → AccTile) : State :=
  s.mapMn mn fun m => { m with tiles := lmod m.tiles t f }

/-- What counts for NFLT and OLDSEQ: the fragments in flight on a tile, and, on a restored one, its owner's that are still to
be accepted again (R390, R391). -/
def MatNode.flights (m : MatNode) (mn t : Nat) : List Fragment :=
  let x := m.tile t
  m.onTile t ++ (if x.owned && x.owner / 4 == mn / 2 then (m.ctx (x.owner % 4)).pend.filter fun f => f.real && mcAcc f.word == t else [])

/-- The tile state word (R383), with the logical page of the context for which it is written. -/
def tileWord (m : MatNode) (mn t nodew : Nat) : Nat :=
  let x := m.tile t
  let fs := m.flights mn t
  (match fs with | f :: _ => mcSeq f.word * 2 ^ 33 | [] => 0) + min 16 fs.length * 2 ^ 28 +
  (if x.owned then x.owner % 4 * 2 ^ 26 + 2 ^ 25 else 0) + b2n x.waitrel * 2 ^ 24 + nodew % 2 ^ 13 * 2 ^ 2 +
  (match x.state with | .idle => 0 | .busy => 1 | .ready => 2)

/-- The launch in a context slot of a page, and its partition. -/
def State.slotLaunch (s : State) (page c : Nat) : Nat := lget 0 (s.getPage page).resident c
def State.pageOwner (s : State) (page : Nat) : Nat := (s.getPage page).owner.getD 0

/-- The unit reference word of a matrix node's context (R416). -/
def State.mnUref (s : State) (mn c seq : Nat) : Word :=
  urefWord 3 (s.lpageOf (s.pageOwner (mn / 2)) (mn / 2)) (mnTile (mn % 2)) c 0 seq

/-- The WAITING word of a node's context (R417). -/
def State.mnWaiting (s : State) (x : MnCtx) : Nat :=
  (List.range 8).foldl (fun acc i =>
    let b := match (match i with | 0 => x.ctl | 1 => x.rows | _ => none) with
      | none => 0xE0
      | some ch => let q := (s.chanD ch).endq; (lget default q 0).kind * 32 + min 31 q.length
    acc + b * 2 ^ (8 * i)) 0

/-- The node has done something for a context (R47). -/
def MnCtx.acts (x : MnCtx) : MnCtx := { x with waited := 0, watched := false }

/-- The node raises an ILLEGAL record naming a token at an input, which it does not take (R97, R242). -/
def State.mnFault (s : State) (mn c : Nat) (t : Token) (input : Nat) : State :=
  let page := mn / 2
  let x := (s.getMn mn).ctx c
  let s := s.mapMnCtx mn c fun x => { x with faulted := some t, faultIn := input }
  s.record (s.pageOwner page) (s.isSuper (s.slotLaunch page c))
    { cls := .illegal, kind := 1, ctx := c, xy := tileXy page (mnTile (mn % 2)), uref := s.mnUref mn c (mcSeq t.data.toWord),
      word := t.data.toWord.toNat, detail := 0xF, waiting := s.mnWaiting x }

/-- The node has acknowledged the stop of a context's launch. -/
def State.mnStopped (s : State) (mn c : Nat) : Bool := s.unitStopped (s.slotLaunch (mn / 2) c) (unitNo 4 (mn * 4 + c))

/-- The node works for a context: its launch holds its contexts and no stop of it has come to the node (R389). -/
def State.mnLive (s : State) (mn c : Nat) : Bool :=
  let id := s.slotLaunch (mn / 2) c
  id != 0 && (s.launchD id).resident && !s.stopping2 id && !(s.getMn mn).clearing && !(s.getPage (mn / 2)).clearing

/-- The node takes tokens of a context: its saved tile entries and its pending fragments come first (R391). -/
def State.mnTakes (s : State) (mn c : Nat) : Bool :=
  s.mnLive mn c && ((s.getMn mn).ctx c).pend.isEmpty && !((s.getMn mn).restores.any fun r => r.ctx == mn / 2 * 4 + c)

/-- A free slot of a context's out0 for a DONE mark (R384). -/
def State.doneRoom (s : State) (x : MnCtx) : Bool :=
  match x.out with
  | none => false
  | some ch => x.reserved < s.engineRoom ch

/-- The launch of a context of a node is being killed, or the node's service of the context was ended: its fragments complete
and give no DONE (R242, R244). -/
def State.noDone (s : State) (mn c : Nat) : Bool :=
  ((s.getMn mn).ctx c).dead || s.stops.any fun st => st.launch == s.slotLaunch (mn / 2) c && st.action == .kill

/-- Gives a DONE mark into its reserved slot (R244). -/
def State.giveDone (s : State) (mn c seq : Nat) : State :=
  let x := (s.getMn mn).ctx c
  let s := s.mapMnCtx mn c fun x => { x with reserved := x.reserved - 1 }
  match x.out with
  | none => s
  | some ch => s.publish ch [markTok markDone seq]

/-! ## Operand rows (R242) -/

/-- A rows a fragment takes in all. -/
def Fragment.need (f : Fragment) : Nat := mcM f.word * rowTokens f.word

/-- Takes operand rows for the fragments of a context, oldest fragment first: from a broadcast bus, else from in1 (log entry
94). While the context is stopped, only a fragment whose rows are all at hand takes them (R389). Fragments accepted before a
fault at in0, or before the node's service of the context was ended, take theirs too (R97, R242). -/
def State.feedRows : Nat → State → Nat → Nat → State
  | 0, s, _, _ => s
  | fuel + 1, s, mn, c =>
    let m := s.getMn mn
    let x := m.ctx c
    let i := m.frags.findIdx fun f => f.ctx == c && f.real && f.rows.length < f.need
    match m.frags[i]? with
    | none => s
    | some f =>
      let q := s.filled x.rows
      let enough := f.need ≤ f.rows.length + x.bus.length + q.length
      if (x.faulted.isSome && x.faultIn == 1) || s.mnStopped mn c || (!s.mnLive mn c && !enough) then s
      else
        let put (s : State) (v : Vec) : State :=
          s.mapMn mn fun m => { m with frags := lmod m.frags i fun f => { f with rows := f.rows ++ [v] }, ctxs := lmod m.ctxs c (·.acts) }
        match x.bus, q with
        | v :: _, _ => State.feedRows fuel (put (s.mapMnCtx mn c fun x => { x with bus := x.bus.drop 1 }) v) mn c
        | [], t :: _ =>
          if t.kind = 1 ∨ t.kind = 5 then
            State.feedRows fuel (put (match x.rows with | some ch => s.freeTokens ch 1 | none => s) t.data) mn c
          else s.mnFault mn c t 1
        | [], [] => s

/-- Feeds every context of a node. -/
def State.feedAll (s : State) (mn : Nat) : State := (List.range 4).foldl (fun s c => State.feedRows 2048 s mn c) s

/-! ## Taking fragments (R243, R384 to R386) -/

/-- What waits for an IDLE tile: contexts whose head MATCTL names it, and restores, with their arrival and context; the
earliest goes first, ties to the lower context slot (R386). -/
inductive Waiter where
  | token (ctx : Nat)
  | restore (r : TileEntry)

/-- The waiters of a tile, with arrival and context slot. -/
def State.tileWaiters (s : State) (mn t : Nat) : List (Nat × Nat × Waiter) :=
  let m := s.getMn mn
  let toks := (List.range 4).filterMap fun c =>
    let x := m.ctx c
    match x.ctl with
    | none => none
    | some ch =>
      match (s.chanD ch).endq with
      | h :: _ =>
        let w := h.data.toWord
        if h.kind = 6 ∧ mcMop w ≠ 2 ∧ mcAcc w = t ∧ x.faulted.isNone ∧ !x.dead ∧ s.mnTakes mn c then
          some ((s.chanD ch).arrived.headD 0, c, Waiter.token c)
        else none
      | [] => none
  toks ++ (m.restores.filter (·.tile == t)).map fun r => (r.arrive, r.ctx % 4, Waiter.restore r)

/-- The first waiter. -/
def firstWaiter : List (Nat × Nat × Waiter) → Option Waiter
  | [] => none
  | w :: ws => some (ws.foldl (fun best x => if x.1 < best.1 ∨ (x.1 = best.1 ∧ x.2.1 < best.2.1) then x else best) w).2.2

/-- Takes the MATCTL at a context's head into the node's fragments. -/
def State.acceptToken (s : State) (mn c ch : Nat) (w : Word) : State :=
  let s := (s.freeTokens ch 1).mapMnCtx mn c (·.acts)
  let s := s.mapMn mn fun m => { m with
    frags := m.frags ++ [{ ctx := c, word := w, rows := [], arrive := s.cycle.toNat, started := false, due := 0 }] }
  if mcMop w = 2 then s.mapMnCtx mn c fun x => { x with reserved := x.reserved + 1 }
  else
    let s := s.mapTile mn (mcAcc w) fun _ => { state := .busy, owner := mn / 2 * 4 + c, owned := true, waitrel := false }
    State.feedRows 2048 s mn c

/-- Fragments a node holds (R384). -/
def nodeFragments : Nat := 16

/-- Pending fragments of a context are accepted again, in their order and ahead of every token, once its tile entries are
written and while the node has places for them (R384, R391). -/
def State.reaccept : Nat → State → Nat → Nat → State
  | 0, s, _, _ => s
  | fuel + 1, s, mn, c =>
    let m := s.getMn mn
    let x := m.ctx c
    match x.pend with
    | [] => s
    | f :: rest =>
      let room := if f.real then (m.frags.filter Fragment.real).length < nodeFragments else s.doneRoom x
      if !room || !s.mnLive mn c || m.restores.any (fun r => r.ctx == mn / 2 * 4 + c) then s
      else State.reaccept fuel (s.setMn mn { m with
        frags := m.frags ++ [f]
        ctxs := lmod m.ctxs c fun x => { x with pend := rest, reserved := x.reserved + b2n (!f.real) } }) mn c

/-- The node takes a token that it can accept: it is checked now (R97, R242). -/
def State.takeToken (s : State) (mn c ch : Nat) (t : Token) : State :=
  if s.matctlBad mn t.data.toWord then s.mnFault mn c t 0 else s.acceptToken mn c ch t.data.toWord

/-- A node takes the MATCTL token at the head of a context's in0, when its tile allows; pending fragments come first. -/
def State.matctl (s : State) (mn c : Nat) : State :=
  let s := State.reaccept 64 s mn c
  let m := s.getMn mn
  let x := m.ctx c
  match x.ctl with
  | none => s
  | some ch =>
    if x.dead then
      -- a killed node service discards every later token of the context at in0, and at in1 those no accepted fragment takes
      let s := s.freeTokens ch (s.chanD ch).endq.length
      if m.frags.any fun f => f.ctx == c && f.real && f.rows.length < f.need then s
      else match x.rows with | some r => s.freeTokens r (s.chanD r).endq.length | none => s
    else if x.faulted.isSome || !s.mnTakes mn c then s
    else
      match (s.chanD ch).endq with
      | [] => s
      | t :: _ =>
        let w := t.data.toWord
        let own := mn / 2 * 4 + c
        let tile := m.tile (mcAcc w)
        if t.kind ≠ 6 then s.mnFault mn c t 0
        else if mcMop w = 2 then (if s.doneRoom x then s.takeToken mn c ch t else s)
        else if nodeFragments ≤ (m.frags.filter Fragment.real).length then s
        else
          match tile.state with
          | .idle =>
            match firstWaiter (s.tileWaiters mn (mcAcc w)) with
            | some (.token c') => if c' = c ∧ tile.idleAt ≠ some s.cycle.toNat then s.takeToken mn c ch t else s
            | _ => s
          | .busy => if tile.owner = own then s.takeToken mn c ch t else s
          | .ready =>
            if tile.owner ≠ own then s
            else if mcAccum w then s.takeToken mn c ch t
            else s.mapTile mn (mcAcc w) fun t => { t with waitrel := true }

/-- MATCTL_TAKE (R243). -/
def execMatctlTake (mn ctx : Nat) (s : State) : Host.Outcome State Fault Refusal := .next (s.matctl mn ctx)

/-! ## Running fragments (R243, R244, R248) -/

/-- A fill of a node that has written and is not complete overlaps the units from `first` to `last`. -/
def Copy.halfFill (x : Copy) (mn first last : Nat) : Bool :=
  match x.kind with
  | .fill n woff nu _ _ => n == mn && x.chunk != 0 && x.state != .complete && x.state != .killed && woff ≤ last && first < woff + nu
  | _ => false

/-- A fill that has written a unit the fragment reads is not complete, and that of a saved launch is none either (R248). -/
def State.fillConflict (s : State) (mn : Nat) (w : Word) : Bool :=
  let last := s.lastUnit mn w
  (s.mts.any fun e => e.2.copies.any fun x => x.halfFill mn (mcWoff w) last) ||
  s.launches.any fun l => l.2.save.any fun sv => sv.copies.any fun e =>
    s.phys l.2.part (e.1 / 2) == some (mn / 2) && e.2.any fun x =>
      match x.kind with
      | .fill n _ _ _ _ => n % 2 == mn % 2 && x.halfFill n (mcWoff w) last
      | _ => false

/-- The next fragment of a context to start, if it can start now. -/
def State.startable (s : State) (mn c : Nat) : Option Nat :=
  let m := s.getMn mn
  let x := m.ctx c
  let i := m.frags.findIdx fun f => f.ctx == c && f.real && !f.started
  match m.frags[i]? with
  | none => none
  | some f =>
    let rows := if s.mnLive mn c then rowTokens f.word else f.need
    if s.mnStopped mn c || f.rows.length < rows || (mcMop f.word == 1 && !x.dead && !s.doneRoom x) || s.fillConflict mn f.word then none
    else some i

/-- I of R243: cycles between starts. -/
def interval (w : Word) : Nat :=
  let a := tyOfCode (mcAfmt w)
  let b := tyOfCode (mcBfmt w)
  if b = .bf16 then 2 * mcM w else if b = .c4 ∧ a ≠ .bf16 then (mcM w + 1) / 2 else mcM w

/-- FRAGMENT_START (R243, R384): round-robin among the contexts, reserving the DONE slot of MOP 1. -/
def State.fragStart (s : State) (mn : Nat) : State :=
  let s := s.feedAll mn
  let m := s.getMn mn
  if s.cycle.toNat < m.nextStart then s
  else
    match ((List.range 4).map fun i => (m.last + 1 + i) % 4).findSome? fun c => (s.startable mn c).map fun i => (c, i) with
    | none => s
    | some (c, i) =>
      let w := (lget default m.frags i).word
      let now := s.cycle.toNat
      let s := s.setMn mn { m with
        frags := lmod m.frags i fun f => { f with started := true, due := now + 140 + interval w }
        ctxs := lmod m.ctxs c (·.acts), last := c, nextStart := now + interval w }
      if mcMop w = 1 ∧ !(m.ctx c).dead then s.mapMnCtx mn c fun x => { x with reserved := x.reserved + 1 } else s

/-- FRAGMENT_START. -/
def execFragmentStart (mn : Nat) (s : State) : Host.Outcome State Fault Refusal := .next (s.fragStart mn)

/-- Element (i, k) of A, and element (k, n) of B after codebook and block scale (R242, R64, R65). -/
def fragA (f : Fragment) (i k : Nat) : FVal :=
  let t := tyOfCode (mcAfmt f.word)
  let per := 1024 / t.width
  elemVal t (fun _ => 0) (lane (lget 0 f.rows (i * rowTokens f.word + k / per)) t.width (k % per))

def State.fragB (s : State) (mn : Nat) (w : Word) (k n : Nat) : FVal :=
  let t := tyOfCode (mcBfmt w)
  let row := wbufAddr mn (64 * (mcWoff w + 1 + k * rowUnits w))
  let bits := s.wbuf.readNat (row + n * t.width / 8) ((t.width + 7) / 8) / 2 ^ (n * t.width % 8)
  let scale := if s.scaled mn w then
      some (s.wbuf.read (wbufAddr mn (64 * (mcWoff w + 1 + mcK w * rowUnits w) + 4 * k + n / 32))).toNat
    else none
  scaleBy scale (elemVal t (s.regionBook mn w) bits)

/-- The new value of an element of the tile (R67, R68). -/
def State.fragElem (s : State) (mn : Nat) (f : Fragment) (i j : Nat) : Nat :=
  let w := f.word
  let acc := if mcAccum w then s.accs.readNat (accAddr mn (mcAcc w) i j) 4 else 0
  nodeSum (tyOfCode (mcAfmt w) == .s8) acc ((List.range (mcK w)).map (fragA f i)) ((List.range (mcK w)).map fun k => s.fragB mn w k j)

/-- Writes rows 0 to M − 1 and columns 0 to N − 1 of the tile, all at once (R243, R387). -/
def State.fragWrite (s : State) (mn : Nat) (f : Fragment) : State :=
  let w := f.word
  let vals := (List.range (mcM w)).flatMap fun i => (List.range (mcN w)).map fun j => (accAddr mn (mcAcc w) i j, s.fragElem mn f i j)
  { s with accs := vals.foldl (fun m v => m.writeNat v.1 4 v.2) s.accs }

/-- FRAGMENT_COMPLETE (R243, R244): the earliest started fragment, once its rows have come and its time is over. It writes
its elements, gives DONE for MOP 1 unless the node's service of the context was ended or its launch is being killed, and
its tile is READY when it was the last in flight. -/
def State.fragComplete (s : State) (mn : Nat) : State :=
  let s := s.feedAll mn
  let m := s.getMn mn
  match (m.frags.filter (·.started)) with
  | [] => s
  | f :: fs =>
    let f := fs.foldl (fun a b => if b.due < a.due then b else a) f
    if s.cycle.toNat < f.due ∨ f.rows.length < f.need then s
    else
      let s := s.fragWrite mn f
      let s := s.mapMn mn fun m => { m with frags := m.frags.erase f }
      let s := if mcMop f.word ≠ 1 then s
        else if s.noDone mn f.ctx then s.mapMnCtx mn f.ctx fun x => { x with reserved := x.reserved - 1 }
        else s.giveDone mn f.ctx (mcSeq f.word)
      if ((s.getMn mn).flights mn (mcAcc f.word)).isEmpty then s.mapTile mn (mcAcc f.word) fun t => { t with state := .ready } else s

/-- FRAGMENT_COMPLETE. -/
def execFragmentComplete (mn : Nat) (s : State) : Host.Outcome State Fault Refusal := .next (s.fragComplete mn)

/-- DONE_FENCE_GIVE (R244): a MOP 2 token gives DONE once no fragment accepted on its tile before it is in flight. -/
def State.doneFence (s : State) (mn c : Nat) : State :=
  let m := s.getMn mn
  let i := m.frags.findIdx fun f => f.ctx == c && !f.real
  match m.frags[i]? with
  | none => s
  | some f =>
    if (m.frags.take i).any fun g => g.real && mcAcc g.word == mcAcc f.word then s
    else
      let s := s.setMn mn { m with frags := m.frags.eraseIdx i }
      if s.noDone mn c then s.mapMnCtx mn c fun x => { x with reserved := x.reserved - 1 } else s.giveDone mn c (mcSeq f.word)

/-- DONE_FENCE_GIVE. -/
def execDoneFenceGive (mn ctx : Nat) (s : State) : Host.Outcome State Fault Refusal := .next (s.doneFence mn ctx)

/-- A saved tile entry is written to its IDLE tile whole; with its last one, the context's pending fragments are
accepted again, ahead of every token (R391). -/
def State.restoreTile (s : State) (mn : Nat) (r : TileEntry) : State :=
  let s := { s with accs := r.contents.foldl (fun (m : Memory) (c : Nat × Byte) => m.write (accAddr mn r.tile 0 0 + c.1) c.2)
                              (s.accs.clear (accAddr mn r.tile 0 0) 32768) }
  let s := s.mapMn mn fun m => { m with
    tiles := lmod m.tiles r.tile fun _ => { state := if r.busy then .busy else .ready, owner := r.ctx, owned := true }
    restores := m.restores.erase r }
  if r.ctx / 4 = mn / 2 then State.reaccept 64 s mn (r.ctx % 4) else s

/-- TILE_HANDOVER (R386): an IDLE tile is taken by the earliest that waits for it. -/
def State.handover (s : State) (mn t : Nat) : State :=
  let x := (s.getMn mn).tile t
  if x.state ≠ .idle ∨ x.idleAt = some s.cycle.toNat then s
  else
    match firstWaiter (s.tileWaiters mn t) with
    | some (.token c) => s.matctl mn c
    | some (.restore r) => s.restoreTile mn r
    | none => s

/-- TILE_HANDOVER. -/
def execTileHandover (mn tile : Nat) (s : State) : Host.Outcome State Fault Refusal := .next (s.handover mn tile)

/-- TILE_RESTORE (R391): the restore that waits first for an IDLE tile is written. -/
def execTileRestore (mn tile : Nat) (s : State) : Host.Outcome State Fault Refusal :=
  .next (let x := (s.getMn mn).tile tile
    if x.state ≠ .idle ∨ x.idleAt = some s.cycle.toNat then s
    else match firstWaiter (s.tileWaiters mn tile) with
      | some (.restore r) => s.restoreTile mn r
      | _ => s)

/-- NODE_PARTITION_CLEAR (R392): once no launch of the old partition holds the node's page, its tiles are +0, its regions
are gone and its weight buffer is zero. -/
def execNodePartitionClear (mn : Nat) (s : State) : Host.Outcome State Fault Refusal :=
  .next (if !(s.getMn mn).clearing || (s.getPage (mn / 2)).resident.any (· != 0) then s
    else { s with
      mns := tput s.mns mn {}
      accs := s.accs.clear (mn * 2 ^ 18) (2 ^ 18)
      wbuf := s.wbuf.clear (mn * 2 ^ 19) (2 ^ 19) })

/-! ## The instructions -/

/-- What MMA builds (R245). -/
def mmaWord (f : FmtT) (g q : Word) (bfmt : Nat) : Word :=
  let v := g.toNat
  BitVec.ofNat 64 (natBits v 59 57 * 2 ^ 57 + natBits v 55 36 * 2 ^ 36 + natBits v 27 15 * 2 ^ 15 +
    f.md.toNat / 2 * 2 ^ 60 + f.md.toNat % 2 * 2 ^ 56 + f.ty.code * 2 ^ 32 + bfmt % 16 * 2 ^ 28 + natBits q.toNat 14 0)

/-- MMA (R245). -/
def execMma (f : FmtT) (s : State) : Host.Outcome State Fault Refusal :=
  .next (s.pureT f fun r =>
    let bfmt := match f.sc with | .imm v => v.toNat | _ => 0
    ⟨(mmaWord f (r.w64 .a f.sa) (r.w64 .b f.sb) bfmt).toVec, false, 0⟩)

/-- The physical matrix node a node word names, and its tile (R192, R241). A node that passes to its page's new owner holds
the access (R277, R392). -/
def State.nodeAt (s : State) (part : Nat) (n : Word) : Try (Nat × Nat) :=
  let v := n.toNat
  let p := s.getPart part
  let lp := natBits v 12 4
  let e := tget {} p.map lp
  if natBits v 63 13 ≠ 0 ∨ p.nl ≤ lp then .error (some ⟨.protect, v, 0⟩)
  else if e.mov && !s.leaving then .error none
  else if e.v && ((s.getPage e.ppage).clearing || (s.getMn (e.ppage * 2 + natBits v 3 3)).clearing) then .error none
  else if !e.v || (s.getPage e.ppage).mapout then .error (some ⟨.gated, v, 0⟩)
  else .ok (e.ppage * 2 + natBits v 3 3, natBits v 2 0)

/-- What R386 has before an instruction that reaches a tile in this cycle: a fragment that the node has accepted on it in this
cycle, which the instruction, had it come with it, would precede; or the completion, now due, of the last one in flight. -/
def MatNode.tileWait (m : MatNode) (t cycle : Nat) : Bool :=
  match m.onTile t with
  | [] => false
  | [f] => f.arrive == cycle || (f.started && f.due ≤ cycle && f.need ≤ f.rows.length)
  | fs => fs.any (·.arrive == cycle)

/-- The frame of an access of a tile (R246): the node word's checks, then PROTECT for a tile another context owns and
ACC_BUSY for a BUSY tile of the issuer. `go` is given the node, the tile and its state. -/
def State.tileAcc (s : State) (f : FmtT) (go : Nat → Rd → State → Nat → Nat → TileState → State) : State :=
  s.engine f fun k r s =>
    let n := r.w64 .a f.sa
    s.check k (s.nodeAt r.c.part n) fun p =>
      let m := s.getMn p.1
      let t := m.tile p.2
      if m.tileWait p.2 s.cycle.toNat then s
      else if t.state ≠ .idle ∧ t.owner ≠ cePage k * 4 + ceSlot k then s.ceFault k .protect n.toNat 0
      else if t.state = .busy then s.ceFault k .accBusy (tileWord m p.1 p.2 n.toNat) 0
      else go k r s p.1 p.2 t.state

/-- Row and first column of a row word. -/
def rowWord (r : Word) : Nat × Nat := (natBits r.toNat 5 0, 32 * natBits r.toNat 7 6)

/-- ACCRD (R246). -/
def execAccrd (f : FmtT) (s : State) : Host.Outcome State Fault Refusal :=
  .next (s.tileAcc f fun k r s mn t _ =>
    let q := rowWord (r.w64 .b f.sb)
    s.give2 k f true (s.accs.readLine (accAddr mn t q.1 q.2)))

/-- A direct write makes an IDLE tile READY and the issuer its owner (R246, R385). -/
def State.ownTile (s : State) (mn t k : Nat) (st : TileState) : State :=
  if st = .idle then s.mapTile mn t fun _ => { state := .ready, owner := cePage k * 4 + ceSlot k, owned := true } else s

/-- ACCWR (R246). -/
def execAccwr (f : FmtT) (s : State) : Host.Outcome State Fault Refusal :=
  .next (s.tileAcc f fun k r s mn t st =>
    let q := rowWord (r.w64 .b f.sb)
    let v := r.raw 32 .c f.sc
    let s := { s with accs := s.accs.writeBytes (accAddr mn t q.1 q.2) (bytesOfNat 128 v.toNat) }
    (s.ownTile mn t k st).give2 k f false 0)

/-- ACCZ (R246): +0 everywhere. -/
def execAccz (f : FmtT) (s : State) : Host.Outcome State Fault Refusal :=
  .next (s.tileAcc f fun k _ s mn t st =>
    let s := { s with accs := s.accs.clear (accAddr mn t 0 0) 32768 }
    (s.ownTile mn t k st).give2 k f false 0)

/-- ACCREL (R246). -/
def execAccrel (f : FmtT) (s : State) : Host.Outcome State Fault Refusal :=
  .next (s.tileAcc f fun k _ s mn t st =>
    if st = .idle then s.give2 k f false 0
    else (s.mapTile mn t fun _ => { idleAt := some s.cycle.toNat }).give2 k f false 1)

/-- A stream source (R237): STR in an IMM7. -/
def strOf : Src → Nat
  | .imm v => v.toNat % 16
  | _ => 0

/-- The fields of a fill descriptor (R247). -/
def fillWoff (d : Vec) : Nat := natBits d.toNat 76 64
def fillNu (d : Vec) : Nat := natBits d.toNat 92 80 + 1
def fillTag (d : Vec) : Nat := natBits d.toNat 127 96
def fillEnt (d : Vec) : Bool := bitN d.toNat 94
def fillHandle (d : Vec) : Word := d.extractLsb' 128 64

/-- Records a new region as FILLING: it removes the records it overlaps and, as a seventeenth, the oldest (R247). -/
def MatNode.addRegion (m : MatNode) (r : Region) : MatNode :=
  let keep := m.regions.filter fun q => !(q.woff < r.woff + r.nu && r.woff < q.woff + q.nu)
  let keep := if 16 ≤ keep.length then keep.drop 1 else keep
  { m with regions := keep ++ [r] }

/-- WLOAD (R247). -/
def execWload (f : FmtT) (s : State) : Host.Outcome State Fault Refusal :=
  .next (s.engine f fun k r s =>
    let n := r.w64 .a f.sa
    let d := r.raw 0 .b f.sb
    let v := d.toNat
    let src : Word := d.extractLsb' 0 64
    let str := strOf f.sc
    if v / 2 ^ 192 ≠ 0 ∨ bitN v 95 ∨ bitN v 93 ∨ natBits v 79 77 ≠ 0 ∨ (!fillEnt d ∧ fillHandle d ≠ 0) ∨
        8192 < fillWoff d + fillNu d then s.ceFault k .illegal 0 0xF
    else s.check k (s.nodeAt r.c.part n) fun p =>
      match place src with
      | none => s.ceFault k .protect src.toNat 0
      | some (ap, a) =>
        let t := if fillEnt d then s.tensor r.c.part (fillHandle d) else some 0
        if ap = 2 then s.ceFault k .protect src.toNat 0
        else if a % 8 ≠ 0 then s.ceFault k .align src.toNat 0
        else match t with
          | none => s.ceFault k .handle (fillHandle d).toNat 0
          | some t =>
            if fillEnt d ∧ !recEnt t then s.ceFault k .handle (fillHandle d).toNat 0
            else
              let mt := p.1 / 2 * 2 + (1 - p.1 % 2)
              if 32 ≤ (s.getMt mt).pendingCopies (ceCtxOf k) then s
              else
                let kind : CopyKind := .fill p.1 (fillWoff d) (fillNu d) (fillTag d) (if fillEnt d then some t else none)
                let seq := tget 0 (s.getMt mt).copySeq (ceCtxOf k)
                let (pr, s) := s.newCopy k mt (natBits n.toNat 12 4) str 0 kind src 0 (64 * fillNu d)
                let s := s.mapMn p.1 fun m => m.addRegion
                  { woff := fillWoff d, nu := fillNu d, tag := fillTag d, resident := false, launch := r.c.launch, fill := (r.c.launch, r.c.lpage, seq) }
                s.unpark.give2 k f false pr.toVec)

/-- WRES (R249): with .park and a result of 1, the launch parks when the block ends. -/
def execWres (f : FmtT) (s : State) : Host.Outcome State Fault Refusal :=
  .next (s.engine f fun k r s =>
    let d := r.raw 0 .b f.sb
    s.check k (s.nodeAt r.c.part (r.w64 .a f.sa)) fun p =>
      let hit := (s.getMn p.1).regions.find? fun x => x.woff == fillWoff d && x.nu == fillNu d && x.tag == fillTag d
      let code : Nat := match hit with | some x => if x.resident then 2 else 1 | none => 0
      let s := match hit with
        | some x =>
          if code = 1 ∧ f.md.getLsbD 0 then s.mapCe k fun c => { c with fir := { c.fir with park := c.fir.park ++ [(p.1, x.fill)] } } else s
        | none => s
      s.give2 k f false (BitVec.ofNat 1024 code))

/-! ## Broadcast buses (R19, R20) -/

/-- The matrix node at position i of a bus. -/
def busNode (bus i : Nat) : Nat :=
  let b := bus % 128
  let d := b / 16
  let line := b % 16
  let (px, py) := if bus < 128 then (i, line / 2) else (line / 2, i)
  ((d / 4 * 8 + py) * 32 + d % 4 * 8 + px) * 2 + line % 2

/-- The column bus of a matrix node, and the node's position on it. -/
def colBusOf (mn : Nat) : Nat × Nat :=
  let page := mn / 2
  (128 + pageDie page * 16 + page % 32 % 8 * 2 + mn % 2, page / 32 % 8)

/-- The memory tile that drives a bus from position i: it stands on the bus's line, on the page of the node there (R19). -/
def busDriver (bus i : Nat) : Nat :=
  let mn := busNode bus i
  if bus < 128 then mn else mn / 2 * 2 + (1 - mn % 2)

/-- The drivers of a bus, in round-robin order after the one last granted (R20). -/
def busTurn (bus last : Nat) : List Nat :=
  let ds := (List.range 8).map (busDriver bus)
  (ds.filter (last < ·)) ++ (ds.filter (· ≤ last))

/-- A bus of the package. -/
def State.bus (s : State) (b : Nat) : Bus := tget {} s.buses b

/-- BUS_GRANT (R20): one driver's oldest transfer, round-robin after the driver last granted; the bus grants no other
while a transfer stays on it. -/
def State.busGrant (s : State) (b : Nat) : State :=
  let x := s.bus b
  if x.held.isSome then s
  else
    match (busTurn b x.last).findSome? fun d => x.waiting.find? (·.driver == d) with
    | none => s
    | some t => { s with buses := tput s.buses b { waiting := x.waiting.erase t, held := some t, last := t.driver } }

/-- BUS_GRANT. -/
def execBusGrant (bus : Nat) (s : State) : Host.Outcome State Fault Refusal := .next (s.busGrant bus)

/-- A node takes a transfer: weight-buffer bytes, or an operand for a context's operand input. -/
def State.busTake (s : State) (mn : Nat) (t : BusXfer) : State :=
  match t.fill with
  | some (off, n) => { s with wbuf := s.wbuf.writeBytes (wbufAddr mn off) (bytesOfNat n t.data.toNat) }
  | none => s.mapMnCtx mn t.ctx fun x => { x with bus := x.bus ++ [t.data] }

/-- BUS_DELIVERY (R20): the transfer enters every addressed node, or stays on the bus while one has no space. -/
def State.busDeliver (s : State) (b : Nat) : State :=
  let x := s.bus b
  match x.held with
  | none => s
  | some t =>
    let nodes := ((List.range 8).filter fun i => t.mask.getLsbD i).map (busNode b)
    let room := nodes.all fun mn => t.fill.isSome || ((s.getMn mn).ctx t.ctx).bus.length < Config.busOperands
    if !room then s
    else (nodes.foldl (fun s mn => s.busTake mn t) { s with buses := tput s.buses b { x with held := none } })

/-- BUS_DELIVERY. -/
def execBusDelivery (bus : Nat) (s : State) : Host.Outcome State Fault Refusal := .next (s.busDeliver bus)

end Sys2Proof.Machine
end

