-- ==== Sys2Proof/Machine/Copies.lean ====
section
/-!
DEFINITION. Sys2Proof/Machine/Copies.lean: the copy engine of a memory tile (R205 to R208, R247, R248, R257): copies,
weight fills and step-cache replays, a chunk of 4 KiB at a time.
-/

namespace Sys2Proof.Machine

/-- An engine may work on a command: its launch is on the package and the command has not stopped, and the accesses of its
stream have been performed (R238, R288). -/
def State.copyGoes (s : State) (mt : Nat) (x : Copy) : Bool :=
  x.state == .pending && (s.launchD x.launch).resident && !s.unitStopped x.launch (copyUnit mt x) && s.handed x.ce x.after

/-- Replaces a copy of an engine. -/
def State.setCopy (s : State) (mt : Nat) (x : Copy) : State :=
  s.mapMt mt fun m => { m with copies := m.copies.map fun y =>
    if y.who = x.who ∧ y.seq = x.seq then x else y }

/-- The unit reference word of a copy-like command (R416). -/
def State.copyUref (s : State) (mt : Nat) (x : Copy) : Word :=
  urefWord 4 (s.lpageOf (s.partOf x.launch) (mt / 2)) (mtTile (mt % 2)) x.ctx 0 x.seq.toNat

/-- The 4 KiB chunk of destination that a command works on: of an SPMM, that of its next row. -/
def Copy.chunkNo (x : Copy) : Nat := match x.kind with | .spmm _ _ _ _ => x.chunk / 32 | _ => x.chunk

/-- The port of its memory tile through which a command works: the copy engine's, or the step cache's for a replay (R270). -/
def Copy.engine (x : Copy) (mt : Nat) : Engine := tileEngine mt (if x.kind = .replay then 3 else 2)

/-- COPY_FAULT (R207): the chunk's record is written and the copy is FAULTED; the chunks before it stand. -/
def State.copyFault (s : State) (mt : Nat) (x : Copy) (e : Err) : State :=
  let s := s.setCopy mt { x with state := .faulted }
  let part := s.partOf x.launch
  s.record part (s.isSuper x.launch)
    { cls := e.cls, kind := 2, ctx := x.ctx, xy := tileXy (mt / 2) (mtTile (mt % 2)), uref := s.copyUref mt x,
      word := (promiseWord (s.lpageOf part (mt / 2)) mt x.ctx x.launch x.seq.toNat).toNat, addr := e.addr, detail := e.detail,
      aux := x.chunkNo }

/-- A copy is complete: a release over its destination at device scope, and its order-out (R191, R207). -/
def State.copyComplete (s : State) (mt : Nat) (x : Copy) : State :=
  let s := s.setCopy mt { x with state := .complete }
  match x.kind with
  | .fill mn _ _ _ _ =>
    (s.mapMn mn fun m => { m with regions := m.regions.map fun r =>
      if r.fill = x.fillId ∧ !r.resident then { r with resident := true } else r }).unpark
  | k =>
    let s := match place x.dst with
      | some (ap, a) => s.releaseRange (s.partOf x.launch) ap a x.len
      | none => s
    if k = .copy then s.performed x.ce x.acc else s

/-- A chunk is over: the next, or completion. `n` bytes were written. -/
def State.chunkDone (s : State) (mt : Nat) (x : Copy) (n : Nat) : State :=
  let x := { x with chunk := x.chunk + 1, done := x.done + n }
  match x.kind with
  | .fill _ _ _ _ _ => s.setCopy mt x
  | _ => if x.len ≤ 4096 * x.chunk then (s.setCopy mt x).copyComplete mt x else s.setCopy mt x

/-- A chunk of a copy or a replay: its whole source is read before any of it is written (R207). -/
def State.copyChunk (s : State) (mt : Nat) (x : Copy) : State :=
  let part := s.partOf x.launch
  let off := 4096 * x.chunk
  let n := min 4096 (x.len - off)
  if x.len ≤ off then s.copyComplete mt x
  else match place x.src, place x.dst with
  | some (sp, sa), some (dp, da) =>
    match s.readAt part sp (sa + off) n (x.engine mt) with
    | (.error none, s) => s
    | (.error (some e), s) => s.copyFault mt x e
    | (.ok bs, s) =>
      match s.writeAt part x.launch dp (da + off) bs (x.engine mt) with
      | (.error none, s) => s
      | (.error (some e), s) => s.copyFault mt x e
      | (.ok _, s) => s.chunkDone mt x n
  | _, _ => s

/-! ## Weight fills (R247, R248, R316) -/

/-- Transfers of an engine's fills that are not delivered yet. -/
def State.fillsInFlight (s : State) (mt mn : Nat) : Bool :=
  let b := s.bus (colBusOf mn).1
  (b.waiting ++ b.held.toList).any fun t => t.fill.isSome && t.driver == mt

/-- A fragment of the node still reads a unit that a fill would write (R248). -/
def State.fillWaits (s : State) (mn woff nu : Nat) : Bool :=
  (s.getMn mn).frags.any fun f => f.real && woff ≤ s.lastUnit mn f.word && mcWoff f.word < woff + nu

/-- The source bytes of a chunk of a fill: as they lie, or decoded (R316). -/
def State.fillBytes (s : State) (part mt : Nat) (x : Copy) (tensor : Option Vec) (off n : Nat) : Try (List Byte) × State :=
  match place x.src with
  | none => (.error (some ⟨.protect, x.src.toNat, 0⟩), s)
  | some (ap, a) =>
    match tensor with
    | none => s.readAt part ap (a + off) n (x.engine mt)
    | some t =>
      let lens := (List.range 16).map (recLen t)
      match State.symbols part ap a lens (x.engine mt) (2 * n / 4096 + 2) s (2 * off) (2 * n) [] with
      | (.error e, s) => (.error e, s)
      | (.ok cs, s) => (.ok (bytesOfNat n (cs.foldr (fun c acc => c % 16 + 16 * acc) 0)), s)

/-- Puts a chunk on the node's column bus in transfers of 128 bytes, in ascending units. -/
def State.driveFill (s : State) (mt mn at_ : Nat) (bs : List Byte) : State :=
  let (bus, pos) := colBusOf mn
  let xs := (List.range ((bs.length + 127) / 128)).map fun i =>
    let part := (bs.drop (128 * i)).take 128
    ({ driver := mt, data := BitVec.ofNat 1024 (natOfBytes part), mask := BitVec.twoPow 8 pos, ctx := 0,
       fill := some (at_ + 128 * i, part.length) } : BusXfer)
  let b := s.bus bus
  { s with buses := tput s.buses bus { b with waiting := b.waiting ++ xs } }

/-- A step of a weight fill: it waits for its own transfers, then completes or sends its next chunk. -/
def State.fillChunk (s : State) (mt : Nat) (x : Copy) (mn woff nu : Nat) (tensor : Option Vec) : State :=
  let off := 4096 * x.chunk
  if s.fillsInFlight mt mn then s
  else if x.len ≤ off then s.copyComplete mt x
  else if x.chunk = 0 ∧ s.fillWaits mn woff nu then s
  else
    let n := min 4096 (x.len - off)
    match s.fillBytes (s.partOf x.launch) mt x tensor off n with
    | (.error none, s) => s
    | (.error (some e), s) => s.copyFault mt x e
    | (.ok bs, s) => (s.driveFill mt mn (64 * woff + off) bs).chunkDone mt x n

/-! ## The engine's choice (R205) -/

/-- The copies an engine may go on with: the first unfinished one of each context, in rotation over the contexts after the one
served last. -/
def MemTile.copyHeads (m : MemTile) : List (Nat × Copy) :=
  let live := m.copies.filter fun x => (x.state == .pending || x.state == .faulted) &&
    (match x.kind with | .spmm _ _ _ _ => false | _ => true)
  let keys := sortKey id (live.map Copy.who).eraseDups
  let heads := keys.filterMap fun k => (live.find? fun x => x.who == k).map fun x => (k, x)
  (heads.filter fun h => m.copyLast < h.1) ++ (heads.filter fun h => h.1 ≤ m.copyLast)

/-- COPY_CHUNK (R207). -/
def State.copyStep (s : State) (mt : Nat) : State :=
  match (s.getMt mt).copyHeads.find? fun h => s.copyGoes mt h.2 with
  | none => s
  | some (k, x) =>
    let s := s.mapMt mt fun m => { m with copyLast := k }
    match x.kind with
    | .fill mn woff nu _ t => s.fillChunk mt x mn woff nu t
    | _ => s.copyChunk mt x

/-- COPY_CHUNK. -/
def execCopyChunk (mt : Nat) (s : State) : Host.Outcome State Fault Refusal := .next (s.copyStep mt)

/-! ## TRET on a copy-like command (R207, R247) -/

/-- A launch's outcome is faulted (R31). -/
def State.launchFaulted (s : State) (id : Nat) : State := s.mapLaunch id fun l => { l with anyFault := true }

/-- The order-out of a command that never completes is not published: its reserved slot goes (R282, R286). -/
def State.dropOrder (s : State) (k acc : Nat) : State :=
  (s.mapCe k (·.dropAcc acc)).pump k

/-- Ends a faulted command by TRET kill: no release, no ORDER token, and a fill's region record goes. -/
def State.copyKill (s : State) (mt : Nat) (x : Copy) : State :=
  let s := (s.setCopy mt { x with state := .killed }).launchFaulted x.launch
  match x.kind with
  | .fill mn _ _ _ _ =>
    (s.mapMn mn fun m => { m with regions := m.regions.filter fun r => !(r.fill == x.fillId && !r.resident) }).unpark
  | .copy => s.dropOrder x.ce x.acc
  | _ => s

/-- A faulted copy-like command of a saved launch, with TRET retry or skip: it goes on once its launch is resumed. A skipped
SPMM with no rows left completes then with none written (R207, R325, R421). -/
def Copy.returned (x : Copy) (skip : Bool) : Copy :=
  match skip, x.kind with
  | false, _ => { x with state := .pending, path := if x.path = 5 then 4 else x.path }
  | true, .spmm _ _ _ _ =>
    let next := (x.chunk / 32 + 1) * 32
    if x.path = 5 ∨ 64 ≤ next then { x with state := .pending, chunk := 64, path := 2 }
    else { x with state := .pending, chunk := next, next := 64 * next, rowAcc := none }
  | true, _ => { x with state := .pending, chunk := x.chunk + 1 }

/-- TRET on a faulted copy, fill or replay: the chunk again, the next chunk, or the end. -/
def State.copyReturn (s : State) (mt : Nat) (x : Copy) (mode : Nat) : State :=
  match mode with
  | 0 => s.setCopy mt { x with state := .pending }
  | 1 => s.chunkDone mt { x with state := .pending } 0
  | _ => s.copyKill mt x

end Sys2Proof.Machine
end

