-- ==== Sys2Proof/Machine/Loader.lean ====
section
/-!
DEFINITION. Sys2Proof/Machine/Loader.lean: launch records (R176), and the checks that the on-device loader makes of an
image (R338, R355, R356, R427).
-/

namespace Sys2Proof.Machine

/-! ## Launch records (R176) -/

/-- What a launch record says. -/
structure LaunchRec where
  image : Nat
  args : List Word
  tbufs : List (Nat × Nat)
  level : Nat

/-- A launch record, or none where it breaks its field map (BADREC; R36, R175, R176). -/
def launchRec (v : Nat) : Option LaunchRec :=
  let nargs := natBits v 71 68
  let ntbuf := natBits v 74 72
  let arg (n : Nat) : Nat := natBits v (64 * n + 191) (64 * n + 128)
  let tb (n : Nat) : Nat := natBits v (64 * n + 703) (64 * n + 640)
  let binds := (List.range ntbuf).map fun n => (natBits (tb n) 39 32, natBits (tb n) 31 0)
  let twice := (List.range ntbuf).any fun n => (List.range n).any fun m => (binds.getD m (0, 0)).1 == (binds.getD n (0, 0)).1
  if natBits v 1023 896 ≠ 0 ∨ natBits v 127 75 ≠ 0 ∨ natBits v 67 66 ≠ 0 ∨ natBits v 63 56 ≠ 0 ∨ 8 < nargs ∨ 4 < ntbuf ∨
      ((List.range 8).any fun n => nargs ≤ n && arg n != 0) ∨ ((List.range 4).any fun n => ntbuf ≤ n && tb n != 0) ∨
      ((List.range ntbuf).any fun n => natBits (tb n) 63 40 != 0 || Config.tileBuffers ≤ natBits (tb n) 31 0) ∨ twice then none
  else some { image := natBits v 55 0, args := (List.range 8).map fun n => BitVec.ofNat 64 (arg n), tbufs := binds,
              level := natBits v 65 64 }

/-! ## What an image declares -/

/-- KiB of the declared quotas of an image (R343). -/
def imgQuota (b : ImageBody) : Nat := (b.chans.map fun c => if c.rate.isNone then c.quota else 0).sum

/-- Declared completion points (R30). -/
def imgEnds (b : ImageBody) : Nat := (b.tiles.flatMap fun t => t.tasks.map (·.ends)).sum + (b.ops.map (·.ends)).sum

/-- The largest window an image asks of a compute element's position on any of its pages (R428, R466). -/
def maxWindow (b : ImageBody) (e : Nat) : Nat :=
  b.tiles.foldl (fun m t => if t.ce = e then max m (1024 * t.codeKib) else m) 0

/-- The image page of an endpoint. -/
def endPage (b : ImageBody) : ImgEnd → Nat
  | .ceIn p _ _ | .ceOut p _ _ | .mnIn p _ _ | .mnOut p _ | .mtIn p _ _ | .mtOut p _ _ | .convoyOut p _ | .convoyIn p => p
  | .op i _ => match b.ops[i]? with | some o => o.page | none => 0
  | .trapq => 0

/-- The actor of an endpoint (R355), as a number. -/
def actorOf : ImgEnd → Nat
  | .ceIn p e _ | .ceOut p e _ => p * 16 + e
  | .op i _ => 2 ^ 20 + i
  | .mnIn p n _ | .mnOut p n => 2 * 2 ^ 20 + p * 2 + n
  | .mtIn p m _ | .mtOut p m _ => 3 * 2 ^ 20 + p * 2 + m
  | .convoyOut p _ | .convoyIn p => 4 * 2 ^ 20 + p
  | .trapq => 5 * 2 ^ 20

/-- The operator of an image's operator, from its word. -/
def imgInstr (b : ImageBody) (i : Nat) : Option Instr := (b.ops[i]?).bind fun o => routerWord o.word

/-! ## The rate check (R355, R356) -/

/-- A producer port that is data-dependent of itself (R355). -/
def ddPort (b : ImageBody) : ImgEnd → Bool
  | .convoyOut _ _ | .trapq => true
  | .op i _ =>
    match imgInstr b i with
    | some (.steer _) | some (.filter _) | some (.switch _) | some (.sploop _) | some (.count _) | some (.carry _) => true
    | some (.repeat f) => nrep f == 0
    | _ => false
  | _ => false

/-- One round of the second condition of R355. -/
def ddRound (b : ImageBody) (dd : List Bool) : List Bool :=
  let ins (a : Nat) : List (ImgEnd × Bool) := (List.zip b.chans dd).filterMap fun e =>
    if actorOf e.1.dst = a then some (e.1.dst, e.2) else none
  List.zipWith (fun c d =>
    d ||
    let es := ins (actorOf c.src)
    let merge := match c.src with | .op i _ => (match imgInstr b i with | some (.merge _) => true | _ => false) | _ => false
    es.any (·.2) && !(merge && !(es.any fun e => e.2 && match e.1 with | .op _ 2 => true | _ => false))) b.chans dd

/-- Which edges are data-dependent. -/
def ddEdges (b : ImageBody) : List Bool :=
  (List.range b.chans.length).foldl (fun dd _ => ddRound b dd) (b.chans.map fun c => ddPort b c.src)

/-- A fixed-rate edge: its actors, rates, depth and init. -/
structure RateEdge where
  u : Nat
  v : Nat
  p : Nat
  c : Nat
  depth : Nat
  init : Nat

/-- The fixed-rate edges. -/
def rateEdges (b : ImageBody) : List RateEdge :=
  b.chans.filterMap fun c => c.rate.map fun r => ⟨actorOf c.src, actorOf c.dst, r.1, r.2, c.depth, c.init⟩

/-- Grows one component: rational repetition counts (numerator, denominator) by actor. -/
def growRates (es : List RateEdge) : Nat → Tab (Nat × Nat) → Tab (Nat × Nat)
  | 0, t => t
  | fuel + 1, t =>
    let step := es.findSome? fun e =>
      match tfind t e.u, tfind t e.v with
      | some (n, d), none => some (e.v, (n * e.p, d * e.c))
      | none, some (n, d) => some (e.u, (n * e.c, d * e.p))
      | _, _ => none
    match step with
    | some (a, (n, d)) => let g := max 1 (Nat.gcd n d); growRates es fuel (tput t a (n / g, d / g))
    | none => t

/-- A component's counts as whole numbers with greatest common divisor 1. -/
def wholeRates (t : Tab (Nat × Nat)) : Tab Nat :=
  let l := t.foldl (fun l e => Nat.lcm l (max 1 e.2.2)) 1
  let ns := t.map fun e => (e.1, e.2.1 * (l / max 1 e.2.2))
  let g := max 1 (ns.foldl (fun g e => Nat.gcd g e.2) 0)
  ns.map fun e => (e.1, e.2 / g)

/-- The repetition vector of every component. -/
def repVector (es : List RateEdge) : Nat → Tab Nat → Tab Nat
  | 0, t => t
  | fuel + 1, t =>
    match es.find? fun e => (tfind t e.u).isNone with
    | none => t
    | some e =>
      let comp := wholeRates (growRates es (2 * es.length + 1) (tput [] e.u (1, 1)))
      repVector es fuel (comp.foldl (fun t x => tput t x.1 x.2) t)

/-- Step 5: fires actors until none can fire. The firings of each actor, and the tokens left on each edge. -/
def iterateRates (es : List RateEdge) (r : Tab Nat) : Nat → List Nat → Tab Nat → Tab Nat × List Nat
  | 0, toks, fired => (fired, toks)
  | fuel + 1, toks, fired =>
    let can (a : Nat) : Bool := tget 0 fired a < tget 0 r a &&
      (List.zip es toks).all fun e => e.1.v != a || e.1.c ≤ e.2
    match (tkeys r).find? can with
    | none => (fired, toks)
    | some a =>
      iterateRates es r fuel
        (List.zipWith (fun e n => n - (if e.v = a then e.c else 0) + (if e.u = a then e.p else 0)) es toks) (tadd fired a 1)

/-- The pool sums of R338: the depths bound in one context slot sum to at most 128. -/
def poolOk (b : ImageBody) (c : ImgChan) : Bool :=
  let at_ (p e : Nat) : Nat := (b.chans.map fun c =>
    (match c.src with | .ceOut q f _ => if q = p ∧ f = e then c.depth else 0 | _ => 0) +
    (match c.dst with | .ceIn q f _ => if q = p ∧ f = e then c.depth else 0 | _ => 0)).sum
  (match c.src with | .ceOut p e _ => at_ p e ≤ 128 | _ => true) && (match c.dst with | .ceIn p e _ => at_ p e ≤ 128 | _ => true)

/-- What a step of the rate check finds of each channel, in the order of the image; a step that looks at the fixed-rate edges
passes every other channel. -/
def overEdges (b : ImageBody) (oks : List Bool) : List Bool :=
  (b.chans.foldl (fun (x : List Bool × List Bool) c =>
    if c.rate.isSome then (x.1 ++ [x.2.headD true], x.2.drop 1) else (x.1 ++ [true], x.2)) ([], oks)).1

/-- The five steps of R356, channel by channel. A channel that keeps step 5 from its end is one whose consumer has not fired as
often as it must and finds too few tokens on it. -/
def rateSteps (b : ImageBody) : List (List Bool) :=
  let es := rateEdges b
  let r := repVector es (es.length + 1) []
  let last := iterateRates es r (r.map (·.2)).sum (es.map (·.init)) []
  [b.chans.map fun c => 1 ≤ c.depth && c.depth ≤ 64 && c.init ≤ c.depth && poolOk b c,
   (List.zip b.chans (ddEdges b)).map fun e => !(e.1.rate.isSome && e.2),
   overEdges b (es.map fun e => 0 < tget 0 r e.u && 0 < tget 0 r e.v && tget 0 r e.u * e.p == tget 0 r e.v * e.c),
   overEdges b (es.map fun e => e.p + e.c - Nat.gcd e.p e.c ≤ e.depth),
   overEdges b (List.zipWith (fun e n => tget 0 last.1 e.v == tget 0 r e.v || e.c ≤ n) es last.2)]

/-- The step of R356 that refuses an image and the first failing channel; none where it passes. -/
def rateFault (b : ImageBody) : Option (Nat × Nat) :=
  (List.zip [1, 2, 3, 4, 5] (rateSteps b)).findSome? fun e => (e.2.findIdx? (! ·)).map fun i => (e.1, i)

/-! ## The loader's checks (R427) -/

/-- The declared depth of an endpoint, 0 where no channel binds it. -/
def endDepth (b : ImageBody) (x : ImgEnd) : Nat :=
  match b.chans.find? fun c => c.src == x || c.dst == x with
  | some c => c.depth
  | none => 0

/-- Every block of a compute element's code, laid from offset 0, passes R100. -/
def blocksOk (bound : Bool → Nat → Nat → Bool) (code : List Byte) : Nat → Nat → Bool
  | 0, _ => true
  | fuel + 1, pc =>
    if code.length ≤ pc then true
    else
      let h := BitVec.ofNat 128 (natOfBytes ((code.drop pc).take 16))
      let n := hdrCount h
      let size := 16 * (1 + (n + 1) / 2)
      pc ≤ 0xFFF0 && pc + size ≤ code.length &&
      (match checkBlock bound h ((code.drop (pc + 16)).take (8 * n)) with | .ok _ => true | .error _ => false) &&
      blocksOk bound code fuel (pc + size)

/-- A tile's code passes, and its window holds it. -/
def tileOk (b : ImageBody) (t : ImgTile) : Bool :=
  let bound (out : Bool) (i need : Nat) : Bool :=
    need == 0 || need ≤ endDepth b (if out then .ceOut t.page t.ce i else .ceIn t.page t.ce i)
  t.code.length ≤ 1024 * t.codeKib && t.codeKib ≤ 64 && t.tasks.length ≤ 4 && blocksOk bound t.code (t.code.length + 1) 0

/-- A router word passes R93 at its tile. -/
def imgOpOk (b : ImageBody) (o : ImgOp) : Bool :=
  let x := o.tile % 4
  let y := o.tile / 4
  let bus (q : Port) : Bool := (q.dir != .rowbus || y == 1 || y == 2) && (q.dir != .colbus || x == 1 || x == 2)
  (b.ops.filter fun q => q.page == o.page && q.tile == o.tile).length ≤ 8 &&
  match routerWord o.word, decC o.word with
  | some _, .ok f => [f.in0, f.in1, f.in2, f.out0, f.out1].all bus
  | _, _ => false

/-- Every way of an operator that is a SWITCH is bound (R229). -/
def waysOk (b : ImageBody) (i : Nat) : Bool :=
  match imgInstr b i with
  | some (.switch f) => (List.range (ways f)).all fun w => b.chans.any fun c => c.src == .op i w
  | _ => true

/-- The loader's checks of a body, after its header's. -/
def bodyOk (b : ImageBody) : Bool :=
  b.ops.all (imgOpOk b) && (List.range b.ops.length).all (waysOk b) && b.tiles.all (tileOk b) && (rateFault b).isNone

/-- What a refusal names: the step and channel of R356, where no earlier check of R427 fails. -/
def refusalOf (b : ImageBody) : Option (Nat × Nat) :=
  if b.ops.all (imgOpOk b) && (List.range b.ops.length).all (waysOk b) && b.tiles.all (tileOk b) then rateFault b else none

/-- The header of an image body (R427): its must-be-0 fields, SUM and NPAGES. -/
def headerOk (h : Nat) (words : List Nat) : Bool :=
  natBits h 1023 128 == 0 && natBits h 31 10 == 0 && words.sum % 2 ^ 32 == natBits h 95 64 &&
  natBits h 127 96 % 128 == 0 && 1 ≤ natBits h 9 0 && natBits h 9 0 ≤ 512

/-- A body that can be the reading of the bytes under a header: its numbers agree with the header's. -/
def bodyOf (h : Nat) (b : ImageBody) : Bool :=
  b.pages == natBits h 9 0 && b.chans.length == natBits h 63 48 && imgEnds b == natBits h 47 32

/-- Reads n bytes of device memory through a partition's translation, as the loader and the Drover do; none where some byte
does not translate. -/
def State.readVa (s : State) (part : Nat) : Nat → Nat → Nat → List Byte → Option (List Byte)
  | 0, _, _, acc => some acc
  | fuel + 1, va, n, acc =>
    if n = 0 then some acc
    else
      let m := min n (64 - va % 64)
      if 2 ^ 56 ≤ va then none
      else match s.translate part va with
        | .ok (pa, _) => State.readVa s part fuel (va + m) (n - m) (acc ++ s.devRead pa m)
        | .error _ => none

/-- n bytes at a device virtual address. -/
def State.vaBytes (s : State) (part va n : Nat) : Option (List Byte) := s.readVa part (n / 64 + 2) va n []

/-- n bytes at a device virtual address, as a number. -/
def State.vaNat (s : State) (part va n : Nat) : Option Nat := (s.vaBytes part va n).map natOfBytes

/-- 32-bit words of a list of bytes. -/
def words32 : Nat → List Byte → List Nat
  | 0, _ => []
  | n + 1, bs => natOfBytes (bs.take 4) :: words32 n (bs.drop 4)

/-- A launch that holds an image: queued, resident or saved (R427). -/
def State.imageHeld (s : State) (part addr : Nat) : Bool :=
  s.launches.any fun e => e.2.part == part && e.2.image == addr && e.2.state != .retired

/-- The entry of a full image table that is dropped: the one named least recently that no launch holds. -/
def State.imageVictim (s : State) (part : Nat) : Option Nat :=
  let es := (s.getPart part).images.filter fun e => !s.imageHeld part e.1
  match es with
  | [] => none
  | e :: rest => some (rest.foldl (fun b x => if x.2.lastNamed < b.2.lastNamed then x else b) e).1

/-- What naming an image answers: its body, a refusal, or that it is to be loaded (R427). -/
inductive Named where
  | body (b : ImageBody)
  | refused
  | load

/-- Names an image: a kept one is found, one that cannot be kept is refused, any other waits for IMAGE_LOAD. -/
def State.nameImage (s : State) (part addr : Nat) : Named × State :=
  let p := s.getPart part
  match tfind p.images addr with
  | some im =>
    let s := s.setPart part { p with images := tput p.images addr { im with lastNamed := s.cycle.toNat } }
    match im.body with
    | some b => (.body b, s)
    | none => (.refused, s)
  | none =>
    if 1024 ≤ p.images.length ∧ (s.imageVictim part).isNone then (.refused, s)
    else (.load, s.setPart part { p with wanted := if p.wanted.contains addr then p.wanted else p.wanted ++ [addr] })

/-- IMAGE_LOAD (R427): the loader reads and checks a wanted image, and keeps it or its refusal. A reading of the body that
does not agree with the header in memory is none, and nothing happens. -/
def State.loadImage (s : State) (part addr : Nat) (b : ImageBody) : State :=
  let p := s.getPart part
  if !p.wanted.contains addr then s
  else
    let keep (r : Option ImageBody) (why : Option (Nat × Nat)) : State :=
      let images := if 1024 ≤ p.images.length then (match s.imageVictim part with | some a => tdel p.images a | none => p.images) else p.images
      s.setPart part { p with
        wanted := p.wanted.filter (· != addr)
        images := tput images addr { body := r, lastNamed := s.cycle.toNat, why := why } }
    match s.vaNat part addr 128 with
    | none => keep none none
    | some h =>
      let len := natBits h 127 96
      match s.vaBytes part (addr + 128) (len - 128) with
      | none => keep none none
      | some bs =>
        if !headerOk h (words32 (bs.length / 4) bs) then keep none none
        else if !bodyOf h b then s
        else if bodyOk b then keep (some b) none else keep none (refusalOf b)

end Sys2Proof.Machine
end

