-- ==== Sys2Proof/Machine/Serai.lean ====
section
/-!
DEFINITION. Sys2Proof/Machine/Serai.lean: where launches go: instruction-store windows (R466), the growth rule and routes
(R13, R14, R428), placing a launch (R374, R426), saving it and resuming it (R389 to R391, R412 to R415).
-/

namespace Sys2Proof.Machine

/-! ## Windows and candidates (R428, R466) -/

/-- The windows of the other slots of a compute element, those of launches in `gone` left out. -/
def State.windows (s : State) (page e : Nat) (gone : List Nat) : List (Nat × Nat) :=
  (List.range 4).filterMap fun c =>
    let x := s.getCe (ceKey page e c)
    if x.winSize = 0 ∨ gone.contains x.launch then none else some (x.winBase, x.winSize)

/-- The lowest 1 KiB-aligned store address at which a window fits. -/
def State.winRoom (s : State) (page e size : Nat) (gone : List Nat) : Option Nat :=
  if size = 0 then some 0
  else
    let ws := s.windows page e gone
    ((List.range 64).map (· * 1024)).find? fun a => a + size ≤ 65536 && ws.all fun w => a + size ≤ w.1 || w.1 + w.2 ≤ a

/-- The lowest free context slot of a page, slots of launches in `gone` counted as free. -/
def State.freeSlotOf (s : State) (page : Nat) (gone : List Nat) : Option Nat :=
  (List.range 4).find? fun c => let l := s.slotLaunch page c; l == 0 || gone.contains l

/-- A page that takes part in a move under way is left alone by placement (R432). -/
def State.moving (s : State) (part page : Nat) : Bool :=
  (s.getPart part).moves.any fun m => m.src == page || m.dst == page ||
    m.launches.any fun id => (s.launchD id).pages.any fun lp => s.phys part lp == some page

/-- The candidates of a launch, in ascending logical number (R428). -/
def State.candidates (s : State) (part : Nat) (b : ImageBody) (gone : List Nat) : List Nat :=
  (List.range (s.getPart part).nl).filter fun lp =>
    let e := tget {} (s.getPart part).map lp
    e.v && !e.mov && !(s.getPage e.ppage).clearing && !(s.getPage e.ppage).mapout && !s.moving part e.ppage && (s.freeSlotOf e.ppage gone).isSome &&
    (List.range 12).all fun c => (s.winRoom e.ppage c (maxWindow b c) gone).isSome

/-- Grows a set of pages: the lowest-numbered candidate that touches a member is added, until n are reached. -/
def State.growFrom (s : State) (part n : Nat) (cands : List Nat) : Nat → List Nat → List Nat
  | 0, g => g
  | fuel + 1, g =>
    if n ≤ g.length then g
    else
      let pp (lp : Nat) : Nat := (tget {} (s.getPart part).map lp).ppage
      match cands.find? fun lp => !g.contains lp && g.any fun m => pagesTouch (pp lp) (pp m) with
      | some lp => State.growFrom s part n cands fuel (g ++ [lp])
      | none => g

/-- The pages the growth rule gives a launch, if some start reaches n. -/
def State.growth (s : State) (part : Nat) (b : ImageBody) (gone : List Nat) : Option (List Nat) :=
  let cands := s.candidates part b gone
  cands.findSome? fun st =>
    let g := s.growFrom part b.pages cands b.pages [st]
    if g.length = b.pages then some g else none

/-! ## Routes (R13, R14, R428) -/

/-- The neighbour of a router in a direction: 0 north, 1 east, 2 south, 3 west. -/
def neighbour (r d : Nat) : Option Nat :=
  match d with
  | 0 => if ry r = 0 then none else some (r - 128)
  | 1 => if rx r = 127 then none else some (r + 1)
  | 2 => if ry r = 63 then none else some (r + 128)
  | _ => if rx r = 0 then none else some (r - 1)

/-- Distances to a router over the tiles of a set of pages. -/
def distances (pages : List Nat) : Nat → List Nat → Tab Nat → Nat → Tab Nat
  | 0, _, t, _ => t
  | fuel + 1, frontier, t, d =>
    let next := (frontier.flatMap fun r => (List.range 4).filterMap (neighbour r)).eraseDups.filter fun r =>
      pages.contains (routerPage r) && (tfind t r).isNone
    if next.isEmpty then t else distances pages fuel next (next.foldl (fun t r => tput t r d) t) (d + 1)

/-- The capacity a hop adds (R13). -/
def hopCap (a b : Nat) : Nat :=
  if pageDie (routerPage a) ≠ pageDie (routerPage b) then 6
  else if pageCluster (routerPage a) ≠ pageCluster (routerPage b) then 3 else 2

/-- The hops from a router to the end of a distance table, east or west first where that lies on a shortest path, and the
local port at the end. -/
def routeFrom (t : Tab Nat) : Nat → Nat → List Hop
  | 0, r => [⟨r * 5 + 4, 0, []⟩]
  | fuel + 1, r =>
    let d := tget 0 t r
    if d = 0 then [⟨r * 5 + 4, 0, []⟩]
    else
      match [1, 3, 0, 2].findSome? fun dir => (neighbour r dir).bind fun q => if tfind t q = some (d - 1) then some (dir, q) else none with
      | some (dir, q) => ⟨r * 5 + dir, hopCap r q, []⟩ :: routeFrom t fuel q
      | none => [⟨r * 5 + 4, 0, []⟩]

/-- A route between two routers over a set of pages. -/
def route (pages : List Nat) (a b : Nat) : List Hop :=
  let n := 16 * pages.length + 1
  routeFrom (distances pages n [b] [(b, 0)] 1) n a

/-- The router of a die's convoy engine (R21). -/
def engineRouter (die : Nat) : Nat := (if die < 4 then 0 else 63) * 128 + die % 4 * 32 + 17

/-- The router of a set of pages nearest to a die's convoy engine (R362). -/
def nearestRouter (pages : List Nat) (die : Nat) : Nat :=
  let e := engineRouter die
  let dist (r : Nat) : Nat := (max (rx r) (rx e) - min (rx r) (rx e)) + (max (ry r) (ry e) - min (ry r) (ry e))
  let all := pages.flatMap fun p => (List.range 16).map (routerOf p)
  all.foldl (fun b r => if dist r < dist b ∨ (dist r = dist b ∧ r < b) then r else b) (all.headD 0)

/-! ## Where the ends of an image's channels lie -/

/-- A placement: partition, launch, the physical page and context slot of each image page, and the pages the partition owns. -/
structure Plan where
  part : Nat
  id : Nat
  body : ImageBody
  at_ : List (Nat × Nat)
  owned : List Nat

/-- Physical page and slot of an image page. -/
def Plan.page (p : Plan) (i : Nat) : Nat := (p.at_.getD i (0, 0)).1
def Plan.slot (p : Plan) (i : Nat) : Nat := (p.at_.getD i (0, 0)).2

/-- The slot key of an image's operator: its place among the operators of its tile. -/
def Plan.opKey (p : Plan) (i : Nat) : Nat :=
  match p.body.ops[i]? with
  | none => 0
  | some o =>
    let before := ((p.body.ops.take i).filter fun q => q.page == o.page && q.tile == o.tile).length
    (routerOf (p.page o.page) o.tile * 4 + p.slot o.page) * 8 + before

/-- The key of a die's ingress or egress of a partition. -/
def convoyKey (part die : Nat) : Nat := part * 8 + die

/-- The placed form of an endpoint, and its router. -/
def Plan.ends (p : Plan) : ImgEnd → EndRef × Nat
  | .ceIn g e n => (.ceIn (ceKey (p.page g) e (p.slot g)) n, routerOf (p.page g) (ceTile e))
  | .ceOut g e n => (.ceOut (ceKey (p.page g) e (p.slot g)) n, routerOf (p.page g) (ceTile e))
  | .op i q => (.op (p.opKey i) q, p.opKey i / 32)
  | .mnIn g n i => (.mnIn (p.page g * 2 + n) (p.slot g) i, routerOf (p.page g) (mnTile n))
  | .mnOut g n => (.mnOut (p.page g * 2 + n) (p.slot g), routerOf (p.page g) (mnTile n))
  | .mtIn g m i => (.mtIn (p.page g * 2 + m) (p.slot g) i, routerOf (p.page g) (mtTile m))
  | .mtOut g m i => (.mtOut (p.page g * 2 + m) (p.slot g) i, routerOf (p.page g) (mtTile m))
  | .convoyOut g n =>
    let d := pageDie (p.page g)
    (.convoyOut (convoyKey p.part d) n, nearestRouter p.owned d)
  | .convoyIn g =>
    let d := pageDie (p.page g)
    (.convoyIn (convoyKey p.part d), nearestRouter p.owned d)
  | .trapq => (.trapq p.part, 0)

/-- The image page of a channel's convoy endpoint, if it has one. -/
def convoyEnd (c : ImgChan) : Option Nat :=
  match c.src, c.dst with
  | .convoyOut g _, _ => some g
  | _, .convoyIn g => some g
  | _, _ => none

/-- The route of a channel, over the launch's pages; one of a convoy engine lies over the partition's, from the router of them
nearest to the engine (R362). A trap channel enters at the tile row's west end and adds no capacity (R420). -/
def Plan.hops (p : Plan) (c : ImgChan) : List Hop :=
  let b := (p.ends c.dst).2
  match c.src with
  | .trapq => [⟨b * 5 + 4, 0, []⟩]
  | src => route (if (convoyEnd c).isSome then p.owned else p.at_.map (·.1)) (p.ends src).2 b

/-- The route reaches its consumer. -/
def Plan.reaches (p : Plan) (c : ImgChan) : Bool :=
  match (p.hops c).getLast? with
  | some h => h.link == (p.ends c.dst).2 * 5 + 4
  | none => false

/-! ## Channel numbers, route entries and port fields (R12, R14, R92, R229, R400) -/

/-- The context slot whose input slots a channel uses on a page: the launch's, and on a page that only a convoy channel crosses
the one it has on the page that names the convoy engine. -/
def Plan.slotAt (p : Plan) (c : ImgChan) (page : Nat) : Nat :=
  match p.at_.find? fun x => x.1 == page with
  | some x => x.2
  | none => p.slot ((convoyEnd c).getD 0)

/-- Input slot 0 of a router's port for a context slot, as `State.routes` numbers them. -/
def inputSlot (router port ctx : Nat) : Nat := (router * 20 + port * 4 + ctx) * 16

/-- For each hop of a channel that fills an input slot, the first of the sixteen it may fill (R12). The last, into an endpoint,
fills none; a channel of one router to an operator fills one of the local port. -/
def Plan.bases (p : Plan) (c : ImgChan) : List Nat :=
  let far := (p.hops c).filterMap fun h =>
    if h.link % 5 = 4 then none
    else (neighbour (h.link / 5) (h.link % 5)).map fun q => inputSlot q ((h.link % 5 + 2) % 4) (p.slotAt c (routerPage q))
  match far, c.dst with
  | [], .op i _ => [inputSlot (p.opKey i / 32) 4 (p.opKey i / 8 % 4)]
  | _, _ => far

/-- Takes the lowest free channel number at each of a list of input slots; none where sixteen are in use. -/
def takeNumbers : List Nat → List Nat → Option (List Nat × List Nat)
  | [], used => some ([], used)
  | b :: bs, used =>
    match (List.range 16).find? fun n => !used.contains (b + n) with
    | none => none
    | some n => (takeNumbers bs ((b + n) :: used)).map fun x => ((b + n) :: x.1, x.2)

/-- OUT0's channel for each SWITCH of a list of operators: the lowest from which the channel of every way is free (R229). -/
def Plan.switches (p : Plan) : List Nat → List Nat → Option (Tab Nat × List Nat)
  | [], used => some ([], used)
  | i :: is, used =>
    match imgInstr p.body i with
    | some (.switch f) =>
      let firsts := p.body.chans.filterMap fun c =>
        match c.src with
        | .op j w => if j = i then (p.bases c).head?.map fun b => b + w else none
        | _ => none
      match (List.range (17 - ways f)).find? fun n => firsts.all fun b => !used.contains (b + n) with
      | none => none
      | some n => (Plan.switches p is (firsts.map (· + n) ++ used)).map fun x => (tput x.1 i n, x.2)
    | _ => Plan.switches p is used

/-- The input slots of every channel, in the order of the image; the first of a SWITCH's ways is given. -/
def Plan.numberChans (p : Plan) (sw : Tab Nat) : List ImgChan → List Nat → Option (List (List Nat))
  | [], _ => some []
  | c :: cs, used =>
    let given : Option Nat := match c.src with | .op i w => (tfind sw i).map (· + w) | _ => none
    let taken : Option (List Nat × List Nat) := match given, p.bases c with
      | some n, b :: rest => (takeNumbers rest used).map fun x => ((b + n) :: x.1, x.2)
      | _, bs => takeNumbers bs used
    match taken with
    | none => none
    | some (keys, used) => (Plan.numberChans p sw cs used).map fun ks => keys :: ks

/-- What a placement gives: OUT0's channel of each SWITCH, and the input slots of each channel. -/
structure Numbers where
  switches : Tab Nat
  keys : List (List Nat)

/-- The numbers of a placement, the entries of launches in `gone` counted as free; none where a route cannot be made, or a port
lacks a channel number, and the launch counts as fragmented (R14). -/
def State.numbers (s : State) (p : Plan) (gone : List Nat) : Option Numbers :=
  if !p.body.chans.all p.reaches then none
  else
    let used := (s.routes.filter fun e => e.2.v && !gone.contains e.2.launch).map (·.1)
    match p.switches (List.range p.body.ops.length) used with
    | none => none
    | some (sw, used) => (p.numberChans sw p.body.chans used).map fun keys => ⟨sw, keys⟩

/-- The number of an endpoint at its element. -/
def endNo : EndRef → Nat
  | .ceIn _ n | .mnIn _ _ n | .mtIn _ _ n => n
  | .convoyIn _ => 8
  | _ => 0

/-- The entry that leads over a hop, to an input slot of the next router or to the endpoint. -/
def Plan.entry (p : Plan) (c : ImgChan) (link : Nat) (key : Option Nat) : RouteEntry :=
  { v := true, odir := link % 5, och := (match key with | some k => k % 16 | none => endNo (p.ends c.dst).1), launch := p.id }

/-- Writes the route entries of a channel (R400). -/
def State.writeRoute (s : State) (p : Plan) (n : Nat) (c : ImgChan) (keys : List Nat) : State :=
  let hops := p.hops c
  let link (j : Nat) : Nat := (lget ⟨0, 0, []⟩ hops j).link
  let last (k : Nat) : RouteEntry := match c.dst with
    | .op _ _ => { v := true, opin := true, launch := p.id }
    | _ => p.entry c (k / 320 * 5 + 4) none
  let entries := (List.range keys.length).map fun j =>
    let k := lget 0 keys j
    (k, if j + 1 = keys.length then last k else p.entry c (link (j + 1)) keys[j + 1]?)
  { s with starts := tput s.starts (p.id * 65536 + n) (p.entry c (link 0) keys[0]?)
           routes := entries.foldl (fun t e => tput t e.1 e.2) s.routes }

/-- The channel number and context slot at the far end of each hop of a channel. -/
def Plan.nums (p : Plan) (c : ImgChan) (keys : List Nat) : List (Nat × Nat) :=
  let far := keys.map fun k => (k % 16, k / 16 % 4)
  match c.dst, keys.getLast? with
  | .op _ _, some k =>
    let own := (16 * (1 + k / 64 % 5) + k % 16, k / 16 % 4)
    if (p.hops c).length = 1 then [own] else far ++ [own]
  | _, _ => far ++ [(endNo (p.ends c.dst).1, p.slotAt c (routerPage (p.ends c.dst).2))]

/-- A direction of a router, as a port field names it. -/
def dirOf (d : Nat) : Dir := match d with | 0 => .n | 1 => .e | 2 => .s | 3 => .w | _ => .loc

/-- The word fields of operator i with the direction and channel of each bound port along the routes (R92). -/
def Plan.ports (p : Plan) (ns : Numbers) (i : Nat) (f : FmtC) : FmtC :=
  let chans := List.zip p.body.chans ns.keys
  let inPort (q : Nat) (old : Port) : Port :=
    match old.dir, (chans.find? fun e => e.1.dst == .op i q).bind fun e => e.2.getLast? with
    | .none, _ | _, none => old
    | _, some k => ⟨dirOf (k / 64 % 5), BitVec.ofNat 4 k⟩
  let outPort (q : Nat) (old : Port) : Port :=
    match old.dir, chans.find? fun e => e.1.src == .op i q with
    | .none, _ | _, none => old
    | _, some (c, keys) =>
      let e := p.entry c (lget ⟨0, 0, []⟩ (p.hops c) 0).link keys.head?
      ⟨dirOf e.odir, BitVec.ofNat 4 (match tfind ns.switches i with | some n => n | none => e.och)⟩
  { f with in0 := inPort 0 f.in0, in1 := inPort 1 f.in1, in2 := inPort 2 f.in2, out0 := outPort 0 f.out0,
           out1 := (if (tfind ns.switches i).isSome then f.out1 else outPort 1 f.out1) }

/-- A token a channel starts with (R108 init). -/
def initTok (order : Bool) : Token := ⟨if order then 2 else 0, 0, 0⟩

/-- Tokens a route holds. -/
def hopTokens (hs : List Hop) : Nat := (hs.map fun h => h.toks.length).sum

/-- The capacity of a route's buffers. -/
def hopRoom (hs : List Hop) : Nat := (hs.map (·.cap)).sum

/-- A new channel of a placement. `segments` are the spill-area segments of its ring (R343). -/
def Plan.chan (p : Plan) (n : Nat) (c : ImgChan) (keys segments : List Nat) : Chan :=
  let hops := p.hops c
  let segs := if c.rate.isNone then c.quota else 0
  { launch := p.id, num := n, part := p.part, ctx := p.slot (endPage p.body c.dst), src := (p.ends c.src).1, dst := (p.ends c.dst).1,
    depth := c.depth, order := c.order, spill := c.rate.isNone, quota := segs, segs := segs, startq := [], hops := hops,
    nums := p.nums c keys, held := segments,
    endq := List.replicate c.init (initTok c.order), ring := [], refill := [],
    credit := c.depth + hopRoom hops + 4 * segs - c.init, freed := 0, blocked := 0, recorded := false, arrived := List.replicate c.init 0, lost := 0 }

/-- Fills the hops of a new route from its end with tokens in order; what finds no place waits at the start. -/
def refillHops : List Hop → List Token → List Hop × List Token
  | [], ts => ([], ts)
  | h :: hs, ts =>
    let (hs, rest) := refillHops hs ts
    ({ h with toks := rest.take h.cap } :: hs, rest.drop h.cap)

/-- A channel of a resumed launch on its new route: every token keeps its order, the token that a receiver holds included
(R18, R223, R400, R415). Tokens above the capacity of the new route leave a debt, which freed tokens pay first (R15). -/
def Plan.rechan (p : Plan) (old : Chan) (c : ImgChan) (keys : List Nat) : Chan :=
  let flight := old.hops.reverse.flatMap (·.toks)
  let (hops, rest) := refillHops (p.hops c) flight
  let startq := rest ++ old.startq
  let held := hopTokens hops + startq.length + old.endq.length + old.ring.length + old.refill.length
  let room := c.depth + hopRoom hops + 4 * old.segs
  { old with
    ctx := p.slot (endPage p.body c.dst), src := (p.ends c.src).1, dst := (p.ends c.dst).1, hops := hops, startq := startq,
    nums := p.nums c keys, credit := room - held, debt := held - room, freed := 0, blocked := 0, recorded := false }

/-- The key of a launch's channel. -/
def chanKey (id n : Nat) : Nat := id * 65536 + n

/-- Binds the two ends of every channel of a launch to their units. -/
def State.wire (s : State) (id : Nat) : State :=
  (s.chans.filter fun e => e.2.launch == id).foldl (fun s e =>
    let ch := e.1
    let s := match e.2.src with
      | .ceOut k n => s.mapCe k fun c => { c with outs := lmod c.outs n fun o => { o with ch := some ch } }
      | .op k n =>
        let o := s.getOp k
        if o.switch then s.setOp k { o with out0 := (o.out0 ++ List.replicate (n + 1 - o.out0.length) 0).set n ch }
        else if n = 0 then s.setOp k { o with out0 := [ch] } else s.setOp k { o with out1 := some ch }
      | .mnOut mn c => s.mapMnCtx mn c fun x => { x with out := some ch }
      | .convoyOut pd n => s.setIngress pd (let g := s.getIngress pd; { g with out := g.out.set n (some ch) })
      | .trapq part =>
        -- the tokens the Drover holds go out (R420)
        let give := (s.getPart part).trapGive
        (s.mapPart part fun p => { p with job := { p.job with superTrapq := true }, trapGive := [] }).mapChan ch fun c =>
          { c with startq := c.startq ++ give }
      | _ => s
    match e.2.dst with
    | .ceIn k n => s.mapCe k fun c => { c with ins := lmod c.ins n fun o => { o with ch := some ch } }
    | .op k n => s.setOp k (let o := s.getOp k; { o with ins := o.ins.set n (some ch) })
    | .mnIn mn c n => s.mapMnCtx mn c fun x => if n = 0 then { x with ctl := some ch } else { x with rows := some ch }
    | .convoyIn pd => s.setIngress pd (let g := s.getIngress pd; { g with ret := some ch })
    | _ => s) s

/-- A launch takes a context slot of a page; ACTIVE changes only when no slot was resident before (R354). -/
def State.takeSlot (s : State) (page c id : Nat) : State :=
  s.mapPage page fun g =>
    let g := if g.resident.all (· == 0) then { g with active := c, turn := g.quantum, used := 0, idle := 0, drain := false, yielded := false } else g
    { g with resident := g.resident.set c id, poolIdle := g.poolIdle.set c 0, poolDrowsy := g.poolDrowsy.set c false }

/-! ## Placing (R374, R426, R427) -/

/-- The value of a constant on a placement (R108, R426). -/
def Launch.value (l : Launch) : ImgValue → Word
  | .lit v => v
  | .arg n => l.args.getD n 0
  | .name g a =>
    let v := a.toNat
    BitVec.ofNat 64 (v - natBits v 29 21 * 2 ^ 21 + l.pages.getD g 0 % 512 * 2 ^ 21)

/-- The first pool entry of each endpoint of a list of depths (R338). -/
def poolStarts : Nat → List Nat → List Nat
  | _, [] => []
  | a, d :: ds => a :: poolStarts (a + d) ds

/-- The context of a compute element at placement: constants, bindings, handles, endpoint pool and window; everything else at its
reset value. -/
def State.newCtx (s : State) (p : Plan) (l : Launch) (i e : Nat) : CeCtx :=
  let page := p.page i
  let tile := p.body.tiles.find? fun t => t.page == i && t.ce == e
  let phase := ((tfind s.graphs l.graph).bind (·.phase)).getD 0
  let quota := (p.body.chans.map fun c => if c.rate.isNone ∧ endPage p.body c.dst = i then c.quota else 0).sum
  let pool := poolStarts 0 ((List.range 8).map (fun n => endDepth p.body (.ceIn i e n)) ++ (List.range 8).map fun n => endDepth p.body (.ceOut i e n))
  let base : CeCtx :=
    { poolIn := pool.take 8, poolOut := pool.drop 8, lhnd := handle 1 p.id, ghnd := handle 2 l.graph, phnd := if phase = 0 then 0 else handle 3 phase,
      jhnd := handle 4 (s.getPart p.part).job.id, quota := quota, launch := p.id, lpage := l.pages.getD i 0, part := p.part }
  match tile with
  | none => base
  | some t =>
    let size := 1024 * t.codeKib
    { base with
      regs := { base.regs with k := t.consts.foldl (fun k c => k.setIfInBounds c.1 (l.value c.2)) base.regs.k }
      binds := (List.range 4).map fun b =>
        match t.tasks[b]? with
        | some k => { bound := true, trigger := k.trigger, entry := k.entry, pc := k.entry, ends := k.ends }
        | none => {}
      winBase := (s.winRoom page e size []).getD 0, winSize := size }

/-- Writes a placed element's code into its window, zeros beyond it. -/
def State.writeCode (s : State) (k : Nat) (code : List Byte) : State :=
  let c := s.getCe k
  { s with istore := (s.istore.clear (istoreAddr k c 0) c.winSize).writeBytes (istoreAddr k c 0) code }

/-- Places the compute elements of an image page. -/
def State.placePage (s : State) (p : Plan) (l : Launch) (i : Nat) : State :=
  let s := s.takeSlot (p.page i) (p.slot i) p.id
  (List.range 12).foldl (fun s e =>
    let k := ceKey (p.page i) e (p.slot i)
    let s := s.setCe k (s.newCtx p l i e)
    match p.body.tiles.find? fun t => t.page == i && t.ce == e with
    | some t => s.writeCode k t.code
    | none => s) s

/-- The bytes of image data with the logical pages of its names (R426). -/
def Launch.dataBytes (l : Launch) (d : ImgData) : List Byte :=
  d.relocs.foldl (fun bs r =>
    let v := natOfBytes ((bs.drop r.1).take 8)
    bs.take r.1 ++ bytesOfNat 8 (v - natBits v 29 21 * 2 ^ 21 + l.pages.getD r.2 0 % 512 * 2 ^ 21) ++ bs.drop (r.1 + 8)) d.bytes

/-- The operator of an image at placement, its port fields along the routes (R92, R236, R401). -/
def Plan.newOp (p : Plan) (ns : Numbers) (i : Nat) (o : ImgOp) : OpSlot :=
  let base : OpSlot :=
    { placed := (match decC o.word with | .ok f => some (p.ports ns i f) | .error _ => none)
      instr := (routerWord o.word).map (withFields (p.ports ns i)), launch := p.id, part := p.part, ends := o.ends
      switch := (match routerWord o.word with | some (.switch _) => true | _ => false) }
  match base.instr with
  | some i => { (base.restart i) with instr := some i }
  | none => base

/-- A launch's place in the partition: where its pages lie. -/
def State.planOf (s : State) (id : Nat) (l : Launch) (b : ImageBody) : Plan :=
  { part := l.part, id := id, body := b, owned := (s.getPart l.part).pages,
    at_ := (List.range l.pages.length).map fun i => ((s.phys l.part (l.pages.getD i 0)).getD 0, l.slots.getD i 0) }

/-- Binds the ingresses that a placed launch's image names (R362). -/
def State.bindIngress (s : State) (p : Plan) : State :=
  p.body.chans.foldl (fun s c =>
    let die? : Option Nat := match c.src, c.dst with
      | .convoyOut g _, _ => some (pageDie (p.page g))
      | _, .convoyIn g => some (pageDie (p.page g))
      | _, _ => none
    match die? with
    | none => s
    | some d =>
      let pd := convoyKey p.part d
      let g := s.getIngress pd
      if g.binder = p.id then s else s.setIngress pd { ({} : Ingress) with binder := p.id, arrived := g.arrived }) s

/-- The lowest segments of a partition's spill area that no ring holds (log entry 115). -/
def State.freeSegments (s : State) (part n : Nat) : List Nat :=
  let held := (s.chans.filter fun e => e.2.part == part).flatMap fun e => e.2.held
  ((List.range (held.length + n)).filter fun i => !held.contains i).take n

/-- The lowest number from which a launch of n pages can take save areas (R349, R412; log entry 115). -/
def State.freeSaves (s : State) (part n : Nat) : Nat :=
  let used := (s.launches.filter fun e => e.2.part == part && (e.2.resident || e.2.state == .saved)).map fun e => (e.2.saveIx, e.2.pages.length)
  ((0 :: used.map fun u => u.1 + u.2).filter fun a => used.all fun u => a + n ≤ u.1 || u.1 + u.2 ≤ a).foldl
    (fun b a => min b a) ((used.map fun u => u.1 + u.2).foldl max 0)

/-- The preload of a phase is cleared when a slot it names is taken (R42, R428). -/
def State.clearPreload (s : State) (part : Nat) (lps slots : List Nat) : State :=
  s.mapPart part fun p => { p with
    job := if p.job.preloadSlots.any fun x => (List.zip lps slots).contains x then { p.job with preload := none, preloadSlots := [] } else p.job }

/-- Places a launch on logical pages and slots (R35, R374, R426, R427): everything that R31 will free is given here. -/
def State.placeLaunch (s : State) (id : Nat) (lps slots : List Nat) (b : ImageBody) : State :=
  let l0 := s.launchD id
  let l := { l0 with
    pages := lps, slots := slots, state := .resident, counter := imgEnds b, placedAt := s.placements + 1, firstAt := s.placements + 1, quota := imgQuota b,
    ext := [], extFree := [], saveIx := s.freeSaves l0.part lps.length }
  let s := { (s.setLaunch id l) with placements := s.placements + 1 }
  let s := s.mapPart l.part fun p => { p with
    regs := { p.regs with panFree := p.regs.panFree - l.segments }
    queues := p.queues.map fun q => q.filter (· != id) }
  let s := s.clearPreload l.part lps slots
  let s := (s.tbufUses l).foldl (fun s e => if e.2 = .result then s.setTbuf l.part e.1 1 else s) s
  let p := s.planOf id l b
  let ns := (s.numbers p []).getD ⟨[], []⟩
  let s := (List.range b.pages).foldl (fun s i => s.placePage p l i) s
  let s := b.data.foldl (fun s d => s.scratchWrite (p.page d.page * 2 + d.mt) d.offset (l.dataBytes d)) s
  let s := (List.range b.ops.length).foldl (fun s i =>
    match b.ops[i]? with | some o => s.setOp (p.opKey i) (p.newOp ns i o) | none => s) s
  let s := (List.range b.chans.length).foldl (fun s i =>
    match b.chans[i]? with
    | some c =>
      let keys := lget [] ns.keys i
      (s.setChan (chanKey id i) (p.chan i c keys (s.freeSegments l.part (if c.rate.isNone then c.quota else 0)))).writeRoute p i c keys
    | none => s) s
  let s := (s.bindIngress p).wire id
  let s := (p.at_.flatMap fun x => pageCes x.1 x.2).foldl (fun s k => s.trigger k) s
  if l.counter = 0 then s.startStop id .retire else s

/-! ## Saving (R390, R407, R412 to R414) -/

/-- The bytes of a range of a memory, by offset. -/
def Memory.range (m : Memory) (a n : Nat) : List (Nat × Byte) :=
  (m.filter fun c => a ≤ c.1 && c.1 < a + n).map fun c => (c.1 - a, c.2)

/-- Logical page × 2 + number of a node or memory tile. -/
def State.logicalUnit (s : State) (part u : Nat) : Nat := s.lpageOf part (u / 2) * 2 + u % 2

/-- The tile entries of a context (R390). -/
def State.tileEntries (s : State) (part own : Nat) : List TileEntry :=
  (s.mns.flatMap fun e => (List.range 8).filterMap fun t =>
    let x := e.2.tile t
    if x.owned && x.owner == own && x.state != .idle then
      some { node := s.logicalUnit part e.1, tile := t, ctx := own,
             busy := e.1 / 2 == own / 4 && (e.2.frags ++ (e.2.ctx (own % 4)).pend).any fun f => f.ctx == own % 4 && f.real && mcAcc f.word == t,
             contents := s.accs.range (accAddr e.1 t 0 0) 32768, arrive := 0 }
    else none) ++
  s.mns.flatMap fun e => e.2.restores.filter fun r => r.ctx == own

/-- The save of one page of a launch. -/
def State.savePage (s : State) (id part page c : Nat) (first : Bool) : SavedPage :=
  let ces := (List.range 12).map fun e => (e, s.getCe (ceKey page e c))
  let nodes := (List.range 2).map fun n => (n, s.getMn (page * 2 + n))
  let eg := s.getEgress (convoyKey part (pageDie page))
  { home := (page, c)
    ces := ces
    windows := ces.map fun x => (x.1, s.istore.range (istoreAddr (ceKey page x.1 c) x.2 0) x.2.winSize)
    ops := (List.range 16).flatMap fun t => (List.range 8).filterMap fun i =>
      (tfind s.ops ((routerOf page t * 4 + c) * 8 + i)).map fun o => (t * 8 + i, o)
    tiles := s.tileEntries part (page * 4 + c)
    pend := nodes.map fun x => (x.1, (x.2.frags.filter fun f => f.ctx == c) ++ (x.2.ctx c).pend)
    mns := nodes.map fun x => (x.1, x.2.ctx c)
    copies := if first then s.mts.filterMap fun e =>
        match e.2.copies.filter fun x => x.launch == id with
        | [] => none
        | xs => some (s.logicalUnit part e.1, xs)
      else []
    copySeq := s.mts.filterMap fun e => (tfind e.2.copySeq (page * 4 + c)).map fun v => (s.logicalUnit part e.1, v)
    pending := (List.range 2).filterMap fun m => (tfind (s.getMt (page * 2 + m)).pending c).map fun x => (m, x)
    streams := (s.streams.filter fun e => cePage (e.1 / 16) == page && ceSlot (e.1 / 16) == c).map fun e =>
      (ceElem (e.1 / 16) * 16 + e.1 % 16, { e.2 with ahead := [] })
    sends := eg.lists.filter fun x => x.ce == page * 4 + c
    step := tfind eg.steps (page * 4 + c)
    counters := (s.counters.filter fun e => e.1 < 2 ^ 32 && e.1 / 4096 == page * 4 + c).map fun e => (e.1 % 4096, e.2) }

/-- The virtual address of the save area of a launch's page i: area n lies below area n - 1, and area 0 at the top of the spill area
(R412; log entry 115). -/
def State.saveArea (s : State) (l : Launch) (i : Nat) : Nat :=
  (s.getPart l.part).spillArea.2 - 1024 * Config.saveAreaKib * (l.saveIx + i + 1)

/-- The virtual addresses of the sectors of a launch's save areas. -/
def State.saveSectors (s : State) (l : Launch) : List Nat :=
  (List.range l.pages.length).flatMap fun i => (List.range (16 * Config.saveAreaKib)).map fun n => s.saveArea l i + 64 * n

/-- The first address of a launch's save areas whose read meets an uncorrectable error (R415), and the DETAIL of the error. -/
def State.saveLost (s : State) (id : Nat) : Option (Nat × Nat) :=
  let l := s.launchD id
  if s.sectorLost.isEmpty && s.sectorErrs.isEmpty && s.devChans.all (fun e => !e.2.mapout) then none
  else
    (s.saveSectors l).findSome? fun va =>
      match s.translate l.part va with
      | .error _ => none
      | .ok (pa, _) =>
        if s.devLost pa then some (va, 1)
        else match tfind s.sectorErrs (canonAddr pa / 64) with
          | some .lasting => some (va, 1)
          | some .lane => some (va, 2)
          | _ => none

/-- A resume that cannot read its save areas ends: the launch retires faulted, and MEM_UE names the address (R415). The record has
the form of the host port's (log entry 122). -/
def State.resumeLost (s : State) (id va detail : Nat) : State :=
  let l := s.launchD id
  let s := s.record l.part (s.isSuper id) { cls := .memUe, kind := 6, ctx := 0, xy := 0, uref := 0, addr := va, detail := detail }
  (s.mapLaunch id fun l => { l with anyFault := true }).killAll id

/-- Saves a launch whose stop is complete, and gives up its slots (R409, R412). Its channels keep their tokens, the refill
buffers written back to the heads of their rings (R347). -/
def State.saveLaunch (s : State) (id : Nat) : State :=
  let l := s.launchD id
  let ps := s.places l
  let saves := ps.map fun x => s.savePage id l.part x.2.1 x.2.2 (x.1 == 0)
  let parked := l.parkedOn.map fun f => (s.logicalUnit l.part f.1, f.2)
  let s := { s with
    routes := tfilter s.routes fun _ r => r.launch != id
    starts := tfilter s.starts fun k _ => k / 65536 != id
    streams := tfilter s.streams fun _ x => x.launch != id
    mts := tmap s.mts fun _ m => { m with copies := m.copies.filter fun x => x.launch != id }
    chans := tmap s.chans fun _ c => if c.launch = id then { c with ring := c.refill ++ c.ring, refill := [] } else c }
  let s := ps.foldl (fun s x => s.freeSlot x.2.1 x.2.2) s
  s.setLaunch id { l with state := .saved, save := saves, parkedOn := parked }

/-! ## Resuming (R32, R391, R415) -/

/-- The key of a compute element's context after a move from one placement to another. -/
def rekey (old new : List (Nat × Nat)) (k : Nat) : Nat :=
  match old.findIdx? (· == (cePage k, ceSlot k)) with
  | some i => let x := new.getD i (0, 0); ceKey x.1 (ceElem k) x.2
  | none => k

/-- Stream accesses of a saved context name its streams by their new keys. -/
def Acc.rekey (f : Nat → Nat) (a : Acc) : Acc :=
  let g (key : Nat) : Nat := f (key / 16) * 16 + key % 16
  { a with kind := match a.kind with
    | .push st d => .push (g st) d
    | .pop st n => .pop (g st) n
    | .flush st => .flush (g st)
    | .close st => .close (g st)
    | x => x }

/-- The pages and slots on which a saved launch can resume: each of its logical pages with a free slot and room for its
windows (R32). -/
def State.resumeSlots (s : State) (l : Launch) (gone : List Nat) : Option (List Nat) :=
  if l.pages.any fun lp => (s.phys l.part lp).isNone || (tget {} (s.getPart l.part).map lp).mov then none
  else
    let slots := (List.range l.pages.length).filterMap fun i =>
      let page := (s.phys l.part (l.pages.getD i 0)).getD 0
      let sv := l.save[i]?
      let fits := (List.range 12).all fun e =>
        match sv.bind fun x => x.ces.find? (·.1 == e) with
        | some (_, c) => (s.winRoom page e c.winSize gone).isSome
        | none => true
      if fits then s.freeSlotOf page gone else none
    if slots.length = l.pages.length then some slots else none

/-- The image pages that name a convoy endpoint. -/
def convoyPages (b : ImageBody) : List Nat :=
  (b.chans.flatMap fun c =>
    (match c.src with | .convoyOut g _ => [g] | _ => []) ++ (match c.dst with | .convoyIn g => [g] | _ => [])).eraseDups

/-- No other launch is bound to an ingress that a placement would bind (R362). -/
def State.ingressFree (s : State) (p : Plan) : Bool :=
  (convoyPages p.body).all fun g =>
    let x := (s.getIngress (convoyKey p.part (pageDie (p.page g)))).binder
    x == 0 || x == p.id

/-- A launch can take these pages and slots: every route can be made and no ingress it binds is another's, the launches in `gone`
left out (R14, R362, R415, R431). -/
def State.routable (s : State) (id : Nat) (l : Launch) (gone : List Nat) : Bool :=
  match s.imageOf l with
  | none => true
  | some b => let p := s.planOf id l b; (s.numbers p gone).isSome && s.ingressFree p

/-- Restores one page of a launch. `f` renames compute-element contexts. -/
def State.resumePage (s : State) (id part : Nat) (p : Plan) (i : Nat) (sv : SavedPage) (f : Nat → Nat) : State :=
  let page := p.page i
  let c := p.slot i
  let s := s.takeSlot page c id
  -- memory-tile engine state
  let s := sv.copySeq.foldl (fun s x =>
    match s.phys part (x.1 / 2) with
    | none => s
    | some pp => s.mapMt (pp * 2 + x.1 % 2) fun m => { m with copySeq := tput m.copySeq (page * 4 + c) x.2 }) s
  let s := sv.pending.foldl (fun s x => s.mapMt (page * 2 + x.1) fun m => { m with pending := tput m.pending c x.2 }) s
  let s := sv.copies.foldl (fun s x =>
    match s.phys part (x.1 / 2) with
    | none => s
    | some pp => s.mapMt (pp * 2 + x.1 % 2) fun m => { m with copies := m.copies ++ x.2.map fun y =>
        { y with ce := f y.ce, kind := match y.kind with
            | .fill mn a b t r => .fill (pp * 2 + mn % 2) a b t r
            | k => k } }) s
  let s := sv.streams.foldl (fun s x =>
    let k := ceKey page (x.1 / 16) c
    let far := match x.2.mode with
      | .readQueue | .writeQueue => s.isFar part x.2.header
      | _ => bitN x.2.tensor.toNat 135 && s.isFar part (natBits x.2.tensor.toNat 55 0)
    let y := { x.2 with ce := k, port := s.portFor k far, mt := page * 2 + x.2.mt % 2 }
    { s with streams := tput s.streams (streamKey k (x.1 % 16)) y }) s
  let s := s.setEgress (convoyKey part (pageDie page)) (
    let e := s.getEgress (convoyKey part (pageDie page))
    let sends := sv.sends.map fun x => { x with ce := page * 4 + c }
    let steps := match sv.step with | some v => tput e.steps (page * 4 + c) v | none => e.steps
    { e with lists := e.lists ++ sends, steps := steps })
  let s := { s with counters := sv.counters.foldl (fun t x => tput t ((page * 4 + c) * 4096 + x.1) x.2) s.counters }
  -- matrix nodes: endpoints, pending fragments, tile entries
  let s := sv.mns.foldl (fun s x => s.mapMnCtx (page * 2 + x.1) c fun _ => { x.2 with reserved := 0, pend := [] }) s
  let s := sv.pend.foldl (fun s x => s.mapMnCtx (page * 2 + x.1) c fun y =>
    { y with pend := x.2.map fun fr => { fr with ctx := c, started := false, due := 0 } }) s
  let s := sv.tiles.foldl (fun s r =>
    match s.phys part (r.node / 2) with
    | none => s
    | some pp => s.mapMn (pp * 2 + r.node % 2) fun m =>
        { m with restores := m.restores ++ [{ r with ctx := page * 4 + c, arrive := s.cycle.toNat }] }) s
  -- router slots
  let s := sv.ops.foldl (fun s x => s.setOp ((routerOf page (x.1 / 8) * 4 + c) * 8 + x.1 % 8) { x.2 with fired := false }) s
  -- compute elements and their windows
  sv.ces.foldl (fun s x =>
    let k := ceKey page x.1 c
    let base := (s.winRoom page x.1 x.2.winSize []).getD 0
    let s := s.setCe k { x.2 with winBase := base, pend := x.2.pend.map (·.rekey f) }
    let w := (sv.windows.find? (·.1 == x.1)).map (·.2) |>.getD []
    let a := istoreAddr k (s.getCe k) 0
    { s with istore := w.foldl (fun m y => m.write (a + y.1) y.2) (s.istore.clear a x.2.winSize) }) s

/-- An ingress follows its page to another die; the batches that have arrived at either die stay there (R362). -/
def State.moveIngress (s : State) (part id from_ to_ : Nat) : State :=
  let a := convoyKey part from_
  let z := convoyKey part to_
  if a ≠ z ∧ (s.getIngress a).binder = id then
    let g := s.getIngress a
    (s.setIngress z { g with arrived := (s.getIngress z).arrived }).setIngress a { arrived := g.arrived }
  else s

/-- Restores a saved launch on its logical pages, in the given slots, with routes built afresh (R415). -/
def State.restoreLaunch (s : State) (id : Nat) (slots : List Nat) : State :=
  let l := s.launchD id
  let old := l.save.map (·.home)
  match s.imageOf l with
  | none => s
  | some b =>
    let l := { l with slots := slots, placedAt := s.placements + 1 }
    let p := s.planOf id l b
    let ns := (s.numbers p []).getD ⟨[], []⟩
    let f := rekey old p.at_
    let s := { s with placements := s.placements + 1 }
    let s := (s.mapPart l.part fun q => { q with queues := q.queues.map fun x => x.filter (· != id) }).clearPreload l.part l.pages slots
    let s := (List.range l.pages.length).foldl (fun s i =>
      match l.save[i]? with | some sv => s.resumePage id l.part p i sv f | none => s) s
    let chans := tmap s.chans fun _ c =>
      if c.launch = id then (match b.chans[c.num]? with | some ic => p.rechan c ic (lget [] ns.keys c.num) | none => c) else c
    let ops := tmap s.ops fun _ o => if o.launch = id then { o with out0 := [], out1 := none, ins := [none, none, none] } else o
    let s := { s with chans := chans, ops := ops }
    let s := (List.range b.chans.length).foldl (fun s i =>
      match b.chans[i]? with | some c => s.writeRoute p i c (lget [] ns.keys i) | none => s) s
    let s := (List.range b.ops.length).foldl (fun s i =>
      let o := s.getOp (p.opKey i)
      s.setOp (p.opKey i) { o with placed := o.placed.map (p.ports ns i), instr := o.instr.map (withFields (p.ports ns i)) }) s
    let s := s.mapPart l.part fun q => { q with collectives := q.collectives.map fun c => { c with
      members := c.members.map fun m => if m.launch = id then { m with ce := f m.ce } else m } }
    let s := (List.zip old p.at_).foldl (fun s x => s.moveIngress l.part id (pageDie x.1.1) (pageDie x.2.1)) s
    let s := s.wire id
    let parked := l.parkedOn.map fun g => ((s.phys l.part (g.1 / 2)).getD 0 * 2 + g.1 % 2, g.2)
    let s := s.setLaunch id { l with state := if parked.isEmpty then .resident else .parked, parkedOn := parked, save := [] }
    let s := s.unpark
    -- pending fragments are accepted again, once no restore of their context waits (R391)
    let s := p.at_.foldl (fun s x => State.reaccept 64 (State.reaccept 64 s (x.1 * 2) x.2) (x.1 * 2 + 1) x.2) s
    (p.at_.flatMap fun x => pageCes x.1 x.2).foldl (fun s k => (s.trigger k).pump k) s

/-- Resumes a saved launch on its logical pages, in the given slots, unless its save cannot be read (R415). -/
def State.resumeLaunch (s : State) (id : Nat) (slots : List Nat) : State :=
  match s.saveLost id with
  | some (va, d) => s.resumeLost id va d
  | none => s.restoreLaunch id slots

end Sys2Proof.Machine
end

