-- ==== Sys2Proof/Machine/Convoy.lean ====
section
/-!
DEFINITION. Sys2Proof/Machine/Convoy.lean: the convoy engines (R260 to R262, R358 to R373): ranking, send lists and
headers, receive buffers, closes and returns.
-/

namespace Sys2Proof.Machine

/-! ## Ranking (R260) -/

/-- The place of an element in the order of R55: −0 below +0, a NaN below everything. -/
def orderKey (t : Ty) (x : Nat) : Int :=
  if !t.isFloat then extT t x
  else
    let x := x % 2 ^ t.width
    if (fDecode t x).isNan then -(2 ^ t.width : Nat)
    else if bitN x (t.width - 1) then -((x % 2 ^ (t.width - 1) : Nat) : Int) - 1
    else (x : Int)

/-- Puts an index into a list that falls in key, a tie after the indices before it. -/
def rankPut (key : Nat → Int) (i : Nat) : List Nat → List Nat
  | [] => [i]
  | j :: rest => if key j < key i then i :: j :: rest else j :: rankPut key i rest

/-- Indices 0 to n − 1 in descending order of their elements, ties to the lower index. -/
def ranking (t : Ty) (xs : List Nat) : List Nat :=
  (List.range xs.length).foldl (fun acc i => rankPut (fun j => orderKey t (xs.getD j 0)) i acc) []

/-- XGATE's result (R260). -/
def gateBytes (t : Ty) (xs : List Nat) (g k : Nat) : Nat :=
  let order := ranking t (xs.take (min g t.lanes))
  ((List.range 8).map fun i => (if i < min k 8 then order.getD i 0xFF else 0xFF) * 2 ^ (8 * i)).sum

/-- XGATE. -/
def execXgate (f : FmtT) (s : State) : Host.Outcome State Fault Refusal :=
  .next (s.pureT f fun r => .nat (gateBytes f.ty (r.fops true f.ty .a f.sa) (r.w64 .b f.sb).toNat (r.w64 .c f.sc).toNat))

/-! ## The group table (R358) -/

/-- Entry n of a partition's group table, when it is valid. -/
def State.groupEntry (s : State) (part n : Nat) : Option Nat :=
  let e := (tget 0 (s.getPart part).regs.cvyGent n).toNat
  if bitN e 0 then some e else none

/-- Fields of an entry. -/
def gentPkg (e : Nat) : Nat := natBits e 47 32
def gentDie (e : Nat) : Nat := natBits e 26 24
def gentSize (e : Nat) : Nat := natBits e 19 16 + 1

/-- The entry that names a die of this package: its number and group size. -/
def State.ownEntry (s : State) (part die : Nat) : Option (Nat × Nat) :=
  (List.range 64).findSome? fun n => (s.groupEntry part n).bind fun e =>
    if gentPkg e = s.dev.pkg.toNat ∧ gentDie e = die then some (n, gentSize e) else none

/-- Levels of control tokens: ⌈log2 S⌉ (R362). -/
def gentLevels (size : Nat) : Nat := (List.range 4).foldl (fun l i => if 2 ^ i < size then i + 1 else l) 0

/-! ## Egress (R360, R361) -/

/-- The rows the egress of a die holds: of every partition, in lists and in batches that have not left (R360, R361). -/
def State.egressRows (s : State) (die : Nat) : Nat :=
  (s.egress.map fun e => if e.1 % 8 = die then
    (e.2.lists.map fun l => l.rows.length).sum + (e.2.formed.map fun b => b.rows.length - b.sent).sum else 0).sum

/-- The send list of a context to the destination of a group. -/
def Egress.listOf (e : Egress) (ctx group : Nat) : List Row :=
  match e.lists.find? fun l => l.ce == ctx && l.group == group with
  | some l => l.rows
  | none => []

/-- An egress without a list. -/
def Egress.without (e : Egress) (ctx group : Nat) : Egress :=
  { e with lists := e.lists.filter fun l => !(l.ce == ctx && l.group == group) }

/-- The convoy step of a context (R360). -/
def Egress.stepOf (e : Egress) (ctx : Nat) : BitVec 32 := tget 0 e.steps ctx

/-- A header (R361). -/
def cvyHeader (step fseq : BitVec 32) (part count group flags dpkg ddie : Nat) (spkg : BitVec 16) (sdie : Nat) : BitVec 512 :=
  (0 : BitVec 320) ++ step ++ fseq ++ (0 : BitVec 11) ++ BitVec.ofNat 5 part ++ BitVec.ofNat 16 count ++ (0 : BitVec 6) ++
  BitVec.ofNat 6 group ++ BitVec.ofNat 4 flags ++ (0 : BitVec 16) ++ BitVec.ofNat 16 dpkg ++ (0 : BitVec 5) ++
  BitVec.ofNat 3 ddie ++ (0 : BitVec 8) ++ spkg ++ (0 : BitVec 5) ++ BitVec.ofNat 3 sdie ++ (0 : BitVec 8)

/-- Fields of a header. -/
def hdrStep (h : BitVec 512) : BitVec 32 := h.extractLsb' 160 32
def hdrPart (h : BitVec 512) : Nat := natBits h.toNat 116 112
def hdrGroup (h : BitVec 512) : Nat := natBits h.toNat 89 84
def hdrFlags (h : BitVec 512) : Nat := natBits h.toNat 83 80
def hdrDpkg (h : BitVec 512) : Nat := natBits h.toNat 63 48
def hdrDdie (h : BitVec 512) : Nat := natBits h.toNat 42 40
def hdrSpkg (h : BitVec 512) : Nat := natBits h.toNat 31 16
def hdrSdie (h : BitVec 512) : Nat := natBits h.toNat 10 8

/-- Flags of a header (R361). -/
def flagBatch : Nat := 1
def flagFlush : Nat := 2
def flagClose : Nat := 4
def flagFinal : Nat := 8

/-- Forms a header over the whole list of a context to a group's destination, which is empty again (R360). -/
def State.formHeader (s : State) (part die ctx launch group flags : Nat) (step : BitVec 32) : State :=
  let key := convoyKey part die
  let e := s.getEgress key
  let rows := e.listOf ctx group
  let g := (s.groupEntry part group).getD 0
  let fseq := match rows with | r :: _ => r.seq | [] => 0
  let h := cvyHeader step fseq part rows.length group flags (gentPkg g) (gentDie g) s.dev.pkg die
  (s.setEgress key { (e.without ctx group) with formed := e.formed ++ [⟨h, rows, 0, ctx, launch, 0⟩] }).countCvy launch die 0x201 1

/-- Appends a row, and forms a header when the list reaches CVY_SEND_BATCH rows (R261, R360). -/
def State.appendRow (s : State) (k group : Nat) (data scores : Vec) (seq : BitVec 32) : State :=
  let c := s.getCe k
  let die := pageDie (cePage k)
  let ctx := cePage k * 4 + ceSlot k
  let key := convoyKey c.part die
  let e := s.getEgress key
  let rows := e.listOf ctx group ++ [⟨data, scores, seq, e.stepOf ctx⟩]
  let s := (s.setEgress key { (e.without ctx group) with
    lists := (e.without ctx group).lists ++ [⟨c.launch, ctx, group, rows⟩] }).countCvy c.launch die 0x200 1
  if (s.getPart c.part).regs.cvyBatch ≤ rows.length then s.formHeader c.part die ctx c.launch group flagBatch (e.stepOf ctx) else s

/-- XSEND (R261): a full list or egress holds the block. -/
def execXsend (f : FmtT) (s : State) : Host.Outcome State Fault Refusal :=
  .next (s.engine f fun k r s =>
    let w := (r.w64 .c f.sc).toNat
    let group := natBits w 37 32
    let die := pageDie (cePage k)
    match s.groupEntry r.c.part group with
    | none => if natBits w 63 38 ≠ 0 then s.ceFault k .illegal 0 0xF else s.ceFault k .protect w 0
    | some e =>
      if natBits w 63 38 ≠ 0 then s.ceFault k .illegal 0 0xF
      else if 64 ≤ ((s.getEgress (convoyKey r.c.part die)).listOf (cePage k * 4 + ceSlot k) group).length ∨ 1024 ≤ s.egressRows die then s
      else
        let scores := ofLanes 32 ((List.range (gentSize e)).map fun i => lane (r.raw 32 .b f.sb) 32 i)
        (s.appendRow k group (r.raw 0 .a f.sa) scores (BitVec.ofNat 32 (natBits w 31 0))).mapCe k CeCtx.bump)

/-- XFLUSH's headers: one over every non-empty list of the context, in ascending entry order (R262, R360). -/
def State.flushLists (s : State) (k : Nat) : State :=
  let c := s.getCe k
  let die := pageDie (cePage k)
  let ctx := cePage k * 4 + ceSlot k
  (List.range 64).foldl (fun s n =>
    let e := s.getEgress (convoyKey c.part die)
    if (s.groupEntry c.part n).isSome && !(e.listOf ctx n).isEmpty then
      s.formHeader c.part die ctx c.launch n flagFlush (e.stepOf ctx) else s) s

/-- XCLOSE's headers: one for every destination of the table, and the context's next convoy step (R262, R360). -/
def State.closeLists (s : State) (k : Nat) (step : BitVec 32) (final : Bool) : State :=
  let c := s.getCe k
  let die := pageDie (cePage k)
  let ctx := cePage k * 4 + ceSlot k
  let key := convoyKey c.part die
  let s := (List.range 64).foldl (fun s n =>
    if (s.groupEntry c.part n).isNone then s
    else
      let rows := (s.getEgress key).listOf ctx n
      s.formHeader c.part die ctx c.launch n
        (flagClose + (if rows.isEmpty then 0 else flagFlush) + (if final then flagFinal else 0)) step) s
  let e := s.getEgress key
  s.setEgress key { e with steps := tput e.steps ctx (e.stepOf ctx + 1) }

/-- XFLUSH. -/
def execXflush (f : FmtT) (s : State) : Host.Outcome State Fault Refusal :=
  .next (s.engine f fun k _ s => (s.flushLists k).mapCe k CeCtx.bump)

/-- XCLOSE. -/
def execXclose (f : FmtT) (s : State) : Host.Outcome State Fault Refusal :=
  .next (s.engine f fun k r s =>
    let a := r.w64 .a f.sa
    (s.closeLists k (a.extractLsb' 0 32) (a.getLsbD 32)).mapCe k CeCtx.bump)

/-- The destination of a batch, as one number. -/
def Batch.dest (b : Batch) : Nat := hdrDpkg b.header * 8 + hdrDdie b.header

/-- The fabric link that the link route table gives for a package, and whether it is up (R462). -/
def State.linkFor (s : State) (pkg : Nat) : Nat × Bool :=
  let n := (s.device.read (canonAddr (s.dev.lrtab + pkg))).toNat
  (n, n < 18 && s.dev.linkReady.getLsbD n)

/-- The egress a batch comes from, in the order in which an ingress takes batches of one cycle: SPKG, then SDIE (R364). -/
def Batch.source (b : Batch) : Nat := hdrSpkg b.header * 8 + hdrSdie b.header

/-- A batch joins those that wait at an ingress: by the cycle of arrival, those of one cycle by SPKG, then SDIE (R364, R369). -/
def Ingress.join (g : Ingress) (b : Batch) : Ingress :=
  let first (x : Batch) : Bool := x.arrive < b.arrive || x.source ≤ b.source
  { g with arrived := g.arrived.takeWhile first ++ [b] ++ g.arrived.dropWhile first }

/-- The input of an ingress can take a batch: it holds none of the same egress, which back-pressure holds meanwhile (R362; log
entry 103). -/
def Ingress.inputRoom (g : Ingress) (b : Batch) : Bool := !g.arrived.any fun x => x.source == b.source

/-- A batch may send its next row: it goes to another package, or the ingress it names can take it (R361, R362). -/
def State.mayDepart (s : State) (b : Batch) : Bool :=
  hdrDpkg b.header != s.dev.pkg.toNat || (s.getIngress (convoyKey (hdrPart b.header) (hdrDdie b.header))).inputRoom b

/-- A batch arrives at the ingress it names, when that is on this package; to another package it leaves by the fabric link
of the route table, and where that is down or there is none it ends in LINK_DOWN at its sender (R462). -/
def State.deliverBatch (s : State) (b : Batch) : State :=
  if hdrDpkg b.header ≠ s.dev.pkg.toNat then
    let (link, up) := s.linkFor (hdrDpkg b.header)
    if up then s
    else
      let r := engineRouter (hdrSdie b.header)
      s.record (hdrPart b.header) (s.isSuper b.launch)
        { cls := .linkDown, kind := 5, ctx := b.sender % 4, xy := xyWord (rx r) (ry r), uref := 0, detail := link }
  else
    let key := convoyKey (hdrPart b.header) (hdrDdie b.header)
    s.setIngress key ((s.getIngress key).join { b with arrive := s.cycle.toNat })

/-- The batches that may send a row next: the first of each destination, in rotation after the destination served last. -/
def Egress.turns (e : Egress) : List Batch :=
  let dests := (e.formed.map Batch.dest).eraseDups
  let heads := dests.filterMap fun d => e.formed.find? fun b => b.dest == d
  let put (b : Batch) (l : List Batch) : List Batch := l.takeWhile (fun x => x.dest < b.dest) ++ [b] ++ l.dropWhile (fun x => x.dest < b.dest)
  let up (l : List Batch) : List Batch := l.foldr put []
  up (heads.filter fun b => e.last < b.dest) ++ up (heads.filter fun b => b.dest ≤ e.last)

/-- BATCH_DEPART (R361): destinations share the egress round-robin, one row at a time; batches to one leave in order, and one
whose ingress is full is held (R362). -/
def State.departRow (s : State) (part die : Nat) : State :=
  let key := convoyKey part die
  let e := s.getEgress key
  match e.turns.find? s.mayDepart with
  | none => s
  | some b =>
    let e := { e with last := b.dest }
    if b.sent + 1 < b.rows.length then
      s.setEgress key { e with formed := e.formed.map fun x => if x = b then { b with sent := b.sent + 1 } else x }
    else (s.setEgress key { e with formed := e.formed.erase b }).deliverBatch { b with sent := b.rows.length }

/-- BATCH_DEPART. -/
def execBatchDepart (part die : Nat) (s : State) : Host.Outcome State Fault Refusal := .next (s.departRow part die)

/-! ## The receive pool (R359, R364) -/

/-- Fields of CVY_POOL. -/
def poolNum (w : Word) : Nat := natBits w.toNat 33 27
def poolOff (w : Word) : Nat := natBits w.toNat 26 21
def poolCount (w : Word) : Nat := natBits w.toNat 17 9
def poolFirst (w : Word) : Nat := natBits w.toNat 8 0

/-- The scratchpad address of record 0 of a pool page. -/
def poolAddr (w : Word) (i : Nat) : Nat :=
  let num := max 1 (poolNum w)
  (poolFirst w + i / (2 * num)) * 2 ^ 21 + i / num % 2 * 2 ^ 20 + (poolOff w + i % num) * 2 ^ 14

/-- The pool pages of a die, in index order: those whose page lies on it (R359). -/
def State.poolPages (s : State) (part die : Nat) : List Nat :=
  let w := (s.getPart part).regs.cvyPool
  (List.range (2 * poolNum w * poolCount w)).filter fun i =>
    match s.phys part (poolFirst w + i / (2 * poolNum w)) with
    | some pp => pageDie pp == die
    | none => false

/-- The state of a pool page. -/
def Ingress.page (g : Ingress) (i : Nat) : PoolState := tget .free g.pool i
def PoolState.isFree : PoolState → Bool
  | .free => true
  | _ => false
def PoolState.isFilling : PoolState → Bool
  | .filling _ _ => true
  | _ => false

/-- The state of an expert. -/
def Ingress.expert (g : Ingress) (e : Nat) : Expert := tget {} g.experts e
def Ingress.setExpert (g : Ingress) (e : Nat) (x : Expert) : Ingress := { g with experts := tput g.experts e x }

/-- The tokens of a close: the batch token, then bit L − K of the expert on outK (R362, R365). -/
def closeTokens (levels e : Nat) (gen : BitVec 32) (count addr : Nat) : List Token :=
  scalarTok (gen.toNat % 2 ^ 16 * 2 ^ 48 + e % 16 * 2 ^ 40 + count % 128 * 2 ^ 32 + addr % 2 ^ 30) ::
    (List.range levels).map fun k => scalarTok (b2n (bitN e (levels - 1 - k)))

/-- Closes the open buffer of an expert (R365). -/
def Ingress.closeBuf (g : Ingress) (pool : Word) (levels e : Nat) : Ingress :=
  let x := g.expert e
  match x.openBuf with
  | none => g
  | some i =>
    let g := g.setExpert e { x with openBuf := none, count := 0, gen := x.gen + 1 }
    { g with pool := tput g.pool i (.running e g.step), give := g.give ++ [closeTokens levels e x.gen x.count (poolAddr pool i)] }

/-- The lowest FREE pool page; when every page is FILLING, the buffer whose first row was placed earliest is forced shut
(R366). -/
inductive PoolFind where
  | page (i : Nat)
  | force (e : Nat)
  | wait

/-- Looks for a pool page. -/
def Ingress.findPage (g : Ingress) (pages : List Nat) : PoolFind :=
  match pages.find? fun i => (g.page i).isFree with
  | some i => .page i
  | none =>
    if !(pages.all fun i => (g.page i).isFilling) then .wait
    else
      let fs := pages.filterMap fun i => match g.page i with | .filling e first => some (first, e) | _ => none
      match fs with
      | [] => .wait
      | f :: rest => .force (rest.foldl (fun b x => if x.1 < b.1 ∨ (x.1 = b.1 ∧ x.2 < b.2) then x else b) f).2

/-! ## Giving tokens (R365) -/

/-- A channel of the ingress has room for one token (R341). -/
def State.cvyRoom (s : State) : Option Nat → Bool
  | none => false
  | some ch => s.engineRoom ch != 0

/-- Giving a batch token starts its expert's product: a release at die scope over its receive buffer (R296, R365). -/
def State.productStart (s : State) (pd : Nat) (t : Token) : State :=
  if t.isData then s.releaseAs ⟨3, pd % 8⟩ (pd / 8) 0 (natBits t.data.toNat 29 0) (256 * natBits t.data.toNat 38 32) else s

/-- The ingress gives what is due, in order, each close's tokens in one action. -/
def State.cvyGive (pd : Nat) : Nat → State → State
  | 0, s => s
  | fuel + 1, s =>
    let g := s.getIngress pd
    match g.give with
    | [] => s
    | ts :: rest =>
      let chs := g.out.take ts.length
      if chs.all s.cvyRoom then
        let s := (List.zip chs ts).foldl (fun s e => match e.1 with | some ch => s.publish ch [e.2] | none => s) s
        State.cvyGive pd fuel ((s.productStart pd (ts.headD default)).setIngress pd { g with give := rest })
      else s

/-! ## Placing rows (R363, R364) -/

/-- The physical page and slot of a binder on a die: those of its lowest logical page there. -/
def State.binderAt (s : State) (id die : Nat) : Nat × Nat × Nat :=
  let l := s.launchD id
  let xs := (s.places l).filterMap fun p => if pageDie p.2.1 = die then some (l.pages.getD p.1 0, p.2.1, p.2.2) else none
  match xs with
  | [] => (0, 0, 0)
  | x :: rest => rest.foldl (fun b y => if y.1 < b.1 then y else b) x

/-- A record that names the ingress (R362, R364, R368, R372). -/
def State.cvyRecord (s : State) (part die id : Nat) (cls : FaultClass) (word addr : Nat) : State :=
  let (lp, _, slot) := s.binderAt id die
  let e := engineRouter die
  s.record part (s.isSuper id)
    { cls := cls, kind := 5, ctx := slot, xy := xyWord (rx e) (ry e), uref := urefWord 7 lp 0 slot 0 0, word := word, addr := addr }

/-- The ingress works: its binder is on the package and no second phase of a stop has reached it (R372). -/
def State.ingressGoes (s : State) (part die : Nat) : Bool :=
  let g := s.getIngress (convoyKey part die)
  g.binder != 0 && !g.dead && (s.launchD g.binder).resident && !(s.stops.any fun x => x.launch == g.binder && x.phase == 2)

/-- The bytes of a row record (R363). -/
def rowRecord (data scores : Vec) (hdr : Nat) : List Byte :=
  bytesOfNat 128 data.toNat ++ bytesOfNat 64 scores.toNat ++ bytesOfNat 8 hdr ++ List.replicate 56 0

/-- The row header: SEQ, and the tag of R363. -/
def rowHeader (seq : BitVec 32) (e group sdie : Nat) (late ovr solo : Bool) (gen : BitVec 32) : Nat :=
  e % 16 * 2 ^ 60 + group % 64 * 2 ^ 54 + b2n late * 2 ^ 53 + b2n ovr * 2 ^ 52 + b2n solo * 2 ^ 51 + sdie % 8 * 2 ^ 48 +
  gen.toNat % 2 ^ 16 * 2 ^ 32 + seq.toNat

/-- Writes a row record through the page map and port P4; it waits for a page that moves and for drowsy banks. An error that
cannot be corrected and has struck a word of the record's place since its last access ends the write in MEM_UE; the record,
written again, writes the word whole (R274, R372). -/
def State.cvyWrite (s : State) (part addr : Nat) (bs : List Byte) : Try Unit × State :=
  match s.scratchAt part addr 1 with
  | .error e => (.error e, s)
  | .ok (mt, off) =>
    match s.banksAwake mt off 256 with
    | (false, s) => (.error none, s)
    | (true, s) =>
      let struck := s.wordErrs.any fun e => e.2 && mt * 2 ^ 17 + off / 8 ≤ e.1 && e.1 < mt * 2 ^ 17 + off / 8 + 32
      let s := s.meetWords mt off 256
      if struck then (.error (some ⟨.memUe, addr, 0⟩), s)
      else (.ok (), ((s.scratchWrite mt off bs).touchBank mt (off / 128 % 16) 4).touchBank mt (off / 128 % 16 + 1) 4)

/-- What R364 decides of a row: the expert that takes it, and its flags. -/
structure RowPlan where
  expert : Nat
  late : Bool
  ovr : Bool
  solo : Bool

/-- The decision of R364 for a row of a group of S experts. Once FINAL is processed no step is open; the rows of every step up to
the one it closed come late (R363). -/
def Ingress.plan (g : Ingress) (size : Nat) (r : Row) : RowPlan :=
  let cand := ranking .fp32 ((List.range size).map fun i => lane r.scores 32 i)
  let best := cand.headD 0
  let late := r.step.toNat < g.step.toNat
  let stepRuns := g.pool.any fun e => match e.2 with | .running _ st => st == r.step | _ => false
  if g.final || (late && stepRuns) then ⟨best, late, false, true⟩
  else if late then ⟨best, true, false, false⟩
  else
    let e := (cand.find? fun x => !(g.expert x).closed).getD best
    ⟨e, false, e != best, false⟩

/-- The buffer of a row is known: its page, and its place in it. The record is written, and the buffer closed when that is
due (R364, R365). -/
def State.placeAt (s : State) (part die group size : Nat) (r : Row) (sdie : Nat) (pl : RowPlan) (page idx : Nat) : State :=
  let pd := convoyKey part die
  let regs := (s.getPart part).regs
  let g := s.getIngress pd
  let x := g.expert pl.expert
  let addr := poolAddr regs.cvyPool page + 256 * idx
  let id := g.binder
  match s.cvyWrite part addr (rowRecord r.data r.scores (rowHeader r.seq pl.expert group sdie pl.late pl.ovr pl.solo x.gen)) with
  | (.error none, s) => s
  | (.error (some e), s) => (s.setIngress pd { g with faultRow := true }).cvyRecord part die id e.cls r.seq.toNat e.addr
  | (.ok _, s) =>
    let levels := gentLevels size
    let g := { g with rowCount := g.rowCount + 1, place := g.place + 1 }
    let s := s.countCvy id die 0x210 1
    let s := if pl.ovr then s.countCvy id die 0x211 1 else s
    let s := if pl.late then s.countCvy id die 0x212 1 else s
    if pl.solo then
      let g := { g with
        pool := tput g.pool page (.running pl.expert r.step)
        give := g.give ++ [closeTokens levels pl.expert x.gen 1 (poolAddr regs.cvyPool page)] }
      (s.setIngress pd g).countCvy id die 0x216 1
    else
      let first := match g.page page with | .filling _ n => n | _ => g.rowCount
      let g := { g with pool := tput g.pool page (.filling pl.expert first) }
      let g := g.setExpert pl.expert { x with openBuf := some page, count := x.count + 1 }
      if regs.cvyCap ≤ x.count + 1 then
        let g := g.closeBuf regs.cvyPool levels pl.expert
        (s.setIngress pd (g.setExpert pl.expert { (g.expert pl.expert) with closed := true })).countCvy id die 0x213 1
      else s.setIngress pd g

/-- Places a row, or nothing while it waits for a page (R364, R366). A forced close comes first, and the row waits for the
page that becomes FREE. -/
def State.placeRow (s : State) (part die group size : Nat) (r : Row) (sdie : Nat) : State :=
  let pd := convoyKey part die
  let g := s.getIngress pd
  let pl := g.plan size r
  let x := g.expert pl.expert
  match (if pl.solo then none else x.openBuf) with
  | some i => s.placeAt part die group size r sdie pl i x.count
  | none =>
    match g.findPage (s.poolPages part die) with
    | .wait => s
    | .force e =>
      (s.setIngress pd (g.closeBuf (s.getPart part).regs.cvyPool (gentLevels size) e)).countCvy g.binder die 0x215 1
    | .page i => s.placeAt part die group size r sdie pl i 0

/-! ## The end of a step (R367) -/

/-- Ends the open step: every FILLING buffer closes in ascending index, every CLOSED flag clears, and the next step opens,
or none after a FINAL. -/
def State.endStep (s : State) (part die size : Nat) : State :=
  let pd := convoyKey part die
  let pool := (s.getPart part).regs.cvyPool
  let g0 := s.getIngress pd
  let levels := gentLevels size
  let open_ := (List.range size).filter fun e => (g0.expert e).openBuf.isSome
  let g := open_.foldl (fun g e => g.closeBuf pool levels e) g0
  let g := { g with experts := tmap g.experts fun _ x => { x with closed := false } }
  let s := if open_.isEmpty then s else s.countCvy g.binder die 0x214 open_.length
  if g.finalStep.contains g.step then
    s.setIngress pd { g with final := true, step := g.step + 1, closes := [], finalStep := [], give := g.give ++ [[markTok markLast 0]] }
  else
    s.setIngress pd { g with
      step := g.step + 1
      closes := (g.closes.filter fun e => e.1 != 0).map fun e => (e.1 - 1, e.2) }

/-- Ends the open step, and each that follows whose closes have all come. -/
def State.endSteps (part die size : Nat) : Nat → State → State
  | 0, s => s
  | fuel + 1, s =>
    let g := s.getIngress (convoyKey part die)
    if g.final || tget 0 g.closes 0 < (s.getPart part).regs.cvyNsrc then s
    else State.endSteps part die size fuel (s.endStep part die size)

/-- A header with CLOSE is counted (R364, R367): for the open step and the fifteen after it; any other is discarded with a
CONFIG record. -/
def State.countClose (s : State) (part die size : Nat) (h : BitVec 512) : State :=
  let pd := convoyKey part die
  let g := s.getIngress pd
  if g.final then s
  else
    let d := (hdrStep h - g.step).toNat
    if 16 ≤ d then s.cvyRecord part die g.binder .config (hdrStep h).toNat 0
    else
      let n := tget 0 g.closes d + 1
      let fin := bitN (hdrFlags h) 3 && n == (s.getPart part).regs.cvyNsrc
      let g := { g with closes := tput g.closes d n, finalStep := if fin then g.finalStep ++ [hdrStep h] else g.finalStep }
      State.endSteps part die size 17 (s.setIngress pd g)

/-- The batch's rows are all placed: its CLOSE is counted, and the ingress takes the next. -/
def State.batchOver (s : State) (part die size : Nat) (b : Batch) : State :=
  let s := if bitN (hdrFlags b.header) 2 then s.countClose part die size b.header else s
  let pd := convoyKey part die
  s.setIngress pd { (s.getIngress pd) with batch := none, place := 0 }

/-- A batch that a fabric link has brought joins those that have arrived; while the input holds one of the same egress, it stays
on the link (R362; log entry 103). -/
def State.linkArrives (s : State) (part die : Nat) (b : LinkBatch) : State :=
  let pd := convoyKey part die
  let g := s.getIngress pd
  let x : Batch := ⟨b.header, b.rows.map fun r => ⟨r.1, r.2.1, r.2.2.1, r.2.2.2⟩, b.rows.length, 0, 0, s.cycle.toNat⟩
  if hdrPart b.header ≠ part ∨ hdrDdie b.header ≠ die ∨ hdrDpkg b.header ≠ s.dev.pkg.toNat ∨ 64 < b.rows.length ∨ !g.inputRoom x then s
  else s.setIngress pd (g.join x)

/-- The ingress takes the next batch whole, in a cycle after that of its arrival (log entry 103); one whose GROUP is not that of
this die's entry is discarded (R364). -/
def State.takeBatch (s : State) (part die : Nat) : State :=
  let pd := convoyKey part die
  let g := s.getIngress pd
  if !s.ingressGoes part die || g.batch.isSome then s
  else
    match g.arrived with
    | [] => s
    | b :: rest =>
      if s.cycle.toNat ≤ b.arrive then s
      else match s.ownEntry part die with
      | some (n, size) =>
        if n ≠ hdrGroup b.header then
          (s.setIngress pd { g with arrived := rest }).cvyRecord part die g.binder .config (hdrGroup b.header) 0
        else
          let s := s.setIngress pd { g with arrived := rest, batch := some b, place := 0 }
          if b.rows.isEmpty then s.batchOver part die size b else s
      | none => (s.setIngress pd { g with arrived := rest }).cvyRecord part die g.binder .config (hdrGroup b.header) 0

/-- INGRESS_BATCH_TAKE. -/
def execIngressBatchTake (part die : Nat) (remote : Option LinkBatch) (s : State) : Host.Outcome State Fault Refusal :=
  .next (let s := match remote with | some b => s.linkArrives part die b | none => s
         let s := s.takeBatch part die
         if s.ingressGoes part die then State.cvyGive (convoyKey part die) 32 s else s)

/-- ROW_PLACE (R364): the next row of the batch in hand. -/
def State.rowPlace (s : State) (part die : Nat) : State :=
  let pd := convoyKey part die
  let g := s.getIngress pd
  match g.batch, s.ownEntry part die with
  | some b, some (n, size) =>
    if g.faultRow then s
    else
      match b.rows[g.place]? with
      | none => s.batchOver part die size b
      | some r =>
        let s := s.placeRow part die n size r (hdrSdie b.header)
        if b.rows.length ≤ (s.getIngress pd).place then s.batchOver part die size b else s
  | _, _ => s

/-- ROW_PLACE. -/
def execRowPlace (part die : Nat) (s : State) : Host.Outcome State Fault Refusal :=
  .next (if s.ingressGoes part die then State.cvyGive (convoyKey part die) 32 (s.rowPlace part die) else s)

/-- BATCH_RETURN (R368): a returned batch token frees its RUNNING page; one that names none is discarded with a CONFIG
record. -/
def State.batchReturn (s : State) (part die : Nat) : State :=
  let pd := convoyKey part die
  let g := s.getIngress pd
  match g.ret with
  | none => s
  | some ch =>
    match s.takeHead ch with
    | (none, _) => s
    | (some t, s) =>
      let addr := t.data.toNat % 2 ^ 30
      let pool := (s.getPart part).regs.cvyPool
      match g.pool.find? fun e => (match e.2 with | .running _ _ => true | _ => false) && poolAddr pool e.1 == addr with
      | some e => (s.setIngress pd { g with pool := tput g.pool e.1 .free }).countCvy g.binder die 0x217 1
      | none => s.cvyRecord part die g.binder .config t.data.toWord.toNat 0

/-- BATCH_RETURN. -/
def execBatchReturn (part die : Nat) (s : State) : Host.Outcome State Fault Refusal :=
  .next (if s.ingressGoes part die then State.cvyGive (convoyKey part die) 32 (s.batchReturn part die) else s)

/-! ## TRET on an ingress (R372) -/

/-- TRET on an ingress whose row write faulted: the row again, the row discarded, or the end of the ingress's service. -/
def State.ingressReturn (s : State) (part die mode : Nat) : State :=
  let pd := convoyKey part die
  let g := s.getIngress pd
  match mode with
  | 0 => s.setIngress pd { g with faultRow := false }
  | 1 =>
    let s := s.setIngress pd { g with faultRow := false, place := g.place + 1 }
    match g.batch, s.ownEntry part die with
    | some b, some (_, size) => if b.rows.length ≤ g.place + 1 then s.batchOver part die size b else s
    | _, _ => s
  | _ => (s.setIngress pd { g with faultRow := false, dead := true }).launchFaulted g.binder

end Sys2Proof.Machine
end

