-- ==== Sys2Proof/Machine/StepCache.lean ====
section
/-!
DEFINITION. Sys2Proof/Machine/StepCache.lean: the step cache of a memory tile (R72, R73, R256 to R259, R317 to R320).
-/

namespace Sys2Proof.Machine

/-! ## Descriptors (R256) -/

def scKey (d : Vec) : BitVec 32 := d.extractLsb' 0 32
def scStep (d : Vec) : BitVec 32 := d.extractLsb' 32 32
def scSrc (d : Vec) : Word := d.extractLsb' 64 64
def scDst (d : Vec) : Word := d.extractLsb' 128 64
def scLen (d : Vec) : Nat := natBits d.toNat 223 192
def scNin (d : Vec) : Nat := natBits d.toNat 211 192
def scLimit (d : Vec) : Nat := natBits d.toNat 255 224

/-- The type of the elements a lookup reads: one that R72 gives a signature. -/
def scTy (d : Vec) : Option Ty :=
  match decTy (BitVec.ofNat 4 (natBits d.toNat 215 212)) with
  | .ok .fp32 => some .fp32 | .ok .bf16 => some .bf16 | .ok .fp16 => some .fp16 | .ok .e5m2 => some .e5m2
  | .ok .e4m3 => some .e4m3 | .ok .s8 => some .s8 | .ok .z8 => some .z8 | .ok .s16 => some .s16 | .ok .z16 => some .z16
  | _ => none

/-- The place-word, extent and alignment checks of COPY (R205) for a source and a destination that a descriptor names. -/
def State.placesCheck (s : State) (c : CeCtx) (src dst : Option (Word × Nat)) : Try Unit :=
  let protect (w : Word) : Try Unit := .error (some ⟨.protect, w.toNat, 0⟩)
  let extent (w : Word) (n : Nat) : Bool :=
    match place w with
    | some (0, a) => a + n ≤ (s.getPart c.part).nl * 2 ^ 21
    | some (2, a) => (s.windowOf c.launch c.part (natBits a 29 21) (natBits a 19 16)).any fun k => natBits a 15 0 + n ≤ (s.getCe k).winSize
    | some _ => true
    | none => false
  let who (x : Option (Word × Nat)) : Word := match x with | some y => y.1 | none => 0
  let bad (x : Option (Word × Nat)) (p : Word → Nat → Bool) : Bool := match x with | some (w, n) => !p w n | none => false
  if bad src fun w _ => match place w with | some (ap, _) => ap != 2 | none => false then protect (who src)
  else if bad dst fun w _ => (place w).isSome then protect (who dst)
  else if bad src extent then protect (who src)
  else if bad dst extent then protect (who dst)
  else if bad src fun w _ => w.toNat % 8 == 0 then .error (some ⟨.align, (who src).toNat, 0⟩)
  else if bad dst fun w _ => w.toNat % 8 == 0 then .error (some ⟨.align, (who dst).toNat, 0⟩)
  else .ok ()

/-- The checks of SCLOOK, SCSTEP and SCFILL at issue. -/
def illegalDesc : Try Unit := .error (some ⟨.illegal, 0, 0xF⟩)

def State.sclookCheck (s : State) (c : CeCtx) (d : Vec) : Try Unit :=
  match scTy d with
  | none => illegalDesc
  | some t =>
    if d.toNat / 2 ^ 256 ≠ 0 ∨ scLimit d ≠ 0 ∨ natBits d.toNat 223 216 ≠ 0 ∨ scNin d = 0 then illegalDesc
    else s.placesCheck c (some (scSrc d, scNin d * (t.width / 8))) (some (scDst d, 0))

def State.scstepCheck (s : State) (c : CeCtx) (d : Vec) : Try Unit :=
  if d.toNat / 2 ^ 256 ≠ 0 ∨ scLimit d ≠ 0 ∨ scLen d ≠ 0 ∨ scSrc d ≠ 0 then illegalDesc
  else s.placesCheck c none (some (scDst d, 0))

def State.scfillCheck (s : State) (c : CeCtx) (d : Vec) : Try Unit :=
  if d.toNat / 2 ^ 256 ≠ 0 ∨ scLimit d = 0 ∨ 65535 < scLimit d ∨ scLen d < 8 ∨ scDst d ≠ 0 then illegalDesc
  else match s.placesCheck c (some (scSrc d, scLen d)) none with
    | .error e => .error e
    | .ok _ => if scLen d % 8 ≠ 0 then .error (some ⟨.align, scLen d, 0⟩) else .ok ()

/-! ## Signatures (R72, R73) -/

/-- An fp32 sum with one more exact element, rounded once, with canonical NaNs. -/
def addVal (acc : Nat) (v : FVal) : Nat :=
  let a := fDecode .fp32 acc
  if a.isNan || v.isNan then canon .fp32 else (fSum .fp32 0 [a, v]).1

/-- The signature of elements of a type, in flat order. -/
def signature (t : Ty) (elems : List Nat) : List (BitVec 32) :=
  (List.range 32).map fun j => BitVec.ofNat 32
    (((List.range elems.length).filter fun i => i % 32 == j).foldl (fun acc i => addVal acc (elemVal t (fun _ => 0) (elems.getD i 0))) 0)

/-- The match of R73: false where a NaN stands on either side. -/
def sigMatch (theta : BitVec 16) (new old : List (BitVec 32)) : Bool :=
  let ds := List.zipWith (fun a b => (fAbs .fp32 (fSub .fp32 0 a.toNat b.toNat).1).1) new old
  let ps := old.map fun p => (fAbs .fp32 p.toNat).1
  let max' (l : List Nat) : Nat := l.foldl (fun m x => (fMinMax .fp32 true m x).1) 0
  let bound := (fMul .fp32 0 (theta.toNat * 2 ^ 16) (max' ps)).1
  !((ds ++ ps).any fun x => (fDecode .fp32 x).isNan) && (fCmp .fp32 2 (max' ds) bound).1

/-! ## Decisions (R257, R259, R318) -/

/-- The valid entry with a key: its index and itself. -/
def MemTile.stepEntry (m : MemTile) (key : BitVec 32) : Option (Nat × StepEntry) :=
  m.steps.find? fun e => e.2.valid && e.2.key == key

/-- Delivers the value of a held engine instruction of format T and lets the firing go on. -/
def State.deliverT (s : State) (k : Nat) (v : Word) : State :=
  s.mapCe k fun c => match decT c.fir.word with
    | .ok f => (c.put2 false v.toVec f.ta f.tb).bump
    | .error _ => c

/-- How a lookup comes out (R257, R259): a hit with its entry, or the code delivered and the event counted. -/
inductive Decision where
  | hit (i : Nat) (e : StepEntry)
  | miss (event code : Nat)

/-- The outcome of a lookup whose signature is known (none for SCSTEP). -/
def State.decision (s : State) (mt : Nat) (l : Lookup) (sig : Option (List (BitVec 32))) : Decision :=
  match (s.getMt mt).stepEntry (scKey l.desc) with
  | none => .miss 0x103 2
  | some (i, e) =>
    if e.step + 1 ≠ scStep l.desc then .miss 0x103 2
    else if e.limit ≤ e.age then .miss 0x104 3
    else if !(match sig with | some x => sigMatch (s.getPart (s.getCe l.ce).part).regs.theta x e.sig | none => true) then .miss 0x102 1
    else .hit i e

/-- The memory tile decides a lookup, or waits for room for the replay. -/
def State.decide (s : State) (mt : Nat) (l : Lookup) (sig : Option (List (BitVec 32))) : State :=
  let m := s.getMt mt
  let done := s.setMt mt { m with lookups := m.lookups.erase l }
  let count (s : State) (n : Nat) : State := s.countPage (cePage l.ce) (ceSlot l.ce) n 1
  match s.decision mt l sig with
  | .miss n code =>
    let s := count (count done 0x100) n
    let s := match sig with
      | some x => s.mapMt mt fun m => { m with pending := tput m.pending (ceSlot l.ce) { key := scKey l.desc, step := scStep l.desc, sig := x } }
      | none => s
    s.deliverT l.ce (BitVec.ofNat 64 code)
  | .hit i e =>
    if 32 ≤ m.pendingCopies (ceCtxOf l.ce) then s
    else
      let s := done.mapMt mt fun m => { m with steps := tput m.steps i { e with step := scStep l.desc, age := e.age + 1, lastUse := s.cycle.setWidth 63 } }
      let (p, s) := (count (count s 0x100) 0x101).newCopy l.ce mt (s.getCe l.ce).lpage l.str 0 .replay e.place (scDst l.desc) e.len
      s.deliverT l.ce p

/-- The signature a lookup reads: none for SCSTEP, which has none. -/
def State.lookupSig (s : State) (mt : Nat) (l : Lookup) : Try (Option (List (BitVec 32))) × State :=
  if l.bare then (.ok none, s)
  else
    match place (scSrc l.desc), scTy l.desc with
    | some (ap, a), some t =>
      match s.readAt (s.getCe l.ce).part ap a (scNin l.desc * (t.width / 8)) (tileEngine mt 3) with
      | (.error e, s) => (.error e, s)
      | (.ok bs, s) => (.ok (some (signature t ((List.range (scNin l.desc)).map fun i => packedElem bs t.width i))), s)
    | _, _ => (.error none, s)

/-- STEP_CACHE_DECISION (R318): the first lookup whose stream has come to it is decided, indivisibly, as its reads return. -/
def State.stepDecision (s : State) (mt : Nat) : State :=
  match (s.getMt mt).lookups.find? fun l => s.handed l.ce l.after with
  | none => s
  | some l =>
    match s.lookupSig mt l with
    | (.error none, s) => s
    | (.error (some e), s) =>
      (s.mapMt mt fun m => { m with lookups := m.lookups.erase l }).ceFault l.ce e.cls e.addr e.detail
    | (.ok sig, s) => s.decide mt l sig

/-- A lookup is a hit that waits for room in the copy queue (R205, R257). -/
def State.lookupFull (s : State) (mt : Nat) (l : Lookup) : Bool :=
  32 ≤ (s.getMt mt).pendingCopies (ceCtxOf l.ce) && s.handed l.ce l.after &&
  match (s.lookupSig mt l).1 with
  | .ok sig => (match s.decision mt l sig with | .hit _ _ => true | .miss _ _ => false)
  | .error _ => false

/-- STEP_CACHE_DECISION. -/
def execStepCacheDecision (mt : Nat) (s : State) : Host.Outcome State Fault Refusal := .next (s.stepDecision mt)

/-! ## The instructions -/

/-- SCLOOK and SCSTEP: their checks, then the lookup stands at the home memory tile and the firing is held for its outcome. -/
def State.lookup (s : State) (f : FmtT) (bare : Bool) : State :=
  s.engine f fun k r s =>
    let d := r.raw 0 .a f.sa
    s.check k (if bare then s.scstepCheck r.c d else s.sclookCheck r.c d) fun _ =>
      let str := strOf f.sc
      let l : Lookup := { ce := k, acc := r.c.accNext, desc := d, bare := bare, after := r.c.handoff str, str := str }
      let s := s.mapMt (homeMt k) fun m => { m with lookups := m.lookups ++ [l] }
      s.mapCe k fun c => { c with accNext := c.accNext + 1, fir := { c.fir with hold := .value c.accNext } }

/-- SCLOOK (R257). -/
def execSclook (f : FmtT) (s : State) : Host.Outcome State Fault Refusal := .next (s.lookup f false)
/-- SCSTEP (R259). -/
def execScstep (f : FmtT) (s : State) : Host.Outcome State Fault Refusal := .next (s.lookup f true)

/-- The entry a fill writes: its key's, else a free one, else the valid entry with the least LASTUSE (R258, R318). -/
def MemTile.fillSlot (m : MemTile) (key : BitVec 32) : Nat × Bool :=
  match m.stepEntry key with
  | some (i, _) => (i, false)
  | none =>
    match (List.range 128).find? fun i => !(tget {} m.steps i).valid with
    | some i => (i, false)
    | none => ((List.range 128).foldl (fun b i => if (tget {} m.steps i).lastUse < (tget {} m.steps b).lastUse then i else b) 0, true)

/-- SCFILL (R258): once the accesses of its stream have been performed. -/
def execScfill (f : FmtT) (s : State) : Host.Outcome State Fault Refusal :=
  .next (s.engine f fun k r s =>
    let d := r.raw 0 .a f.sa
    s.check k (s.scfillCheck r.c d) fun _ =>
      if !(r.c.handoff (strOf f.sc)).isEmpty then s
      else
        let mt := homeMt k
        let m := s.getMt mt
        match tfind m.pending (ceSlot k) with
        | some p =>
          if p.key = scKey d ∧ p.step = scStep d then
            let (i, evicts) := m.fillSlot p.key
            let e : StepEntry := { valid := true, key := p.key, step := p.step, age := 0, limit := scLimit d, len := scLen d,
                                   place := scSrc d, lastUse := s.cycle.setWidth 63, sig := p.sig }
            let s := s.setMt mt { m with steps := tput m.steps i e, pending := tdel m.pending (ceSlot k) }
            let s := if evicts then s.countPage (cePage k) (ceSlot k) 0x105 1 else s
            s.give2 k f false 1
          else s.give2 k f false 0
        | none => s.give2 k f false 0)

/-- SCINV (R259). -/
def execScinv (f : FmtT) (s : State) : Host.Outcome State Fault Refusal :=
  .next (s.engine f fun k r s =>
    let a := r.w64 .a f.sa
    let gone (e : StepEntry) : Bool := e.valid && (a.getLsbD 32 || e.key == a.extractLsb' 0 32)
    let m := s.getMt (homeMt k)
    let n := (m.steps.filter fun e => gone e.2).length
    (s.setMt (homeMt k) { m with steps := tfilter m.steps fun _ e => !gone e }).give2 k f false (BitVec.ofNat 1024 n))

end Sys2Proof.Machine
end

