-- ==== Sys2Proof/Machine/Collect.lean ====
section
/-!
DEFINITION. Sys2Proof/Machine/Collect.lean: collectives (R263 to R266).
-/

namespace Sys2Proof.Machine

/-! ## Descriptors and groups (R263, R456) -/

def collDst (d : Vec) : Word := d.extractLsb' 128 64
def collSrc (d : Vec) : Word := d.extractLsb' 64 64
def collLen (d : Vec) : Nat := natBits d.toNat 63 32
def collRoot (d : Vec) : Nat := natBits d.toNat 31 20
def collTyCode (d : Vec) : Nat := natBits d.toNat 19 16
def collRed (d : Vec) : Nat := natBits d.toNat 15 12
def collOp (d : Vec) : Nat := natBits d.toNat 11 8
def collGroup (d : Vec) : Nat := natBits d.toNat 5 0

/-- The element type of a reduction. -/
def collTy (d : Vec) : Option Ty :=
  match decTy (BitVec.ofNat 4 (collTyCode d)) with
  | .ok .s32 => some .s32 | .ok .z32 => some .z32 | .ok .bf16 => some .bf16 | .ok .fp32 => some .fp32
  | _ => none

/-- A descriptor holds a reserved value, or a LEN that breaks its rule, for a group of n members. -/
def collBad (d : Vec) (n : Nat) : Bool :=
  d.toNat / 2 ^ 192 != 0 || natBits d.toNat 7 6 != 0 || 4 < collOp d || 2 < collRed d ||
  (collOp d < 2 && (collTy d).isNone) || (collRoot d != 0 && (collOp d != 3 || n ≤ collRoot d)) ||
  (n != 0 && collLen d % (128 * n) != 0)

/-- What the members' descriptors must agree in (R264): OP, RED, TY, LEN and ROOT. -/
def collAgree (a b : Vec) : Bool := natBits a.toNat 63 8 == natBits b.toNat 63 8

/-- The member words of a group, in rank order. -/
def State.groupMembers (s : State) (part grp : Nat) : List Word := (tget {} (s.getPart part).cgtab grp).members

/-- The member word of a compute-element context (R456). -/
def State.memberWord (s : State) (k : Nat) : Word :=
  BitVec.ofNat 64 (s.dev.pkg.toNat * 2 ^ 16 + (s.getCe k).lpage % 512 * 2 ^ 7 + ceTile (ceElem k) * 2 ^ 3 + ceSlot k * 2)

/-- The bytes a collective writes to a member's DST. -/
def collOut (d : Vec) (n : Nat) : Nat :=
  match collOp d with
  | 1 => collLen d / max 1 n
  | 2 => n * collLen d
  | _ => collLen d

/-! ## COLL (R263) -/

/-- The collective with a number on a group. -/
def Partition.collective (p : Partition) (grp : Nat) (seq : BitVec 32) : Option Collective :=
  p.collectives.find? fun c => c.grp == grp && c.seq == seq

/-- Replaces a collective, or adds it. -/
def Partition.setCollective (p : Partition) (c : Collective) : Partition :=
  if p.collectives.any fun x => x.grp == c.grp && x.seq == c.seq then
    { p with collectives := p.collectives.map fun x => if x.grp = c.grp ∧ x.seq = c.seq then c else x }
  else { p with collectives := p.collectives ++ [c] }

/-- Records a change of a collective. -/
def State.setCollective (s : State) (part : Nat) (c : Collective) : State := s.mapPart part (·.setCollective c)

/-- A collective handle. -/
def collHandle (grp : Nat) (seq : BitVec 32) : Word := BitVec.ofNat 64 (9 * 2 ^ 60 + grp % 64 * 2 ^ 54 + seq.toNat)

/-- COLL: its checks, then the member joins the collective of its count on the group. -/
def execColl (f : FmtT) (s : State) : Host.Outcome State Fault Refusal :=
  .next (s.engine f fun k r s =>
    let d := r.raw 0 .a f.sa
    let part := r.c.part
    let grp := collGroup d
    let words := s.groupMembers part grp
    let n := words.length
    if collBad d n then s.ceFault k .illegal 0 0xF
    else
      match words.findIdx? (· == s.memberWord k) with
      | none => s.ceFault k .protect grp 0
      | some rank =>
        s.check k (s.placesCheck r.c (some (collSrc d, collLen d)) (some (collDst d, collOut d n))) fun _ =>
          let key := grp * 4096 + rank
          let seq := tget 0 (s.getPart part).cseq key
          let c := ((s.getPart part).collective grp seq).getD { grp := grp, seq := seq, members := [], data := [] }
          let m : Member := { rank := rank, ce := k, launch := r.c.launch, desc := d, after := r.c.handoff (strOf f.sc),
                              exchanged := false, faulted := false, status := none }
          let s := s.mapPart part fun p => { p with cseq := tput p.cseq key (seq + 1) }
          (s.setCollective part { c with members := c.members ++ [m] }).give2 k f false (collHandle grp seq).toVec)

/-! ## Exchange and completion (R264, R265) -/

/-- The stop unit of a member. -/
def memberUnit (c : Collective) (m : Member) : Nat := unitNo 8 ((c.grp * 4096 + m.rank) * 2 ^ 32 + c.seq.toNat)

/-- A member goes on: it has not ended or faulted, its launch is on the package, it has not stopped, and the accesses of
its stream have been performed. -/
def State.memberGoes (s : State) (c : Collective) (m : Member) : Bool :=
  m.status.isNone && !m.faulted && (s.launchD m.launch).resident && !s.unitStopped m.launch (memberUnit c m) &&
  s.handed m.ce m.after

/-- The engine of a member: its issuer's home memory tile (R22). -/
def Member.engine (m : Member) : Engine := tileEngine (homeMt m.ce) 2

/-- Changes a member of a collective. -/
def Collective.mapMember (c : Collective) (rank : Nat) (f : Member → Member) : Collective :=
  { c with members := c.members.map fun m => if m.rank = rank then f m else m }

/-- A record that names a member (R416); its reads and writes are made by the issuer's home memory tile (R22). -/
def State.memberRecord (s : State) (part : Nat) (c : Collective) (m : Member) (e : Err) : State :=
  let x := s.getCe m.ce
  s.record part (s.isSuper m.launch)
    { cls := e.cls, kind := 2, ctx := ceSlot m.ce, xy := tileXy (cePage m.ce) (mtTile (homeMt m.ce % 2)),
      uref := urefWord 8 x.lpage (ceTile (ceElem m.ce)) (ceSlot m.ce) 0 c.seq.toNat, addr := e.addr, detail := e.detail }

/-- A member meets an error: its record is written and it waits for TRET. -/
def State.memberFault (s : State) (part : Nat) (c : Collective) (m : Member) (e : Err) : State :=
  (s.setCollective part (c.mapMember m.rank fun x => { x with faulted := true })).memberRecord part c m e

/-- The exchange step of a rank: its descriptor and source reach every other member. A member of another package brings
them by `remote`: its descriptor in 128 bytes, then its source. -/
def State.exchange (s : State) (part grp : Nat) (seq : BitVec 32) (rank : Nat) (remote : List Byte) : State :=
  match (s.getPart part).collective grp seq with
  | none => s
  | some c =>
    if c.data.any fun x => x.1 == rank then s
    else
      match c.members.find? fun m => m.rank == rank with
      | some m =>
        if !s.memberGoes c m then s
        else
        -- traffic for a package that cannot be reached ends in LINK_DOWN (R462)
        match (s.groupMembers part grp).find? fun w =>
            natBits w.toNat 31 16 != s.dev.pkg.toNat && !(s.linkFor (natBits w.toNat 31 16)).2 with
        | some w => s.memberFault part c m ⟨.linkDown, 0, (s.linkFor (natBits w.toNat 31 16)).1⟩
        | none =>
          match place (collSrc m.desc) with
          | none => s
          | some (ap, a) =>
            match s.readAt part ap a (collLen m.desc) m.engine with
            | (.error none, s) => s
            | (.error (some e), s) => s.memberFault part c m e
            | (.ok bs, s) =>
              s.setCollective part { (c.mapMember rank fun x => { x with exchanged := true }) with
                data := c.data ++ [(rank, m.desc, bs)] }
      | none =>
        let w := (s.groupMembers part grp).getD rank 0
        if (s.groupMembers part grp).length ≤ rank ∨ natBits w.toNat 31 16 = s.dev.pkg.toNat ∨ remote.length < 128 then s
        else
          let d := BitVec.ofNat 1024 (natOfBytes (remote.take 128))
          if remote.length ≠ 128 + collLen d then s
          else s.setCollective part { c with data := c.data ++ [(rank, d, remote.drop 128)] }

/-- COLLECTIVE_EXCHANGE_STEP. -/
def execCollectiveExchangeStep (part grp seq rank : Nat) (remote : List (BitVec 8)) (s : State) :
    Host.Outcome State Fault Refusal :=
  .next (s.exchange part grp (BitVec.ofNat 32 seq) rank remote)

/-- The elements of a list of bytes. -/
def elemsOf (t : Ty) (bs : List Byte) : List Nat :=
  (List.range (bs.length / (t.width / 8))).map fun i => natOfBytes ((bs.drop (t.width / 8 * i)).take (t.width / 8))

/-- The reduction, in ascending rank. -/
def collReduce (t : Ty) (red : Nat) (xs : List (List Byte)) : List Byte :=
  let op (a b : Nat) : Nat := match red with | 0 => addElem t a b | 1 => minMaxElem t false a b | _ => minMaxElem t true a b
  match xs with
  | [] => []
  | x :: rest => (rest.foldl (fun acc y => List.zipWith op acc (elemsOf t y)) (elemsOf t x)).flatMap fun v => bytesOfNat (t.width / 8) v

/-- What the member of rank r receives (R264); `xs` are the sources in rank order. -/
def collResult (d : Vec) (xs : List (List Byte)) (r : Nat) : List Byte :=
  let n := max 1 xs.length
  let chunk := collLen d / n
  let part (x : List Byte) : List Byte := (x.drop (chunk * r)).take chunk
  match collOp d, collTy d with
  | 0, some t => collReduce t (collRed d) xs
  | 1, some t => part (collReduce t (collRed d) xs)
  | 2, _ => xs.flatten
  | 3, _ => xs.getD (collRoot d) []
  | 4, _ => xs.flatMap part
  | _, _ => []

/-- The completion of a member is a release at fabric scope over its SRC and DST (R265, R296). -/
def State.memberRelease (s : State) (part : Nat) (d : Vec) (n : Nat) : State :=
  let put (s : State) (w : Word) (n : Nat) : State :=
    match place w with
    | some (ap, a) => s.releaseAs ⟨5, 0⟩ part ap a n
    | none => s
  put (put s (collSrc d) (collLen d)) (collDst d) n

/-- Writes the result of one member, and ends it as completed. -/
def State.memberComplete (s : State) (part : Nat) (c : Collective) (m : Member) (xs : List (List Byte)) : State :=
  if !s.memberGoes c m then s
  else
    match place (collDst m.desc) with
    | none => s
    | some (ap, a) =>
      let bs := collResult m.desc xs m.rank
      match s.writeAt part m.launch ap a bs m.engine with
      | (.error none, s) => s
      | (.error (some e), s) => s.memberFault part c m e
      | (.ok _, s) => (s.setCollective part (c.mapMember m.rank fun x => { x with status := some 0 })).memberRelease part m.desc bs.length

/-- COLLECTIVE_COMPLETE (R264): once every rank's data are there. Descriptors that disagree end every member FAULTED, with
a CONFIG record, before any DST is written. -/
def State.collComplete (s : State) (part grp : Nat) (seq : BitVec 32) : State :=
  match (s.getPart part).collective grp seq with
  | none => s
  | some c =>
    let n := (s.groupMembers part grp).length
    let got := (List.range n).filterMap fun r => (c.data.find? fun x => x.1 == r).map (·.2)
    if n = 0 ∨ got.length ≠ n then s
    else if got.any fun x => got.any fun y => !collAgree x.1 y.1 then
      c.members.foldl (fun s m =>
        let c := ((s.getPart part).collective grp seq).getD c
        if m.status.isSome then s
        else (s.setCollective part (c.mapMember m.rank fun x => { x with status := some 1 })).memberRecord part c m ⟨.config, 0, 0⟩) s
    else
      c.members.foldl (fun s m =>
        match ((s.getPart part).collective grp seq) with
        | some c => (match c.members.find? fun x => x.rank == m.rank with
          | some m => s.memberComplete part c m (got.map (·.2))
          | none => s)
        | none => s) s

/-- COLLECTIVE_COMPLETE. -/
def execCollectiveComplete (part grp seq : Nat) (s : State) : Host.Outcome State Fault Refusal :=
  .next (s.collComplete part grp (BitVec.ofNat 32 seq))

/-! ## COLLWAIT (R266) -/

/-- The member of a collective that a context's handle names. -/
def State.memberOf (s : State) (k : Nat) (h : Word) : Option Member :=
  if handleKind h ≠ 9 then none
  else ((s.getPart (s.getCe k).part).collective (natBits h.toNat 59 54) (h.extractLsb' 0 32)).bind fun c =>
    c.members.find? fun m => m.ce == k

/-- COLLWAIT. -/
def execCollwait (f : FmtT) (s : State) : Host.Outcome State Fault Refusal :=
  .next (s.engine f fun k r s =>
    let h := r.w64 .a f.sa
    if natBits h.toNat 53 32 ≠ 0 ∨ (s.memberOf k h).isNone then s.ceFault k .handle h.toNat 0
    else s.setWait k (.coll h (waitReg f.ta)))

/-- COLLWAIT_WAKE: the collective has ended for this member. -/
def execCollwaitWake (ce bind : Nat) (s : State) : Host.Outcome State Fault Refusal :=
  .next (
    let b := lget {} (s.getCe ce).binds bind
    match b.state, b.wait with
    | .sleeping, .coll h tgt =>
      (match (s.memberOf ce h).bind (·.status) with
       | some v => s.wake ce bind (some (tgt, BitVec.ofNat 64 v))
       | none => s)
    | _, _ => s)

/-! ## TRET on a member, and lost links (R265, R407) -/

/-- TRET on a faulted member: the step again, the member ended as faulted, or as killed. -/
def State.memberReturn (s : State) (part : Nat) (c : Collective) (m : Member) (mode : Nat) : State :=
  let set (g : Member → Member) : State := s.setCollective part (c.mapMember m.rank g)
  match mode with
  | 0 => set fun x => { x with faulted := false }
  | 1 => set fun x => { x with faulted := false, status := some 1 }
  | _ => (set fun x => { x with faulted := false, status := some 2 }).launchFaulted m.launch

/-- The faulted member a unit reference word names. -/
def State.faultedMember (s : State) (part k : Nat) (seq : BitVec 32) : Option (Collective × Member) :=
  (s.getPart part).collectives.findSome? fun c =>
    if c.seq = seq then (c.members.find? fun m => m.ce == k && m.faulted).map fun m => (c, m) else none

/-- A fabric link is lost: every member of a collective that reaches another package gets a LINK_DOWN record (R265). -/
def State.collLinkDown (s : State) (link : Nat) : State :=
  s.parts.foldl (fun s e =>
    e.2.collectives.foldl (fun s c =>
      let far := (s.groupMembers e.1 c.grp).any fun w => natBits w.toNat 31 16 != s.dev.pkg.toNat
      if !far then s
      else c.members.foldl (fun s m =>
        if m.status.isSome then s
        else s.memberFault e.1 (((s.getPart e.1).collective c.grp c.seq).getD c) m ⟨.linkDown, 0, link⟩) s) s) s

end Sys2Proof.Machine
end

