-- ==== Sys2Proof/Machine/Convert.lean ====
section
/-!
DEFINITION. Sys2Proof/Machine/Convert.lean: the conversions (06_isa_float.md, R154 to R161): CVT, CVTS, PACKF, UNPACKF,
CBEXP and CBQNT.
-/

namespace Sys2Proof.Machine

/-- A conversion's result: the lanes or the scalar, the flags, and CTX_SEED after it. -/
structure Conv where
  val : Vec
  flags : Flags
  seed : BitVec 32

/-- One element of a conversion: with .sr the state advances first and the element draws from the advanced state
(R61). -/
def convElem (dst src : Ty) (md : Nat) (sr sat : Bool) (sc : Int) (acc : List Nat × Flags × BitVec 32) (a : Nat) :
    List Nat × Flags × BitVec 32 :=
  let seed := if sr then seedNext acc.2.2 else acc.2.2
  let (v, fl) := convert dst src md (if sr then some seed else none) sat sc a
  (acc.1 ++ [v], acc.2.1 ||| fl, seed)

/-- A conversion (R154 to R156): scalar, or lanes chosen and placed by R155. -/
def convAll (r : Rd) (f : FmtT) (src : Ty) (part : Nat) (sr sat : Bool) (sc : Int) : Conv :=
  let md := f.md.toNat % 4
  let run := (·.foldl (convElem f.ty src md sr sat sc) ([], 0, r.c.seed))
  if f.md.toNat < 4 then
    let a := if src.isFloat then r.flt src .a f.sa else lowBits (r.int src .a f.sa) src.width
    let (vs, fl, seed) := run [a]
    let v := lget 0 vs 0
    ⟨if f.ty.isInt then (scalarOf f.ty (extT f.ty v)).toVec else BitVec.ofNat 1024 v, fl, seed⟩
  else
    let ls := if src.isFloat then r.flts src .a f.sa else r.nats src .a f.sa
    let m := min src.lanes f.ty.lanes
    let (vs, fl, seed) := run ((if f.ty.lanes < src.lanes then ls.drop (part * m) else ls).take m)
    let pad := if src.lanes < f.ty.lanes then List.replicate (part * m) 0 else []
    ⟨ofLanes f.ty.width (pad ++ vs), fl, seed⟩

/-- The state after a conversion. -/
def CeCtx.converted (c : CeCtx) (f : FmtT) (v : Conv) : CeCtx :=
  { (c.result f.ta f.tb ⟨v.val, 4 ≤ f.md.toNat, v.flags⟩) with seed := v.seed }

/-- CVT (R154). -/
def execCvt (f : FmtT) (s : State) : Host.Outcome State Fault Refusal :=
  .next (s.mapCe s.key fun c =>
    match f.sb, f.sc with
    | .imm b, .imm m =>
      let src := (Ty.ofCode b.toNat).getD .fp32
      c.converted f (convAll ⟨s.key, c⟩ f src (natBits m.toNat 3 2) (bitN m.toNat 0) (bitN m.toNat 1) 0)
    | _, _ => c)

/-- CVTS (R156): the scale is the low 32 bits of SC, read as signed; e4m3 and e5m2 saturate to finite. -/
def execCvts (f : FmtT) (s : State) : Host.Outcome State Fault Refusal :=
  .next (s.mapCe s.key fun c =>
    match f.sb with
    | .imm b =>
      let r : Rd := ⟨s.key, c⟩
      let src := (Ty.ofCode (b.toNat % 16)).getD .fp32
      let sc := sextN (r.w64 .c f.sc).toNat 32
      c.converted f (convAll r f src (b.toNat / 16) false (f.ty = .e4m3 || f.ty = .e5m2) sc)
    | _ => c)

/-- ⌊log2 |a|⌋ of a finite non-zero pattern. -/
def valueLog2 (t : Ty) (a : Nat) : Int :=
  match fDecode t a with
  | .fin _ m e => (Nat.log2 m : Int) + e
  | _ => 0

/-- One block of PACKF (R157): its codes, its scale byte, its flags. -/
def packBlock (t : Ty) (md : Nat) (as : List Nat) : List Nat × Nat × Flags :=
  let big : Int := if t = .e4m3 then 7 else 14
  if as.any fun a => match fDecode .fp32 a with | .fin _ _ _ => false | _ => true then (as.map fun _ => 0, 0xFF, flagNV)
  else
    let mags := as.map fun a => a % 2 ^ 31
    let top := mags.foldl max 0
    let sc : Nat := if top = 0 then 127 else (min 254 (max 0 (valueLog2 .fp32 top - big + 127))).toNat
    let qs := as.map fun a => convert t .fp32 md none true (127 - (sc : Int)) a
    (qs.map (·.1), sc, qs.foldl (fun acc q => acc ||| q.2) 0)

/-- The blocks of 32 lanes: one of 32, or two of 16. -/
def packBlocks (b16 : Bool) (ls : List Nat) : List (List Nat) := if b16 then [ls.take 16, ls.drop 16] else [ls]

/-- .b16 of PACKF and UNPACKF: the value of SB. -/
def isB16 (f : FmtT) : Bool := match f.sb with | .imm b => b.toNat == 1 | _ => false

/-- PACKF (R157). -/
def execPackf (f : FmtT) (s : State) : Host.Outcome State Fault Refusal :=
  .next (s.pureT f fun r =>
    let bs := (packBlocks (isB16 f) (r.flts .fp32 .a f.sa)).map (packBlock f.ty (f.md.toNat % 4))
    ⟨ofLanes 8 (bs.flatMap (·.1) ++ bs.map (·.2.1)), true, bs.foldl (fun acc b => acc ||| b.2.2) 0⟩)

/-- UNPACKF (R158). -/
def execUnpackf (f : FmtT) (s : State) : Host.Outcome State Fault Refusal :=
  .next (s.pureT f fun r =>
    let v := r.raw 8 .a f.sa
    let rs := (List.range 32).map fun i =>
      let sc := lane v 8 (if isB16 f then 32 + i / 16 else 32)
      if sc = 0xFF then (canon .fp32, (0 : Flags))
      else convert .fp32 f.ty (f.md.toNat % 4) none false ((sc : Int) - 127) (lane v 8 i)
    .flts true 32 rs)

/-! ## Codebooks (R64, R159, R160) -/

/-- Codebook entry c of a tensor record, a bf16 pattern (R396). -/
def bookEntry (rec : Vec) (c : Nat) : Nat := natBits rec.toNat (16 * c + 655) (16 * c + 640)

/-- The codebook operand of CBEXP and CBQNT: HANDLE where the handle is not live or its record is not c4 (R159). -/
def State.codebook (s : State) (part : Nat) (h : Word) : Try Vec :=
  match s.tensor part h with
  | some rec => if natBits rec.toNat 131 128 = 0xD then .ok rec else .error (some ⟨.handle, h.toNat, 0⟩)
  | none => .error (some ⟨.handle, h.toNat, 0⟩)

/-- Entry code as a pattern of t, exactly. -/
def bookAs (t : Ty) (rec : Vec) (c : Nat) : Nat := (convert t .bf16 0 none false 0 (bookEntry rec c)).1

/-- The `part` operand, read unsigned. -/
def partOperand (r : Rd) (f : FmtT) : Nat := (r.w64 .c f.sc).toNat

/-- CBEXP (R159). -/
def execCbexp (f : FmtT) (s : State) : Host.Outcome State Fault Refusal :=
  .next (s.engine f fun k r s =>
    s.check k (s.codebook r.c.part (r.w64 .b f.sb)) fun rec =>
      let n := f.ty.lanes
      let p := partOperand r f
      let code (i : Nat) : Nat := match f.sa with | .imm v => v.toNat % 16 | x => lane (r.raw 4 .a x) 4 i
      s.give2 k f true (if 256 / n ≤ p then 0
        else ofLanes f.ty.width ((List.range n).map fun i => bookAs f.ty rec (code (p * n + i)))))

/-- The exact distance of two finite fp32 values, on a common exponent. -/
def fDist (a b : FVal) : Option (Nat × Int) :=
  match a, b with
  | .fin n m e, .fin n' m' e' =>
    let x := min e e'
    let u : Int := (if n then -1 else 1) * m * (2 ^ (e - x).toNat : Nat)
    let v : Int := (if n' then -1 else 1) * m' * (2 ^ (e' - x).toNat : Nat)
    some ((u - v).natAbs, x)
  | _, _ => none

/-- m·2^e < m'·2^e'. -/
def distLt (a b : Nat × Int) : Bool :=
  let x := min a.2 b.2
  a.1 * 2 ^ (a.2 - x).toNat < b.1 * 2 ^ (b.2 - x).toNat

/-- The code of R64 for one value: least exact distance, ties to the lower code; infinities take the extreme entries; a
NaN takes code 0 with NV. NX where the entry differs from the value. -/
def nearestCode (rec : Vec) (a : FVal) : Nat × Flags :=
  let entry (c : Nat) : FVal := fDecode .bf16 (bookEntry rec c)
  match a with
  | .nan _ => (0, flagNV)
  | .inf n =>
    let key (c : Nat) : Int := let x := fKey .bf16 (bookEntry rec c); if x = fKey .bf16 0x8000 then fKey .bf16 0 else x
    let best := (List.range 16).foldl (fun b c => if (if n then key c < key b else key b < key c) then c else b) 0
    (best, flagNX)
  | .fin _ _ _ =>
    let d (c : Nat) : Nat × Int := (fDist a (entry c)).getD (0, 0)
    let best := (List.range 16).foldl (fun b c => if distLt (d c) (d b) then c else b) 0
    (best, if (d best).1 = 0 then 0 else flagNX)

/-- CBQNT (R160). -/
def execCbqnt (f : FmtT) (s : State) : Host.Outcome State Fault Refusal :=
  .next (s.engine f fun k r s =>
    s.check k (s.codebook r.c.part (r.w64 .b f.sb)) fun rec =>
      let n := f.ty.lanes
      let p := partOperand r f
      if 256 / n ≤ p then s.give2 k f true 0
      else
        let cs := (r.flts f.ty .a f.sa).map fun a => nearestCode rec (fDecode f.ty a)
        s.mapCe k fun c => c.result f.ta f.tb
          ⟨ofLanes 4 (List.replicate (p * n) 0 ++ cs.map (·.1)), true, cs.foldl (fun acc q => acc ||| q.2) 0⟩)

end Sys2Proof.Machine
end

