-- ==== Sys2Proof/Machine/Pages.lean ====
section
/-!
DEFINITION. Sys2Proof/Machine/Pages.lean: owning pages (R276, R277, R424, R453), moving them (R300, R430 to R435) and
mapping them out (R422, R434).
-/

namespace Sys2Proof.Machine

/-! ## Owning pages (R276, R277, R424) -/

/-- Inserts a number into a rising list. -/
def insertUp (n : Nat) : List Nat → List Nat
  | [] => [n]
  | m :: rest => if n = m then m :: rest else if n < m then n :: m :: rest else m :: insertUp n rest

/-- A partition is given a page: its banks power up, zeroed after 600 cycles; one that still serves what was queued when the page
was taken does so after that. -/
def State.givePage (s : State) (part page : Nat) : State :=
  let s := s.mapPart part fun p => { p with pages := insertUp page p.pages }
  let s := s.mapPage page fun g => { g with owner := some part, givenAt := some s.cycle.toNat }
  (List.range 2).foldl (fun s m => s.mapMt (page * 2 + m) fun t => { t with
    banks := t.banks.map fun b => if b.power = .gated then { b with power := .powering Config.bankPowerUpCycles, idle := 0 } else b }) s

/-- A page is taken from a partition: its banks gate and lose their contents once they have served what is queued there, and every
other store of it is to be cleared before it serves another owner (R276, R277, R392). -/
def State.takePage (s : State) (part page : Nat) : State :=
  let s := s.mapPart part fun p => { p with pages := p.pages.filter (· != page) }
  let s := s.mapPage page fun g => { g with owner := none, clearing := true, gating := true }
  ((List.range 2).foldl (fun s m => (s.mapMn (page * 2 + m) fun n => { n with clearing := true }).mapMt (page * 2 + m) fun t => { t with
    banks := t.banks.map fun b => match b.power with | .powering _ => { b with power := .gated } | _ => b }) s).settleGates page

/-- The launches with a context on a page. -/
def State.launchesOn (s : State) (page : Nat) : List Nat := ((s.getPage page).resident.filter (· != 0)).eraseDups

/-- Spare pages that may be bound: owned, bound to nothing, in no move, not mapped out (R424, R431). -/
def State.sparePages (s : State) (part : Nat) : List Nat :=
  (s.getPart part).pages.filter fun pp =>
    (s.logical part pp).isNone && !(s.getPage pp).mapout && !(s.getPart part).moves.any fun m => m.src == pp || m.dst == pp

/-! ## Moves (R430 to R435) -/

/-- The MIGRATE record of a move that ended or was refused (R435). -/
def State.migrateRecord (s : State) (part lp a : Nat) (b : Option Nat) (asker : MoveBy) : State :=
  let detail := match b with
    | some b => 1 + a % 512 * 2 + b % 512 * 2 ^ 10
    | none => a % 512 * 2
  s.record part false
    { cls := .migrate, kind := 0, ctx := 0, xy := tileXy a 0, uref := 0, addr := lp, detail := detail,
      aux := match asker with | .migr u => u.toNat | _ => 0 }

/-- Every route of a launch can be built with one physical page replaced by another (R431). -/
def State.routesHold (s : State) (id old new : Nat) : Bool :=
  let l := s.launchD id
  match s.imageOf l with
  | none => true
  | some b =>
    let p := s.planOf id l b
    (s.numbers { p with at_ := p.at_.map fun x => if x.1 = old then (new, x.2) else x } [id]).isSome

/-- A page may take the place of another for a move (R431). -/
def State.targetOk (s : State) (part src dst : Nat) : Bool :=
  (s.sparePages part).contains dst && (s.launchesOn src).all fun id => s.routesHold id src dst

/-- The Serai's choice: the target with the least TEMP, ties to the lower number; a thermal request also wants it at least
40 below the limit (R431). -/
def State.chooseTarget (s : State) (part src : Nat) (thermal : Bool) : Option Nat :=
  let limit := (s.getPage src).thermLimit
  let ok := ((s.getPart part).pages.filter fun d => s.targetOk part src d).filter fun d =>
    !thermal || (s.getPage d).therm.toNat + 40 ≤ limit
  match ok with
  | [] => none
  | d :: rest => some (rest.foldl (fun b x => if (s.getPage x).therm.toNat < (s.getPage b).therm.toNat then x else b) d)

/-- A move of a logical page is pending. -/
def State.movePending (s : State) (part lp : Nat) : Bool :=
  (s.getPart part).moves.any fun m => m.lpage == lp || m.swap == some lp

/-- Starts a move: MOV is set, and every launch with a context on its pages is stopped with SAVE (R432, steps 1 and 2). -/
def State.startMove (s : State) (part : Nat) (m : Move) : State :=
  let ids := (s.launchesOn m.src ++ (if m.swap.isSome then s.launchesOn m.dst else [])).eraseDups
  let mark (t : Tab PageEntry) (lp : Nat) : Tab PageEntry := tput t lp { (tget {} t lp) with mov := true }
  let s := s.mapPart part fun p => { p with
    map := if m.asker = .mapout then p.map else match m.swap with | some q => mark (mark p.map m.lpage) q | none => mark p.map m.lpage
    moves := p.moves ++ [{ m with launches := ids }] }
  ids.foldl (fun s id => s.startStop id .save) s

/-- Requests a move (R430): whether it is taken, which MIGR delivers. A request that cannot be met is taken and refused by
its MIGRATE record. -/
def State.requestMove (s : State) (part lp : Nat) (target : Option Nat) (asker : MoveBy) : Bool × State :=
  if s.movePending part lp then (false, s)
  else
    let e := tget {} (s.getPart part).map lp
    let src := e.ppage
    let dst := match target with
      | some d => if s.targetOk part src d then some d else none
      | none => s.chooseTarget part src (asker == .thermal)
    let busy := (s.launchesOn src).any s.stopping
    match dst with
    | some d =>
      if !e.v || (s.getPage src).mapout || busy then (true, s.migrateRecord part lp src none asker)
      else (true, s.startMove part { lpage := lp, src := src, dst := d, swap := none, step := 1, asker := asker, launches := [] })
    | none => (true, s.migrateRecord part lp src none asker)

/-- The bytes of a range move to another place. -/
def Memory.moveRange (m old : Memory) (src dst n : Nat) : Memory :=
  (old.range src n).foldl (fun m e => m.write (dst + e.1) e.2) (m.clear dst n)

/-- A scope record that names a page, or one of its tiles, names the page that takes its place; the moves of one compaction
happen at once (R300). -/
def ScopeRec.moved (r : ScopeRec) (moves : List (Nat × Nat)) : ScopeRec :=
  (moves.findSome? fun m =>
    match r.level with
    | 0 => ((List.range 16).find? fun t => tileXy m.1 t == r.who).map fun t => { r with who := tileXy m.2 t }
    | 1 => if r.who = m.1 then some { r with who := m.2 } else none
    | _ => none).getD r

/-- The scope records of a page's lines, moved. -/
def moveScopes (now old : Tab ScopeRec) (src dst : Nat) : Tab ScopeRec :=
  let n := 2 ^ 14
  (old.filter fun e => src * n ≤ e.1 && e.1 < (src + 1) * n).foldl
    (fun t e => tput t (e.1 - src * n + dst * n) e.2) (tfilter now fun l _ => l < dst * n || (dst + 1) * n ≤ l)

/-- The pattern directory and store of a memory tile are cleared. A compile that runs is discarded, and a FAULTED one holds its
place without a record; a command that runs a program goes on with the words it began with (R331, R332, R337). -/
def MemTile.clearPatterns (m : MemTile) : MemTile :=
  { m with
    dir := [], store := [], stale := []
    compiles := (m.compiles.filter (·.faulted)).map fun c => { c with dir := noRecord }
    copies := m.copies.map fun x => if x.path = 1 then { x with path := 6 } else x }

/-- Empties a page's stores, as at power-up (R276, R434). -/
def State.zeroPage (s : State) (page : Nat) : State :=
  let s := { s with
    scratch := s.scratch.clear (page * 2 ^ 21) (2 ^ 21)
    istore := s.istore.clear (page * 2 ^ 20) (2 ^ 20)
    wbuf := s.wbuf.clear (page * 2 ^ 20) (2 ^ 20)
    accs := s.accs.clear (page * 2 ^ 19) (2 ^ 19)
    lineScope := tfilter s.lineScope fun l _ => l < page * 2 ^ 14 || (page + 1) * 2 ^ 14 ≤ l }
  (List.range 2).foldl (fun s n =>
    (s.mapMt (page * 2 + n) fun m => { m.clearPatterns with lost := [], steps := [], pending := [] }).mapMn
      (page * 2 + n) fun m => { m with regions := [] }) s

/-- The registers that belong to a logical page go along with it (R382, R431). -/
def State.copyRegs (s old : State) (src dst : Nat) : State :=
  let g := old.getPage src
  s.mapPage dst fun p => { p with quantum := g.quantum, thermLimit := g.thermLimit }

/-- Copies the stores of a page, as they stood in `old`, to another (R432, step 3), with the commands of other launches that its
memory tiles hold. The pattern directory and store are cleared. -/
def State.copyStores (s old : State) (src dst : Nat) : State :=
  let s := { s with
    scratch := s.scratch.moveRange old.scratch (src * 2 ^ 21) (dst * 2 ^ 21) (2 ^ 21)
    istore := s.istore.moveRange old.istore (src * 2 ^ 20) (dst * 2 ^ 20) (2 ^ 20)
    wbuf := s.wbuf.moveRange old.wbuf (src * 2 ^ 20) (dst * 2 ^ 20) (2 ^ 20)
    lineScope := moveScopes s.lineScope old.lineScope src dst }
  let s := (List.range 2).foldl (fun s n =>
    let m := (old.getMt (src * 2 + n)).clearPatterns
    (s.mapMt (dst * 2 + n) fun t => { t.clearPatterns with
      lost := m.lost, steps := m.steps, pending := m.pending, compiles := m.compiles, copies := m.copies, copySeq := m.copySeq,
      copyLast := m.copyLast }).mapMn
      (dst * 2 + n) fun t => { t with regions := (old.getMn (src * 2 + n)).regions }) s
  s.copyRegs old src dst

/-- What a page that has been moved keeps of its memory tiles: no pattern and no command (R331, R432). -/
def State.leavePage (s : State) (page : Nat) : State :=
  (List.range 2).foldl (fun s n =>
    if (tfind s.mts (page * 2 + n)).isNone then s
    else s.mapMt (page * 2 + n) fun t => { t.clearPatterns with compiles := [], copies := [], copySeq := [] }) s

/-- The scope records of every line and sector follow the pages that move (R300). -/
def State.renameScopes (s : State) (moves : List (Nat × Nat)) : State :=
  { s with lineScope := tmap s.lineScope fun _ r => r.moved moves, sectorScope := tmap s.sectorScope fun _ r => r.moved moves }

/-- A page of a launch takes part in a move. -/
def State.onMove (s : State) (l : Launch) : Bool :=
  l.pages.any fun lp => match s.phys l.part lp with
    | some pp => (s.getPart l.part).moves.any fun m => m.src == pp || m.dst == pp
    | none => true

/-- Resumes the launches of a move that are saved, in place (R432, step 5). One whose slots are not free waits for
LAUNCH_RESUME, and so does one whose routes cannot be made (R14), or another page of which moves. -/
def State.resumeAll (s : State) (ids : List Nat) : State :=
  ids.foldl (fun s id =>
    let l := s.launchD id
    if l.state ≠ .saved ∨ (s.getPart l.part).held ∨ s.onMove l then s
    else match s.resumeSlots l [] with
      | some slots => if s.routable id { l with slots := slots } [] then s.resumeLaunch id slots else s
      | none => s) s

/-- Drops a move. -/
def State.dropMove (s : State) (part : Nat) (m : Move) : State := s.mapPart part fun p => { p with moves := p.moves.erase m }

/-- Replaces a move. -/
def State.setMove (s : State) (part : Nat) (m m' : Move) : State :=
  s.mapPart part fun p => { p with moves := p.moves.map fun x => if x = m then m' else x }

/-- Binds a logical page. -/
def State.bindPage (s : State) (part lp : Nat) (e : PageEntry) : State := s.mapPart part fun p => { p with map := tput p.map lp e }

/-- The logical page of a mapped-out page goes to a spare one: its launches are stopped with SAVE; without a spare page, every launch
that held the page retires killed (R434). -/
def State.relocate (s : State) (part lp page : Nat) : State :=
  match (s.sparePages part).head? with
  | some d => s.startMove part { lpage := lp, src := page, dst := d, swap := none, step := 1, asker := .mapout, launches := [] }
  | none =>
    let held := (s.launches.filter fun e => e.2.part == part && e.2.pages.contains lp && e.2.state != .retired && e.2.state != .queued).map (·.1)
    let s := s.mapPart part fun p => { p with
      moves := p.moves ++ [{ lpage := lp, src := page, dst := page, swap := none, step := 1, asker := .mapout, launches := held }] }
    s.cancelList held

/-- The other logical page of a swap that has ended, where the page it is bound to was mapped out meanwhile (R433, R434). -/
def State.relocateSwap (s : State) (part : Nat) : Option Nat → State
  | none => s
  | some q =>
    match s.phys part q with
    | some pp => if (s.getPage pp).mapout && !s.movePending part q then s.relocate part q pp else s
    | none => s

/-- Step 3 of a move whose stop is complete, or the end of one that cannot go on (R432 to R434). -/
def State.transfer (s : State) (part : Nat) (m : Move) : State :=
  let lostA := (s.getPage m.src).mapout
  let lostB := m.dst != m.src && (s.getPage m.dst).mapout
  if lostA then
    -- the page is rebound to a spare one, with every store written to zero, or to none
    let s := match m.swap with | some q => s.bindPage part q { (tget default (s.getPart part).map q) with mov := false } | none => s
    match (if m.dst ≠ m.src && !lostB && m.swap.isNone then some m.dst else (s.sparePages part).head?) with
    | some d =>
      let m' := { m with dst := d, swap := none, step := 2 }
      (((s.zeroPage d).copyRegs s m.src d).setMove part m m').relocateSwap part m.swap
    | none =>
      let s := (s.bindPage part m.lpage { v := false, mov := false, ppage := m.src }).dropMove part m
      let s := if m.asker = .mapout then s else s.migrateRecord part m.lpage m.src none m.asker
      let held := (s.launches.filter fun e => e.2.part == part && e.2.pages.contains m.lpage && e.2.state == .saved).map (·.1)
      let s := held.foldl (fun s id => if (s.launchD id).state = .saved then s.killAll id else s) s
      (s.relocateSwap part m.swap).resumeAll m.launches
  else if lostB then
    let s := s.bindPage part m.lpage { v := true, mov := false, ppage := m.src }
    let s := match m.swap with | some q => s.bindPage part q { (tget default (s.getPart part).map q) with mov := false } | none => s
    (((s.dropMove part m).migrateRecord part m.lpage m.src none m.asker).relocateSwap part m.swap).resumeAll m.launches
  else
    let old := s
    let s := s.copyStores old m.src m.dst
    let s := if m.swap.isSome then (s.copyStores old m.dst m.src).renameScopes [(m.src, m.dst), (m.dst, m.src)]
      else (s.leavePage m.src).renameScopes [(m.src, m.dst)]
    s.setMove part m { m with step := 2 }

/-- PAGE_MOVE_TRANSFER: the first move of a partition whose launches have all stopped. -/
def execPageMoveTransfer (part : Nat) (s : State) : Host.Outcome State Fault Refusal :=
  .next (match (s.getPart part).moves.find? fun m => m.step == 1 && !(m.launches.any s.stopping) with
    | some m => s.transfer part m
    | none => s)

/-- Steps 4 to 6: the page map switches, the launches resume, and the record is written. A page the host took leaves the
partition (R424). -/
def State.commit (s : State) (part : Nat) (m : Move) : State :=
  if m.dst ≠ m.src && (s.getPage m.dst).mapout then s.setMove part m { m with step := 1 }
  else
    let s := s.bindPage part m.lpage { v := true, mov := false, ppage := m.dst }
    let s := match m.swap with | some q => s.bindPage part q { v := true, mov := false, ppage := m.src } | none => s
    let s := ((s.dropMove part m).relocateSwap part m.swap).resumeAll m.launches
    let s := if m.asker = .mapout then s else s.migrateRecord part m.lpage m.src (some m.dst) m.asker
    if m.asker = .host then s.takePage part m.src else s

/-- PAGE_MOVE_COMMIT. -/
def execPageMoveCommit (part : Nat) (s : State) : Host.Outcome State Fault Refusal :=
  .next (match (s.getPart part).moves.find? fun m => m.step == 2 with
    | some m => s.commit part m
    | none => s)

/-! ## Mapping out (R422, R434) -/

/-- The assignment of a page in the cycle it is mapped out skips the page: it is not counted in DONE (R453, R463). -/
def State.skipGiven (s : State) (part page : Nat) : State :=
  if (s.getPage page).givenAt = some s.cycle.toNat ∧ (s.getPart part).pages.contains page then
    let s := s.takePage part page
    { s with dev := { s.dev with pgassign := tput s.dev.pgassign part (tget 0 s.dev.pgassign part - BitVec.twoPow 64 24) } }
  else s

/-- A page is mapped out: accesses to it raise GATED from now on, and its launches are stopped with SAVE and go to a spare
page; without one, every launch that held the page retires killed. -/
def State.mapoutPage (s : State) (page : Nat) : State :=
  let g := s.getPage page
  if g.mapout then s
  else
    let s := s.setPage page { g with mapout := true }
    match g.owner with
    | none => s
    | some part =>
      match s.logical part page with
      | none => s.skipGiven part page
      | some lp =>
        -- a move of the page ends as R434 when its stop is complete
        if s.movePending part lp then s else s.relocate part lp page

/-! ## Temperatures (R380, R431) -/

/-- The turns withheld for the power of the last window and for the hottest page, in parts of 256; a page above 115 °C
cancels every job (R464). -/
def State.throttle (s : State) : State :=
  let hot (t : Nat) : Bool := s.pages.any fun e => t < e.2.therm.toNat
  let s := { s with dev := { s.dev with withheld := max s.dev.overPower (if hot 840 then 128 else 0) } }
  if hot 920 then (tkeys s.parts).foldl State.cancelJob s else s

/-- Cycles between two readings of a page's sensor (R380). -/
def thermPeriod : Nat := 4096

/-- The sensor's reading is stored; above LIMIT it asks for a move, unless a refused thermal request is less than 2^20
cycles old (R380, R431). -/
def State.thermRenewal (s : State) (page : Nat) (temp : BitVec 12) : State :=
  let s := s.mapPage page fun g => { g with therm := temp, thermAt := some s.cycle.toNat }
  let g := s.getPage page
  match g.owner.bind fun part => (s.logical part page).map fun lp => (part, lp) with
  | some (part, lp) =>
    if g.thermLimit = 0 ∨ temp.toNat ≤ g.thermLimit ∨ g.thermWait ≠ 0 ∨ s.movePending part lp then s
    else
      let s := (s.requestMove part lp none .thermal).2
      if s.movePending part lp then s else s.mapPage page fun g => { g with thermWait := 2 ^ 20 }
  | none => s

/-- PAGE_THERM_RENEWAL: a reading every 4,096 cycles; one that comes earlier is no reading. -/
def execPageThermRenewal (page : Nat) (temp : BitVec 12) (s : State) : Host.Outcome State Fault Refusal :=
  .next (match (s.getPage page).thermAt with
    | some t => if s.cycle.toNat < t + thermPeriod then s else (s.thermRenewal page temp).throttle
    | none => (s.thermRenewal page temp).throttle)

end Sys2Proof.Machine
end

