-- ==== Sys2Proof/Machine/Drover.lean ====
section
/-!
DEFINITION. Sys2Proof/Machine/Drover.lean: queuing work (R175 to R179, R349, R352, R439, R440), phases (R41, R42, R436 to
R438), ageing and placement decisions (R33 to R35, R351, R352, R428, R429), and the loader's turn (R427).
-/

namespace Sys2Proof.Machine

/-! ## Queuing launches (R33, R175, R347, R349, R440) -/

/-- Entries of a level above which LAUNCH and GLAUNCH answer QFULL, and the most that ageing fills a level to (R349). -/
def queueLimit : Nat := 4096
def ageLimit : Nat := 8192

/-- What naming the images of some records answers: their bodies, a refusal, or that one is still to be loaded. -/
inductive NamedAll where
  | bodies (bs : List ImageBody)
  | refused
  | load

/-- Names the images of launch records, in order, up to the first that is refused or not loaded. -/
def State.nameAll (part : Nat) : List LaunchRec → List ImageBody → State → NamedAll × State
  | [], acc, s => (.bodies acc, s)
  | r :: rs, acc, s =>
    match s.nameImage part r.image with
    | (.body b, s) => State.nameAll part rs (acc ++ [b]) s
    | (.refused, s) => (.refused, s)
    | (.load, s) => (.load, s)

/-- KiB of the spill area that a launch of an image reserves at placement (R343, R412). -/
def imgSegments (b : ImageBody) : Nat := imgQuota b + Config.saveAreaKib * b.pages

/-- A launch of an image can never be placed: its pages exceed NL, or its quotas and save areas the spill area. -/
def Partition.noFit (p : Partition) (b : ImageBody) : Bool := p.nl < b.pages || p.regs.panSize < imgSegments b

/-- The launches that some records would add fill a level (R349). -/
def Partition.queueFull (p : Partition) (levels : List Nat) : Bool :=
  (List.range 4).any fun l => levels.contains l && queueLimit < (p.queues.getD l []).length + (levels.filter (· == l)).length

/-- A new entry of a queue. -/
def newLaunch (part graph : Nat) (r : LaunchRec) (level : Nat) (super : Bool) : Launch :=
  { part := part, image := r.image, args := r.args, tbufs := r.tbufs, level := level, blevel := level, waited := 0, state := .queued,
    graph := graph, super := super, pages := [], slots := [], counter := 0, done := 0, killed := 0, faulted := 0,
    anyFault := false, anyKill := false, outcome := none, placedAt := 0, quota := 0, ext := [], extFree := [],
    parkedOn := [], save := [] }

/-- The place among the issuers of a cycle of work that the Drover or the host queues: after every context (R352). -/
def noIssuer : Nat := 2 ^ 32

/-- Puts a new launch at the tail of a queue; the launches that issuers queue in one cycle stand in the order of their physical page,
tile and context slot (R352). -/
def State.putTail (s : State) (id : Nat) (q : List Nat) : List Nat :=
  let l := s.launchD id
  let after (x : Nat) : Bool := let y := s.launchD x; y.queuedAt == l.queuedAt && l.issuer < y.issuer
  let n := (q.reverse.takeWhile after).length
  q.take (q.length - n) ++ [id] ++ q.drop (q.length - n)

/-- Queues one launch at the tail of its level: its identifier. -/
def State.enqueue (s : State) (part graph issuer : Nat) (super : Bool) (r : LaunchRec) : Nat × State :=
  let (id, s) := s.newId
  let level := if super then 0 else r.level
  let s := s.setLaunch id { newLaunch part graph r level super with queuedAt := s.cycle.toNat, issuer := issuer }
  (id, s.mapPart part fun p => { p with queues := lmod p.queues level (s.putTail id) })

/-- What queuing work answers: the new graph instance and its launches, an error code of R175, or that an image is not
loaded yet. -/
inductive Admit where
  | taken (graph : Nat) (ids : List Nat)
  | error (code : Nat)
  | wait

/-- Queues launch records as one new graph instance, after the checks of R440 in its order: BADREC, REFUSED, NOFIT,
QFULL. -/
def State.admission (s : State) (part issuer : Nat) (recs : List (Option LaunchRec)) (phase : Option Nat) (super : Bool) : Admit × State :=
  if recs.any (·.isNone) then (.error 4, s)
  else
    let rs := recs.filterMap id
    match State.nameAll part rs [] s with
    | (.load, s) => (.wait, s)
    | (.refused, s) => (.error 2, s)
    | (.bodies bs, s) =>
      let p := s.getPart part
      if bs.any p.noFit then (.error 1, s)
      else if p.queueFull (rs.map fun r => if super then 0 else r.level) then (.error 3, s)
      else
        let (g, s) := s.newId
        let s := s.setGraph g { part := part, counter := rs.length, completed := 0, killed := 0, faulted := 0, phase := phase }
        let out : List Nat × State := rs.foldl (fun acc r => let (i, s) := acc.2.enqueue part g issuer super r; (acc.1 ++ [i], s)) ([], s)
        (.taken g out.1, out.2)

/-- The error handle of a code (R175). -/
def errorHandle (code : Nat) : Word := handle 0xF code

/-- LAUNCH (R176, R177): a release of fabric scope, it waits until every access of the task is performed (R297). -/
def execLaunch (f : FmtX) (s : State) : Host.Outcome State Fault Refusal :=
  .next (s.instrX f fun k r s =>
    let a := (r.xa f).toNat
    if !r.c.allPerformed then s
    else s.check k (s.scratchAt r.c.part a 128) fun at_ =>
      match s.banksAwake at_.1 at_.2 128 with
      | (false, s) => s
      | (true, s) =>
        if s.scratchLost at_.1 at_.2 128 then s.ceFault k .memUe a 0
        else
          match s.admission r.c.part (psetKey k) [launchRec (natOfBytes (s.scratchRead at_.1 at_.2 128))] none false with
          | (.wait, s) => s
          | (.error e, s) => s.giveX k f (errorHandle e)
          | (.taken _ ids, s) => s.giveX k f (handle 1 (ids.headD 0)))

/-- The number of launches of a template header, or none where it breaks its map (R439). -/
def templateCount (h : Nat) : Option Nat :=
  if natBits h 1023 7 = 0 ∧ 1 ≤ natBits h 6 0 ∧ natBits h 6 0 ≤ 64 then some (natBits h 6 0) else none

/-- Reads n records of 128 bytes at a device virtual address for an instruction, each checked and translated as it is
reached (R194, R440). -/
def State.readRecords (k : Nat) : Nat → Nat → List Nat → State → Try (List Nat) × State
  | 0, _, acc, s => (.ok acc, s)
  | n + 1, va, acc, s =>
    match s.devAt k va 128 false with
    | (.error e, s) => (.error e, s)
    | (.ok pa, s) =>
      if s.devLostIn pa 128 then (.error (some ⟨.memUe, va, 1⟩), s)
      else State.readRecords k n (va + 128) (acc ++ [s.devNat pa 128]) s

/-- GLAUNCH (R38, R177, R440). -/
def execGlaunch (f : FmtX) (s : State) : Host.Outcome State Fault Refusal :=
  .next (s.instrX f fun k r s =>
    let a := (r.xa f).toNat
    if !r.c.allPerformed then s
    else
      let (h, s) := State.readRecords k 1 a [] s
      s.check k h fun hs =>
        match templateCount (hs.headD 0) with
        | none => s.giveX k f (errorHandle 4)
        | some n =>
          let (rs, s) := State.readRecords k n (a + 128) [] s
          s.check k rs fun vs =>
            match s.admission r.c.part (psetKey k) (vs.map launchRec) none false with
            | (.wait, s) => s
            | (.error e, s) => s.giveX k f (errorHandle e)
            | (.taken g _, s) => s.giveX k f (handle 2 g))

/-! ## Phases (R41, R42, R436 to R438) -/

/-- The address of a phase-table entry. -/
def Job.entryAt (j : Job) (n : Nat) : Nat := j.phTab + 128 * n

/-- Fields of an entry, and of its clauses (R436). -/
def phTemplate (v n : Nat) : Nat := natBits v (64 * n + 575) (64 * n + 512)
def phClause (v n : Nat) : Nat := natBits v (64 * n + 319) (64 * n + 256)
def phLikely (v : Nat) : Nat := natBits v 47 40
def phDefault (v : Nat) : Nat := natBits v 39 32
def clValid (c : Nat) : Bool := bitN c 63
def clNext (c : Nat) : Nat := natBits c 39 32
def clMask (c : Nat) : Nat := natBits c 31 16
def clValue (c : Nat) : Nat := natBits c 15 0

/-- A bad entry of a table of n entries (R437). -/
def phaseBad (n v : Nat) : Bool :=
  let out (x : Nat) : Bool := x != 0xFF && n ≤ x
  natBits v 255 48 != 0 || natBits v 31 0 != 0 || out (phLikely v) || out (phDefault v) ||
  (List.range 4).any fun i =>
    let c := phClause v i
    clValid c && (natBits c 62 40 != 0 || clValue c &&& (0xFFFF - clMask c) != 0 || out (clNext c))

/-- The successor an entry chooses for predicates Q (R437). -/
def phaseNext (v : Nat) (q : Nat) : Nat :=
  match (List.range 4).find? fun i => let c := phClause v i; clValid c && q &&& clMask c == clValue c with
  | some i => clNext (phClause v i)
  | none => phDefault v

/-- A phase-table entry that can be read and is not bad. -/
def State.phaseEntry (s : State) (part n : Nat) : Option Nat :=
  let j := (s.getPart part).job
  match s.vaNat part (j.entryAt n) 128 with
  | some v => if phaseBad j.nPhase v then none else some v
  | none => none

/-- A bad entry: a CONFIG record that holds its address, and the job is cancelled (R437). -/
def State.badPhase (s : State) (part n : Nat) : State :=
  let s := s.record part false
    { cls := .config, kind := 6, ctx := 0, xy := 0, uref := 0, addr := (s.getPart part).job.entryAt n }
  s.cancelJob part

/-- The records of a template that the Drover reads, or none where it breaks its map (R438, R440). -/
def State.template (s : State) (part va : Nat) : List (Option LaunchRec) :=
  if va % 128 ≠ 0 then [none]
  else
    match (s.vaNat part va 128).bind templateCount with
    | none => [none]
    | some n => (List.range n).map fun i => (s.vaNat part (va + 128 * (i + 1)) 128).bind launchRec

/-- Changes the job of a partition. -/
def State.mapJob (s : State) (part : Nat) (g : Job → Job) : State := s.mapPart part fun p => { p with job := g p.job }

/-- Instantiates the templates of a started phase, in order, up to one whose images are not loaded yet. A template that
fails R440 counts as a killed graph at once; so do those of a phase that is being cancelled (R40). -/
def State.startGraphs (part ph : Nat) : Nat → State → State
  | 0, s => s
  | fuel + 1, s =>
    match (s.getPart part).job.toStart with
    | [] => s
    | t :: rest =>
      let drop (s : State) : State := s.mapJob part fun j => { j with toStart := rest }
      let ending := match tfind s.phases ph with | some p => p.ending | none => true
      if ending then State.startGraphs part ph fuel ((drop s).phaseChild ph .killed)
      else
        match s.admission part noIssuer (s.template part t.toNat) (some ph) false with
        | (.wait, s) => s
        | (.error _, s) => State.startGraphs part ph fuel ((drop s).phaseChild ph .killed)
        | (.taken _ _, s) => State.startGraphs part ph fuel (drop s)

/-- Phase n of the table starts (R438). A preload for another phase is cleared (R42). -/
def State.startPhase (s : State) (part n : Nat) : State :=
  match s.phaseEntry part n with
  | none => s.badPhase part n
  | some v =>
    let ts := ((List.range 8).map (phTemplate v)).filter (· != 0)
    let (id, s) := s.newId
    let s := s.setPhase id
      { part := part, entry := n, counter := ts.length, completed := 0, killed := 0, faulted := 0, ending := false, startAt := some s.cycle.toNat }
    let s := s.mapJob part fun j => { j with
      phase := some id, toStart := ts.map (BitVec.ofNat 64)
      preload := if j.preload = some n then j.preload else none
      preloadSlots := if j.preload = some n then j.preloadSlots else [] }
    State.startGraphs part id 9 s

/-- A phase has ended, and the job counts it by its graphs (R39, R43). -/
def Job.countPhase (j : Job) (o : Outcome) : Job :=
  { j with
    completed := j.completed + (if o = .completed then 1 else 0)
    killed := j.killed + (if o = .killed then 1 else 0)
    faulted := j.faulted + (if o = .faulted then 1 else 0)
    phase := none, toStart := [] }

/-- The current phase's entry is evaluated against the predicates as they stand (R41, R437). PSET writes that come later reach the
network in a later cycle. -/
def State.evaluate (s : State) (part : Nat) (ph : Phase) : State :=
  let s := s.mapPart part fun p => { p with evalAt := some s.cycle.toNat }
  match s.phaseEntry part ph.entry with
  | none => s.badPhase part ph.entry
  | some v =>
    let s := s.mapJob part fun j => j.countPhase (outcomeOf ph.faulted ph.killed)
    let n := phaseNext v (s.getPart part).pred.toNat
    if n = 0xFF then s.cancelJob part else s.startPhase part n

/-- The running phase of a partition's job. -/
def State.phaseNow (s : State) (part : Nat) : Option (Nat × Phase) :=
  let j := (s.getPart part).job
  if j.running && !j.ending then j.phase.bind fun id => (tfind s.phases id).map fun p => (id, p) else none

/-- Goes on with the running phase: templates whose images have been loaded are instantiated, and a phase whose counter has
reached zero is evaluated. -/
def State.phaseSettle (s : State) (part : Nat) : State :=
  match s.phaseNow part with
  | none => s
  | some (id, _) =>
    let s := State.startGraphs part id 9 s
    match s.phaseNow part with
    | none => s
    | some (_, p) =>
      if p.counter = 0 ∧ (s.getPart part).job.toStart = [] ∧ p.completed + p.killed + p.faulted ≠ 0 then s.evaluate part p else s

/-- Goes on with the phase of every partition. -/
def State.settle (s : State) : State := (tkeys s.parts).foldl State.phaseSettle s

/-- EMPTY_PHASE_EVALUATE (R438): a phase without templates, in a cycle after it started. -/
def execEmptyPhaseEvaluate (part : Nat) (s : State) : Host.Outcome State Fault Refusal :=
  .next (match s.phaseNow part with
    | some (_, p) =>
      if p.counter = 0 ∧ (s.getPart part).job.toStart = [] ∧ p.startAt ≠ some s.cycle.toNat then s.evaluate part p else s
    | none => s)

/-! ## CANCEL and PHEND (R40, R179, R182) -/

/-- The counter of a handle is not zero (R39, R179). A queued launch's is yet to be loaded. -/
def State.counterUp (s : State) (part : Nat) (h : Word) : Bool :=
  let id := handleId h
  match handleKind h with
  | 1 => let l := s.launchD id; l.state == .queued || l.counter != 0
  | 2 => (match tfind s.graphs id with | some g => g.counter != 0 | none => false)
  | 3 => (match tfind s.phases id with | some p => p.counter != 0 | none => false)
  | _ => let j := (s.getPart part).job; j.running && !j.ending

/-- Cancels the level that a handle names (R40). -/
def State.cancelHandle (s : State) (part : Nat) (h : Word) : State :=
  match handleKind h with
  | 1 => s.cancelLaunch (handleId h)
  | 2 => s.cancelGraph (handleId h)
  | 3 => s.cancelPhase (handleId h)
  | _ => s.cancelJob part

/-- CANCEL (R179). -/
def execCancel (f : FmtX) (s : State) : Host.Outcome State Fault Refusal :=
  .next (s.instrX f fun k r s =>
    let h := r.xa f
    if !s.knownHandle r.c.part h then s.ceFault k .handle h.toNat 0
    else
      let up := s.counterUp r.c.part h
      let s := s.giveX k f (BitVec.ofNat 64 (b2n up))
      if up then (s.cancelHandle r.c.part h).settle else s)

/-- PHEND (R182). -/
def execPhend (f : FmtX) (s : State) : Host.Outcome State Fault Refusal :=
  .next (s.instrX f fun k r s =>
    let s := s.mapCe k CeCtx.bump
    match s.phaseNow r.c.part with
    | some (id, _) => (s.cancelPhase id).settle
    | none => s)

/-! ## Ageing (R351) -/

/-- The entries of a level that rise move to the tail of the level above, up to its limit. -/
def State.ageLevel (s : State) (part level : Nat) : State :=
  let p := s.getPart part
  let age := p.regs.drvAge.toNat
  if age = 0 then s
  else
    let room := ageLimit - (p.queues.getD (level - 1) []).length
    let up := ((p.queues.getD level []).filter fun id => age ≤ (s.launchD id).waited).take room
    let s := s.setPart part { p with queues := lmod (lmod p.queues level fun q => q.filter fun id => !up.contains id) (level - 1) fun q => q ++ up }
    up.foldl (fun s id => s.mapLaunch id fun l => { l with level := level - 1, waited := 0 }) s

/-- LAUNCH_AGEING (R351). -/
def execLaunchAgeing (part : Nat) (s : State) : Host.Outcome State Fault Refusal :=
  .next (((s.ageLevel part 1).ageLevel part 2).ageLevel part 3)

/-! ## Placement decisions (R33 to R35, R352, R428, R429) -/

/-- A queued launch is eligible when its input buffers are FULL and its result buffers EMPTY; a saved one holds its own
(R32, R35). -/
def State.eligible (s : State) (id : Nat) : Bool :=
  let l := s.launchD id
  l.state == .saved || (l.state == .queued && (s.imageOf l).isSome &&
    (s.tbufUses l).all fun e => s.tbuf l.part e.1 == (if e.2 = .result then 0 else 2))

/-- The first eligible launch of a level that the Drover may place: one that the Serai could not place comes first (R33). -/
def State.eligibleAt (s : State) (part lv : Nat) : Option Nat :=
  let q := ((s.getPart part).queues.getD lv []).filter s.eligible
  match q.find? (s.getPart part).barred.contains with
  | some id => some id
  | none => q.head?

/-- The first eligible launch: its level and identifier. None of the level of a launch that the Serai could not place, or below, goes
before it (R33). -/
def State.firstEligible (s : State) (part : Nat) : Option (Nat × Nat) :=
  (List.range 4).findSome? fun lv => (s.eligibleAt part lv).map fun id => (lv, id)

/-- The Serai cannot place a launch; or has placed it. -/
def State.bar (s : State) (part id : Nat) : State :=
  s.mapPart part fun p => { p with barred := if p.barred.contains id then p.barred else p.barred ++ [id] }
def State.unbar (s : State) (part id : Nat) : State := s.mapPart part fun p => { p with barred := p.barred.filter (· != id) }

/-- The first launch of the current phase: what R42 preloads of it. -/
def State.preloadedLaunch (s : State) (part : Nat) : Option Nat :=
  match s.phaseNow part with
  | some (ph, p) =>
    if (s.getPart part).job.preload ≠ some p.entry then none
    else (s.launches.find? fun e => match tfind s.graphs e.2.graph with | some g => g.phase == some ph | none => false).map (·.1)
  | none => none

/-- The pages and slots that hold a launch's preload, while they are still candidates (R438). -/
def State.preloadPlace (s : State) (part id : Nat) (b : ImageBody) : Option (List Nat × List Nat) :=
  let xs := (s.getPart part).job.preloadSlots
  let cands := s.candidates part b []
  if s.preloadedLaunch part = some id ∧ xs.length = b.pages ∧ xs ≠ [] ∧
      (xs.all fun x => cands.contains x.1 && s.slotLaunch ((s.phys part x.1).getD 0) x.2 == 0) then
    some (xs.map (·.1), xs.map (·.2))
  else none

/-- The pages and slots that would take a launch, whatever its routes. A saved launch goes to its own pages (R32). -/
def State.space (s : State) (part id : Nat) (b : ImageBody) (gone : List Nat) : Option (List Nat × List Nat) :=
  let l := s.launchD id
  if l.state = .saved then
    if l.pages.any fun lp => match s.phys part lp with | some pp => s.moving part pp | none => true then none
    else (s.resumeSlots l gone).map fun sl => (l.pages, sl)
  else if (s.getPart part).regs.panFree < imgSegments b then none
  else
    match (if gone.isEmpty then s.preloadPlace part id b else none) with
    | some x => some x
    | none => (s.growth part b gone).map fun lps =>
        (lps, lps.map fun lp => (s.freeSlotOf ((s.phys part lp).getD 0) gone).getD 0)

/-- Where a launch can go, with the slots, windows and routes of the launches in `gone` counted as free: logical pages and context
slots. None where it waits as one whose pages are fragmented: it finds no pages, its routes cannot be made (R14), its quotas and
save areas exceed PAN_FREE (R347), or another launch is bound to an ingress it binds (R362). -/
def State.fit (s : State) (part id : Nat) (b : ImageBody) (gone : List Nat) : Option (List Nat × List Nat) :=
  (s.space part id b gone).filter fun x => s.routable id { s.launchD id with pages := x.1, slots := x.2 } gone

/-- The die of an ingress that a placement would bind and cannot: the die has no valid group entry or no pool page, or the image leaves
in0, or one of out0 to outL, unbound (R362). -/
def State.noIngress (s : State) (part : Nat) (b : ImageBody) (lps : List Nat) : Option Nat :=
  let dieOf (g : Nat) : Nat := pageDie ((s.phys part (lps.getD g 0)).getD 0)
  ((convoyPages b).map dieOf).find? fun d =>
    let outs := b.chans.filterMap fun c => match c.src with | .convoyOut g n => if dieOf g = d then some n else none | _ => none
    let ins := b.chans.any fun c => match c.dst with | .convoyIn g => dieOf g == d | _ => false
    match s.ownEntry part d with
    | none => true
    | some (_, size) => !ins || (s.poolPages part d).isEmpty || !((List.range (gentLevels size + 1)).all outs.contains)

/-- A launch whose ingress cannot be bound retires killed at once, with a CONFIG record that names the ingress (R362). -/
def State.refuseIngress (s : State) (part id die : Nat) : State :=
  let s := s.cvyRecord part die id .config 0 0
  if (s.launchD id).state = .saved then s.killAll id else s.retire id .killed

/-- The start whose growth reaches the most pages, ties to the lower start: its growth (R429). -/
def State.bestGrowth (s : State) (part : Nat) (b : ImageBody) : List Nat :=
  let cands := s.candidates part b []
  (cands.map fun st => s.growFrom part b.pages cands b.pages [st]).foldl
    (fun best g => if best.length < g.length then g else best) []

/-- The next swap of a compaction, if R429 finds one: a candidate outside the growth comes to a page that touches it. -/
def State.nextSwap (s : State) (part : Nat) (b : ImageBody) : Option Move :=
  let p := s.getPart part
  let cands := s.candidates part b []
  let g := s.bestGrowth part b
  let pp (lp : Nat) : Nat := (tget {} p.map lp).ppage
  let busy (page : Nat) : Bool := s.moving part page || (s.launchesOn page).any s.stopping || (s.getPage page).clearing
  match (if b.pages ≤ g.length then none else cands.find? fun lp => !g.contains lp) with
  | none => none
  | some q =>
    let fits (x : Nat) : Bool :=
      (g.any fun m => pagesTouch (pp m) x) && !(s.getPage x).mapout &&
      (match s.logical part x with | some lp => !g.contains lp && !cands.contains lp | none => true)
    match p.pages.find? fits with
    | none => none
    | some x =>
      if busy x || busy (pp q) || !((s.launchesOn (pp q)).all fun id => s.routesHold id (pp q) x) ||
          !((s.launchesOn x).all fun id => s.routesHold id x (pp q)) then none
      else some { lpage := q, src := pp q, dst := x, swap := s.logical part x, step := 1, asker := .compact, launches := [] }

/-- Launches a decision at a level may pre-empt, in the order in which they are taken (R34): the lowest level first, and
the most recently placed first within one. -/
def State.victims (s : State) (part level : Nat) : List Nat :=
  let at_ (lv : Nat) : List (Nat × Nat) :=
    (s.launches.filter fun e => e.2.part == part && e.2.level == lv && e.2.resident && !e.2.super && !s.stopping e.1).map
      fun e => (e.2.placedAt, e.1)
  let put (x : Nat × Nat) : List (Nat × Nat) → List (Nat × Nat) :=
    fun l => (l.takeWhile fun y => x.1 ≤ y.1) ++ [x] ++ (l.dropWhile fun y => x.1 ≤ y.1)
  ([3, 2, 1].filter fun lv => level < lv).flatMap fun lv => ((at_ lv).foldl (fun acc x => put x acc) []).map (·.2)

/-- The fewest victims, in order, that make room; none where all of them do not. -/
def State.makeRoom (s : State) (part id : Nat) (b : ImageBody) : List Nat → List Nat → Option (List Nat)
  | gone, [] => if !gone.isEmpty && (s.fit part id b gone).isSome then some gone else none
  | gone, v :: rest =>
    if !gone.isEmpty && (s.fit part id b gone).isSome then some gone else State.makeRoom s part id b (gone ++ [v]) rest

/-- A launch that does not fit: the Serai compacts one swap further, or the Drover pre-empts, unless either is under way (R34, R429). -/
def State.findRoom (s : State) (part level id : Nat) (b : ImageBody) : State :=
  let p := s.getPart part
  if p.moves.any fun m => m.asker == .compact then s
  else
    match (if (s.launchD id).state = .queued ∧ p.regs.drvCompact then s.nextSwap part b else none) with
    | some m => s.startMove part m
    | none =>
      if s.stops.any fun x => x.requeue && (s.launchD x.launch).part == part then s
      else
        match s.makeRoom part id b [] (s.victims part level) with
        | some vs => vs.foldl (fun s v => s.startStop v .save true (s.cycle.toNat + 1)) s
        | none => s

/-- PLACEMENT_DECISION (R33, R34, R352): the first eligible launch is placed, or waits, while the Serai compacts or the
Drover pre-empts. -/
def State.decidePlacement (s : State) (part : Nat) : State :=
  let p := s.getPart part
  if p.held then s
  else
    match s.firstEligible part with
    | none => s
    | some (level, id) =>
      let l := s.launchD id
      match s.imageOf l with
      | none => s
      | some b =>
        match s.fit part id b [] with
        | some (lps, slots) =>
          match s.noIngress part b lps, l.state with
          | some d, _ => s.refuseIngress part id d
          | none, .saved => (s.resumeLaunch id slots).unbar part id
          | none, _ => (s.placeLaunch id lps slots b).unbar part id
        | none => (s.bar part id).findRoom part level id b

/-- PLACEMENT_DECISION. -/
def execPlacementDecision (part : Nat) (s : State) : Host.Outcome State Fault Refusal := .next (s.decidePlacement part).settle

/-! ## Preloading (R42) -/

/-- PHASE_PRELOAD: the first launch of the likely successor's first template is preloaded into free slots. -/
def State.preload (s : State) (part : Nat) : State :=
  match s.phaseNow part with
  | none => s
  | some (_, ph) =>
    match s.phaseEntry part ph.entry with
    | none => s
    | some v =>
      if (s.getPart part).job.preload.isSome ∨ phLikely v = 0xFF then s
      else
        match s.phaseEntry part (phLikely v) with
        | none => s
        | some w =>
          match (((List.range 8).map (phTemplate w)).filter (· != 0)).head? with
          | none => s
          | some t =>
            match (s.template part t).headD none with
            | none => s
            | some r =>
              match (tfind (s.getPart part).images r.image).bind (·.body) with
              | none => s
              | some b =>
                match s.growth part b [] with
                | none => s
                | some lps => s.mapJob part fun j => { j with
                    preload := some (phLikely v)
                    preloadSlots := lps.map fun lp => (lp, (s.freeSlotOf ((s.phys part lp).getD 0) []).getD 0) }

/-- PHASE_PRELOAD. -/
def execPhasePreload (part : Nat) (s : State) : Host.Outcome State Fault Refusal := .next (s.preload part)

/-! ## Resuming (R32, R415) -/

/-- LAUNCH_RESUME (R415): a saved launch that is the Drover's choice, or that waits in no queue for a move or a checkpoint
to end, resumes on its own logical pages. -/
def State.tryResume (s : State) (id : Nat) : State :=
  let l := s.launchD id
  let p := s.getPart l.part
  let queued := p.queues.any fun q => q.contains id
  let moved := p.moves.any fun m => m.launches.contains id
  if l.state ≠ .saved ∨ p.held ∨ moved ∨ (queued ∧ (s.firstEligible l.part).map (·.2) ≠ some id) then s
  else
    match s.imageOf l with
    | none => s
    | some b =>
      match s.fit l.part id b [] with
      | some (lps, slots) =>
        match s.noIngress l.part b lps with
        | some d => s.refuseIngress l.part id d
        | none => (s.resumeLaunch id slots).unbar l.part id
      | none => s

/-- LAUNCH_RESUME. -/
def execLaunchResume (launch : Nat) (s : State) : Host.Outcome State Fault Refusal := .next (s.tryResume launch).settle

end Sys2Proof.Machine
end

