-- ==== Sys2Proof/Machine/Streams.lean ====
section
/-!
DEFINITION. Sys2Proof/Machine/Streams.lean: the stream ports (R209 to R212, R310 to R316): tensor walks, device-memory
queues, their faults, and TRET on a stream.
-/

namespace Sys2Proof.Machine

/-! ## Ports and faults -/

/-- The coordinates a record of a port carries (R21): a near-tier port's router at the package edge; a far-tier port's side
of the package, on the tile row of the stream's memory tile (log entry 22). -/
def portXy (port mt : Nat) : Nat :=
  if port < 64 then xyWord (port / 8 % 4 * 32 + port % 8 * 4) (if port < 32 then 0 else 63)
  else
    let y := ry (routerOf (mt / 2) (mtTile (mt % 2)))
    xyWord (if port < 72 then 0 else 127) y

/-- Bits of an element of the stream's tensor. -/
def Stream.width (x : Stream) : Nat := match recTy x.tensor with | some t => t.width | none => 8

/-- Elements of a granule of 4 KiB, and the granule of an element. -/
def Stream.perGranule (x : Stream) : Nat := max 1 (32768 / max 1 x.width)
def Stream.granuleOf (x : Stream) (e : Nat) : Nat := e / x.perGranule

/-- The granule that a record of a stream names: of a walk, that of the element that faulted, or is next. -/
def Stream.granule (x : Stream) : Nat := if x.faulted.isSome then x.faultGran else x.granuleOf x.pos

/-- An element of a granule that TRET skip discarded: it is delivered as 0, or left unwritten. -/
def Stream.dead (x : Stream) (e : Nat) : Bool := x.skipFrom ≤ e && e < x.skipTo

/-- The pieces, by granule, of the n elements of a token from one on: a token lies in two granules at most. -/
def Stream.pieces (x : Stream) (e n : Nat) : List (Nat × Nat) :=
  let m := min n (x.perGranule - e % x.perGranule)
  if m = n then [(e, n)] else [(e, m), (e + m, n - m)]

/-- Replaces a stream. -/
def State.setStream (s : State) (key : Nat) (x : Stream) : State := { s with streams := tput s.streams key x }

/-- The unit reference word of a stream: the context that opened it (R416). -/
def State.streamUref (s : State) (x : Stream) : Word :=
  urefWord 5 (s.lpageOf (s.partOf x.launch) (cePage x.ce)) (ceTile (ceElem x.ce)) (ceSlot x.ce) 0 x.str

/-- STREAM_WALK_FAULT (R210, R314): the port's record is written and the stream is FAULTED, with the granule of an element. A
stream that is being closed for its retired launch ends (R209). -/
def State.streamFault (s : State) (key : Nat) (x : Stream) (e : Err) (elem : Nat) : State :=
  let x := { x with faulted := some e.cls.code, faultAddr := e.addr, faultGran := x.granuleOf elem }
  let s := if x.closing then { s with streams := tdel s.streams key } else s.setStream key x
  s.record (s.partOf x.launch) (s.isSuper x.launch)
    { cls := e.cls, kind := 4, ctx := ceSlot x.ce, xy := portXy x.port x.mt, uref := s.streamUref x, addr := e.addr,
      detail := e.detail, aux := x.granule }

/-- A port works on a stream: its launch is on the package, it has not stopped and is not FAULTED, and the accesses it
follows have been performed. One that is being closed is worked off (R209). -/
def State.streamGoes (s : State) (key : Nat) (x : Stream) : Bool :=
  ((s.launchD x.launch).resident || x.closing) && !s.unitStopped x.launch (unitNo 5 key) && x.faulted.isNone && s.handed x.ce x.after

/-- Room in the endpoint buffer of a read stream's channel (R341). -/
def State.streamRoom (s : State) (x : Stream) : Bool := s.engineRoom x.ch != 0

/-! ## Tensor read walks (R312, R316) -/

/-- n elements of one row from a flat index on, as packed bits. -/
def State.rowBits (s : State) (part : Nat) (t : Vec) (eng : Engine) (w e n : Nat) : Try Nat × State :=
  let ap := b2n (recDev t)
  if recEnt t then
    let lens := (List.range 16).map (recLen t)
    match State.symbols part ap (recBase t) lens eng (n / 4096 + 2) s e n [] with
    | (.error x, s) => (.error x, s)
    | (.ok cs, s) => (.ok (cs.foldr (fun c acc => c % 16 + 16 * acc) 0), s)
  else
    let b := elemBit t w e
    match s.readAt part ap (recBase t + b / 8) ((b % 8 + w * n + 7) / 8) eng with
    | (.error x, s) => (.error x, s)
    | (.ok bs, s) => (.ok (natOfBytes bs / 2 ^ (b % 8) % 2 ^ (w * n)), s)

/-- Elements from a flat index to the end of its row. -/
def rowLeft (t : Vec) (e : Nat) : Nat := let d := max 1 (recDim t 0); d - e % d

/-- Elements of the token that begins with an element. -/
def Stream.tokenLen (x : Stream) (e : Nat) : Nat := min (1024 / max 1 x.width) (rowLeft x.tensor e)

/-- Reads the pieces of a token that begins at element `at_`: its bits, or an error and its element. -/
def State.readPieces (part : Nat) (x : Stream) (at_ : Nat) : List (Nat × Nat) → State → Nat → Except (Option Err × Nat) Nat × State
  | [], s, v => (.ok v, s)
  | (e, n) :: rest, s, v =>
    if x.dead e then State.readPieces part x at_ rest s v
    else
      match s.rowBits part x.tensor (portEngine x.port) x.width e n with
      | (.error err, s) => (.error (err, e), s)
      | (.ok b, s) => State.readPieces part x at_ rest s (v + b * 2 ^ (x.width * (e - at_)))

/-- Fetches the tokens from an element on that end within a granule; the first may lie in two. -/
def State.fetchTokens (part : Nat) (x : Stream) (stop : Nat) : Nat → State → Nat → List Vec → Except (Option Err × Nat) (List Vec) × State
  | 0, s, _, acc => (.ok acc, s)
  | fuel + 1, s, e, acc =>
    let n := x.tokenLen e
    if recTotal x.tensor ≤ e || stop < e + n then (.ok acc, s)
    else
      match State.readPieces part x e (x.pieces e n) s 0 with
      | (.error err, s) => (.error err, s)
      | (.ok v, s) => State.fetchTokens part x stop fuel s (e + n) (acc ++ [BitVec.ofNat 1024 v])

/-- Where the fetch that begins at a walk's next element ends: with the granule in which its first token ends (R311). -/
def Stream.fetchStop (x : Stream) : Nat :=
  min (recTotal x.tensor) ((x.granuleOf (x.pos + x.tokenLen x.pos - 1) + 1) * x.perGranule)

/-- A read walk fetches the tokens of a granule, 4 KiB ahead at most, unless it holds some; or why it does not. -/
def State.fetchAhead (s : State) (x : Stream) : Except (Option Err × Nat) Stream × State :=
  if !x.ahead.isEmpty then (.ok x, s)
  else
    match State.fetchTokens (s.partOf x.launch) x x.fetchStop (x.fetchStop + 1 - x.pos) s x.pos [] with
    | (.error err, s) => (.error err, s)
    | (.ok vs, s) => (.ok { x with ahead := vs, ready := x.fetchStop }, s)

/-- A read walk delivers its next token, or its LAST. -/
def State.readWalk (s : State) (key : Nat) (x : Stream) : State :=
  let total := recTotal x.tensor
  if total ≤ x.pos then
    let s := s.setStream key { x with ended := true }
    if x.lastm then s.publish x.ch [markTok markLast 0] else s
  else
    let give (s : State) (x : Stream) (v : Vec) : State :=
      let pos := x.pos + x.tokenLen x.pos
      (s.setStream key { x with pos := pos, ahead := x.ahead.drop 1, ended := total ≤ pos && !x.lastm }).publish x.ch [⟨1, v, 0⟩]
    if recForm x.tensor ≠ 0 then give { s with free := s.free + 1 } x (Config.freeVec s.free)
    else
      match s.fetchAhead x with
      | (.error (none, _), s) => s
      | (.error (some e, elem), s) => s.streamFault key x e elem
      | (.ok x, s) => give s x (x.ahead.headD 0)

/-! ## Tensor write walks (R313) -/

/-- Writes n elements of one row from a flat index on. -/
def State.writeRow (s : State) (x : Stream) (e n v : Nat) : Try Unit × State :=
  let part := s.partOf x.launch
  let t := x.tensor
  let w := x.width
  let ap := b2n (recDev t)
  let b := elemBit t w e
  let a := recBase t + b / 8
  let len := (b % 8 + w * n + 7) / 8
  let eng := portEngine x.port
  if b % 8 = 0 ∧ w * n % 8 = 0 then s.writeAt part x.launch ap a (bytesOfNat len v) eng
  else
    match s.readAt part ap a len eng with
    | (.error x, s) => (.error x, s)
    | (.ok bs, s) =>
      let old := natOfBytes bs
      let m := 2 ^ (w * n)
      let new := old - old / 2 ^ (b % 8) % m * 2 ^ (b % 8) + v % m * 2 ^ (b % 8)
      s.writeAt part x.launch ap a (bytesOfNat len new) eng

/-- Writes the pieces of a token that begins at element `at_`, but for those of skipped granules: done, or an error and its
element. -/
def State.writePieces (x : Stream) (at_ v : Nat) : List (Nat × Nat) → State → Except (Option Err × Nat) Unit × State
  | [], s => (.ok (), s)
  | (e, n) :: rest, s =>
    if x.dead e then State.writePieces x at_ v rest s
    else
      match s.writeRow x e n (v / 2 ^ (x.width * (e - at_)) % 2 ^ (x.width * n)) with
      | (.error err, s) => (.error (err, e), s)
      | (.ok _, s) => State.writePieces x at_ v rest s

/-- A write walk takes the token at its channel's head: its elements up to the end of the row, or nothing of a MARK, or
nothing once the walk is over. -/
def State.writeWalk (s : State) (key : Nat) (x : Stream) : State :=
  match (s.chanD x.ch).endq with
  | [] => s
  | tok :: _ =>
    let total := recTotal x.tensor
    if !tok.isData || total ≤ x.pos then s.freeTokens x.ch 1
    else
      let n := x.tokenLen x.pos
      match State.writePieces x x.pos tok.data.toNat (x.pieces x.pos n) s with
      | (.error (none, _), s) => s
      | (.error (some e, elem), s) => s.streamFault key x e elem
      | (.ok _, s) => (s.setStream key { x with pos := x.pos + n }).freeTokens x.ch 1

/-! ## Queues (R210, R211) -/

/-- A queue's header in device memory. -/
structure QHead where
  base : Nat
  cap : Nat
  head : Nat
  tail : Nat
  ok : Bool

/-- Reads the header of a stream's queue. -/
def State.qHead (s : State) (x : Stream) : Try QHead × State :=
  match s.readAt (s.partOf x.launch) 1 x.header 64 (portEngine x.port) with
  | (.error e, s) => (.error e, s)
  | (.ok bs, s) =>
    let v := natOfBytes bs
    let base := natBits v 63 0
    let cap := natBits v 95 64
    (.ok { base := base, cap := cap, head := natBits v 159 128, tail := natBits v 191 160,
           ok := natBits v 511 192 == 0 && natBits v 127 96 == 0 && 1 ≤ cap && cap ≤ 2 ^ 24 && base % 128 == 0 && base < 2 ^ 56 }, s)

/-- Entries in a queue. -/
def QHead.count (q : QHead) : Nat := (q.tail + 2 ^ 32 - q.head) % 2 ^ 32

/-- QUEUE_HEADER_CHECK (R210, R314). -/
def State.headerCheck (s : State) (key : Nat) : State :=
  match tfind s.streams key with
  | none => s
  | some x =>
    if x.checked || !s.streamGoes key x then s
    else if x.mode == .readTensor then s.setStream key { x with checked := true }
    else if x.mode == .writeTensor then
      if recEnt x.tensor || recForm x.tensor != 0 then s.streamFault key x ⟨.config, 0, 0⟩ x.pos else s.setStream key { x with checked := true }
    else
      match s.qHead x with
      | (.error none, s) => s
      | (.error (some e), s) => s.streamFault key x e x.pos
      | (.ok q, s) => if q.ok then s.setStream key { x with checked := true } else s.streamFault key x ⟨.config, 0, 0⟩ x.pos

/-- QUEUE_POP (R211): the entry at HEAD becomes a VECTOR token, and HEAD advances. -/
def State.queuePop (s : State) (key : Nat) (x : Stream) : State :=
  let part := s.partOf x.launch
  match s.qHead x with
  | (.error none, s) => s
  | (.error (some e), s) => s.streamFault key x e x.pos
  | (.ok q, s) =>
    if q.count = 0 then s
    else
      match s.readAt part 1 (q.base + 128 * (q.head % max 1 q.cap)) 128 (portEngine x.port) with
      | (.error none, s) => s
      | (.error (some e), s) => s.streamFault key x e x.pos
      | (.ok bs, s) =>
        match s.writeAt part x.launch 1 (x.header + 16) (bytesOfNat 4 (q.head + 1)) (portEngine x.port) with
        | (.error none, s) => s
        | (.error (some e), s) => s.streamFault key x e x.pos
        | (.ok _, s) =>
          (s.setStream key { x with credit := x.credit - 1 }).publish x.ch [⟨1, BitVec.ofNat 1024 (natOfBytes bs), 0⟩]

/-- The oldest held push is written at TAIL, if the queue is not full. A stream that is being closed ends with its last. -/
def State.queuePush (s : State) (key : Nat) (x : Stream) : State :=
  let part := s.partOf x.launch
  match x.held with
  | [] => s
  | (v, acc) :: rest =>
    match s.qHead x with
    | (.error none, s) => s
    | (.error (some e), s) => s.streamFault key x e x.pos
    | (.ok q, s) =>
      if q.cap ≤ q.count then s
      else
        match s.writeAt part x.launch 1 (q.base + 128 * (q.tail % max 1 q.cap)) (bytesOfNat 128 v.toNat) (portEngine x.port) with
        | (.error none, s) => s
        | (.error (some e), s) => s.streamFault key x e x.pos
        | (.ok _, s) =>
          match s.writeAt part x.launch 1 (x.header + 20) (bytesOfNat 4 (q.tail + 1)) (portEngine x.port) with
          | (.error none, s) => s
          | (.error (some e), s) => s.streamFault key x e x.pos
          | (.ok _, s) =>
            if x.closing then
              if rest.isEmpty then { s with streams := tdel s.streams key } else s.setStream key { x with held := rest }
            else (s.setStream key { x with held := rest }).performed x.ce acc

/-! ## The port (R311) -/

/-- A stream can move a token now. -/
def State.streamReady (s : State) (key : Nat) (x : Stream) : Bool :=
  s.streamGoes key x && x.checked &&
  match x.mode with
  | .readTensor => !x.ended && s.streamRoom x
  | .writeTensor => !(s.chanD x.ch).endq.isEmpty
  | .readQueue => x.credit != 0 && s.streamRoom x && (match (s.qHead x).1 with | .ok q => q.count != 0 | .error _ => true)
  | .writeQueue => !x.held.isEmpty && (match (s.qHead x).1 with | .ok q => q.count < q.cap | .error _ => true)

/-- Moves one token of a stream. -/
def State.streamMove (s : State) (key : Nat) (x : Stream) : State :=
  match x.mode with
  | .readTensor => s.readWalk key x
  | .writeTensor => s.writeWalk key x
  | .readQueue => s.queuePop key x
  | .writeQueue => s.queuePush key x

/-- STREAM_TOKEN_MOVE (R311): round-robin over the port's streams that can move one. -/
def State.portMove (s : State) (port : Nat) : State :=
  let last := tget 0 s.ports port
  let mine := s.streams.filter fun e => e.2.port == port
  let turn := (mine.filter fun e => last < e.1) ++ (mine.filter fun e => e.1 ≤ last)
  match turn.find? fun e => s.streamReady e.1 e.2 with
  | none => s
  | some (key, x) => ({ s with ports := tput s.ports port key }).streamMove key x

/-- QUEUE_HEADER_CHECK. -/
def execQueueHeaderCheck (stream : Nat) (s : State) : Host.Outcome State Fault Refusal := .next (s.headerCheck stream)

/-- STREAM_TOKEN_MOVE. -/
def execStreamTokenMove (port : Nat) (s : State) : Host.Outcome State Fault Refusal := .next (s.portMove port)

/-- HELD_PUSH_RELEASE (R211). -/
def execHeldPushRelease (stream : Nat) (s : State) : Host.Outcome State Fault Refusal :=
  .next (match tfind s.streams stream with
    | some x => if x.mode == .writeQueue && s.streamReady stream x then s.queuePush stream x else s
    | none => s)

/-! ## TRET on a stream (R314) -/

/-- Ends a stream: the pushes it holds are gone, and none of them publishes an order-out (R282). -/
def State.dropStream (s : State) (key : Nat) (x : Stream) : State :=
  x.held.foldl (fun s h => s.dropOrder x.ce h.2) { s with streams := tdel s.streams key }

/-- A stream after TRET retry or skip, and the access of a push that was discarded (R210, R211, R314). -/
def Stream.returned (x : Stream) (skip : Bool) : Stream × Option Nat :=
  let y := { x with faulted := none }
  if !skip || !x.checked then (y, none)
  else
    match x.mode with
    | .readTensor | .writeTensor =>
      let from_ := x.faultGran * x.perGranule
      ({ y with skipFrom := if x.skipTo = from_ then x.skipFrom else from_, skipTo := from_ + x.perGranule }, none)
    | .readQueue => ({ y with credit := y.credit - 1 }, none)
    | .writeQueue =>
      match x.held with
      | h :: rest => ({ y with held := rest }, some h.2)
      | [] => (y, none)

/-- TRET on a faulted stream: the granule again, the granule discarded, or the stream closed and its launch faulted. -/
def State.streamReturn (s : State) (key : Nat) (x : Stream) (mode : Nat) : State :=
  if mode = 2 then (s.dropStream key x).launchFaulted x.launch
  else
    match x.returned (mode == 1) with
    | (y, some a) => (s.setStream key y).performed x.ce a
    | (y, none) => s.setStream key y

end Sys2Proof.Machine
end

