-- ==== Sys2Proof/Machine/Fabric.lean ====
section
/-!
DEFINITION. Sys2Proof/Machine/Fabric.lean: what moves tokens and turns: block firings (R25 to R29), link grants and lost
tokens (R12, R18), credit (R340), ORDER tokens (R282), spill rings (R344 to R348), turns of a page (R44, R354), the ends of
waits (R172, R178, R180) and the WATCHDOG (R47).
-/

namespace Sys2Proof.Machine

/-- BLOCK_FIRING (R25 to R29). -/
def execBlockFiring (ce : Nat) (s : State) : Host.Outcome State Fault Refusal := .next (s.blockFiring ce)

/-! ## Link grants (R12, R18) -/

/-- The tokens that wait before hop i of a channel. -/
def Chan.before (c : Chan) (i : Nat) : List Token := if i = 0 then c.startq else (lget ⟨0, 0, []⟩ c.hops (i - 1)).toks

/-- The endpoint, or the ring of a channel with a quota, has room for a token (R344, R345). -/
def Chan.endRoom (c : Chan) : Bool := c.direct || (c.quota != 0 && c.room != 0)

/-- Tokens in the hops from hop i on: those ahead of the token that waits first before it. -/
def Chan.ahead (c : Chan) (i : Nat) : Nat := hopTokens (c.hops.drop i)

/-- A token waits before hop i that no receiver holds, and there is space downstream. -/
def Chan.canHop (c : Chan) (i : Nat) : Bool :=
  !(c.before i).isEmpty && c.stuckAt != some (c.ahead i) &&
  (if i + 1 = c.hops.length then c.endRoom else (lget ⟨0, 0, []⟩ c.hops i).toks.length < (lget ⟨0, 0, []⟩ c.hops i).cap)

/-- The channel number and context slot that a token has at the far end of hop i (R12, R16, R400). -/
def Chan.hopNum (c : Chan) (i : Nat) : Nat × Nat := lget (0, c.ctx) c.nums i

/-- The channels a link may grant: their place in its rotation, by context slot and then channel number at its far end (log entry
91), the channel, and the hop. -/
def State.linkReady (s : State) (link : Nat) : List (Nat × Nat × Nat) :=
  s.chans.filterMap fun e =>
    match e.2.hops.findIdx? fun h => h.link == link with
    | some i =>
      if e.2.canHop i && (s.launchD e.2.launch).resident then some ((e.2.hopNum i).2 * 128 + (e.2.hopNum i).1, e.1, i) else none
    | none => none

/-- Round-robin over keys: the first after the last granted. -/
def afterLast (last : Nat) (xs : List (Nat × Nat × Nat)) : Option (Nat × Nat × Nat) :=
  let up (l : List (Nat × Nat × Nat)) : Option (Nat × Nat × Nat) :=
    match l with
    | [] => none
    | x :: rest => some (rest.foldl (fun b y => if y.1 < b.1 then y else b) x)
  match up (xs.filter fun x => last < x.1) with
  | some x => some x
  | none => up xs

/-- The router a token reaches over a link, by its port (N, E, S, W, LOCAL). -/
def linkTo (link : Nat) : Nat := if link % 5 = 4 then link / 5 else (neighbour (link / 5) (link % 5)).getD (link / 5)

/-! ### Spill area (R342 to R344) -/

/-- The virtual address of an entry of a ring. -/
def State.entryVa (s : State) (part e : Nat) : Nat := (s.getPart part).spillArea.1 + 1024 * (e / 4) + 256 * (e % 4)

/-- The bytes of an entry (R343). -/
def entryBytes (t : Token) : List Byte :=
  bytesOfNat 128 t.data.toNat ++ bytesOfNat 8 (if t.kind = 5 then t.rhdr.toNat else 0) ++ [BitVec.ofNat 8 (t.kind % 8)] ++
  List.replicate 119 0

/-- The Pannier's turn at the n last sectors of an entry: where each lies, or none for one that the area does not map or, of a
write, whose channel answers no more. A read of such a sector is MEM_UE (log entry 105). -/
def State.entryTurn (part va : Nat) (writes : Bool) : Nat → State → List (Option Nat) → Try (List (Option Nat)) × State
  | 0, s, acc => (.ok acc, s)
  | n + 1, s, acc =>
    match s.translate part (va + 64 * (3 - n)) with
    | .error _ => State.entryTurn part va writes n s (acc ++ [none])
    | .ok (pa, _) =>
      match s.sectorAt part pa (va + 64 * (3 - n)) writes with
      | (.ok _, s) => State.entryTurn part va writes n s (acc ++ [some pa])
      | (.error e, s) => if writes && e.isSome then State.entryTurn part va writes n s (acc ++ [none]) else (.error e, s)

/-- Writes an entry to its sectors. -/
def State.writeEntry (s : State) (at_ : List (Option Nat)) (bs : List Byte) : State :=
  (List.zip at_ (List.range 4)).foldl (fun s e =>
    match e.1 with
    | some pa => s.devWriteSector pa ((bs.drop (64 * e.2)).take 64)
    | none => s) s

/-- A token of a channel reaches its consumer's local port: one that is diverted is written at its ring's tail, or waits for the
Pannier's turn (R344). -/
def State.deliverEnd (s : State) (ch : Nat) (c : Chan) (t : Token) : State :=
  if c.direct then (s.setChan ch c).arrive ch t
  else
    match State.entryTurn c.part (s.entryVa c.part c.freeEntry) true 4 s [] with
    | (.error _, s) => s
    | (.ok ps, s) => ((s.setChan ch c).writeEntry ps (entryBytes t)).arrive ch t

/-! ### Hops -/

/-- Moves the head token over hop i (R15: a token rests in one buffer). -/
def State.hopToken (s : State) (ch i : Nat) : State :=
  let c := s.chanD ch
  match c.before i with
  | [] => s
  | t :: rest =>
    let c := if i = 0 then { c with startq := rest } else { c with hops := lmod c.hops (i - 1) fun h => { h with toks := rest } }
    if i + 1 = c.hops.length then s.deliverEnd ch { c with stuckAt := c.stuckAt.map (· - 1) } t
    else s.setChan ch { c with hops := lmod c.hops i fun h => { h with toks := h.toks ++ [t] } }

/-- The envelope of a token on a link (R16). -/
def Token.envelope (t : Token) (number ctx : Nat) : BitVec 96 :=
  let low : BitVec 24 := (0 : BitVec 13) ++ BitVec.ofNat 3 t.kind ++ BitVec.ofNat 4 number ++ (0 : BitVec 2) ++ BitVec.ofNat 2 ctx
  t.rhdr ++ Config.echk (t.rhdr ++ low) ++ low

/-- An envelope that is handled as an uncorrectable error whatever its check bits say (R16, R18). -/
def badEnvelope (e : BitVec 96) : Bool := e.extractLsb' 12 12 != 0 || e.extractLsb' 2 2 != 0 || e.extractLsb' 8 3 == 7

/-- The receiver of a link finds an uncorrectable token of a launch: MEM_UE names the router. A second one on the link within
2^20 cycles is a lasting error, which maps out the pages at both ends (R18, R422). -/
def State.tokenRecord (s : State) (link part launch ctx : Nat) : State :=
  let r := linkTo link
  let s := s.record part (s.isSuper launch)
    { cls := .memUe, kind := 3, ctx := ctx, xy := xyWord (rx r) (ry r), uref := 0, detail := 3 }
  let l := tget {} s.links link
  let again : Bool := match l.lostAt with | some t => s.cycle.toNat - t ≤ 2 ^ 20 | none => false
  let s := { s with links := tput s.links link { l with lostAt := some s.cycle.toNat } }
  if again then (s.mapoutPage (routerPage (link / 5))).mapoutPage (routerPage r) else s

/-- A receiver finds an uncorrectable token of a channel (R18): it is held and never delivered, and its context stops. -/
def State.loseToken (s : State) (link ch i : Nat) : State :=
  let c := s.chanD ch
  (s.setChan ch { c with stuckAt := some (match c.stuckAt with | some n => min n (c.ahead i) | none => c.ahead i) }).tokenRecord
    link c.part c.launch c.ctx

/-- Takes the request of an access out of the queue of its bank, controller or gather engine; none where it stands in none. -/
def State.takeRequest (s : State) (k acc : Nat) : Option State :=
  let mine (o : Owner) : Bool := o == .ce k acc
  let bank (mt : Nat) : Option State :=
    let m := s.getMt mt
    if m.input.any (fun r => mine r.owner) || m.banks.any (fun b => b.queue.any fun r => mine r.owner) then
      some (s.setMt mt { m with
        input := m.input.filter fun r => !mine r.owner
        banks := m.banks.map fun b => { b with queue := b.queue.filter fun r => !mine r.owner } })
    else none
  ((s.getCe k).pend.find? fun a => a.id == acc && a.sent).bind fun a =>
    match a.kind with
    | .bank mt _ | .range mt _ _ _ _ => bank mt
    | .dev ch _ =>
      let c := tget {} s.devChans ch
      if c.queue.any fun r => mine r.owner then
        some { s with devChans := tput s.devChans ch { c with queue := c.queue.filter fun r => !mine r.owner } }
      else none
    | .gather mt _ =>
      let m := s.getMt mt
      let waits (r : GatherReq) : Bool := r.ce == k && r.acc == acc
      if m.gatherIn.any waits then some (s.setMt mt { m with gatherIn := m.gatherIn.filter fun r => !waits r }) else none
    | _ => none

/-- An error of the system token that carries a context's request (R18): a corrected one is counted; an uncorrectable one is held,
the access is never performed, and the context that issued it stops. -/
def State.systemError (s : State) (k acc link : Nat) (lost : Bool) : State :=
  match s.takeRequest k acc with
  | none => s
  | some t =>
    let c := s.getCe k
    if !lost then s.countPart c.part 0x302 1
    else (t.mapCe k fun c => { c with heldAccs := c.heldAccs ++ [acc] }).tokenRecord link c.part c.launch (ceSlot k)

/-- LINK_GRANT (R12): one ready channel, in rotation, moves one token. -/
def State.grant (s : State) (link : Nat) (err : TokenErr) : State :=
  let l := tget {} s.links link
  match afterLast l.last (s.linkReady link) with
  | none => s
  | some (key, ch, i) =>
    let s := { s with links := tput s.links link { l with last := key } }
    let c := s.chanD ch
    let env := (lget default (c.before i) 0).envelope (c.hopNum i).1 (c.hopNum i).2
    match (if badEnvelope env then TokenErr.lost else err) with
    | .good => s.hopToken ch i
    | .corrected => (s.hopToken ch i).countPart (s.chanD ch).part 0x302 1
    | .lost => s.loseToken link ch i

/-- LINK_GRANT. -/
def execLinkGrant (link : Nat) (err : TokenErr) (s : State) : Host.Outcome State Fault Refusal := .next (s.grant link err)

/-! ## Credit and ORDER tokens (R282, R340) -/

/-- A channel's capacity with its ring (R15, R340). -/
def Chan.capacity (c : Chan) : Nat := c.depth + hopRoom c.hops + 4 * c.segs

/-- n credits come back to a producer that has credit; those it owes are paid first (R15, R340, R341, R345). -/
def Chan.addCredit (c : Chan) (n : Nat) : Chan :=
  if !c.credited then c
  else { c with debt := c.debt - n, credit := min c.capacity (c.credit + (n - c.debt)) }

/-- n credits are taken back from a producer that has credit; it owes those it has spent (R345). -/
def Chan.dropCredit (c : Chan) (n : Nat) : Chan :=
  if !c.credited then c else { c with credit := c.credit - n, debt := c.debt + (n - c.credit) }

/-- CREDIT_RETURN (R340): one freed token's credit reaches the producer. -/
def execCreditReturn (ch : Nat) (s : State) : Host.Outcome State Fault Refusal :=
  .next (s.mapChan ch fun c => if c.freed = 0 then c else ({ c with freed := c.freed - 1 } : Chan).addCredit 1)

/-- ORDER_PUBLISH (R282): the oldest reserved slot of an output, once its access has been performed. -/
def State.publishOrder (s : State) (k j : Nat) : State :=
  let c := s.getCe k
  let o := lget {} c.outs j
  match o.orders with
  | ⟨_, true⟩ :: rest =>
    let depth := match o.ch with | some ch => max 1 (s.chanD ch).depth | none => 1
    let s := s.setCe k { c with outs := lmod c.outs j fun o => { o with orders := rest, ptr := (o.ptr + 1) % depth } }
    (match o.ch with | some ch => s.publish ch [⟨2, 0, 0⟩] | none => s)
  | _ => s

/-- ORDER_PUBLISH. -/
def execOrderPublish (ce out : Nat) (s : State) : Host.Outcome State Fault Refusal := .next (s.publishOrder ce out)

/-! ## Spill rings (R343 to R348) -/

/-- The index of a channel's consumer page among its launch's pages. -/
def State.consumerIndex (s : State) (ch : Nat) : Nat :=
  let l := s.launchD (s.chanD ch).launch
  match (s.places l).find? fun p => (p.2.1, p.2.2) == s.consumer ch with
  | some p => p.1
  | none => 0

/-- Free segments of the consumer context's extension (R343). -/
def State.extFree (s : State) (ch : Nat) : Nat := tget 0 (s.launchD (s.chanD ch).launch).extFree (s.consumerIndex ch)

/-- Changes the free segments of the consumer context's extension. -/
def State.mapExtFree (s : State) (ch : Nat) (f : Nat → Nat) : State :=
  let i := s.consumerIndex ch
  s.mapLaunch (s.chanD ch).launch fun l => { l with extFree := tput l.extFree i (f (tget 0 l.extFree i)) }

/-- The unit reference word of a channel's Pannier ring (R346, R416). -/
def State.ringUref (s : State) (ch : Nat) : Word :=
  let c := s.chanD ch
  let (pg, x) := s.consumer ch
  urefWord 9 (s.lpageOf c.part pg) 0 x 0 c.num

/-- A segment of the extension whose last token has left returns to it, and its four credits with it (R345). -/
def State.returnSegment (s : State) (ch seg : Nat) : State :=
  let c := s.chanD ch
  if (c.held.drop c.quota).contains seg && !(c.entries.any fun e => e / 4 == seg) then
    (s.setChan ch (({ c with segs := c.segs - 1, held := c.held.erase seg } : Chan).dropCredit 4)).mapExtFree ch (· + 1)
  else s

/-- The Pannier has read n tokens from a ring's head into its empty refill buffer (R344). -/
def Chan.readRing (c : Chan) (n : Nat) : Chan := { c with refill := c.refill ++ c.ring.take n, ring := c.ring.drop n }

/-- The entries of the tokens that a refill reads: up to four from the ring's head (R344). -/
def Chan.heads (c : Chan) : List Nat := (List.range (min 4 c.ring.length)).map fun i => lget 0 c.entries i

/-- Reads entries in order until one is not to be had: how many, and why it ends. -/
def State.readEntries (part : Nat) : List Nat → State → Nat → Nat × Try Unit × State
  | [], s, n => (n, .ok (), s)
  | e :: es, s, n =>
    match State.entryTurn part (s.entryVa part e) false 4 s [] with
    | (.ok _, s) => State.readEntries part es s (n + 1)
    | (.error x, s) => (n, .error x, s)

/-- A refill read meets a lasting error: the consumer's context stops, and MEM_UE names the Pannier's memory tile (R348). -/
def State.ringLost (s : State) (ch : Nat) : State :=
  let c := s.chanD ch
  let (pg, x) := s.consumer ch
  (s.setChan ch { c with lost := 1 }).record c.part (s.isSuper c.launch)
    { cls := .memUe, kind := 2, ctx := x, xy := tileXy pg (mtTile 0), uref := s.ringUref ch, detail := 1 }

/-- The oldest buffered token of a ring enters a free slot of the endpoint, and its entry is free (R344). -/
def State.moveRefill (s : State) (ch : Nat) : State :=
  let c := s.chanD ch
  match c.refill with
  | [] => s
  | t :: rest =>
    if c.depth ≤ c.endq.length then s
    else
      let (pg, x) := s.consumer ch
      let c' := { c with refill := rest, entries := c.entries.drop 1, endq := c.endq ++ [t], arrived := c.arrived ++ [s.cycle.toNat] }
      (((s.setChan ch c').countPage pg x 0x121 1).returnSegment ch (c.entries.headD 0 / 4)).triggerDst ch

/-- PANNIER_REFILL (R344): the refill buffer, when it is empty, is read from the ring's head; the oldest buffered token enters a free
slot of the endpoint. -/
def State.refill (s : State) (ch : Nat) (err : Bool) : State :=
  let c := s.chanD ch
  if c.lost = 1 ∨ !(s.launchD c.launch).resident ∨ s.unitStopped c.launch (unitNo 6 ch) ∨ (c.ring.isEmpty && c.refill.isEmpty) then s
  else if !c.refill.isEmpty then s.moveRefill ch
  else if err then s.ringLost ch
  else
    match State.readEntries c.part c.heads s 0 with
    | (0, .error none, s) => s
    | (0, .error (some _), s) => s.ringLost ch
    | (n, _, s) => (s.mapChan ch fun c => c.readRing n).moveRefill ch

/-- PANNIER_REFILL. -/
def execPannierRefill (ch : Nat) (err : Bool) (s : State) : Host.Outcome State Fault Refusal := .next (s.refill ch err)

/-- RING_ENLARGE (R345): a full ring takes a segment from the extension, and four tokens of room are credited. -/
def State.enlarge (s : State) (ch : Nat) : State :=
  match tfind s.chans ch with
  | none => s
  | some c =>
    if c.quota = 0 ∨ c.room ≠ 0 ∨ s.extFree ch = 0 then s
    else
      let (pg, x) := s.consumer ch
      let c := ({ c with segs := c.segs + 1, held := c.held ++ s.freeSegments c.part 1 } : Chan).addCredit 4
      ((s.setChan ch c).mapExtFree ch (· - 1)).countPage pg x 0x122 1

/-- RING_ENLARGE. -/
def execRingEnlarge (ch : Nat) (s : State) : Host.Outcome State Fault Refusal := .next (s.enlarge ch)

/-- TRET on a Pannier ring whose read failed: the read again, the head discarded, or the unit killed (R348). -/
def State.ringReturn (s : State) (ch mode : Nat) : State :=
  match mode with
  | 0 => s.mapChan ch fun c => { c with lost := 0 }
  | 1 =>
    (s.mapChan ch fun c => { c with
      lost := 0, ring := c.ring.drop 1, entries := c.entries.drop 1, freed := c.freed + min 1 c.ring.length }).returnSegment ch
      ((s.chanD ch).entries.headD 0 / 4)
  | _ =>
    let c := s.chanD ch
    let s := s.mapChan ch fun c => { c with lost := 0, ring := [], entries := [], freed := c.freed + c.ring.length }
    ((c.held.drop c.quota).foldl (fun s g => s.returnSegment ch g) s).launchFaulted c.launch

/-! ## Blocked producers (R46, R284, R346) -/

/-- The compute-element context that QUOTA_HIT and the record of a blocked producer go to (R284, R346). -/
def State.producerKey (s : State) (ch : Nat) : Nat :=
  let c := s.chanD ch
  match c.src with
  | .ceOut k _ => k
  | .op k _ => ceKey (opPage k) ((tileCe (opTile k)).getD 0) (opCtx k)
  | .mnOut mn x => ceKey (mn / 2) 0 x
  | .mtOut mt x _ => ceKey (mt / 2) 0 x
  | .convoyOut pd _ =>
    let page := routerPage ((lget ⟨0, 0, []⟩ c.hops 0).link / 5)
    match (s.places (s.launchD (s.getIngress pd).binder)).find? fun p => p.2.1 == page with
    | some p => ceKey page 0 p.2.2
    | none => ceKey page 0 c.ctx
  | _ => let (pg, x) := s.consumer ch; ceKey pg 0 x

/-- The binding of a compute element that would fire but for the credit of an output (R27). -/
def State.wantsOut (s : State) (k n : Nat) : Option Nat :=
  let c := s.getCe k
  let o := lget {} c.outs n
  (List.range 4).find? fun i =>
    let b := lget {} c.binds i
    b.bound && b.state == .runnable && !c.fir.active &&
    match s.blockOf k b.pc, o.ch with
    | .ok d, some ch =>
      (s.chanD ch).credit - o.orders.length < hdrFree d.header n &&
      (List.range 8).all fun j => hdrWait d.header j ≤ (s.filled (c.inCh j)).length
    | _, _ => false

/-- Every buffer of a channel is full (R284: the edge is at capacity). -/
def Chan.full (c : Chan) : Bool := !c.endRoom && (c.hops.all fun h => h.cap ≤ h.toks.length)

/-- An operator whose rule has the tokens it needs would give on a channel (R284). -/
def State.opWants (s : State) (o : OpSlot) (ch : Nat) : Bool :=
  match o.instr, o.instr.bind fmtCOf with
  | some i, some f =>
    o.faulted.isNone && (s.opConfig o f).isNone && (s.opMark o i f).isNone &&
    match opRule i o (s.opHeads o f) with
    | .fire _ g0 g1 _ _ =>
      (g0.isSome && f.out0.dir != .none && o.out0.contains ch) || (g1.isSome && f.out1.dir != .none && o.out1 == some ch)
    | _ => false
  | _, _ => false

/-- A producer would give on a channel and cannot. -/
def State.wantsGive (s : State) (ch : Nat) : Bool :=
  let c := s.chanD ch
  match c.src with
  | .ceOut k n => (s.wantsOut k n).isSome
  | .op k _ => c.full && !c.startq.isEmpty && s.opWants (s.getOp k) ch
  | .mnOut mn x =>
    let m := s.getMn mn
    !s.doneRoom (m.ctx x) && m.frags.any fun f => f.ctx == x && !f.started
  | .mtOut _ _ _ => s.streams.any fun e => e.2.ch == ch && !s.streamRoom e.2 && !e.2.ended && s.streamGoes e.1 e.2
  | .convoyOut pd n => (match (s.getIngress pd).give with | ts :: _ => n < ts.length && !s.cvyRoom (some ch) | [] => false)
  | _ => c.full && !c.startq.isEmpty

/-- A producer is blocked on a spill-backed channel whose quota is spent (R346). -/
def State.blockedOn (s : State) (ch : Nat) : Bool :=
  let c := s.chanD ch
  c.spill && (s.launchD c.launch).resident && (c.quota == 0 || (c.room == 0 && s.extFree ch == 0)) && s.wantsGive ch

/-- KIND, XY and SLOT of a channel's producer (R346). -/
def State.producerOf (s : State) (ch : Nat) : Nat × Nat × Nat :=
  match (s.chanD ch).src with
  | .ceOut k n => (0, ceXy k, (s.wantsOut k n).getD 0)
  | .op k _ => (3, tileXy (opPage k) (opTile k), k % 8)
  | .mnOut mn _ => (1, tileXy (mn / 2) (mnTile (mn % 2)), 0)
  | .mtOut mt _ _ => (2, tileXy (mt / 2) (mtTile (mt % 2)), 0)
  | .convoyOut pd _ => let r := engineRouter (pd % 8); (5, xyWord (rx r) (ry r), 0)
  | _ => let (pg, _) := s.consumer ch; (6, xyWord 0 (ry (routerOf pg 0)), 0)

/-- QUOTA_RECORD (R346): after 2^16 consecutive blocked cycles, once for each blocking. -/
def State.quotaRecord (s : State) (ch : Nat) : State :=
  match tfind s.chans ch with
  | none => s
  | some c =>
    if c.blocked < Config.quotaRecordCycles ∨ c.recorded then s
    else
      let (kind, xy, slot) := s.producerOf ch
      let pk := s.producerKey ch
      let (pg, x) := s.consumer ch
      let s := s.setChan ch { c with recorded := true }
      (s.record c.part (s.isSuper c.launch)
        { cls := .quota, kind := kind, ctx := ceSlot pk, xy := xy, slot := slot, uref := s.ringUref ch,
          addr := (s.getCe (ceKey pg 0 x)).quota, detail := c.num }).countPage (cePage pk) (ceSlot pk) 0x124 1

/-- QUOTA_RECORD. -/
def execQuotaRecord (ch : Nat) (s : State) : Host.Outcome State Fault Refusal := .next (s.quotaRecord ch)

/-! ## Turns (R44, R354) -/

/-- A slot holds a resident, unparked context. -/
def State.slotLive (s : State) (page c : Nat) : Bool := (s.launchD (s.slotLaunch page c)).state == .resident

/-- The operators of a page's slot. -/
def State.slotOps (s : State) (page c : Nat) : List OpSlot :=
  (s.ops.filter fun e => opPage e.1 == page && opCtx e.1 == c).map fun e => e.2

/-- Something of a slot is fireable on its page, a block that runs or is held at an engine command included (R44). -/
def State.slotFireable (s : State) (page c : Nat) : Bool :=
  s.slotLive page c && !s.stopping (s.slotLaunch page c) &&
  ((pageCes page c).any (fun k => s.ceFireable k || ((s.getCe k).fir.active && (lget {} (s.getCe k).binds (s.getCe k).fir.bind).state == .firing)) ||
   (s.slotOps page c).any fun o => s.opReady o true)

/-- A block of a slot is running. -/
def State.slotRuns (s : State) (page c : Nat) : Bool :=
  (pageCes page c).any fun k =>
    let x := s.getCe k
    x.fir.active && (lget {} x.binds x.fir.bind).state == .firing

/-- The turn of a page is over (R354). -/
def State.turnOver (s : State) (page : Nat) : Bool :=
  let g := s.getPage page
  !g.drain && (g.turn ≤ g.used || Config.turnIdleCycles ≤ g.idle || g.yielded || !s.slotLive page g.active)

/-- The slots after the active one, in turn order. -/
def Page.others (g : Page) : List Nat := (List.range 3).map fun i => (g.active + 1 + i) % 4

/-- TURN_END (R354): the next slot is chosen. -/
def State.turnEnd (s : State) (page : Nat) : State :=
  if !s.turnOver page then s
  else
    let g := s.getPage page
    let to_ (c : Nat) : State :=
      s.setPage page { g with active := c, drain := true, drainFrom := g.active, used := 0, idle := 0, yielded := false }
    match g.others.find? fun c => s.slotFireable page c with
    | some c => to_ c
    | none =>
      if s.slotLive page g.active then s.setPage page { g with turn := g.quantum, used := 0, idle := 0, yielded := false }
      else
        match g.others.find? fun c => s.slotLive page c with
        | some c => to_ c
        | none => s

/-- TURN_END. -/
def execTurnEnd (page : Nat) (s : State) : Host.Outcome State Fault Refusal := .next (s.turnEnd page)

/-- DRAIN_END (R354): the last running block of the old context has ended. -/
def execDrainEnd (page : Nat) (s : State) : Host.Outcome State Fault Refusal :=
  .next (
    let g := s.getPage page
    if g.drain && !s.slotRuns page g.drainFrom then s.setPage page { g with drain := false, turn := g.quantum, used := 0, idle := 0 } else s)

/-! ## The ends of waits (R172, R173, R178, R180) -/

/-- The wait of a sleeping binding. -/
def State.waitOf (s : State) (k bind : Nat) : Wait :=
  let b := lget {} (s.getCe k).binds bind
  if b.bound && b.state == .sleeping then b.wait else .none

/-- SLEEP_WAKE: the count has run out. -/
def execSleepWake (ce bind : Nat) (s : State) : Host.Outcome State Fault Refusal :=
  .next (match s.waitOf ce bind with
    | .cycles 0 => s.wake ce bind none
    | _ => s)

/-- The copy a wait names is over: complete, killed, or none of this context (R172). -/
def State.copyOver (s : State) (k : Nat) (p : Word) : Bool :=
  match s.findCopy k p with
  | some (_, x) => x.state == .complete || x.state == .killed
  | none => true

/-- COPY_WAIT_WAKE. -/
def execCopyWaitWake (ce bind : Nat) (s : State) : Host.Outcome State Fault Refusal :=
  .next (match s.waitOf ce bind with
    | .copy p _ _ => if s.copyOver ce p then s.wake ce bind none else s
    | _ => s)

/-- PROMISE_TIMEOUT (R172): the record is written and the binding is FAULTED; TRET retry waits for the copy to complete,
with no limit (R187). -/
def execPromiseTimeout (ce bind : Nat) (s : State) : Host.Outcome State Fault Refusal :=
  .next (match s.waitOf ce bind with
    | .copy p 0 t =>
      if t = 0 ∨ s.copyOver ce p then s
      else
        let s := s.mapCe ce fun c => { c with binds := lmod c.binds bind fun b =>
          { b with state := .faulted, retry := true, wait := .copy p 0 0 } }
        s.ceRecord ce bind .promiseMiss 0 t 0 false p.toNat
    | _ => s)

/-- JOIN_WAKE (R178). -/
def execJoinWake (ce bind : Nat) (s : State) : Host.Outcome State Fault Refusal :=
  .next (match s.waitOf ce bind with
    | .join h tgt => (match s.joinStatus h with | some v => s.wake ce bind (some (tgt, v)) | none => s)
    | _ => s)

/-- TBWAIT_WAKE (R180): the buffer stands, or has stood since the block's end, in the named state. -/
def execTbwaitWake (ce bind : Nat) (s : State) : Host.Outcome State Fault Refusal :=
  .next (match s.waitOf ce bind with
    | .tbuf n want tgt seen =>
      if seen || s.tbuf (s.getCe ce).part n == want then s.wake ce bind (some (tgt, BitVec.ofNat 64 want)) else s
    | _ => s)

/-! ## WATCHDOG (R47, R418) -/

/-- Of some inputs, the one whose head token arrived first, ties to the lower number. -/
def State.oldestInput (s : State) (ins : List (Nat × Nat)) : Option (Nat × Nat) :=
  let hs := ins.filterMap fun e => ((s.chanD e.2).arrived.head?).map fun t => (t, e.1)
  match hs with
  | [] => none
  | x :: rest => some (rest.foldl (fun b y => if y.1 < b.1 then y else b) x)

/-- The bound inputs of a compute-element context, and of an operator. -/
def CeCtx.inputs (c : CeCtx) : List (Nat × Nat) := (List.range 8).filterMap fun i => (c.inCh i).map fun ch => (i, ch)
def OpSlot.inputs (o : OpSlot) : List (Nat × Nat) :=
  match o.instr.bind fmtCOf with
  | some f => (List.range 3).filterMap fun i => (o.inCh f i).map fun ch => (i, ch)
  | none => []

/-- WATCHDOG on a compute element: it has held waiting tokens and fired nothing for 2^24 cycles. -/
def State.watchCe (s : State) (k : Nat) : State :=
  let c := s.getCe k
  if c.watched ∨ c.waited < Config.watchdogCycles then s
  else
    match s.oldestInput c.inputs with
    | none => s
    | some (_, i) =>
      (s.setCe k { c with watched := true }).record c.part (s.isSuper c.launch)
        { cls := .watchdog, kind := 0, ctx := ceSlot k, xy := ceXy k, uref := State.ceUref k 0 c, detail := i,
          waiting := s.waitingWord c }

/-- WATCHDOG on a router's context: the operator with the token that came first is named. -/
def State.watchRouter (s : State) (rc : Nat) : State :=
  let mine := s.ops.filter fun e => e.1 / 8 == rc
  if mine.isEmpty || (mine.any fun e => e.2.watched || e.2.waited < Config.watchdogCycles) then s
  else
    let old := mine.filterMap fun e => (s.oldestInput e.2.inputs).map fun x => (x.1, e.1, x.2)
    match old with
    | [] => s
    | x :: rest =>
      let (_, k, i) := rest.foldl (fun b y => if y.1 < b.1 then y else b) x
      let o := s.getOp k
      let s := { s with ops := tmap s.ops fun j y => if j / 8 = rc then { y with watched := true } else y }
      match o.instr.bind fmtCOf with
      | some f =>
        s.record o.part (s.isSuper o.launch)
          { cls := .watchdog, kind := 3, ctx := opCtx k, xy := tileXy (opPage k) (opTile k), uref := s.opUref k, slot := k % 8,
            word := ((o.instr.bind encode).getD 0).toNat, detail := i, waiting := s.opWaiting o f }
      | none => s

/-- WATCHDOG on a matrix node's context. -/
def State.watchNode (s : State) (mn c : Nat) : State :=
  let x := (s.getMn mn).ctx c
  if x.watched ∨ x.waited < Config.watchdogCycles then s
  else
    match s.oldestInput ((x.ctl.map fun ch => (0, ch)).toList ++ (x.rows.map fun ch => (1, ch)).toList) with
    | none => s
    | some (_, i) =>
      (s.mapMnCtx mn c fun x => { x with watched := true }).record (s.pageOwner (mn / 2)) (s.isSuper (s.slotLaunch (mn / 2) c))
        { cls := .watchdog, kind := 1, ctx := c, xy := tileXy (mn / 2) (mnTile (mn % 2)), uref := s.mnUref mn c 0, detail := i,
          waiting := s.mnWaiting x }

/-- The keys of the matrix nodes' contexts begin here. -/
def watchNodes : Nat := 2 ^ 20

/-- WATCHDOG: on a router's context, or on an element's: a compute element's by its key, a matrix node's after those. -/
def execWatchdog (router : Bool) (key : Nat) (s : State) : Host.Outcome State Fault Refusal :=
  .next (if router then s.watchRouter key
    else if key < watchNodes then s.watchCe key else s.watchNode ((key - watchNodes) / 4) ((key - watchNodes) % 4))

end Sys2Proof.Machine
end

