-- ==== Sys2Proof/Machine/Regs.lean ====
section
/-!
DEFINITION. Sys2Proof/Machine/Regs.lean: the control and status registers by number (R183, R379 to R382, and the field maps
of R275, R320, R328, R342, R350, R353, R358, R359, R375, R377, R453, R459), the counters PERF reads (R445 to R449), and the
instructions that only read or write them (R184, R185).
-/

namespace Sys2Proof.Machine

/-! ## Class 0 to 2: what a read delivers -/

/-- PAGE_CTXCTR (R353). -/
def State.ctxCounter (s : State) (page : Nat) : Nat :=
  let g := s.getPage page
  let res := (List.range 4).foldl (fun acc c => acc + b2n (s.slotLive page c) * 2 ^ c) 0
  min g.idle 15 * 2 ^ 24 + res * 2 ^ 20 + g.active % 4 * 2 ^ 18 + b2n g.drain * 2 ^ 17 + min g.used (2 ^ 17 - 1)

/-- SRI_FREE (R381, R422): the partition's pages that no launch and no preloaded slot holds, less those mapped out. -/
def State.freePages (s : State) (part : Nat) : Nat :=
  let p := s.getPart part
  let pre := p.job.preloadSlots.filterMap fun x => s.phys part x.1
  (p.pages.filter fun pp => (s.getPage pp).resident.all (· == 0) && !pre.contains pp && !(s.getPage pp).mapout).length

/-- DRV_QSTAT (R350). -/
def Partition.qstat (p : Partition) : Nat :=
  (List.range 4).foldl (fun acc l => acc + min 0xFFFF (p.queues.getD l []).length * 2 ^ (16 * l)) 0

/-- A register of class 0 to 2 as the task of a context reads it; none where R379 defines no such number. -/
def State.csrLow (s : State) (k n : Nat) : Option Word :=
  let c := s.getCe k
  let g := s.getPage (cePage k)
  let p := s.getPart c.part
  let r := p.regs
  let num (v : Nat) : Option Word := some (BitVec.ofNat 64 v)
  if 0x840 ≤ n && n ≤ 0x87F then some (tget 0 r.cvyGent (n - 0x840))
  else match n with
  | 0x000 => some (c.stat.setWidth 64)
  | 0x001 => some (c.seed.setWidth 64)
  | 0x004 => some c.lhnd
  | 0x005 => some c.ghnd
  | 0x006 => some c.phnd
  | 0x007 => some c.jhnd
  | 0x008 => num (c.quota % 2 ^ 24)
  | 0x400 => num g.quantum
  | 0x401 => num (s.ctxCounter (cePage k))
  | 0x402 => some (g.therm.setWidth 64)
  | 0x403 => num g.thermLimit
  | 0x800 => some (p.pred.setWidth 64)
  | 0x801 => some p.job.status
  | 0x802 => num p.traps.length
  | 0x803 => num (s.freePages c.part)
  | 0x810 => some (r.drowsyIdle.setWidth 64)
  | 0x811 => some (r.theta.setWidth 64)
  | 0x812 => num r.patLimit
  | 0x818 => some r.panBase
  | 0x819 => num r.panSize
  | 0x81A => num r.panFree
  | 0x820 => some r.drvQbase
  | 0x821 => some (r.drvAge.setWidth 64)
  | 0x822 => num (b2n r.drvCompact)
  | 0x823 => num p.qstat
  | 0x830 => num r.cvyBatch
  | 0x831 => num (r.cvyNsrc * 2 ^ 12 + r.cvyCap)
  | 0x832 => some r.cvyPool
  | _ => none

/-! ## Class 3: the device's registers (R452, R453, R459) -/

/-- DEV_READY. -/
def Device.ready (d : Device) : Nat :=
  b2n d.up * 2 ^ 52 + b2n d.mgt * 2 ^ 51 + b2n d.hostl * 2 ^ 50 + d.linkReady.toNat * 2 ^ 32 + d.farReady.toNat * 2 ^ 24 +
    d.stackReady.toNat * 2 ^ 8 + d.dieReady.toNat

/-- Page i of a die, row-major within it (R8). -/
def diePage (die i : Nat) : Nat := (die / 4 * 8 + i / 8) * 32 + die % 4 * 8 + i % 8

/-- DEV_PGOUT of a die. -/
def State.pageOut (s : State) (die : Nat) : Nat :=
  (List.range 64).foldl (fun acc i => acc + b2n (s.getPage (diePage die i)).mapout * 2 ^ i) 0

/-- Channels from one number on, and how many of them are mapped out. -/
def State.chansOut (s : State) (base n : Nat) : Nat :=
  (s.devChans.filter fun e => base ≤ e.1 && e.1 < base + n && e.2.mapout).length

/-- MEM_STK of a stack: spare rows left and pseudo-channels in service. -/
def State.stackReg (s : State) (i : Nat) : Nat :=
  let rows := ((s.devChans.filter fun e => i * 512 ≤ e.1 && e.1 < (i + 1) * 512).map fun e => e.2.spares).sum
  min 1023 rows * 2 ^ 16 + (512 - s.chansOut (i * 512) 512)

/-- A class-3 register, as partition `part` reads the partition registers among them; none where no such number is
defined. -/
def State.devReg (s : State) (part n : Nat) : Option Word :=
  let d := s.dev
  let p := s.getPart part
  let num (v : Nat) : Option Word := some (BitVec.ofNat 64 v)
  if 0xC08 ≤ n && n ≤ 0xC0F then num (s.pageOut (n - 0xC08))
  else if 0xC40 ≤ n && n ≤ 0xC4F then num (s.stackReg (n - 0xC40))
  else if 0xC50 ≤ n && n ≤ 0xC57 then num (16 - s.chansOut (8192 + 16 * (n - 0xC50)) 16)
  else if 0xC80 ≤ n && n ≤ 0xC91 then num ((tget 0 d.peers (n - 0xC80)).toNat * 16 + min 15 (tget 0 d.lanes (n - 0xC80)))
  else if 0xCD0 ≤ n && n ≤ 0xCDF then some (tget 0 d.vfmap (n - 0xCD0))
  else match n with
  | 0xC00 => num d.ready
  | 0xC01 => num (b2n d.root * 2 ^ 16 + d.pkg.toNat)
  | 0xC02 => some (d.own.setWidth 64)
  | 0xC03 => num d.pcap
  | 0xC04 => num d.lrtab
  | 0xCC0 => num d.psel
  | 0xCC1 => some (tget 0 d.pgassign part)
  | 0xCC2 => num (p.weight * 2 ^ 16 + p.nl)
  | 0xCC3 => num (p.xareaBase + p.xareaLog2)
  | 0xCC4 => some 0
  | 0xD00 => some d.fwVersion
  | _ => none

/-- The register with a number, as the task of a context reads it (R379). -/
def State.csr (s : State) (k n : Nat) : Option Word :=
  if n < 0xC00 then s.csrLow k n else s.devReg (s.getCe k).part n

/-! ## Writes of classes 0 to 2 -/

/-- Bits hi down to lo of a word in their place, the others 0. -/
def keepBits (v : Word) (hi lo : Nat) : Nat := natBits v.toNat hi lo * 2 ^ lo

/-- A launch of the partition other than the supervisor is resident or saved (R358, R359). -/
def State.workPlaced (s : State) (part : Nat) : Bool :=
  s.launches.any fun e => e.2.part == part && !e.2.super && (e.2.resident || e.2.state == .saved)

/-- CVY_GENT n with its reserved bits 0; ignored where two valid entries would name one die (R358). -/
def PartRegs.setGent (r : PartRegs) (n : Nat) (v : Word) : PartRegs :=
  let e : Word := BitVec.ofNat 64 (keepBits v 47 32 + keepBits v 26 24 + keepBits v 19 16 + keepBits v 0 0)
  let dest (w : Word) : Nat × Nat := (natBits w.toNat 47 32, natBits w.toNat 26 24)
  if e.getLsbD 0 && r.cvyGent.any (fun x => x.1 != n && x.2.getLsbD 0 && dest x.2 == dest e) then r
  else { r with cvyGent := tput r.cvyGent n e }

/-- A write of a convoy register (R358, R359). -/
def PartRegs.setConvoy (r : PartRegs) (n : Nat) (v : Word) : PartRegs :=
  match n with
  | 0x830 => let b := natBits v.toNat 6 0; if 1 ≤ b ∧ b ≤ 64 then { r with cvyBatch := b } else r
  | 0x831 =>
    let cap := natBits v.toNat 6 0
    { r with cvyNsrc := max 1 (natBits v.toNat 23 12), cvyCap := if 1 ≤ cap ∧ cap ≤ 64 then cap else r.cvyCap }
  | 0x832 =>
    if 64 < natBits v.toNat 26 21 + natBits v.toNat 33 27 ∨ 64 < natBits v.toNat 33 27 then r
    else { r with cvyPool := BitVec.ofNat 64 (keepBits v 33 21 + keepBits v 17 0) }
  | _ => r.setGent (n - 0x840) v

/-- A write of a class-2 register of a partition. `start` says that the job record's list makes it, before anything is
placed (R457); the spill area and the queue area are set then alone (R342, R350). A read-only register keeps its value. -/
def State.csrPart (s : State) (part n : Nat) (v : Word) (start : Bool) : State :=
  let set (g : PartRegs → PartRegs) : State := s.mapPart part fun p => { p with regs := g p.regs }
  let idle := start || !(s.getPart part).job.running
  match n with
  | 0x810 => set fun r => { r with drowsyIdle := v.setWidth 32 }
  | 0x811 => set fun r => { r with theta := v.setWidth 16 }
  | 0x812 => set fun r => { r with patLimit := min 1024 (natBits v.toNat 10 0) }
  | 0x818 => if idle then set fun r => { r with panBase := BitVec.ofNat 64 (keepBits v 55 10) } else s
  | 0x819 => if idle then set fun r => { r with panSize := natBits v.toNat 23 0, panFree := natBits v.toNat 23 0 } else s
  | 0x820 => if idle then set fun r => { r with drvQbase := BitVec.ofNat 64 (keepBits v 55 12) } else s
  | 0x821 => set fun r => { r with drvAge := v.setWidth 32 }
  | 0x822 => set fun r => { r with drvCompact := v.getLsbD 0 }
  | _ =>
    if 0x830 ≤ n && n ≤ 0x832 || 0x840 ≤ n && n ≤ 0x87F then
      if !start && s.workPlaced part then s else set fun r => r.setConvoy n v
    else s

/-- A class-2 register that is not read-only: what a job record's list may name (R456). -/
def csrInit (n : Nat) : Bool :=
  (0x810 ≤ n && n ≤ 0x812) || n == 0x818 || n == 0x819 || (0x820 ≤ n && n ≤ 0x822) || (0x830 ≤ n && n ≤ 0x832) ||
    (0x840 ≤ n && n ≤ 0x87F)

/-- PAGE_QUANTUM as stored (R353). -/
def quantumOf (v : Word) : Nat := max 64 (min 65536 (natBits v.toNat 16 0))

/-- A write of a register of class 0 to 2 by a task that may write it. -/
def State.csrSet (s : State) (k n : Nat) (v : Word) : State :=
  match n with
  | 0x000 => s.mapCe k fun c => { c with stat := v.setWidth 7 }
  | 0x001 => s.mapCe k fun c => { c with seed := if v.setWidth 32 = 0#32 then 1 else v.setWidth 32 }
  | 0x400 => s.mapPage (cePage k) fun g => { g with quantum := quantumOf v }
  | 0x403 => s.mapPage (cePage k) fun g => { g with thermLimit := natBits v.toNat 11 0 }
  | _ => if n / 2 ^ 10 = 2 then s.csrPart (s.getCe k).part n v false else s

/-! ## CSRRD, CSRWR, CYCLE, STATCLR, SEED (R183 to R185) -/

/-- The register number of a CSRRD or CSRWR. -/
def csrNo (f : FmtX) : Nat := natBits f.imm.toNat 11 0

/-- CSRRD: ILLEGAL for a number that is not defined, PROTECT for class 3 unless the supervisor reads. -/
def execCsrrd (f : FmtX) (s : State) : Host.Outcome State Fault Refusal :=
  .next (s.instrX f fun k r s =>
    match s.csr k (csrNo f) with
    | none => s.ceFault k .illegal 0 0xF
    | some v => if 0xC00 ≤ csrNo f ∧ !s.isSuper r.c.launch then s.ceFault k .protect 0 0 else s.giveX k f v)

/-- CSRWR: ILLEGAL for a number that is not defined; PROTECT for class 3, and for classes 1 and 2 unless the supervisor
writes. -/
def execCsrwr (f : FmtX) (s : State) : Host.Outcome State Fault Refusal :=
  .next (s.instrX f fun k r s =>
    let n := csrNo f
    match s.csr k n with
    | none => s.ceFault k .illegal 0 0xF
    | some _ =>
      if 0xC00 ≤ n ∨ (0x400 ≤ n ∧ !s.isSuper r.c.launch) then s.ceFault k .protect 0 0
      else (s.csrSet k n (r.xa f)).mapCe k CeCtx.bump)

/-- CYCLE: the counter as it stood in the cycle the firing began. -/
def execCycle (f : FmtX) (s : State) : Host.Outcome State Fault Refusal :=
  .next (s.instrX f fun k r s => s.giveX k f (BitVec.ofNat 64 r.c.fir.cycle))

/-- STATCLR: clears the bits of CTX_STAT that its mask names. -/
def execStatclr (f : FmtX) (s : State) : Host.Outcome State Fault Refusal :=
  .next (s.instrX f fun k _ s => s.mapCe k fun c => ({ c with stat := c.stat &&& ~~~(f.imm.setWidth 7) } : CeCtx).bump)

/-- SEED: writes CTX_SEED; 0 is stored as 1. -/
def execSeed (f : FmtX) (s : State) : Host.Outcome State Fault Refusal :=
  .next (s.instrX f fun k r s => (s.csrSet k 0x001 (r.xa f)).mapCe k CeCtx.bump)

/-! ## PERF (R184, R445 to R449) -/

/-- The key of a page-context or convoy counter of a context's task. -/
def perfKey (k launch n : Nat) : Nat :=
  if n / 256 = 2 then 2 ^ 32 + (launch * 8 + pageDie (cePage k)) * 4096 + n else (cePage k * 4 + ceSlot k) * 4096 + n

/-- The counter a number names, as the task of a context reads it: by its scope (R445). -/
def State.perf (s : State) (k n : Nat) : Nat :=
  let c := s.getCe k
  match n / 256 with
  | 1 | 2 => tget 0 s.counters (perfKey k c.launch n)
  | 3 => tget 0 (s.getPart c.part).counters n
  | 4 => tget 0 s.dev.counters n
  | _ => 0

/-- PERF.clr clears a counter of the issuing context, or of its launch on this die (R445). -/
def State.perfClear (s : State) (k n : Nat) : State :=
  if n / 256 = 1 ∨ n / 256 = 2 then { s with counters := tdel s.counters (perfKey k (s.getCe k).launch n) } else s

/-- A read of a counter that waits for the next cycle: an event of this one has moved the counter, or an issuer on a later tile has
read it in this cycle (R449). -/
def State.perfWaits (s : State) (k n : Nat) : Bool :=
  let c := s.getCe k
  let key := perfKey k c.launch n
  match n / 256 with
  | 1 | 2 => s.counted.contains key || s.perfReads.any fun r => r.1 == key && ceTile (ceElem k) < r.2
  | 3 => (s.getPart c.part).counted.contains n
  | 4 => s.dev.counted.contains n
  | _ => false

/-- PERF: delivers the count as it stood before the events of its cycle; with .clr it is cleared then (R448, R449). -/
def execPerf (f : FmtX) (s : State) : Host.Outcome State Fault Refusal :=
  .next (s.instrX f fun k _ s =>
    let n := csrNo f
    if s.perfWaits k n then s
    else
      let v := s.perf k n
      let s := { s with perfReads := (perfKey k (s.getCe k).launch n, ceTile (ceElem k)) :: s.perfReads }
      (if f.sub.getLsbD 0 then s.perfClear k n else s).giveX k f (BitVec.ofNat 64 v))

end Sys2Proof.Machine
end

