-- ==== Sys2Proof/Machine/Device.lean ====
section
/-!
DEFINITION. Sys2Proof/Machine/Device.lean: the device's registers as the host and the Mornos port write them, with their
ownership (R451 to R453, R459, R460), the Mornos port's messages (R461), fabric links, bring-up, power and reset (R442,
R443, R462 to R464).
-/

namespace Sys2Proof.Machine

/-- Changes the device's registers. -/
def State.mapDev (s : State) (g : Device → Device) : State := { s with dev := g s.dev }

/-- A write to a register of a device function takes effect only when it comes from the function's owner; otherwise it is
ignored, and the host's AER error bit is set (R459). -/
def State.owned (s : State) (fn : Nat) (host : Bool) (go : State) : State :=
  if s.dev.own.getLsbD fn == !host then go else s.mapDev fun d => { d with aerHost := true }

/-! ## Plain registers (R453, R459) -/

/-- DEV_PKG, DEV_PCAP, DEV_LRTAB and HOST_PSEL; a register with a behaviour of its own, or a read-only one, keeps its
value. -/
def State.plainWrite (s : State) (n : Nat) (v : Word) (host : Bool) : State :=
  match n with
  | 0xC01 => s.owned 2 host (s.mapDev fun d => { d with root := v.getLsbD 16, pkg := v.setWidth 16 })
  | 0xC03 =>
    let cap := natBits v.toNat 12 0
    s.owned 1 host (if 1000 ≤ cap ∧ cap ≤ 4200 then s.mapDev fun d => { d with pcap := cap } else s)
  | 0xC04 => s.owned 2 host (s.mapDev fun d => { d with lrtab := keepBits v 41 16 })
  | 0xCC0 =>
    let p := natBits v.toNat 4 0
    s.owned 0 host (if p ≤ 23 then s.mapDev fun d => { d with psel := p } else s)
  | _ => s

/-- HOST_VFMAP (R452): each byte keeps V and the partition; one that names a partition above 23 is stored with V = 0. -/
def vfmapStored (v : Word) : Word :=
  BitVec.ofNat 64 ((List.range 8).foldl (fun acc i =>
    let b := natBits v.toNat (8 * i + 7) (8 * i)
    let p := b % 32
    acc + (p + (if 128 ≤ b ∧ p ≤ 23 then 128 else 0)) * 2 ^ (8 * i)) 0)

/-- A write of HOST_VFMAP n. -/
def State.vfmapWrite (s : State) (n : Nat) (v : Word) (host : Bool) : State :=
  if 16 ≤ n then s else s.owned 0 host (s.mapDev fun d => { d with vfmap := tput d.vfmap n (vfmapStored v) })

/-! ## Pages of partitions (R424, R453) -/

/-- A page that HOST_PGASSIGN skips: its die is not ready, it is mapped out, or another partition owns it. -/
def State.skipPage (s : State) (part page : Nat) : Bool :=
  let g := s.getPage page
  !s.dev.dieReady.getLsbD (pageDie page) || g.mapout || (match g.owner with | some p => p != part | none => false)

/-- Assigns one page, unless the partition has it: whether it changed. -/
def State.assignPage (s : State) (part page : Nat) : Bool × State :=
  if s.skipPage part page ∨ (s.getPage page).owner.isSome then (false, s) else (true, s.givePage part page)

/-- Releases one page: a spare one at once, a bound one by a move (R424). -/
def State.releasePage (s : State) (part page : Nat) : Bool × State :=
  if s.skipPage part page ∨ (s.getPage page).owner ≠ some part then (false, s)
  else if (s.sparePages part).contains page then (true, s.takePage part page)
  else
    match s.logical part page with
    | none => (false, s)
    | some lp =>
      if s.movePending part lp then (false, s)
      else let s := (s.requestMove part lp none .host).2; (s.movePending part lp, s)

/-- HOST_PGASSIGN: page by page in ascending number; DONE counts the pages changed. -/
def State.pgWrite (s : State) (v : Word) (host : Bool) (one : State → Nat → Nat → Bool × State) : State :=
  let part := s.dev.psel
  let first := natBits v.toNat 8 0
  let last := natBits v.toNat 17 9
  let pages := (List.range (last + 1 - first)).map fun i => first + i
  let (n, t) := pages.foldl (fun acc p => let (b, s) := one acc.2 part p; (acc.1 + b2n b, s)) (0, s)
  s.owned 0 host (t.mapDev fun d => { d with
    pgassign := tput d.pgassign part (BitVec.ofNat 64 (n * 2 ^ 24 + keepBits v 23 23 + keepBits v 17 0)) })

/-- HOST_PGASSIGN with REL 0. -/
def execPageAssign (value : BitVec 64) (host : Bool) (s : State) : Host.Outcome State Fault Refusal :=
  .next (if value.getLsbD 23 then s else s.pgWrite value host State.assignPage)

/-- HOST_PGASSIGN with REL 1. -/
def execPageRelease (value : BitVec 64) (host : Bool) (s : State) : Host.Outcome State Fault Refusal :=
  .next (if value.getLsbD 23 then (s.pgWrite value host State.releasePage).settle else s)

/-- A job of the partition runs, or is being started. -/
def Partition.busy (p : Partition) : Bool := p.job.running || p.job.starting

/-- The page map that writing NL gives: logical page i is bound to the i-th lowest owned page (R424). -/
def State.initialMap (s : State) (part nl : Nat) : Tab PageEntry :=
  (List.range nl).map fun i =>
    let pp := (s.getPart part).pages.getD i 0
    (i, { v := !(s.getPage pp).mapout, mov := false, ppage := pp })

/-- HOST_PCFG (R453): WEIGHT, and NL unless it is above the owned count or a job runs. -/
def State.pcfgWrite (s : State) (v : Word) (host : Bool) : State :=
  let part := s.dev.psel
  let nl := natBits v.toNat 9 0
  let w := max 1 (natBits v.toNat 23 16)
  s.owned 0 host (s.mapPart part fun p =>
    if p.pages.length < nl ∨ p.busy then { p with weight := w }
    else { p with weight := w, nl := nl, map := s.initialMap part nl, moves := [] })

/-- HOST_PCFG_WRITE. -/
def execHostPcfgWrite (value : BitVec 64) (host : Bool) (s : State) : Host.Outcome State Fault Refusal :=
  .next (s.pcfgWrite value host)

/-- HOST_XAREA (R402, R453): ignored while a job runs, when LOG2 is out of range, or when BASE is not aligned. -/
def State.xareaWrite (s : State) (v : Word) (host : Bool) : State :=
  let part := s.dev.psel
  let log2 := natBits v.toNat 5 0
  let base := keepBits v 41 16
  s.owned 0 host (
    if (s.getPart part).busy ∨ log2 < 17 ∨ 41 < log2 ∨ base % 2 ^ log2 ≠ 0 then s
    else (s.mapPart part fun p => { p with xareaBase := base, xareaLog2 := log2 }).dropCaches part |>.loadRanges part)

/-- HOST_XAREA_WRITE. -/
def execHostXareaWrite (value : BitVec 64) (host : Bool) (s : State) : Host.Outcome State Fault Refusal :=
  .next (s.xareaWrite value host)

/-- HOST_CNTCLR (R445, R453). -/
def State.cntclrWrite (s : State) (v : Word) (host : Bool) : State :=
  s.owned 5 host (if v.getLsbD 0 then s.mapDev fun d => { d with counters := [] } else s)

/-- HOST_CNTCLR. -/
def execHostCntclr (value : BitVec 64) (host : Bool) (s : State) : Host.Outcome State Fault Refusal :=
  .next (s.cntclrWrite value host)

/-- DEV_OWN (R460): a bit changes only when its current owner writes it. -/
def State.ownWrite (s : State) (v : Word) (host : Bool) : State :=
  let d := s.dev
  let mine : BitVec 6 := if host then ~~~d.own else d.own
  let want : BitVec 6 := v.setWidth 6
  s.mapDev fun d => { d with
    own := (d.own &&& ~~~mine) ||| (want &&& mine)
    aerHost := d.aerHost || (want ^^^ d.own) &&& ~~~mine != 0 }

/-- DEV_OWN_WRITE. -/
def execDevOwnWrite (value : BitVec 64) (host : Bool) (s : State) : Host.Outcome State Fault Refusal :=
  .next (s.ownWrite value host)

/-- HOST_VFMAP_WRITE. -/
def execHostVfmapWrite (n : Nat) (value : BitVec 64) (host : Bool) (s : State) : Host.Outcome State Fault Refusal :=
  .next (s.vfmapWrite n value host)

/-- A write of the class-3 register with a number, whatever it does. -/
def State.devRegWrite (s : State) (n : Nat) (v : Word) (host : Bool) : State :=
  if 0xCD0 ≤ n ∧ n ≤ 0xCDF then s.vfmapWrite (n - 0xCD0) v host
  else match n with
  | 0xC02 => s.ownWrite v host
  | 0xCC1 => if v.getLsbD 23 then (s.pgWrite v host State.releasePage).settle else s.pgWrite v host State.assignPage
  | 0xCC2 => s.pcfgWrite v host
  | 0xCC3 => s.xareaWrite v host
  | 0xCC4 => s.cntclrWrite v host
  | n => s.plainWrite n v host

/-! ## The Mornos port (R461) -/

/-- The port answers a message whose answer the specification does not lay out: a free value (log entry 3). -/
def State.mornos (s : State) : State :=
  { (s.mapDev fun d => { d with answers := Config.mornosAnswer s.free :: d.answers }) with free := s.free + 1 }

/-- The port answers with a number of n bytes. -/
def State.mornosGives (s : State) (n v : Nat) : State :=
  s.mapDev fun d => { d with answers := bytesOfNat n v :: d.answers }

/-- MCTP_CONTROL. -/
def execMctpControl (_ : List (BitVec 8)) (s : State) : Host.Outcome State Fault Refusal := .next s.mornos
/-- GET_VERSION. -/
def execGetVersion (_ : List (BitVec 8)) (s : State) : Host.Outcome State Fault Refusal := .next s.mornos
/-- GET_CAPABILITIES. -/
def execGetCapabilities (_ : List (BitVec 8)) (s : State) : Host.Outcome State Fault Refusal := .next s.mornos
/-- NEGOTIATE_ALGORITHMS. -/
def execNegotiateAlgorithms (_ : List (BitVec 8)) (s : State) : Host.Outcome State Fault Refusal := .next s.mornos
/-- GET_DIGESTS. -/
def execGetDigests (_ : List (BitVec 8)) (s : State) : Host.Outcome State Fault Refusal := .next s.mornos
/-- GET_CERTIFICATE. -/
def execGetCertificate (_ : List (BitVec 8)) (s : State) : Host.Outcome State Fault Refusal := .next s.mornos
/-- GET_MEASUREMENTS. -/
def execGetMeasurements (_ : List (BitVec 8)) (s : State) : Host.Outcome State Fault Refusal := .next s.mornos
/-- MGT_INVENTORY_READ. -/
def execMgtInventoryRead (s : State) : Host.Outcome State Fault Refusal := .next s.mornos
/-- MGT_ERRLOG_READ. -/
def execMgtErrlogRead (s : State) : Host.Outcome State Fault Refusal := .next s.mornos

/-- MGT_REGISTER_READ: the register's eight bytes. -/
def execMgtRegisterRead (reg : Nat) (s : State) : Host.Outcome State Fault Refusal :=
  .next (match s.devReg s.dev.psel reg with
    | some v => s.mornosGives 8 v.toNat
    | none => s.mornos)

/-- MGT_REGISTER_WRITE: a write from the Mornos port. -/
def execMgtRegisterWrite (reg : Nat) (value : BitVec 64) (s : State) : Host.Outcome State Fault Refusal :=
  .next (s.devRegWrite reg value false).mornos

/-- MGT_SENSOR_READ: the page's TEMP (R380). -/
def execMgtSensorRead (page : Nat) (s : State) : Host.Outcome State Fault Refusal :=
  .next (s.mornosGives 2 (s.getPage page).therm.toNat)

/-! ## Reset (R442, R461) -/

/-- The machine after a reset of the package: everything at its reset value, with staged firmware active. The schedule of
the model, and the answers given, are no part of the package. -/
def State.packageReset (s : State) : State :=
  let d := s.dev
  { State.reset with
    agenda := s.agenda, cur := s.cur, free := s.free
    dev := { ({} : Device) with
      fwVersion := d.fwStaged.getD d.fwVersion
      fwSlot := if d.fwStaged.isSome then !d.fwSlot else d.fwSlot
      answers := d.answers } }

/-- DEVICE_RESET. -/
def execDeviceReset (s : State) : Host.Outcome State Fault Refusal := .next s.packageReset

/-- MGT_PACKAGE_RESET: by the Mornos port, when it owns the reset function. -/
def execMgtPackageReset (s : State) : Host.Outcome State Fault Refusal :=
  .next (s.owned 3 false s.packageReset).mornos

/-- MGT_FIRMWARE_STAGE: an image whose signature holds is staged in the inactive slot; one that fails its check is not. -/
def execMgtFirmwareStage (version : BitVec 64) (signed : Bool) (s : State) : Host.Outcome State Fault Refusal :=
  .next (s.owned 4 false (s.mapDev fun d => { d with fwStaged := if signed then some version else none })).mornos

/-- HOSTL_FALL (R460): every bit of DEV_OWN passes to the Mornos port. -/
def execHostlFall (s : State) : Host.Outcome State Fault Refusal :=
  .next (s.mapDev fun d => { d with hostl := false, own := BitVec.allOnes 6 })

/-! ## Links, bring-up, power, the cycle counter (R442, R443, R462 to R464) -/

/-- An MSI-X message of the PF's vector 0: a lasting error has cleared a ready bit or set an out-bit (R463). -/
def State.pfMsix (s : State) : State := s.mapDev fun d => { d with msix := d.msix ++ [(0, 0)] }

/-- A fabric link has no lane left: it is mapped out, and LINK_DOWN goes to the contexts with traffic on it (R422, R462). -/
def State.linkLost (s : State) (link : Nat) : State :=
  ((s.mapDev fun d => { d with linkReady := d.linkReady &&& ~~~(BitVec.twoPow 18 link) }).pfMsix).collLinkDown link

/-- FLIT_RETRY (R422, R462): a retried flit that succeeds is counted; one that fails maps out its lane. -/
def execFlitRetry (link : Nat) (ok : Bool) (s : State) : Host.Outcome State Fault Refusal :=
  .next (
    if 18 ≤ link ∨ !s.dev.linkReady.getLsbD link then s
    else if ok then s.countDev 0x400 1
    else
      let left := tget 0 s.dev.lanes link - 1
      let s := ((s.countDev 0x401 1).countDev 0x402 1).mapDev fun d => { d with lanes := tput d.lanes link left }
      if left = 0 then s.linkLost link else s)

/-- The functions of DEV_READY that report: dies 0 to 7, stacks 8 to 23, far modules 24 to 31, links 32 to 49, the host
link 50 (R459). The Mornos port is ready at reset. -/
def readyFunctions : Nat := 51

/-- FUNCTION_READY (R463): a function that has passed its tests sets its bit, and one that has not is mapped out; UP
follows the last. -/
def execFunctionReady (fn : Nat) (ok : Bool) (s : State) : Host.Outcome State Fault Refusal :=
  .next (
    if readyFunctions ≤ fn ∨ s.dev.functions.contains fn then s
    else
      let bit (n lo : Nat) (b : BitVec n) : BitVec n := if ok then b ||| BitVec.twoPow n (fn - lo) else b
      s.mapDev fun d =>
        let d := { d with functions := insertUp fn d.functions }
        let d := { d with up := d.functions.length == readyFunctions }
        if fn < 8 then { d with dieReady := bit 8 0 d.dieReady }
        else if fn < 24 then { d with stackReady := bit 16 8 d.stackReady }
        else if fn < 32 then { d with farReady := bit 8 24 d.farReady }
        else if fn < 50 then
          { d with linkReady := bit 18 32 d.linkReady, lanes := if ok then tput d.lanes (fn - 32) 8 else d.lanes }
        else { d with hostl := ok })

/-- POWER_WINDOW (R464): while the power of a window exceeds the cap, turns are withheld in proportion to the excess. -/
def execPowerWindow (watts : Nat) (s : State) : Host.Outcome State Fault Refusal :=
  .next (s.mapDev fun d => { d with
    overPower := if d.pcap < watts then 256 * (watts - d.pcap) / watts else 0 }).throttle

/-- CYCLE_SAMPLE_EXCHANGE (R443): a sample gives the package's estimate of its offset from the root. Before the first job
the counter is set by a step. -/
def execCycleSampleExchange (link ahead behind : Nat) (s : State) : Host.Outcome State Fault Refusal :=
  .next (
    if 18 ≤ link ∨ !s.dev.linkReady.getLsbD link ∨ s.dev.root then s
    else if s.dev.jobSeen then s.mapDev fun d => { d with slewAhead := ahead - behind, slewBehind := behind - ahead }
    else { s with cycle := s.cycle + BitVec.ofNat 64 (behind - ahead) })

/-- CYCLE_SLEW (R443): more than 8 cycles ahead withholds one increment in 256 cycles, more than 8 behind adds one. -/
def execCycleSlew (s : State) : Host.Outcome State Fault Refusal :=
  .next (
    let d := s.dev
    if d.root ∨ s.cycle.toNat < d.slewAt ∨ (d.slewAhead ≤ 8 ∧ d.slewBehind ≤ 8) then s
    else
      let by_ : Int := if 8 < d.slewAhead then -1 else 1
      { (s.countDev 0x403 1).mapDev fun d => { d with
          slewAhead := if 8 < d.slewAhead then d.slewAhead - 1 else d.slewAhead
          slewBehind := if 8 < d.slewAhead then d.slewBehind else d.slewBehind - 1
          slewAt := s.cycle.toNat + 256 } with slew := by_ })

end Sys2Proof.Machine
end

