-- ==== Sys2Proof/Machine/Pattern.lean ====
section
/-!
DEFINITION. Sys2Proof/Machine/Pattern.lean: sparse tiles (R71, R252 to R255, R322 to R336): tile blocks, the pattern
compiler, the store and its directory, and SPMM.
-/

namespace Sys2Proof.Machine

/-! ## Tile words and records (R252, R322, R329) -/

/-- The type of a sparse record's elements, and its width. -/
def spTy (t : Vec) : Ty := (recTy t).getD .z8

/-- A tile that an instruction names: the serving memory tile, the record of its tensor, its row and column, and the offset
of its block. -/
structure TileAt where
  mt : Nat
  tensor : Vec
  tr : Nat
  tc : Nat
  slot : Nat
  gen : Nat
  off : Nat

/-- Tile columns and rows of a sparse record's grid (R397). -/
def gridCols (t : Vec) : Nat := ceilDiv (recDim t 0) 64
def gridRows (t : Vec) : Nat := ceilDiv (recDim t 1) 64

/-- The checks of a handle and a tile word, in the order of R252, and for SPLD and SPMM the place of the block's header (R322). -/
def State.tileAt (s : State) (part : Nat) (h w : Word) (header : Bool) : Try TileAt :=
  match (s.tensor part h).filter fun t => recForm t != 0 with
  | none => .error (some ⟨.handle, h.toNat, 0⟩)
  | some t =>
    let v := w.toNat
    let lp := natBits v 40 32
    let tc := natBits v 31 16
    let tr := natBits v 15 0
    let mt := natBits v 41 41
    if natBits v 63 42 ≠ 0 ∨ (s.getPart part).nl ≤ lp then .error (some ⟨.protect, v, 0⟩)
    else
      match s.scratchAt part (lp * 2 ^ 21 + mt * 2 ^ 20) 1 with
      | .error none => .error none
      | .error (some e) => .error (some { e with addr := v })
      | .ok (m, _) =>
        let a := recBase t + (tr * gridCols t + tc) * recTbStride t
        if gridRows t ≤ tr ∨ gridCols t ≤ tc then .error (some ⟨.protect, v, 0⟩)
        else if header ∧ (recDev t ∨ 2 ^ 30 ≤ a ∨ natBits a 29 20 ≠ 2 * lp + mt ∨ 2 ^ 20 < a % 2 ^ 20 + 16) then
          .error (some ⟨.protect, a, 0⟩)
        else .ok { mt := m, tensor := t, tr := tr, tc := tc, slot := natBits h.toNat 11 0, gen := natBits h.toNat 59 44, off := a % 2 ^ 20 }

/-- The valid record of a tile: its index and itself. -/
def MemTile.pattern (m : MemTile) (x : TileAt) : Option (Nat × PatRec) :=
  m.dir.find? fun e => e.2.valid && e.2.slot == x.slot && e.2.gen == x.gen && e.2.tr == x.tr && e.2.tc == x.tc

/-- The pattern status of R252. -/
def patStatus : Option (Nat × PatRec) → Word
  | none => 0
  | some (_, r) =>
    BitVec.ofNat 64 ((if r.st = 2 ∨ r.st = 3 then r.nnz * 2 ^ 16 else 0) + (if r.st = 2 then r.uops * 2 ^ 4 else 0) + r.st)

/-! ## Tile blocks (R323 to R325) -/

/-- What a block's header says: non-zeros, where its offsets, values and scale bytes begin, and where it ends. -/
structure Block where
  nnz : Nat
  values : Nat
  scales : Nat
  stop : Nat

def align16 (n : Nat) : Nat := ceilDiv n 16 * 16

/-- Bytes of scales by the record's block size. -/
def scaleBytes (t : Vec) : Nat := [0, 256, 128, 0].getD (recBlk t) 0

/-- Reads a header; none where it is malformed by itself. `h` is its sixteen bytes as a number. -/
def blockHead (t : Vec) (off h : Nat) : Option Block :=
  let form := recForm t
  let occ := natBits h 63 0
  let nnz := natBits h 95 64
  let base := natBits h 111 96
  let body := match form with | 1 => 8 * popN occ 64 | 2 => nnz | _ => 2 * nnz
  let values := align16 (16 + body)
  let vend := if nnz = 0 then 16 + body else values + ceilDiv (nnz * (spTy t).width) 8
  let scales := align16 (max values vend)
  let stop := if recBlk t = 0 then vend else scales + scaleBytes t
  if natBits h 127 112 ≠ 0 ∨ (form = 1 ∧ base ≠ 0) ∨ (form ≠ 1 ∧ (natBits base 15 12 ≠ 0 ∨ occ ≠ 0)) ∨ 4096 < nnz ∨
      2 ^ 20 < off + stop then none
  else some { nnz := nnz, values := off + values, scales := off + scales, stop := off + stop }

/-- Flat positions of a block's elements, ascending; none where the block is malformed. `rd off n` is a number of n bytes. -/
def blockPos (t : Vec) (off : Nat) (b : Block) (rd : Nat → Nat → Nat) : Option (List Nat) :=
  match recForm t with
  | 1 =>
    let rows := (List.range 64).filter fun i => bitN (rd off 8) i
    let ps := (List.range rows.length).flatMap fun n =>
      let mask := rd (off + 16 + 8 * n) 8
      ((List.range 64).filter fun j => bitN mask j).map fun j => 64 * rows.getD n 0 + j
    if ps.length = b.nnz then some ps else none
  | form =>
    let size := if form = 2 then 1 else 2
    let base := rd (off + 12) 2
    let ps := (List.range b.nnz).map fun n => base + rd (off + 16 + size * n) size
    if ps.all (· < 4096) && (List.zip ps ps.tail).all fun p => p.1 < p.2 then some ps else none

/-- One micro-operation (R326). -/
def uop (pos val : Nat) (last : Bool) : BitVec 32 := BitVec.ofNat 32 (pos * 2 ^ 20 + b2n last * 2 ^ 19 + val)

/-- The program of a block: a micro-operation for each element, then its scale bytes, four to a word. -/
def blockProg (t : Vec) (off : Nat) (b : Block) (rd : Nat → Nat → Nat) : Option (List (BitVec 32)) :=
  (blockPos t off b rd).map fun ps =>
    let w := (spTy t).width
    let val (n : Nat) : Nat := rd (b.values + n * w / 8) ((w + 7) / 8) / 2 ^ (n * w % 8) % 2 ^ w
    let us := (List.range ps.length).map fun n =>
      let p := ps.getD n 0
      uop p (val n) (match ps[n + 1]? with | some q => q / 64 != p / 64 | none => true)
    us ++ (List.range (scaleBytes t / 4)).map fun i => BitVec.ofNat 32 (rd (b.scales + 4 * i) 4)

/-- What reading a whole block gives. -/
inductive BlockRead where
  | wait
  | lost (addr : Nat)
  | bad
  | prog (b : Block) (p : List (BitVec 32))

/-- Reads a block of a memory tile (R325, R327, R334). -/
def State.readBlock (s : State) (mt off : Nat) (t : Vec) : BlockRead × State :=
  let rd (a n : Nat) : Nat := natOfBytes (s.scratchRead mt a n)
  match s.banksAwake mt off 16 with
  | (false, s) => (.wait, s)
  | (true, s) =>
    let s := s.meetWords mt off 16
    if s.scratchLost mt off 16 then (.lost off, s)
    else
      match blockHead t off (rd off 16) with
      | none => (.bad, s)
      | some b =>
        match s.banksAwake mt off (b.stop - off) with
        | (false, s) => (.wait, s)
        | (true, s) =>
          let s := s.meetWords mt off (b.stop - off)
          let s := (List.range ((b.stop + 127) / 128 - off / 128)).foldl (fun s i => s.touchBank mt ((off / 128 + i) % 16) 3) s
          if s.scratchLost mt off (b.stop - off) then (.lost off, s)
          else match blockProg t off b rd with
            | none => (.bad, s)
            | some p => (.prog b p, s)

/-! ## Making room (R330) -/

/-- Words of the store in use. -/
def MemTile.storeUsed (m : MemTile) : Nat := (m.dir.map fun e => e.2.words).sum + (m.stale.map fun e => e.2.2).sum

/-- The age of a record. -/
def PatRec.age (r : PatRec) (now : BitVec 32) : Nat := (now - r.lastUse).toNat

/-- The candidate that makes room: a record in ST 0, else the one of ST 2 or 3 of the greatest age, ties to the lower index;
none with USE above 0 (R330). -/
def MemTile.patVictim (m : MemTile) (now : BitVec 32) : Option Nat :=
  let free := m.dir.filter fun e => e.2.valid && e.2.use == 0
  match free.find? fun e => e.2.st == 0 with
  | some e => some e.1
  | none =>
    match free.filter fun e => e.2.st == 2 || e.2.st == 3 with
    | [] => none
    | c :: rest => some (rest.foldl (fun b x => if b.2.age now < x.2.age now then x else b) c).1

/-- PATTERN_EVICT for an install: evicts until `n` words are free, or says that they cannot be. -/
def State.patRoom (mt n page ctx : Nat) : Nat → State → Bool × State
  | 0, s => (false, s)
  | fuel + 1, s =>
    let m := s.getMt mt
    if m.storeUsed + n ≤ 8192 then (true, s)
    else match m.patVictim (s.cycle.setWidth 32) with
      | none => (false, s)
      | some i => State.patRoom mt n page ctx fuel ((s.setMt mt (m.dropPattern i)).countPage page ctx 0x114 1)

/-- A record for a new entry: a free one, else one reclaimed (R330); none where no record can be taken. -/
def State.patSlot (s : State) (mt page ctx : Nat) : Option (Nat × State) :=
  let m := s.getMt mt
  match (List.range 256).find? fun i => !(tget {} m.dir i).valid with
  | some i => some (i, s)
  | none =>
    match m.patVictim (s.cycle.setWidth 32) with
    | none => none
    | some i => some (i, (s.setMt mt (m.dropPattern i)).countPage page ctx 0x114 1)

/-- Moves every entry down, so that the free words are one run (R330). Moves are invisible to programs. -/
def MemTile.compact (m : MemTile) : MemTile :=
  -- record, whether its words are an invalidated program's, first word, number
  let runs := sortKey (fun e => e.2.2.1)
    ((m.dir.filter fun e => e.2.words != 0).map (fun e => (e.1, false, e.2.basew, e.2.words)) ++ m.stale.map fun e => (e.1, true, e.2.1, e.2.2))
  runs.foldl (fun (acc : MemTile) (e : Nat × Bool × Nat × Nat) =>
    let base := acc.store.length
    let ws := (List.range e.2.2.2).map fun i => tget 0 m.store (e.2.2.1 + i)
    { acc with
      dir := if e.2.1 then acc.dir else tput acc.dir e.1 { tget {} acc.dir e.1 with basew := base }
      stale := if e.2.1 then acc.stale ++ [(e.1, base, e.2.2.2)] else acc.stale
      store := acc.store ++ (List.range ws.length).map fun i => (base + i, ws.getD i 0) }) { m with store := [], stale := [] }

/-- Writes an entry's words into one free run. The words of the program it had before stay while a command runs them
(R331). -/
def MemTile.putWords (m : MemTile) (dir : Nat) (ws : List (BitVec 32)) (scw : Nat) : MemTile :=
  let r : PatRec := tget {} m.dir dir
  let m := { m with
    stale := if r.words = 0 then m.stale else m.stale ++ [(dir, r.basew, r.words)]
    dir := tput m.dir dir { r with uops := 0, scw := 0 } }
  let m := m.compact
  let base := m.storeUsed
  let r : PatRec := tget {} m.dir dir
  { m with
    dir := tput m.dir dir { r with basew := base, uops := ws.length - [0, 32, 64, 0].getD scw 0, scw := scw }
    store := m.store ++ (List.range ws.length).map fun i => (base + i, ws.getD i 0) }

/-! ## SPLD, SPQ and SPINV (R253, R255) -/

/-- SPLD (R253, R327). -/
def execSpld (f : FmtT) (s : State) : Host.Outcome State Fault Refusal :=
  .next (s.engine f fun k r s =>
    let h := r.w64 .a f.sa
    let w := r.w64 .b f.sb
    let str := strOf f.sc
    s.check k (s.tileAt r.c.part h w true) fun x =>
      let m := s.getMt x.mt
      let found := m.pattern x
      let status := (patStatus found).toVec
      let page := cePage k
      let ctx := ceSlot k
      let start (s : State) (i : Nat) (ver : BitVec 16) (old : PatRec) : State :=
        let p : PatRec := { valid := true, lastUse := old.lastUse, slot := x.slot, gen := x.gen, tr := x.tr, tc := x.tc,
                            ver := ver, st := 1, use := old.use, uops := if old.use = 0 then 0 else old.uops,
                            scw := if old.use = 0 then 0 else old.scw, basew := old.basew, wfirst := 1, wlast := 0,
                            opage := r.c.lpage, octx := ctx, ostr := str }
        let job : Compile := { dir := i, ce := k, launch := r.c.launch, handle := h, tile := w, tensor := x.tensor,
                               after := r.c.handoff str, running := false, ver := ver, big := false, nnz := 0, due := 0, faulted := false }
        (s.mapMt x.mt fun m => { m with dir := tput m.dir i p, compiles := m.compiles ++ [job] }).give2 k f false status
      match found with
      | some (i, p) =>
        if p.st = 0 then (if 16 ≤ m.compiles.length then s else start s i p.ver p)
        else if p.st = 2 then
          ((s.mapMt x.mt fun m => { m with dir := tput m.dir i { p with lastUse := s.cycle.setWidth 32 } }).countPage page ctx 0x111 1).give2
            k f false status
        else s.give2 k f false status
      | none =>
        if 16 ≤ m.compiles.length then s
        else match s.patSlot x.mt page ctx with
          | none => s
          | some (i, s) => start s i 0 {})

/-- SPQ (R255). -/
def execSpq (f : FmtT) (s : State) : Host.Outcome State Fault Refusal :=
  .next (s.engine f fun k r s =>
    s.check k (s.tileAt r.c.part (r.w64 .a f.sa) (r.w64 .b f.sb) false) fun x =>
      s.give2 k f false (patStatus ((s.getMt x.mt).pattern x)).toVec)

/-- SPINV (R255). -/
def execSpinv (f : FmtT) (s : State) : Host.Outcome State Fault Refusal :=
  .next (s.engine f fun k r s =>
    s.check k (s.tileAt r.c.part (r.w64 .a f.sa) (r.w64 .b f.sb) false) fun x =>
      match (s.getMt x.mt).pattern x with
      | some (i, _) => (s.dropPattern x.mt i).give2 k f false 1
      | none => s.give2 k f false 0)

/-! ## Compiling (R325, R327) -/

/-- Replaces a compile. -/
def State.setCompile (s : State) (mt : Nat) (c c' : Compile) : State :=
  s.mapMt mt fun m => { m with compiles := m.compiles.map fun x => if x == c then c' else x }

/-- The unit reference word of a compile: its memory tile and its owner's context slot (R325, R416). -/
def State.compileUref (s : State) (mt : Nat) (c : Compile) : Word :=
  urefWord 6 (s.lpageOf (s.partOf c.launch) (mt / 2)) (mtTile (mt % 2)) (ceSlot c.ce) 0 0

/-- The record of a compile or an SPMM that met a malformed or lost block (R325). -/
def State.blockFault (s : State) (launch mt ctx : Nat) (uref : Word) (h w : Word) (cls : FaultClass) (addr word : Nat) : State :=
  s.record (s.partOf launch) (s.isSuper launch)
    { cls := cls, kind := 2, ctx := ctx, xy := tileXy (mt / 2) (mtTile (mt % 2)), uref := uref, word := word,
      addr := if cls = .config then h.toNat else addr, detail := if cls = .config then w.toNat else 0 }

/-- A compile becomes FAULTED and holds its place until TRET. -/
def State.compileFault (s : State) (mt : Nat) (c : Compile) (cls : FaultClass) (addr : Nat) : State :=
  (s.setCompile mt c { c with faulted := true }).blockFault c.launch mt (ceSlot c.ce) (s.compileUref mt c) c.handle c.tile cls addr 0

/-- The offset of a compile's block in its memory tile. -/
def Compile.off (c : Compile) : Nat :=
  let tr := natBits c.tile.toNat 15 0
  let tc := natBits c.tile.toNat 31 16
  (recBase c.tensor + (tr * gridCols c.tensor + tc) * recTbStride c.tensor) % 2 ^ 20

/-- PATTERN_COMPILE_START (R327): the queue's first compile, after its hand-off, reads the header against the limit. The
record watches the block's lines from now on. -/
def State.compileStart (s : State) (mt : Nat) : State :=
  match (s.getMt mt).compiles with
  | [] => s
  | c :: _ =>
    if c.running || c.faulted || !s.handed c.ce c.after then s
    else if (tget {} (s.getMt mt).dir c.dir).st ≠ 1 then
      -- its record has gone: nothing is compiled
      s.mapMt mt fun m => { m with compiles := m.compiles.filter (· != c) }
    else
      match s.banksAwake mt c.off 16 with
      | (false, s) => s
      | (true, s) =>
        let s := s.meetWords mt c.off 16
        if s.scratchLost mt c.off 16 then s.compileFault mt c .memUe c.off
        else
          match blockHead c.tensor c.off (natOfBytes (s.scratchRead mt c.off 16)) with
          | none => s.compileFault mt c .config 0
          | some b =>
            let r := tget {} (s.getMt mt).dir c.dir
            let big := min 1024 (s.getPart ((s.getPage (mt / 2)).owner.getD 0)).regs.patLimit < b.nnz
            let due := s.cycle.toNat + 64 + if big then 0 else 2 * b.nnz
            let s := s.setCompile mt c { c with running := true, ver := r.ver, big := big, nnz := b.nnz, due := due }
            (s.touchBank mt (c.off / 128 % 16) 3).mapMt mt fun m => { m with dir := tput m.dir c.dir { r with wfirst := c.off / 128, wlast := (b.stop - 1) / 128 } }

/-- The owner context of a pattern record, as physical page and slot. -/
def State.patOwner (s : State) (mt : Nat) (r : PatRec) : Nat × Nat :=
  ((s.phys ((s.getPage (mt / 2)).owner.getD 0) r.opage).getD (mt / 2), r.octx)

/-- PATTERN_INSTALL (R327, R330): the running compile installs its program, or ST 3; or its result is discarded. -/
def State.compileInstall (s : State) (mt : Nat) : State :=
  match (s.getMt mt).compiles with
  | [] => s
  | c :: _ =>
    if !c.running || c.faulted || s.cycle.toNat < c.due then s
    else
      let r := tget {} (s.getMt mt).dir c.dir
      let (page, ctx) := s.patOwner mt r
      let ended (s : State) : State := s.mapMt mt fun m => { m with compiles := m.compiles.filter (· != c) }
      let keep (s : State) (r : PatRec) : State := s.mapMt mt fun m => { m with dir := tput m.dir c.dir r }
      if r.ver ≠ c.ver ∨ r.st ≠ 1 then (ended s).countPage page ctx 0x115 1
      else if c.big then (keep (ended s) { r with st := 3, nnz := c.nnz, lastUse := s.cycle.setWidth 32, instAt := some s.cycle.toNat }).countPage page ctx 0x110 1
      else
        match s.readBlock mt c.off c.tensor with
        | (.wait, s) => s
        | (.lost a, s) => s.compileFault mt c .memUe a
        | (.bad, s) => s.compileFault mt c .config 0
        | (.prog b p, s) =>
          match State.patRoom mt p.length page ctx 257 s with
          | (false, s) => (keep (ended s) { (tget {} (s.getMt mt).dir c.dir) with st := 0 }).countPage page ctx 0x115 1
          | (true, s) =>
            let scw := [0, 2, 1, 0].getD (recBlk c.tensor) 0
            let s := (ended s).mapMt mt fun m => m.putWords c.dir p scw
            let r := tget {} (s.getMt mt).dir c.dir
            (keep s { r with st := 2, nnz := b.nnz, lastUse := s.cycle.setWidth 32, instAt := some s.cycle.toNat }).countPage page ctx 0x110 1

/-- PATTERN_COMPILE_START. -/
def execPatternCompileStart (mt : Nat) (s : State) : Host.Outcome State Fault Refusal := .next (s.compileStart mt)

/-- PATTERN_INSTALL. -/
def execPatternInstall (mt : Nat) (s : State) : Host.Outcome State Fault Refusal := .next (s.compileInstall mt)

/-- PATTERN_STORE_MOVE (R330): an entry moves to free words, while no compile installs. -/
def execPatternStoreMove (mt entry dest : Nat) (s : State) : Host.Outcome State Fault Refusal :=
  let m := s.getMt mt
  let r := tget {} m.dir entry
  let clash := (m.dir.any fun e => e.1 != entry && e.2.words != 0 && e.2.basew < dest + r.words && dest < e.2.basew + e.2.words) ||
    m.stale.any fun e => e.2.1 < dest + r.words && dest < e.2.1 + e.2.2
  .next (if !r.valid || r.words = 0 || 8192 < dest + r.words || clash then s
    else
      let ws := (List.range r.words).map fun i => tget 0 m.store (r.basew + i)
      let rest := tfilter m.store fun a _ => !(r.basew ≤ a && a < r.basew + r.words)
      s.setMt mt { m with
        dir := tput m.dir entry { r with basew := dest }
        store := (List.range ws.length).foldl (fun t i => tput t (dest + i) (ws.getD i 0)) rest })

/-- PATTERN_AGE_SWEEP (R330): every 2^30 cycles the ages of records unused for longer than 2^31 cycles are set to 2^31. -/
def execPatternAgeSweep (mt : Nat) (s : State) : Host.Outcome State Fault Refusal :=
  let m := s.getMt mt
  let now : BitVec 32 := s.cycle.setWidth 32
  .next (if s.cycle.toNat < m.sweep + 2 ^ 30 then s
    else s.setMt mt { m with
      sweep := s.cycle.toNat
      dir := tmap m.dir fun _ r => if 2 ^ 31 < r.age now then { r with lastUse := now - BitVec.ofNat 32 (2 ^ 31) } else r })

/-- TRET on a faulted compile (R325). -/
def State.compileReturn (s : State) (mt : Nat) (c : Compile) (mode : Nat) : State :=
  if mode = 0 then s.setCompile mt c { c with faulted := false, running := false }
  else
    let s := s.mapMt mt fun m =>
      let r := tget {} m.dir c.dir
      { m with compiles := m.compiles.filter (· != c), dir := if r.st = 1 then tput m.dir c.dir { r with st := 0 } else m.dir }
    if mode = 1 then s else s.launchFaulted c.launch

/-! ## SPMM (R71, R254, R333 to R335) -/

/-- The fields of an SPMM descriptor. -/
def spHandle (d : Vec) : Word := d.extractLsb' 0 64
def spTile (d : Vec) : Word := d.extractLsb' 64 64
def spX (d : Vec) : Nat := natBits d.toNat 191 128
def spY (d : Vec) : Nat := natBits d.toNat 255 192

/-- The checks of the rows of X or Y: alignment, then all 64 in the serving memory tile. -/
def rowsCheck (w : Word) (a : Nat) : Try Unit :=
  if a % 128 ≠ 0 then .error (some ⟨.align, a, 0⟩)
  else if 2 ^ 30 ≤ a ∨ natBits a 29 20 ≠ 2 * natBits w.toNat 40 32 + natBits w.toNat 41 41 ∨ 2 ^ 20 < a % 2 ^ 20 + 8192 then
    .error (some ⟨.protect, a, 0⟩)
  else .ok ()

/-- SPMM (R254): an engine command numbered in the copy sequence of its serving memory tile. -/
def execSpmm (f : FmtT) (s : State) : Host.Outcome State Fault Refusal :=
  .next (s.engine f fun k r s =>
    let d := r.raw 0 .a f.sa
    if d.toNat / 2 ^ 256 ≠ 0 then s.ceFault k .illegal 0 0xF
    else s.check k (s.tileAt r.c.part (spHandle d) (spTile d) true) fun x =>
      s.check k (rowsCheck (spTile d) (spX d)) fun _ =>
        s.check k (rowsCheck (spTile d) (spY d)) fun _ =>
          if 32 ≤ (s.getMt x.mt).pendingCopies (ceCtxOf k) then s
          else
            let kind : CopyKind := .spmm d x.tensor (f.md.getLsbD 1) (f.md.getLsbD 0)
            let (p, s) := s.newCopy k x.mt (natBits (spTile d).toNat 40 32) (strOf f.sc) 0 kind 0 (BitVec.ofNat 64 (spY d)) 8192
            s.give2 k f false p.toVec)

/-- The tile of an SPMM command at its memory tile. -/
def spTileAt (mt : Nat) (d t : Vec) : TileAt :=
  let w := (spTile d).toNat
  let tr := natBits w 15 0
  let tc := natBits w 31 16
  { mt := mt, tensor := t, tr := tr, tc := tc, slot := natBits (spHandle d).toNat 11 0, gen := natBits (spHandle d).toNat 59 44,
    off := (recBase t + (tr * gridCols t + tc) * recTbStride t) % 2 ^ 20 }

/-- The words of an entry's program. -/
def MemTile.progOf (m : MemTile) (r : PatRec) : List (BitVec 32) := (List.range r.words).map fun i => tget 0 m.store (r.basew + i)

/-- Starts an SPMM on the compiled program. -/
def State.spmmProg (s : State) (mt i : Nat) (r : PatRec) (x : Copy) (hit : Bool) : State :=
  let m := s.getMt mt
  let s := s.setCopy mt { x with path := 1, prog := m.progOf r, dir := i, ver := r.ver, startAt := some (s.cycle.toNat, x.path) }
  let s := s.mapMt mt fun m => { m with dir := tput m.dir i { r with
    use := r.use + 1, lastUse := if hit then s.cycle.setWidth 32 else r.lastUse } }
  if hit then s.countPage (cePage x.ce) x.ctx 0x111 1 else s

/-- Starts an SPMM on the fallback: the whole block is read and checked before any row is written. -/
def State.spmmFallback (s : State) (mt : Nat) (x : Copy) (d t : Vec) (count : Bool) : State :=
  let at_ := spTileAt mt d t
  let uref := urefWord 6 (s.lpageOf (s.partOf x.launch) (mt / 2)) (mtTile (mt % 2)) x.ctx 0 x.seq.toNat
  let word := (promiseWord (s.lpageOf (s.partOf x.launch) (mt / 2)) mt x.ctx x.launch x.seq.toNat).toNat
  let count (s : State) : State := if count then s.countPage (cePage x.ce) x.ctx 0x113 1 else s
  match s.readBlock mt at_.off t with
  | (.wait, s) => s
  | (.lost a, s) => (count (s.setCopy mt { x with state := .faulted, path := 5 })).blockFault x.launch mt x.ctx uref (spHandle d) (spTile d) .memUe a word
  | (.bad, s) => (count (s.setCopy mt { x with state := .faulted, path := 5 })).blockFault x.launch mt x.ctx uref (spHandle d) (spTile d) .config 0 word
  | (.prog _ p, s) => count (s.setCopy mt { x with path := 2, prog := p })

/-- The SPMM commands of an engine that may start or go on: the first unfinished one of each context. -/
def MemTile.spmmHeads (m : MemTile) : List Copy :=
  let live := m.copies.filter fun x => (x.state == .pending || x.state == .faulted) &&
    (match x.kind with | .spmm _ _ _ _ => true | _ => false)
  ((live.map Copy.who).eraseDups).filterMap fun k => live.find? fun x => x.who == k

/-- An SPMM that must wait for its own context's compile in its stream (R333). -/
def State.spmmWaits (s : State) (mt : Nat) (x : Copy) (d t : Vec) (nw : Bool) : Bool :=
  match (s.getMt mt).pattern (spTileAt mt d t) with
  | some (_, r) => !nw && x.path == 0 && r.st == 1 && r.opage == (s.getCe x.ce).lpage && r.octx == ceSlot x.ce && r.ostr == x.str
  | none => false

/-- SPMM_START (R333, R335): a command that has not started, or that a stop ended, chooses its path. -/
def State.spmmStart (s : State) (mt : Nat) : State :=
  let pick := (s.getMt mt).spmmHeads.find? fun x => s.copyGoes mt x && (x.path == 0 || x.path == 3 || x.path == 4) &&
    (match x.kind with | .spmm d t _ nw => !s.spmmWaits mt x d t nw | _ => false)
  match pick with
  | none => s
  | some x =>
    match x.kind with
    | .spmm d t _ _ =>
      match (s.getMt mt).pattern (spTileAt mt d t), x.path with
      | some (i, r), 0 => if r.st = 2 then s.spmmProg mt i r x true else s.spmmFallback mt x d t true
      | none, 0 => s.spmmFallback mt x d t true
      | some (i, r), 3 => if r.st = 2 ∧ r.ver = x.ver then s.spmmProg mt i r x false else s.spmmFallback mt x d t false
      | _, _ => s.spmmFallback mt x d t false
    | _ => s

/-- SPMM_START. -/
def execSpmmStart (mt : Nat) (s : State) : Host.Outcome State Fault Refusal := .next (s.spmmStart mt)

/-- A program's micro-operations, and its scale byte of a row and column. -/
def progUops (t : Vec) (p : List (BitVec 32)) : List (BitVec 32) := p.take (p.length - scaleBytes t / 4)
def progScale (t : Vec) (p : List (BitVec 32)) (row col : Nat) : Option Nat :=
  match recBlk t with
  | 0 => none
  | b =>
    let size := if b = 1 then 16 else 32
    let n := row * (64 / size) + col / size
    let w := lget 0 (p.drop (p.length - scaleBytes t / 4)) (n / 4)
    some (natBits w.toNat (8 * (n % 4) + 7) (8 * (n % 4)))

/-- The accumulator of a row after one micro-operation: 32 fused multiply-adds (R71). -/
def spmmOp (t : Vec) (p : List (BitVec 32)) (u : BitVec 32) (xrow acc : Vec) : Vec :=
  let v := u.toNat
  let a := scaleBy (progScale t p (natBits v 31 26) (natBits v 25 20)) (elemVal (spTy t) (recBook t) (natBits v 15 0))
  ofLanes 32 ((List.range 32).map fun l => fmaVal a (lane xrow 32 l) (lane acc 32 l))

/-- A line of the serving tile as an SPMM reads it, through port P3; it waits for the bank, and an uncorrectable word is
MEM_UE at the line's scratchpad address. -/
def State.spmmRead (s : State) (mt base off : Nat) : Try Vec × State :=
  match s.banksAwake mt off 128 with
  | (false, s) => (.error none, s)
  | (true, s) =>
    let s := s.meetWords mt off 128
    if s.scratchLost mt off 128 then (.error (some ⟨.memUe, base / 2 ^ 20 * 2 ^ 20 + off, 0⟩), s)
    else (.ok (s.scratch.readLine (scratchAddr mt off)), s.touchBank mt (off / 128 % 16) 3)

/-- Writes a row of an SPMM through port P3, or waits for its bank. -/
def State.spmmWrite (s : State) (mt off : Nat) (v : Vec) : Try Unit × State :=
  match s.banksAwake mt off 128 with
  | (false, s) => (.error none, s)
  | (true, s) => (.ok (), (s.scratchWrite mt off (bytesOfNat 128 v.toNat)).touchBank mt (off / 128 % 16) 3)

/-- Flat position of a micro-operation (R326). -/
def uopPos (u : BitVec 32) : Nat := natBits u.toNat 31 20

/-- Micro-operations of SPMM's granule (R239, R335). -/
def spmmGranule : Nat := 64

/-- Works on an SPMM for up to n micro-operations, row by row in ascending order: the next non-zero of the row is gathered and
accumulated, from +0 or from the row of Y; after the row's last the row is written; a row with none is written +0, or left
as it is with .acc (R254, R334). `m` bounds the steps. The command as far as it has come. -/
def State.spmmWork (mt : Nat) (d t : Vec) (acc : Bool) : Nat → Nat → State → Copy → Try Unit × Copy × State
  | 0, _, s, x => (.ok (), x, s)
  | m + 1, n, s, x =>
    if 64 ≤ x.chunk then (.ok (), x, s)
    else
      let yo := spY d % 2 ^ 20 + 128 * x.chunk
      match (progUops t x.prog).find? fun u => x.next ≤ uopPos u && uopPos u / 64 == x.chunk with
      | some u =>
        if n = 0 then (.ok (), x, s)
        else
          match (match x.rowAcc with
            | some v => (.ok v, s)
            | none => if acc then s.spmmRead mt (spY d) yo else (.ok 0, s) : Try Vec × State) with
          | (.error e, s) => (.error e, x, s)
          | (.ok v, s) =>
            match s.spmmRead mt (spX d) (spX d % 2 ^ 20 + 128 * natBits u.toNat 25 20) with
            | (.error e, s) => (.error e, { x with rowAcc := x.rowAcc.map fun _ => v }, s)
            | (.ok xrow, s) =>
              State.spmmWork mt d t acc m (n - 1) s { x with rowAcc := some (spmmOp t x.prog u xrow v), next := uopPos u + 1 }
      | none =>
        let y := { x with chunk := x.chunk + 1, done := 128 * (x.chunk + 1), next := 64 * (x.chunk + 1), rowAcc := none }
        match x.rowAcc, acc with
        | none, true => State.spmmWork mt d t acc m n s y
        | v, _ =>
          match s.spmmWrite mt yo (v.getD 0) with
          | (.error e, s) => (.error e, x, s)
          | (.ok _, s) => State.spmmWork mt d t acc m n s y

/-- SPMM_COMPLETE (R254, R334): a started command goes on by its granule of 64 micro-operations, from the cycle after its
start; with row 63 written its promise completes, with a release over Y. -/
def State.spmmComplete (s : State) (mt : Nat) : State :=
  match (s.getMt mt).spmmHeads.find? fun x => s.copyGoes mt x && (x.path == 1 || x.path == 2 || x.path == 6) &&
      x.startAt.all (fun a => a.1 < s.cycle.toNat) with
  | none => s
  | some x =>
    match x.kind with
    | .spmm d t acc _ =>
      match State.spmmWork mt d t acc 256 spmmGranule s x with
      | (.error (some e), x, s) => s.copyFault mt x e
      | (.error none, x, s) => s.setCopy mt x
      | (.ok _, x, s) =>
        if x.chunk < 64 then s.setCopy mt x
        else ((s.setCopy mt x).releaseUse mt x).copyComplete mt { x with done := 8192 }
    | _ => s

/-- SPMM_COMPLETE. -/
def execSpmmComplete (mt : Nat) (s : State) : Host.Outcome State Fault Refusal := .next (s.spmmComplete mt)

/-- TRET on a faulted SPMM (R207, R325): again; its 4 KiB of rows discarded, or, for a malformed block, complete with no
row written; or killed. -/
def State.spmmReturn (s : State) (mt : Nat) (x : Copy) (mode : Nat) : State :=
  match mode with
  | 0 => s.setCopy mt { x with state := .pending, path := if x.path = 5 then 4 else x.path }
  | 1 =>
    let next := (x.chunk / 32 + 1) * 32
    if x.path = 5 ∨ 64 ≤ next then (s.releaseUse mt x).copyComplete mt x
    else s.setCopy mt { x with state := .pending, chunk := next, next := 64 * next, rowAcc := none }
  | _ => ((s.releaseUse mt x).setCopy mt { x with state := .killed }).launchFaulted x.launch

end Sys2Proof.Machine
end

