-- ==== Sys2Proof/Machine/Saves.lean ====
section
/-!
DEFINITION. Sys2Proof/Machine/Saves.lean: the bytes of a save area (R412 to R414). What the rules give a place stands there; the
rest of the area, fields without a layout among it, holds free values (log entry 8).
-/

namespace Sys2Proof.Machine

/-- Bytes at an offset of a save area. -/
abbrev Piece := Nat × List Byte

/-- Listed bytes over zeros. -/
def zerosAnd (n : Nat) (cells : List (Nat × Byte)) : List Piece := (0, List.replicate n 0) :: cells.map fun c => (c.1, [c.2])

/-- Pieces moved by an offset. -/
def piecesAt (a : Nat) (ps : List Piece) : List Piece := ps.map fun p => (a + p.1, p.2)

/-- The tokens of an endpoint of depth d in the pool, from an entry on; `i` counts from the endpoint's first entry. -/
def poolPieces (start d : Nat) (toks : List (Nat × Token)) : List Piece :=
  toks.map fun x => (128 * (start + x.1 % max 1 d), bytesOfNat 128 x.2.data.toNat)

/-- Tokens with their places counted from n. -/
def numbered (n : Nat) (ts : List Token) : List (Nat × Token) := (List.range ts.length).map fun i => (n + i, lget default ts i)

/-- The endpoint pool of a context: the filled slots of its inputs, and of its outputs the slots that await departure and the staged
ones (R338 to R340). -/
def State.savedPool (s : State) (c : CeCtx) : List Piece :=
  (List.range 8).flatMap fun n =>
    (match c.inCh n with
     | none => []
     | some ch => poolPieces (lget 0 c.poolIn n) (s.chanD ch).depth (numbered (lget {} c.ins n).ptr (s.chanD ch).endq)) ++
    match c.outCh n with
    | none => []
    | some ch =>
      let o := lget {} c.outs n
      let d := max 1 (s.chanD ch).depth
      let q := (s.chanD ch).startq
      poolPieces (lget 0 c.poolOut n) d (numbered (o.ptr + d - q.length) q ++ o.stage.map fun e => (o.ptr + e.1, e.2))

/-- A compute element's section (R414): registers, endpoint pool and the slot values of a residue. -/
def State.savedCe (s : State) (c : CeCtx) : List Piece :=
  let bits := (List.range 8).map fun i => b2n (c.regs.p.getD i false) * 2 ^ i
  [(0x0000, c.regs.s.toList.flatMap fun v => bytesOfNat 8 v.toNat), (0x040, c.regs.w.toList.flatMap fun v => bytesOfNat 128 v.toNat),
   (0x240, bytesOfNat 1 bits.sum), (0x248, bytesOfNat 8 c.stat.toNat), (0x250, bytesOfNat 8 c.seed.toNat)] ++
  piecesAt 0x1000 (s.savedPool c) ++
  if c.fir.active then c.fir.slots.map fun e => (0x5000 + 128 * e.1, bytesOfNat 128 e.2.toNat) else []

/-- The number of a router on its page (R9). -/
def routerTile (r : Nat) : Nat := ry r % 4 * 4 + rx r % 4

/-- The tokens of a launch that rest at a page's routers (R341, R413): the first of a hop in the input slot at its far end, the second
in the output register at its near end. -/
def State.savedTokens (s : State) (id page : Nat) : List Piece :=
  (s.chans.filter fun e => e.2.launch == id).flatMap fun e =>
    (List.zip e.2.hops e.2.nums).flatMap fun x =>
      let near := x.1.link / 5
      let dir := x.1.link % 5
      let at_ (r base port : Nat) (t : Option Token) : List Piece :=
        match t with
        | some t => if routerPage r = page then [(0x8000 * routerTile r + base + 128 * (16 * port + x.2.1), bytesOfNat 128 t.data.toNat)] else []
        | none => []
      match neighbour near dir with
      | some far => at_ far 0x1000 ((dir + 2) % 4) x.1.toks.head? ++ at_ near 0x3800 dir (x.1.toks.drop 1).head?
      | none => []

/-- The tile state word of a tile entry: READY, with the pending fragments of its owner (R383, R390). -/
def entryWord (e : TileEntry) (pend : List Fragment) : Nat :=
  let fs := pend.filter fun f => f.real && mcAcc f.word == e.tile
  (match fs with | f :: _ => mcSeq f.word * 2 ^ 33 | [] => 0) + min 16 fs.length * 2 ^ 28 + e.ctx % 4 * 2 ^ 26 + 2 ^ 25 +
    (e.node * 8 + e.tile) % 2 ^ 13 * 4 + 2

/-- A matrix node's section: tile state words and contents, and the pending fragments of the page's context (R390, R413). -/
def savedNode (node : Nat) (tiles : List (TileEntry × List Fragment)) (pend : List Fragment) : List Piece :=
  ((tiles.filter fun e => e.1.node == node).flatMap fun e =>
    (8 * e.1.tile, bytesOfNat 8 (entryWord e.1 e.2)) :: piecesAt (0x1000 + 0x8000 * e.1.tile) (zerosAnd 0x8000 e.1.contents)) ++
  (List.range pend.length).flatMap fun i =>
    match pend[i]? with
    | none => []
    | some f => [(0x41000 + 64 * i, bytesOfNat 8 f.word.toNat), (0x42000 + 0x4000 * i, f.rows.flatMap fun v => bytesOfNat 128 v.toNat)]

/-- The pending fragments of a saved page's context at one of its nodes. -/
def SavedPage.pendAt (sv : SavedPage) (n : Nat) : List Fragment := ((sv.pend.find? fun x => x.1 == n).map (·.2)).getD []

/-- What R413 and R414 give a place in the save area of one page of a launch. -/
def State.savedPieces (s : State) (id lp : Nat) (sv : SavedPage) (tiles : List (TileEntry × List Fragment)) : List Piece :=
  sv.ces.flatMap (fun x => piecesAt (0x1000 + 84 * 1024 * x.1) (s.savedCe x.2)) ++
  (List.range 16).map (fun t => (0xFD000 + 0x8000 * t + 0x6000, List.replicate 0x2000 0)) ++
  piecesAt 0xFD000 (s.savedTokens id sv.home.1) ++
  (List.range 2).flatMap (fun n => piecesAt (0x17D000 + 520 * 1024 * n) (savedNode (lp * 2 + n) tiles (sv.pendAt n))) ++
  sv.windows.flatMap fun x => piecesAt (0x2E2000 + 0x10000 * x.1) (zerosAnd 0x10000 x.2)

/-- Writes bytes at a virtual address, sector by sector; what does not translate is passed over. -/
def State.areaWrite (part : Nat) : Nat → Nat → List Byte → State → State
  | 0, _, _, s => s
  | fuel + 1, va, bs, s =>
    if bs.isEmpty then s
    else
      let n := 64 - va % 64
      State.areaWrite part fuel (va + n) (bs.drop n) (match s.translate part va with
        | .ok (pa, _) => s.devWriteSector pa (bs.take n)
        | .error _ => s)

/-- n bytes that the specification gives no value: free values (log entry 8). -/
def freeBytes (at_ n : Nat) : List Byte := (List.range n).map fun i => (Config.freeWord (at_ + i)).setWidth 8

/-- The save writes a launch's areas (R409, R412 to R414). Every sector is written whole, so one that was lost there is lost no more. -/
def State.writeSaves (s : State) (id : Nat) : State :=
  let l := s.launchD id
  if (s.getPart l.part).ranges.isEmpty && (s.rootTable l.part).isNone then s
  else
    let tiles := (List.zip l.pages l.save).flatMap fun x => x.2.tiles.map fun t => (t, if t.node / 2 == x.1 then x.2.pendAt (t.node % 2) else [])
    let sectors := s.saveSectors l
    let blank := (List.range sectors.length).foldl (fun t i =>
      State.areaWrite l.part 1 (lget 0 sectors i) (freeBytes (s.free + 64 * i) 64) t) s
    (List.range l.pages.length).foldl (fun t i =>
      match l.save[i]? with
      | none => t
      | some sv =>
        (s.savedPieces id (l.pages.getD i 0) sv tiles).foldl (fun t p =>
          State.areaWrite l.part (p.2.length / 64 + 2) (s.saveArea l i + p.1) p.2 t) t)
      { blank with free := s.free + 64 * sectors.length }

end Sys2Proof.Machine
end

