-- ==== Sys2Proof/Machine/Stops.lean ====
section
/-!
DEFINITION. Sys2Proof/Machine/Stops.lean: how a stop is acknowledged and completed (R196, R239, R389, R407 to R411), and the
records that wait for a place in the trap queue (R419).
-/

namespace Sys2Proof.Machine

/-! ## Cuts (R196) -/

/-- What an instruction that can wait for room does to a state (R196); none for the others. -/
def waitStep : Instr → State → Option (Host.Outcome State Fault Refusal)
  | .copy f, s => some (execCopy f s)
  | .sopen f, s => some (execSopen f s)
  | .qpush f, s => some (execQpush f s)
  | .wload f, s => some (execWload f s)
  | .spld f, s => some (execSpld f s)
  | .spmm f, s => some (execSpmm f s)
  | .xsend f, s => some (execXsend f s)
  | _, _ => none

/-- The wait of such an instruction, if it waits, is one for room: a fill or a sparse command whose page holds it waits for that
page, and an SOPEN of a stream that is being closed for its SCLOSE. -/
def State.roomWait (s : State) (k : Nat) : Instr → Bool
  | .wload f => (s.nodeAt (s.getCe k).part ((s.rdAt k).w64 .a f.sa)).isOk
  | .spld f => (s.tileAt (s.getCe k).part ((s.rdAt k).w64 .a f.sa) ((s.rdAt k).w64 .b f.sb) true).isOk
  | .spmm f => let d := (s.rdAt k).raw 0 .a f.sa; (s.tileAt (s.getCe k).part (spHandle d) (spTile d) true).isOk
  | .sopen f => (tfind s.streams (streamKey k f.str.toNat)).isNone
  | _ => true

/-- The vector request of a context that waits in its element, which holds 16 slots already (R279). -/
def State.limitedGather (s : State) (k : Nat) : Option (Nat × Acc) :=
  (s.getCe k).pend.findSome? fun a =>
    match a.kind with
    | .gather mt _ =>
      if 16 ≤ (s.getMt mt).slotsOf (elemOf k) && (s.getMt mt).gatherIn.any (fun r => r.ce == k && r.acc == a.id) then some (mt, a) else none
    | _ => none

/-- The block of a context is held at its instruction by a wait of R196. -/
def State.heldForRoom (s : State) (k : Nat) : Bool :=
  let f := (s.getCe k).fir
  match f.hold with
  | .gather => (s.limitedGather k).isSome
  | .value acc => (s.limitedGather k).any (fun x => x.2.id == acc) || (s.getMt (homeMt k)).lookups.any fun l => l.ce == k && s.lookupFull (homeMt k) l
  | .xlate _ => false
  | .none =>
    f.idx < f.block.words.length &&
    (match ceWord f.word with
     | .ok i =>
       let s' := { s with cur := .ce k }
       (match waitStep i s' with
        | some (.next t) => t == s' && s'.roomWait k i
        | _ => false)
     | .error _ => false)

/-- Takes back the vector request that waits in its element, and a lookup that waits for room. -/
def State.takeBack (s : State) (k : Nat) : State :=
  let s := match s.limitedGather k with
    | none => s
    | some (mt, a) =>
      (s.mapCe k (·.dropAcc a.id)).mapMt mt fun m => { m with gatherIn := m.gatherIn.filter fun r => !(r.ce == k && r.acc == a.id) }
  if (s.getMt (homeMt k)).lookups.any (fun l => l.ce == k) then
    s.mapMt (homeMt k) fun m => { m with lookups := m.lookups.filter fun l => l.ce != k } else s

/-- Cuts the block of a context at the instruction it is held at: everything below stands, and the binding keeps a residue
with no record (R196). -/
def State.cutBlock (s : State) (k : Nat) : State :=
  let s := (s.takeBack k).applyMoves k
  s.mapCe k fun c => { c with
    fir := { c.fir with hold := .none }
    binds := lmod c.binds c.fir.bind fun b => { b with state := .runnable } }

/-! ## Units that are still (R196, R239, R389, R407) -/

/-- A block of a context runs: it is not held for an access whose request a router holds, which never ends (R18). -/
def State.blockRuns (s : State) (k : Nat) : Bool :=
  let c := s.getCe k
  let ended := match c.fir.hold with
    | .value a => c.heldAccs.contains a
    | .gather => !c.heldAccs.isEmpty
    | _ => false
  c.fir.active && (lget {} c.binds c.fir.bind).state == .firing && !ended

/-- The accesses of a context that stay behind at a stop: engine work, pushes a port has taken, requests that a router holds, and
accesses that wait behind one of those in their stream (R18, R196). -/
def stayBehind (held : List Nat) : List Acc → List Acc → List Acc
  | _, [] => []
  | stuck, a :: rest =>
    let waits := stuck.any fun e => e.blocks a
    let stays := match a.kind with
      | .push _ _ => a.sent || waits
      | _ => held.contains a.id || (!a.sent && waits)
    match a.kind with
    | .engine => a :: stayBehind held stuck rest
    | _ => if stays then a :: stayBehind held (stuck ++ [a]) rest else stayBehind held stuck rest

/-- A copy's next chunk lies on a page that moves (R425). -/
def State.chunkHeld (s : State) (x : Copy) : Bool :=
  [x.src, x.dst].any fun w =>
    match place w with
    | some (0, a) => [0, 4095].any fun i => (tget {} (s.getPart (s.partOf x.launch)).map (natBits (a + 4096 * x.chunk + i) 29 21)).mov
    | _ => false

/-- A copy's engine cannot go on with its context's copies while the launch is being stopped: the one at their head is FAULTED,
waits at a moving page, follows accesses that stay behind, or is a fill that waits for fragments. -/
def State.copyStuck (s : State) (mt : Nat) (x : Copy) : Bool :=
  let going (y : Copy) : Bool := y.who == x.who && (y.state == .pending || y.state == .faulted) &&
    (match y.kind with | .spmm _ _ _ _ => false | _ => true)
  let y := ((s.getMt mt).copies.find? going).getD x
  y.state == .faulted || s.chunkHeld y || !s.handed y.ce y.after ||
  (match y.kind with | .fill mn woff nu _ _ => y.chunk == 0 && s.fillWaits mn woff nu | _ => false)

/-- An order-out that no progress of the stopping launch's engines can publish: its access stays behind, or its copy is stuck
(log entry 107). -/
def State.outStuck (s : State) (k acc : Nat) : Bool :=
  match (s.getCe k).pend.find? fun a => a.id == acc with
  | none => false
  | some a =>
    match a.kind with
    | .engine => s.mts.any fun m => m.2.copies.any fun x => x.ce == k && x.acc == acc && x.kind == .copy && s.copyStuck m.1 x
    | _ => true

/-- Every access of a context is performed, but for those that stay behind, and every order-out is published (R196, R285). -/
def State.quiet (s : State) (k : Nat) : Bool :=
  let c := s.getCe k
  (stayBehind c.heldAccs [] c.pend).length == c.pend.length &&
  c.outs.all fun o => match o.orders with | r :: _ => !r.performed && s.outStuck k r.acc | [] => true

/-- A record of a unit waits for a place; ID is left out of the comparison (R410, R419). -/
def State.unitRecordWaits (s : State) (part : Nat) (uref : Word) : Bool :=
  (s.getPart part).trapWait.any fun e => (e.2.extractLsb' 96 32) == uref.extractLsb' 32 32

/-- A fragment of a context that the node finishes at a stop: its rows are all at hand, and it has started or can (R389). -/
def State.fragsToFinish (s : State) (mn c : Nat) : Bool :=
  (List.range (s.getMn mn).frags.length).any fun i =>
    match (s.getMn mn).frags[i]? with
    | some f => f.ctx == c && f.real && f.need ≤ f.rows.length && (f.started || s.startable mn c == some i)
    | none => false

/-- The copy-like command of a stop unit. -/
def State.unitCopy (s : State) (launch id : Nat) : Option (Nat × Copy) :=
  let mt := id / 2 ^ 32 / 4096
  ((s.getMt mt).copies.find? fun x => x.launch == launch && x.who == id / 2 ^ 32 % 4096 && x.seq.toNat == id % 2 ^ 32).map fun x => (mt, x)

/-- A unit has finished its granule and written its record. -/
def State.unitStill (s : State) (launch unit : Nat) : Bool :=
  let id := unitId unit
  let part := (s.launchD launch).part
  match unitKind unit with
  | 1 => !s.blockRuns id && s.quiet id &&
      !((List.range 4).any fun b => s.recordWaits part (State.ceUref id b (s.getCe id)))
  | 2 => !s.recordWaits part (s.opUref id)
  | 3 => (match s.unitCopy launch id with
      | some (mt, x) =>
        !(match x.kind with | .fill mn _ _ _ _ => s.fillsInFlight mt mn | _ => false) && !s.recordWaits part (s.copyUref mt x)
      | none => true)
  | 4 => !s.fragsToFinish (id / 4) (id % 4) && !s.unitRecordWaits part (s.mnUref (id / 4) (id % 4) 0)
  | 5 => (match tfind s.streams id with | some x => !s.recordWaits part (s.streamUref x) | none => true)
  | 6 => !s.recordWaits part (s.ringUref id)
  | 9 => !((s.getMt (id / 256)).compiles.any fun c => c.dir == id % 256 && c.launch == launch && !c.faulted)
  | _ => true

/-- A node sets aside the fragments of a context that it does not finish: they become pending fragments, in acceptance order, and
the DONE slots reserved for them are free again (R389). -/
def MatNode.setAside (m : MatNode) (c : Nat) : MatNode :=
  let mine := (m.frags.filter fun f => f.ctx == c).map fun f => { f with started := false, due := 0 }
  { m with
    frags := m.frags.filter fun f => f.ctx != c
    ctxs := lmod m.ctxs c fun x => { x with pend := mine ++ x.pend, reserved := 0 } }

/-- An SPMM that has been stopped: it starts again by its path, from where it stands (R335). -/
def Copy.stopped (x : Copy) : Copy :=
  match x.kind with
  | .spmm _ _ _ _ => { x with path := match x.path with | 1 | 6 => 3 | 2 => 4 | p => p }
  | _ => x

/-- What a unit does as it acknowledges: a stopped SPMM gives up its program (R335), a matrix node sets fragments aside (R389),
and a refill buffer goes back to the head of its ring (R347). -/
def State.unitRest (s : State) (launch unit : Nat) : State :=
  let id := unitId unit
  match unitKind unit with
  | 3 => (match s.unitCopy launch id with
      | some (mt, x) => (s.releaseUse mt x).setCopy mt x.stopped
      | none => s)
  | 4 => if (tfind s.mns (id / 4)).isSome then s.mapMn (id / 4) (·.setAside (id % 4)) else s
  | 6 => s.mapChan id fun c => { c with ring := c.refill ++ c.ring, refill := [] }
  | _ => s

/-! ## Completing a stop (R408, R409) -/

/-- A pre-empted victim returns to the head of its level, with the WAITED it had: the victims of one pre-emption stand there in the
order of their first placement (R34, R351). -/
def State.requeueHead (s : State) (id mark : Nat) : State :=
  let s := s.mapLaunch id fun l => { l with victimOf := mark }
  let l := s.launchD id
  let before (x : Nat) : Bool := let y := s.launchD x; y.state == .saved && y.victimOf == mark && y.firstAt < l.firstAt
  s.mapPart l.part fun p => { p with queues := lmod p.queues l.level fun q => q.takeWhile before ++ [id] ++ q.dropWhile before }

/-- A stop is complete: its action follows (R409). -/
def State.stopDone (s : State) (st : Stop) : State :=
  let s := { s with stops := s.stops.filter fun x => x.launch != st.launch }
  match st.action with
  | .save =>
    let s := (s.saveLaunch st.launch).writeSaves st.launch
    if st.requeue then s.requeueHead st.launch st.mark else s
  | .kill => s.killAll st.launch
  | .retire => s.retire st.launch (s.launchD st.launch).result

/-- A phase of a stop whose units have all acknowledged ends: the second phase is sent, or the stop is complete. -/
def State.stopAdvance (s : State) (launch : Nat) : State :=
  match s.stops.find? fun x => x.launch == launch with
  | none => s
  | some st =>
    if !st.waiting.isEmpty then s
    else
      let set (st' : Stop) : State :=
        let one (x : Stop) : Stop := if x.launch = launch then st' else x
        { s with stops := s.stops.map one }
      if st.phase = 1 then
        match s.phase2 launch with
        | [] => s.stopDone st
        | us => set { st with phase := 2, waiting := us }
      else s.stopDone st

/-- STOP_ACKNOWLEDGE (R196, R409): a unit that has finished its granule acknowledges; a compute element whose block waits
for room is cut there. -/
def State.stopAck (s : State) (launch unit : Nat) : State :=
  match s.stops.find? fun x => x.launch == launch with
  | none => s
  | some st =>
    if st.waiting.isEmpty then s.stopAdvance launch
    else if !st.waiting.contains unit then s
    else
      let s := if unitKind unit = 1 && s.blockRuns (unitId unit) && s.heldForRoom (unitId unit) then s.cutBlock (unitId unit) else s
      let s := if unitKind unit = 4 then s.feedAll (unitId unit / 4) else s
      if !s.unitStill launch unit then s
      else
        let s := s.unitRest launch unit
        let rest (x : Stop) : Stop := if x.launch = launch then { x with waiting := x.waiting.filter fun u => u != unit } else x
        ({ s with stops := s.stops.map rest } : State).stopAdvance launch

/-- STOP_ACKNOWLEDGE. -/
def execStopAcknowledge (launch unit : Nat) (s : State) : Host.Outcome State Fault Refusal := .next (s.stopAck launch unit).settle

/-! ## Records that wait (R419) -/

/-- DEFERRED_RECORD_WRITE (R419): the oldest waiting record for which there is a place enters the queue. -/
def State.deferredRecord (s : State) (part : Nat) : State :=
  let p := s.getPart part
  let room (own : Bool) : Bool := (p.traps.filter fun e => e.1 == own).length < (if own then Config.trapSuperPlaces else Config.trapPlaces)
  match p.trapWait.find? fun e => room e.1 with
  | none => s
  | some e => (s.setPart part { p with trapWait := p.trapWait.erase e }).enterRecord part e.1 e.2

/-- DEFERRED_RECORD_WRITE. -/
def execDeferredRecordWrite (part : Nat) (s : State) : Host.Outcome State Fault Refusal := .next (s.deferredRecord part)

/-! ## Mapping a page out (R434) -/

/-- PAGE_MAPOUT. -/
def execPageMapout (page : Nat) (s : State) : Host.Outcome State Fault Refusal := .next (s.mapoutPage page).settle

end Sys2Proof.Machine
end

