-- ==== Sys2Proof/Machine/Host.lean ====
section
/-!
DEFINITION. Sys2Proof/Machine/Host.lean: the partition window of a virtual function (R455, R457, R458), jobs (R43, R456,
R457), the loader's turn (R427), host memory writes (R451) and checkpoints (R465).
-/

namespace Sys2Proof.Machine

/-! ## The partition window (R451, R455, R465) -/

/-- What a write does to the partition a VF is bound to; an unbound VF ignores writes (R452). -/
def State.onVf (s : State) (vf : Nat) (g : Nat → State) : State :=
  if 128 ≤ vf then s else match s.dev.vfPart vf with | some part => g part | none => s

/-- PART_JOB_REC, PART_CKPT_DST and PART_CKPT_LIM. -/
def Job.plainWrite (j : Job) (reg : Nat) (v : Word) : Job :=
  match reg with
  | 0x000 => { j with recAddr := BitVec.ofNat 64 (keepBits v 55 0) }
  | 0x0C0 => { j with ckptDst := BitVec.ofNat 64 (keepBits v 63 48 + keepBits v 41 0) }
  | 0x0D8 => { j with ckptLim := v.setWidth 32 }
  | _ => j

/-- REGISTER_WRITE (R455, R459, R465). -/
def execRegisterWrite (win : RegWindow) (reg : Nat) (value : BitVec 64) (host : Bool) (s : State) :
    Host.Outcome State Fault Refusal :=
  .next (match win with
    | .pf => s.plainWrite reg value host
    | .vf n => s.onVf n fun part => s.mapJob part fun j => j.plainWrite reg value)

/-- PART_TRAPPOP (R455): removes the oldest record. -/
def execPartTrappop (vf : Nat) (value : BitVec 64) (s : State) : Host.Outcome State Fault Refusal :=
  .next (if value.getLsbD 0 then s.onVf vf fun part => (s.popRecord part).2.mapPart part fun p => { p with popAt := some s.cycle.toNat } else s)

/-- The debugger's read of eight scratchpad bytes: ST and the data (R455). It wakes a drowsy bank and waits for nothing. -/
def State.debugRead (s : State) (part a : Nat) : Nat × Word × State :=
  let p := s.getPart part
  let lp := natBits a 29 21
  let e := tget {} p.map lp
  let mt := e.ppage * 2 + natBits a 20 20
  let off := a % 2 ^ 20
  if p.nl ≤ lp then (3, 0, s)
  else if !e.v || (s.getPage e.ppage).mapout || (s.getMt mt).banks.any (fun b => b.power == .gated) then (1, 0, s)
  else
    let s' := (s.bankAwake mt (off / 128 % 16)).2
    if s.scratchLost mt off 8 then (2, 0, s') else (0, BitVec.ofNat 64 (s.scratch.readNat (scratchAddr mt off) 8), s')

/-- PART_DBG_ADDR_WRITE. -/
def execPartDbgAddrWrite (vf : Nat) (value : BitVec 64) (s : State) : Host.Outcome State Fault Refusal :=
  .next (s.onVf vf fun part =>
    let a := keepBits value 29 3
    let (st, v, s) := s.debugRead part a
    s.mapJob part fun j => { j with dbgAddr := a, dbgData := v, dbgStat := st })

/-! ## Starting a job (R456, R457) -/

/-- What a job record says (R456). -/
structure JobRec where
  ninit : Nat
  init : Nat
  cgtab : Nat
  super : Nat
  phTab : Nat
  first : Nat
  nPhase : Nat

/-- A job record, or none where it breaks its field map. -/
def jobRec (v : Nat) : Option JobRec :=
  let r : JobRec :=
    { ninit := natBits v 391 384, init := natBits v 383 320, cgtab := natBits v 319 256, super := natBits v 255 192,
      phTab := natBits v 191 128, first := natBits v 23 16, nPhase := natBits v 15 8 }
  if natBits v 1023 392 ≠ 0 ∨ natBits v 127 24 ≠ 0 ∨ natBits v 7 0 ≠ 0 ∨ 64 < r.ninit ∨ r.init % 16 ≠ 0 ∨
      (r.ninit = 0 ∧ r.init ≠ 0) ∨ r.nPhase = 0 ∨ r.nPhase ≤ r.first then none
  else some r

/-- Reads n items of `size` bytes at a device virtual address; none where one does not translate. -/
def State.vaItems (s : State) (part va size n : Nat) : Option (List Nat) :=
  (List.range n).foldr (fun i acc =>
    match acc, s.vaNat part (va + size * i) size with
    | some xs, some v => some (v :: xs)
    | _, _ => none) (some [])

/-- A group table entry: its member count and the address of its member words, or none where it breaks its map. -/
def cgEntry (v : Nat) : Option (Nat × Nat) :=
  if natBits v 63 12 ≠ 0 ∨ natBits v 11 0 = 0 then none else some (natBits v 11 0, natBits v 127 64)

/-- The collective group table that a record names, with its member lists; or the ERR of the step (R456, R457). -/
def State.groupTable (s : State) (part va : Nat) : Except Nat (Tab GroupEntry) :=
  if va = 0 then .ok []
  else
    match s.vaItems part va 16 64 with
    | none => .error 2
    | some es =>
      (List.range 64).foldl (fun acc g =>
        match acc with
        | .error e => .error e
        | .ok t =>
          match cgEntry (es.getD g 0) with
          | none => .error 1
          | some (n, a) =>
            match s.vaItems part a 8 n with
            | none => .error 2
            | some ws => .ok (tput t g { members := ws.map (BitVec.ofNat 64) })) (.ok [])

/-- The initial-register list: numbers and values; or the ERR of the step. -/
def State.initList (s : State) (part va n : Nat) : Except Nat (List (Nat × Word)) :=
  match s.vaItems part va 16 n with
  | none => .error 2
  | some es =>
    if es.all fun e => natBits e 63 12 == 0 && csrInit (natBits e 11 0) then
      .ok (es.map fun e => (natBits e 11 0, BitVec.ofNat 64 (natBits e 127 64)))
    else .error 1

/-- A start ends with its ERR and STATE 0. -/
def State.startFails (s : State) (part err : Nat) : State := s.mapJob part fun j => { j with err := err, starting := false }

/-- Steps 4 and 5: the supervisor is queued at level 0, STATE becomes 1, and phase FIRST starts. A supervisor whose image is
not loaded yet waits for the loader. -/
def State.startGoes (s : State) (part : Nat) : State :=
  let go (s : State) (super : Nat) : State :=
    let (id, s) := s.newId
    let s := (s.mapDev fun d => { d with jobSeen := true }).mapJob part fun j => { j with
      running := true, starting := false, err := 0, id := id, superLaunch := super, ending := false
      completed := 0, killed := 0, faulted := 0, phase := none, toStart := [], preload := none, preloadSlots := [] }
    (s.startPhase part (s.getPart part).job.first).phaseSettle part
  match (s.getPart part).job.superRec with
  | none => go s 0
  | some v =>
    match s.admission part noIssuer [launchRec v.toNat] none true with
    | (.wait, s) => s
    | (.error _, s) => s.startFails part 3
    | (.taken _ ids, s) => go s (ids.headD 0)

/-- Step 3: what a start clears (R36, R43, R381, R445). -/
def Partition.cleared (p : Partition) (groups : Tab GroupEntry) : Partition :=
  { p with
    pred := 0, predOld := 0, predLate := [], barred := [], counters := [], traps := [], trapWait := [], rseq := 0, trapGive := [], cseq := [], cgtab := groups
    collectives := [], tbufs := [], job := { p.job with status := 0 } }

/-- A START (R457): the first step that fails ends it with its ERR. -/
def State.jobStart (s : State) (part : Nat) : State :=
  let j := (s.getPart part).job
  if j.running ∨ j.starting then s.mapJob part fun j => { j with err := 4, again := some s.cycle.toNat }
  else if j.recAddr.toNat % 128 ≠ 0 then s.startFails part 1
  else
    match s.vaNat part j.recAddr.toNat 128 with
    | none => s.startFails part 2
    | some v =>
      match jobRec v with
      | none => s.startFails part 1
      | some r =>
        match s.groupTable part r.cgtab with
        | .error e => s.startFails part e
        | .ok groups =>
          let s := s.mapPart part (·.cleared groups)
          match s.initList part r.init r.ninit with
          | .error e => s.startFails part e
          | .ok regs =>
            let s := regs.foldl (fun s x => s.csrPart part x.1 x.2 true) s
            match (if r.super = 0 then some none else (s.vaNat part r.super 128).map some) with
            | none => s.startFails part 2
            | some sup =>
              (s.mapJob part fun j => { j with
                starting := true, superRec := sup.map (BitVec.ofNat 1024), first := r.first, phTab := r.phTab, nPhase := r.nPhase }).startGoes part

/-- STARTs that found a job running in the cycle in which it ended are applied after its end (R457). -/
def State.lateStarts (s : State) : State :=
  (tkeys s.parts).foldl (fun s part =>
    let j := (s.getPart part).job
    if j.again = some s.cycle.toNat && !j.running && !j.starting then s.jobStart part else s) s

/-- PART_JOB_START. -/
def execPartJobStart (vf : Nat) (value : BitVec 64) (s : State) : Host.Outcome State Fault Refusal :=
  .next (if value.getLsbD 0 then s.onVf vf fun part => s.jobStart part else s)

/-- PART_JOB_CANCEL (R43, R455): with STATE 0 it has no effect; during a checkpoint it waits for the end (R465). -/
def execPartJobCancel (vf : Nat) (value : BitVec 64) (s : State) : Host.Outcome State Fault Refusal :=
  .next (if !value.getLsbD 1 then s else s.onVf vf fun part =>
    let j := (s.getPart part).job
    if !j.running then s
    else if j.ckptRun then s.mapJob part fun j => { j with ckptCancel := true }
    else (s.cancelJob part).settle)

/-- IMAGE_LOAD (R427): the loader keeps or refuses a wanted image, and what waited for it goes on. -/
def execImageLoad (part address : Nat) (body : ImageBody) (s : State) : Host.Outcome State Fault Refusal :=
  .next (
    let s := s.loadImage part address body
    let s := if (s.getPart part).job.starting then s.startGoes part else s
    s.settle)

/-! ## Host memory writes and what the host reads (R451) -/

/-- What a read of the PF's BAR0 gives at an offset. -/
def State.pfRead (s : State) (off : Nat) : Word :=
  if off % 8 = 0 ∧ off < 8 * 0x140 then (s.devReg s.dev.psel (0xC00 + off / 8)).getD 0 else 0

/-- What a read of a VF's window gives at an offset; an unbound VF reads 0 (R452, R455, R465). -/
def State.vfRead (s : State) (vf off : Nat) : Word :=
  match (if vf < 128 then s.dev.vfPart vf else none) with
  | none => 0
  | some part =>
    let p := s.getPart part
    let j := p.job
    if 0x020 ≤ off ∧ off < 0x060 ∧ off % 8 = 0 then
      match p.traps with
      | [] => 0
      | e :: _ => e.2.extractLsb' (8 * (off - 0x020)) 64
    else match off with
    | 0x000 => j.recAddr
    | 0x010 => j.status
    | 0x018 => BitVec.ofNat 64 (j.err * 256 + b2n j.running)
    | 0x080 => BitVec.ofNat 64 j.dbgAddr
    | 0x088 => j.dbgData
    | 0x090 => BitVec.ofNat 64 j.dbgStat
    | 0x0C0 => j.ckptDst
    | 0x0C8 => BitVec.ofNat 64 (2 * b2n j.ckptStay)
    | 0x0D0 => BitVec.ofNat 64 (j.ckptErr * 256 + j.ckptSt)
    | 0x0D8 => j.ckptLim.setWidth 64
    | _ => 0

/-- What a read of n bytes by a VF's BAR2 gives: all ones where an address does not translate. -/
def State.bar2Read (s : State) (vf address n : Nat) : List Byte :=
  (List.range n).map fun i =>
    match (if vf < 128 ∧ address + i < 2 ^ 36 then s.dev.vfPart vf else none) with
    | none => 0xFF
    | some part => match s.translate part (address + i) with
      | .ok (pa, _) => s.device.read (canonAddr pa)
      | .error _ => 0xFF

/-- Writes bytes at a partition's device virtual address, piece by piece within 64-byte sectors; a piece that does not
translate, or that may not be written, is dropped. -/
def State.hostWrite (part : Nat) : Nat → Nat → List Byte → State → State
  | 0, _, _, s => s
  | fuel + 1, va, bs, s =>
    if bs.isEmpty then s
    else
      let n := 64 - va % 64
      let s := if 2 ^ 36 ≤ va then s else
        match s.translate part va with
        | .ok (pa, true) => s.devWriteSector pa (bs.take n)
        | _ => s
      State.hostWrite part fuel (va + n) (bs.drop n) s

/-- VF_BAR2_WRITE. -/
def execVfBar2Write (vf address : Nat) (data : List (BitVec 8)) (s : State) : Host.Outcome State Fault Refusal :=
  .next (s.onVf vf fun part => State.hostWrite part (data.length / 64 + 2) address data s)

/-! ## Checkpoints (R465) -/

/-- PART_CKPT_GO: every launch of the job is stopped with SAVE. -/
def execPartCkptGo (vf : Nat) (value : BitVec 64) (s : State) : Host.Outcome State Fault Refusal :=
  .next (s.onVf vf fun part =>
    let j := (s.getPart part).job
    if j.ckptRun then s
    else if !value.getLsbD 0 then s.mapJob part fun j => { j with ckptStay := value.getLsbD 1 }
    else if !j.running then s
    else
      let s := s.mapJob part fun j => { j with ckptStay := value.getLsbD 1, ckptRun := true, ckptSt := 1, ckptErr := 0 }
      ((s.launches.filter fun e => e.2.part == part && e.2.resident).map (·.1)).foldl (fun s id => s.startStop id .save) s)

/-- The 64 KiB units that the page table maps below a table of a level: (first unit, units) in ascending order. -/
def State.tableUnits (s : State) (base log2 : Nat) : Nat → Nat → Nat → Nat → List (Nat × Nat)
  | 0, _, _, _ => []
  | fuel + 1, level, table, va =>
    (List.range (if level = 0 then 8192 else 512)).flatMap fun i =>
      let va := va + i * (match level with | 0 => 2 ^ 43 | l => leafSize l)
      match levelEntry base log2 level va (s.devNat (table + 8 * i) 8) with
      | .leaf _ _ => [(va / 65536, leafSize level / 65536)]
      | .next t => s.tableUnits base log2 fuel (level + 1) t va
      | .stop _ => []

/-- Adds a run of units to a list of disjoint ascending runs, merging those that touch. -/
def mergeRun (r : Nat × Nat) : List (Nat × Nat) → List (Nat × Nat)
  | [] => [r]
  | x :: rest =>
    if r.1 + r.2 < x.1 then r :: x :: rest
    else if x.1 + x.2 < r.1 then x :: mergeRun r rest
    else
      let lo := min r.1 x.1
      mergeRun (lo, max (r.1 + r.2) (x.1 + x.2) - lo) rest

/-- A run without the units that lie wholly in an area of bytes. -/
def cutRun (area : Nat × Nat) (r : Nat × Nat) : List (Nat × Nat) :=
  let lo := (area.1 + 65535) / 65536
  let hi := area.2 / 65536
  if hi ≤ lo then [r]
  else
    (if r.1 < min lo (r.1 + r.2) then [(r.1, min lo (r.1 + r.2) - r.1)] else []) ++
    (if max hi r.1 < r.1 + r.2 then [(max hi r.1, r.1 + r.2 - max hi r.1)] else [])

/-- The bytes of the launch queue area (R349). -/
def queueArea : Nat := 1280 * 1024

/-- A section of a checkpoint image: its kind, virtual address and 64 KiB units. -/
structure Section where
  kind : Nat
  va : Nat
  units : Nat
  deriving DecidableEq, Repr

/-- The sections of a partition's checkpoint image, in their order. -/
def State.sections (s : State) (part : Nat) : List Section :=
  let p := s.getPart part
  let ranges := if p.xareaLog2 = 0 then [] else (List.range 64).filterMap fun n =>
    (rangeEntry (s.devNat (p.xareaBase + 16 * n) 16)).map fun e => (e.1 / 65536, e.2.2.1 / 65536)
  let tables := match s.rootTable part with
    | some t => s.tableUnits p.xareaBase p.xareaLog2 4 0 t 0
    | none => []
  let qbase := p.regs.drvQbase.toNat
  let mapped := ((ranges ++ tables).foldl (fun acc r => mergeRun r acc) []).flatMap fun r =>
    (cutRun p.spillArea r).flatMap (cutRun (qbase, qbase + queueArea))
  [⟨0, p.spillArea.1, ceilDiv (p.regs.panSize * 1024) 65536⟩, ⟨1, qbase, ceilDiv queueArea 65536⟩] ++
    mapped.map fun r => ⟨2, r.1 * 65536, r.2⟩

/-- The header of an image, padded to whole units. -/
def ckptHeader (cut : Nat) (xs : List Section) : List Byte :=
  let es := bytesOfNat 16 (cut * 2 ^ 64 + xs.length) ++
    xs.flatMap fun x => bytesOfNat 16 (x.units * 2 ^ 64 + x.kind * 2 ^ 56 + x.va)
  es ++ List.replicate (ceilDiv es.length 65536 * 65536 - es.length) 0

/-- 64 KiB units of an image. -/
def ckptUnits (xs : List Section) : Nat := ceilDiv (16 * (xs.length + 1)) 65536 + (xs.map (·.units)).sum

/-- Writes n free bytes at a physical address. -/
def State.writeFree (s : State) (pa n : Nat) : State :=
  { (State.devWrite (n / 64 + 2) s pa (freeBytes s.free n)) with free := s.free + n }

/-- Writes the sections of an image from a physical address on: the spill area with the rings and the save areas it holds, the launch
queues, and the mapped memory. A 64 KiB unit that does not translate gives free bytes (log entry 8). -/
def State.writeSections (part : Nat) : List Section → Nat → State → State → State
  | [], _, _, s => s
  | x :: rest, pa, old, s =>
    let unit (s : State) (i : Nat) : State :=
      match old.vaBytes part (x.va + 65536 * i) 65536 with
      | some bs => State.devWrite 1026 s (pa + 65536 * i) bs
      | none => s.writeFree (pa + 65536 * i) 65536
    State.writeSections part rest (pa + 65536 * x.units) old ((List.range x.units).foldl unit s)

/-- Some sector of a mapped section reads as uncorrectable. -/
def State.ckptLost (s : State) (part : Nat) (xs : List Section) : Bool :=
  s.sectorLost != [] && xs.any fun x => (List.range (x.units * 1024)).any fun i =>
    match s.translate part (x.va + 64 * i) with
    | .ok (pa, _) => s.devLost pa
    | .error _ => false

/-- The copy of a checkpoint image: its ERR, 0 for none, and the state after. An image for another package leaves this
one. -/
def State.ckptCopy (s : State) (part : Nat) (linkDown memUe : Bool) : Nat × State :=
  let j := (s.getPart part).job
  let xs := s.sections part
  let units := ckptUnits xs
  let pa := natBits j.ckptDst.toNat 41 0
  let pkg := natBits j.ckptDst.toNat 63 48
  let here := pkg == s.dev.pkg.toNat
  if j.ckptLim.toNat < units then (3, s)
  else if pa < 2 ^ 41 ∨ 2 ^ 42 < pa + units * 65536 then (4, s)
  else
    let err := if !here && (linkDown || !(s.linkFor pkg).2) then 1 else if memUe || s.ckptLost part xs then 2 else 0
    if !here then (err, s)
    else if err ≠ 0 then (err, s.writeFree pa (units * 65536))
    else
      let h := ckptHeader s.cycle.toNat xs
      (0, State.writeSections part xs (pa + h.length) s (State.devWrite (h.length / 64 + 2) s pa h))

/-- CKPT_END: the cut is complete and the copy is over; the job goes on unless STAY is 1, and a CANCEL that waited takes
effect. -/
def execCkptEnd (part : Nat) (linkDown memUe : Bool) (s : State) : Host.Outcome State Fault Refusal :=
  .next (
    let j := (s.getPart part).job
    if !j.ckptRun ∨ (s.launches.any fun e => e.2.part == part && (e.2.resident || s.stopping e.1)) then s
    else
      let (err, s) := s.ckptCopy part linkDown memUe
      let s := s.mapJob part fun j => { j with
        ckptRun := false, ckptHeld := j.ckptStay, ckptSt := if err = 0 then 2 else 3, ckptErr := err, ckptCancel := false }
      let queued (id : Nat) : Bool := (s.getPart part).queues.any fun q => q.contains id
      let ids := (s.launches.filter fun e => e.2.part == part && e.2.state == .saved && !queued e.1).map (·.1)
      let s := (if j.ckptStay then s else s.resumeAll ids).msix part 2
      (if j.ckptCancel then s.cancelJob part else s).settle)

end Sys2Proof.Machine
end

