-- ==== Sys2Proof/Machine/Cycle.lean ====
section
/-!
DEFINITION. Sys2Proof/Machine/Cycle.lean: CYCLE_COUNTER_ADVANCE (R442), with every count that runs on the fabric cycle: bank
idle, wake and power-up counts (R275, R276), sleeps (R172, R173), blocked producers (R46, R346), turns (R353, R354), WAITED of
queued launches (R351), the WATCHDOG counts (R47) and thermal holds (R431).
-/

namespace Sys2Proof.Machine

/-- A bank's counts. -/
def Bank.tick (b : Bank) : Bank :=
  match b.power with
  | .awake => { b with idle := b.idle + 1 }
  | .waking n => { b with power := .waking (n - 1) }
  | .powering n => { b with power := .powering (n - 1) }
  | _ => b

/-- A sleeping binding's count. -/
def Binding.tick (b : Binding) : Binding :=
  if b.state ≠ .sleeping then b
  else match b.wait with
  | .cycles n => { b with wait := .cycles (n - 1) }
  | .copy p n t => { b with wait := .copy p (n - 1) t }
  | _ => b

/-- A compute element's context holds tokens that wait. -/
def State.tokensWait (s : State) (c : CeCtx) : Bool := c.ins.any fun e => (s.filled e.ch) != []

/-- A block of a context runs: its firing is not the residue of a fault or a cut. -/
def CeCtx.fires (c : CeCtx) : Bool := c.fir.active && (lget {} c.binds c.fir.bind).state == .firing

/-- A context's sleeps, the status bits its banks set at the end of the cycle (R376), and its WATCHDOG count, which runs while it
holds waiting tokens and nothing fires. -/
def State.tickCe (s : State) (c : CeCtx) : CeCtx :=
  let c := { c with binds := c.binds.map Binding.tick, stat := c.stat ||| c.late, late := 0 }
  if c.launch ≠ 0 && !c.fires && s.tokensWait c then { c with waited := c.waited + 1 }
  else { c with waited := 0, watched := false }

/-- A matrix node's WATCHDOG count for a context, which runs while tokens wait at its inputs; what the node does for the context
sets it back (R47). -/
def State.tickMn (s : State) (x : MnCtx) : MnCtx :=
  if (s.filled x.ctl) != [] || (s.filled x.rows) != [] then { x with waited := x.waited + 1 } else { x with waited := 0, watched := false }

/-- The operators of one router and context wait together: one of them holds a token, and none has acted (R47). -/
def State.routerWaits (s : State) (rc : Nat) : Bool :=
  let mine := s.ops.filter fun e => e.1 / 8 == rc
  !(mine.any fun e => e.2.fired) && mine.any fun e => e.2.ins.any fun ch => (s.filled ch) != []

/-- An operator's counts; it may act once more in the next cycle (R216). -/
def OpSlot.tick (o : OpSlot) (waits : Bool) : OpSlot :=
  if waits then { o with fired := false, waited := o.waited + 1 } else { o with fired := false, waited := 0, watched := false }

/-- The endpoint pools of a page's empty context slots: idle for the partition's number of cycles, they drowse (R275). -/
def State.tickPools (s : State) (g : Page) : Page :=
  let limit := match g.owner with | some p => (s.getPart p).regs.drowsyIdle.toNat | none => 0
  let idle := (List.range 4).map fun c => if lget 0 g.resident c = 0 then lget 0 g.poolIdle c + 1 else 0
  { g with
    poolIdle := idle
    poolDrowsy := (List.range 4).map fun c => lget 0 g.resident c = 0 && (lget false g.poolDrowsy c || (limit != 0 && limit ≤ lget 0 idle c)) }

/-- A page's turn and its thermal hold. -/
def State.tickPage (s : State) (page : Nat) (g : Page) : Page :=
  let g := s.tickPools { g with thermWait := g.thermWait - 1 }
  if g.drain || !s.slotLive page g.active then g
  else { g with
    used := g.used + 1
    idle := if s.slotFireable page g.active then 0 else min Config.turnIdleCycles (g.idle + 1) }

/-- A queued or saved launch waits one cycle more; WAITED saturates at 32 bits (R349). -/
def State.tickLaunch (s : State) (id : Nat) (l : Launch) : Launch :=
  if (s.getPart l.part).queues.any fun q => q.contains id then { l with waited := min 0xFFFFFFFF (l.waited + 1) } else l

/-- A producer blocked on a spill-backed channel: QUOTA_HIT in the first cycle, and one blocked cycle counted (R346). -/
def State.tickChan (s : State) (ch : Nat) : State :=
  if s.blockedOn ch then
    let k := s.producerKey ch
    let first := (s.chanD ch).blocked == 0
    let s := if first then s.mapCe k fun c => { c with stat := c.stat ||| 0x40 } else s
    (s.mapChan ch fun c => { c with blocked := c.blocked + 1 }).countPage (cePage k) (ceSlot k) 0x123 1
  else s.mapChan ch fun c => { c with blocked := 0, recorded := false }

/-- A queue entry (R349). -/
def Launch.queueEntry (l : Launch) (id next : Nat) : Nat :=
  let saved := l.state == .saved
  id % 2 ^ 32 * 2 ^ 224 + l.waited % 2 ^ 32 * 2 ^ 192 + l.level % 4 * 2 ^ 190 + l.blevel % 4 * 2 ^ 188 + b2n saved * 2 ^ 187 +
    next % 2 ^ 14 * 2 ^ 164 + l.image % 2 ^ 56 * 2 ^ 64 + l.graph % 2 ^ 32 * 2 ^ 32 + (if saved then l.saveIx % 2 ^ 32 else 0)

/-- Writes the entries of a level's queue, from an index on: an entry's index is its launch's place in the queue (log entry 115). -/
def State.writeQueue (part level : Nat) : List Nat → Nat → State → State
  | [], _, s => s
  | id :: rest, i, s =>
    let va := (s.getPart part).regs.drvQbase.toNat + (level * 10240 + i) * 32
    let next := if rest.isEmpty then 0x3FFF else i + 1
    State.writeQueue part level rest (i + 1) (match s.translate part va with
      | .ok (pa, _) => s.devWriteSector pa (bytesOfNat 32 ((s.launchD id).queueEntry id next))
      | .error _ => s)

/-- The Drover's queues stand in device memory at the end of every cycle of a job (R349). -/
def State.writeQueues (s : State) (part : Nat) : State :=
  if !(s.getPart part).job.running then s
  else (List.range 4).foldl (fun s lv => State.writeQueue part lv (lget [] (s.getPart part).queues lv) 0 s) s

/-- One fabric cycle: the counter advances by one, or by none or two while it is slewed (R442, R443). -/
def State.tick (s : State) : State :=
  let t := (tkeys s.chans).foldl State.tickChan s
  (tkeys s.parts).foldl State.writeQueues { t with
    cycle := s.cycle + BitVec.ofInt 64 (1 + s.slew)
    slew := 0
    counted := []
    perfReads := []
    dev := { t.dev with counted := [] }
    ce := tmap t.ce fun _ c => s.tickCe c
    ops := tmap t.ops fun k o => o.tick (s.routerWaits (k / 8))
    pages := tmap t.pages fun p g => s.tickPage p g
    mts := tmap t.mts fun _ m => { m with banks := m.banks.map Bank.tick }
    mns := tmap t.mns fun _ m => { m with ctxs := m.ctxs.map s.tickMn }
    parts := tmap t.parts fun _ p => { p with predOld := p.pred, predLate := [], counted := [] }
    launches := tmap t.launches fun id l => s.tickLaunch id l }

/-- CYCLE_COUNTER_ADVANCE. -/
def execCycleCounterAdvance (s : State) : Host.Outcome State Fault Refusal := .next s.lateStarts.tick.settle

end Sys2Proof.Machine
end

