-- ==== Sys2Proof/Machine/Dram.lean ====
section
/-!
DEFINITION. Sys2Proof/Machine/Dram.lean: the device-memory controllers (R213, R304 to R309, R454) and the page-table
walkers (R404, R405).
-/

namespace Sys2Proof.Machine

/-! ## Performing a request (R213, R304) -/

/-- Whether a request reads its sector. -/
def DevOp.reads : DevOp → Bool
  | .read _ | .atom _ _ _ | .adds _ _ => true
  | .write _ | .puts _ _ => false

/-- Whether a request writes its sector. -/
def DevOp.writes : DevOp → Bool
  | .read _ => false
  | _ => true

/-- The context whose access, or whose gather's access, a request makes. -/
def State.reqCtx (s : State) (r : DevReq) : Nat :=
  match r.owner with
  | .ce k _ => k
  | .gather mt slot => match (lget .free (s.getMt mt).gather slot).req with | some g => g.ce | none => 0

/-- Performs a request at its controller: the value read, and the state after (R272, R304). -/
def State.devOp (s : State) (r : DevReq) : Vec × State :=
  let k := s.reqCtx r
  let value (n : Nat) : Vec := BitVec.ofNat 1024 (s.devNat r.addr n)
  let (v, s) : Vec × State := match r.op with
    | .read n => (value n, s)
    | .write bs => (0, s.devWriteSector r.addr bs)
    | .atom op t b =>
      let old := s.devNat r.addr (t.width / 8)
      (value (t.width / 8), s.devWriteSector r.addr (bytesOfNat (t.width / 8) (atomNew op t old b)))
    | .puts t es => (0, es.foldl (fun s e => s.devWriteSector (r.addr + e.1 * (t.width / 8)) (bytesOfNat (t.width / 8) e.2.toNat)) s)
    | .adds t es => (0, es.foldl (fun s e =>
        let a := r.addr + e.1 * (t.width / 8)
        s.devWriteSector a (bytesOfNat (t.width / 8) (addElem t (s.devNat a (t.width / 8)) e.2.toNat))) s)
  let sector := r.addr / 64
  let s := if r.sem.getLsbD 0 then s.acquire k (tfind s.sectorScope sector) else s
  let s := if r.sem.getLsbD 1 then { s with sectorScope := tput s.sectorScope sector (s.releaseRec k r.sco) } else s
  (v, s)

/-- The request is performed: a compute element's access is, and its reply starts back. -/
def State.devPerform (s : State) (ch : Nat) (r : DevReq) : State :=
  let (v, s) := s.devOp r
  let s : State := match r.owner with
    | .ce k id => s.performed k id
    | .gather _ _ => s
  s.setDc ch (let d := s.getDc ch; { d with replies := d.replies ++ [(r, v, false)] })

/-- A place among a memory tile's 256 is free again: what waits for one is sent (R204, R213). -/
def State.freeSector (s : State) (tile : Nat) : State :=
  let s := s.mapMt tile fun m => { m with outstanding := m.outstanding - 1 }
  let ks := (s.ce.filter fun e => homeMt e.1 == tile && e.2.pend.any fun a => !a.sent).map (·.1)
  let s := ks.foldl State.pump s
  State.sendSectors 64 s tile

/-- The request ends in MEM_UE at its consumer (R195, R309). `detail` is 1 for the array and 2 for the interface. -/
def State.devRefuse (s : State) (r : DevReq) (detail : Nat) : State :=
  let s : State := match r.owner with
    | .ce k id =>
      match (s.getCe k).pend.find? (·.id == id) with
      | some a => s.accLost k a a.addr detail
      | none => s
    | .gather mt slot =>
      match lget .free (s.getMt mt).gather slot with
      | .accepted g =>
        let es := g.inUnit 64 (r.addr / 64)
        let e := es.headD 0
        s.gatherServed mt slot { g with
          left := g.left.filter fun x => !es.contains x
          bad := some (match g.bad with | some b => min b e | none => e) }
      | _ => s
  s.freeSector r.tile

/-! ## The controller's choice (R304, R305, R454) -/

/-- The oldest of a list of requests, the first of equals. -/
def oldest : List DevReq → Option DevReq
  | [] => none
  | r :: rs => some (rs.foldl (fun b x => if x.arrive < b.arrive then x else b) r)

/-- The choice among the requests that may issue, of those of one partition that wait: the oldest that has waited 512 cycles; else
the oldest of the oldest present group; else the oldest (R305). -/
def groupChoice (cycle : Nat) (may waits : List DevReq) : Option DevReq :=
  match oldest (may.filter fun r => r.arrive + 512 ≤ cycle) with
  | some r => some r
  | none =>
    match (oldest waits).bind fun g => oldest (may.filter fun r => r.group == g.group) with
    | some r => some r
    | none => oldest may

/-- The request a controller issues: the choice of R305 within the partition that the weighted share selects (R454). -/
def State.devChoice (s : State) (ch : Nat) : Option DevReq × Tab Nat :=
  let d := s.getDc ch
  match s.issuer d.issues (d.eligible.map (·.part)).eraseDups with
  | (none, t) => (none, t)
  | (some p, t) => (groupChoice s.cycle.toNat (d.eligible.filter (·.part == p)) (d.queue.filter (·.part == p)), t)

/-- DRAM_ISSUE (R305): the channel issues one request. The access meets `err`. -/
def State.dramIssue (s : State) (ch : Nat) (err : SectorErr) : State :=
  let d := s.getDc ch
  if d.refresh then s
  else
    match s.devChoice ch with
    | (none, _) => s
    | (some r, issues) =>
      let areas := s.xareaOf r.addr
      if r.op.writes && !areas.isEmpty then
        -- a watched write waits until the partitions' caches have dropped what they held (R405)
        let s := s.setDc ch { d with issues := issues, queue := d.queue.map fun q => if q == r then { q with held := true } else q }
        areas.foldl (fun s p => s.mapPart p fun x => { x with invalidate := true }) s
      else
        let s := s.setDc ch { d with queue := d.queue.erase r, issues := issues }
        if d.mapout then s.devRefuse r 1
        else
          match err with
          | .crc => s.setDc ch (let d := s.getDc ch; { d with replay := d.replay ++ [r] })
          | .retry =>
            if r.op.reads then s.setDc ch (let d := s.getDc ch; { d with replies := d.replies ++ [(r, 0, true)] })
            else s.devPerform ch r
          | .corrected =>
            if r.op.reads && !s.sectorLost.contains (r.addr / 64) then
              let s := s.countPart r.part 0x310 1
              (s.setDc ch (let d := s.getDc ch; { d with rewrite := d.rewrite ++ [r.addr / 64] })).devPerform ch r
            else if r.op.reads then s.devRefuse r 1 else s.devPerform ch r
          | .good => if r.op.reads && s.sectorLost.contains (r.addr / 64) then s.devRefuse r 1 else s.devPerform ch r

/-- DRAM_ISSUE. -/
def execDramIssue (chan : Nat) (err : SectorErr) (s : State) : Host.Outcome State Fault Refusal := .next (s.dramIssue chan err)

/-- A reply reaches its requester: a value goes to the instruction that waits for it, sector bytes to their gather. -/
def State.devReply (s : State) (r : DevReq) (v : Vec) : State :=
  let s : State := match r.owner with
    | .ce k id =>
      if (s.getCe k).fir.hold == .value id then
        match decM (s.getCe k).fir.word with
        | .ok f => s.deliver k false (extElem f.ty v.toNat)
        | .error _ => s
      else s
    | .gather mt slot =>
      match lget .free (s.getMt mt).gather slot with
      | .accepted g =>
        let es := g.inUnit 64 (r.addr / 64)
        s.gatherServed mt slot (if g.kind == .gather then g.take 64 es v else { g with left := g.left.filter fun x => !es.contains x })
      | _ => s
  s.freeSector r.tile

/-- DRAM_REPLY (R304, R307): the oldest reply returns. A read that could not be corrected is read once more, when no refresh
holds the channel: `again` says that the second read gives its data. A mapped-out channel refuses it (R306, R309). -/
def State.dramReply (s : State) (ch : Nat) (again : Bool) : State :=
  let d := s.getDc ch
  match d.replies.find? fun e => !(e.2.2 && d.refresh) with
  | none => s
  | some (r, v, lost) =>
    let s := s.setDc ch { d with replies := d.replies.erase (r, v, lost) }
    if !lost then s.devReply r v
    else if d.mapout then s.devRefuse r 1
    else if again && !s.sectorLost.contains (r.addr / 64) then (s.countPart r.part 0x311 1).devPerform ch r
    else (s.arrayLost ch r.part (r.addr / 64)).devRefuse r 1

/-- DRAM_REPLY. -/
def execDramReply (chan : Nat) (again : Bool) (s : State) : Host.Outcome State Fault Refusal := .next (s.dramReply chan again)

/-- ARRAY_ECC_REWRITE (R307): a corrected sector is rewritten when nothing waits at its channel. -/
def execArrayEccRewrite (chan : Nat) (s : State) : Host.Outcome State Fault Refusal :=
  let d := s.getDc chan
  .next (if d.refresh || !d.queue.isEmpty || d.rewrite.isEmpty then s else s.setDc chan { d with rewrite := d.rewrite.drop 1 })

/-- CRC_REPLAY (R308): the transfer whose CRC failed is replayed once, when no refresh holds the channel. A mapped-out channel
refuses it (R306, R309). -/
def State.crcReplay (s : State) (ch : Nat) (ok : Bool) : State :=
  let d := s.getDc ch
  match d.refresh, d.replay with
  | true, _ | _, [] => s
  | false, r :: rest =>
    let s := s.setDc ch { d with replay := rest }
    if d.mapout then s.devRefuse r 1
    else
    let s := s.countPart r.part 0x312 1
    if !ok then (s.laneLost ch r.part (r.addr / 64) r.op.writes).devRefuse r 2
    else if r.op.reads && s.sectorLost.contains (r.addr / 64) then s.devRefuse r 1
    else s.devPerform ch r

/-- CRC_REPLAY. -/
def execCrcReplay (chan : Nat) (ok : Bool) (s : State) : Host.Outcome State Fault Refusal := .next (s.crcReplay chan ok)

/-- DRAM_REFRESH (R306): a refresh falls due, and holds the channel, or completes. -/
def execDramRefresh (chan : Nat) (start : Bool) (s : State) : Host.Outcome State Fault Refusal :=
  .next (s.setDc chan { (s.getDc chan) with refresh := start })

/-! ## Walks (R404, R405) -/

/-- Walks a die's walker runs at once. -/
def walksAtOnce : Nat := 32

/-- Entries a walker keeps. -/
def walkerKeeps : Nat := 64

/-- Reads a level's entry: from the walker's cache at levels 1 and 2, or from device memory, where the read takes its turn at its
channel and meets what struck its sector (R304, R404). -/
def State.walkEntry (s : State) (part die level addr : Nat) : Try Word × State :=
  let cached := level == 1 || level == 2
  match if cached then (tget [] s.wcache die).find? (·.1 == addr) else none with
  | some e => (.ok e.2, s)
  | none =>
    match s.sectorAt part addr addr false with
    | (.error e, s) => (.error e, s)
    | (.ok _, s) =>
      let v : Word := BitVec.ofNat 64 (s.devNat addr 8)
      (.ok v, if cached then { s with wcache := tput s.wcache die (((addr, v) :: tget [] s.wcache die).take walkerKeeps) } else s)

/-- A walk after the read of its next level, or the same walk where the read waits. -/
def State.walkLevel (s : State) (die : Nat) (w : Walk) : Walk × State :=
  let p := s.getPart w.part
  match (if w.level = 0 then s.rootTable w.part else some w.table) with
  | none => ({ w with failed := some (7, false, 0) }, s)
  | some table =>
    match s.walkEntry w.part die w.level (table + 8 * walkIndex w.level w.vpage) with
    | (.error none, s) => (w, s)
    | (.error (some _), s) => ({ w with failed := some (walkLost, false, 0) }, s)
    | (.ok e, s) =>
      match levelEntry p.xareaBase p.xareaLog2 w.level w.vpage e.toNat with
      | .next t => ({ w with level := w.level + 1, table := t }, s)
      | .leaf page wr =>
        let size := leafSize w.level
        ({ w with found := some { vpage := w.vpage - w.vpage % size, size := size, ppage := page, wr := wr } }, s)
      | .stop m => ({ w with failed := some (m.level, m.refused, m.entry) }, s)

/-- PAGE_WALK_LEVEL_READ (R404): walks start in the order of their misses, thirty-two at once; each reads level after level. -/
def State.walkRead (s : State) (die n : Nat) : State :=
  let ws := tget [] s.walks die
  match ws[n]? with
  | none => s
  | some w =>
    if w.found.isSome || w.failed.isSome then s
    else if !w.running && (walksAtOnce ≤ (ws.filter fun x => x.running && !x.closed).length || (ws.take n).any fun x => !x.running) then s
    else
      let s := if w.running then s else s.countPart w.part 0x321 1
      let (w, s) := s.walkLevel die { w with running := true }
      { s with walks := tput s.walks die (ws.set n w) }

/-- PAGE_WALK_LEVEL_READ. -/
def execPageWalkLevelRead (die walk : Nat) (s : State) : Host.Outcome State Fault Refusal := .next (s.walkRead die walk)

/-- The address a context waits to have translated. -/
def CeCtx.waitsFor (c : CeCtx) (vpage : Nat) : Option Nat :=
  match c.fir.hold with
  | .xlate va => if va / 2 ^ 16 * 2 ^ 16 = vpage then some va else none
  | _ => none

/-- The accesses that a full walker of a die held try again, but for those that one of its walks serves (R404). -/
def State.retryMisses (s : State) (die : Nat) : State :=
  let ws := tget [] s.walks die
  { s with ce := tmap s.ce fun k c =>
      match c.fir.hold with
      | .xlate _ =>
        if pageDie (cePage k) == die && !ws.any (fun w => w.served.contains (homeMt k, k)) then { c with fir := { c.fir with hold := .none } } else c
      | _ => c }

/-- WALK_COMPLETE (R404): the caches of the tiles and ports that the walk served take the page, and their accesses go on; or each
raises XLATE, an engine as it asks again. -/
def State.walkDone (s : State) (die n : Nat) : State :=
  let ws := tget [] s.walks die
  match ws[n]? with
  | none => s
  | some w =>
    let gone := { s with walks := tput s.walks die (ws.eraseIdx n) }
    match w.closed, w.found, w.failed with
    | true, _, _ | _, none, none => s
    | false, some e, _ => (w.served.foldl (fun s x =>
        let s := s.setXcache w.part x.1 (xcacheFill e (s.xcacheOf w.part x.1))
        if ((s.getCe x.2).waitsFor w.vpage).isSome then s.mapCe x.2 fun c => { c with fir := { c.fir with hold := .none } } else s) gone).retryMisses die
    | false, none, some m =>
      let engines := w.served.filter fun x => x.2 == engineMiss
      let s := if engines.isEmpty then gone else { s with walks := tput s.walks die (ws.set n { w with served := engines, closed := true }) }
      let s := if m.2.1 then s.countPart w.part 0x323 1 else s
      (w.served.foldl (fun s x =>
        match (s.getCe x.2).waitsFor w.vpage with
        | none => s
        | some va => let e := walkErr va m; s.ceFault x.2 e.cls e.addr e.detail) s).retryMisses die

/-- WALK_COMPLETE. -/
def execWalkComplete (die walk : Nat) (s : State) : Host.Outcome State Fault Refusal := .next (s.walkDone die walk)

/-- TRANSLATION_INVALIDATE (R405): every cache of the partition has dropped what it held and its walks start again; then the
watched writes that waited for it are performed. -/
def State.invalidate (s : State) (part : Nat) : State :=
  if !(s.getPart part).invalidate then s
  else
    let s := (s.dropCaches part).mapPart part fun p => { p with invalidate := false }
    let mine (r : DevReq) : Bool := r.held && (s.xareaOf r.addr).contains part
    s.devChans.foldl (fun s e =>
      let rs := e.2.queue.filter mine
      let s := s.setDc e.1 (let d := s.getDc e.1; { d with queue := d.queue.filter fun r => !mine r })
      rs.foldl (fun s r => if (s.getDc e.1).mapout then s.devRefuse r 1 else s.devPerform e.1 { r with held := false }) s) s

/-- TRANSLATION_INVALIDATE. -/
def execTranslationInvalidate (part : Nat) (s : State) : Host.Outcome State Fault Refusal := .next (s.invalidate part)

end Sys2Proof.Machine
end

