-- ==== Sys2Proof/Machine/Float.lean ====
section
/-!
DEFINITION. Sys2Proof/Machine/Float.lean: the floating-point instructions that do not convert (06_isa_float.md, R144
to R153).
-/

namespace Sys2Proof.Machine

/-- MD[2] is the vector flag (R141). -/
def vecMd (md : BitVec 3) : Bool := md.getLsbD 2

/-- MD[1:0]: the rounding mode or the condition (R141). -/
def rmMd (md : BitVec 3) : Nat := md.toNat % 4

/-- An entry of one operand, in each lane (one lane when MD[2] = 0). -/
def flt1 (f : FmtT) (g : Nat → Nat × Flags) (r : Rd) : Res :=
  .flts (vecMd f.md) f.ty.width ((r.fops (vecMd f.md) f.ty .a f.sa).map g)

/-- An entry of two operands. -/
def flt2 (f : FmtT) (g : Nat → Nat → Nat × Flags) (r : Rd) : Res :=
  .flts (vecMd f.md) f.ty.width
    (List.zipWith g (r.fops (vecMd f.md) f.ty .a f.sa) (r.fops (vecMd f.md) f.ty .b f.sb))

/-- An entry of three operands. -/
def flt3 (f : FmtT) (g : Nat → Nat → Nat → Nat × Flags) (r : Rd) : Res :=
  .flts (vecMd f.md) f.ty.width
    (List.zipWith (fun ab c => g ab.1 ab.2 c)
      (List.zip (r.fops (vecMd f.md) f.ty .a f.sa) (r.fops (vecMd f.md) f.ty .b f.sb))
      (r.fops (vecMd f.md) f.ty .c f.sc))

/-- An entry of one operand and an IMM16 (R63). -/
def fltImm (f : FmtI) (g : Nat → Nat → Nat × Flags) (r : Rd) : Res :=
  .flts (vecMd f.md) f.ty.width ((r.fops (vecMd f.md) f.ty .a f.sa).map fun a => g a (imm16F f.ty f.imm))

/-- FADD (R144). -/
def execFadd (f : FmtT) (s : State) : Host.Outcome State Fault Refusal := .next (s.pureT f (flt2 f (fAdd f.ty (rmMd f.md))))

/-- FSUB (R144). -/
def execFsub (f : FmtT) (s : State) : Host.Outcome State Fault Refusal := .next (s.pureT f (flt2 f (fSub f.ty (rmMd f.md))))

/-- FMUL (R144). -/
def execFmul (f : FmtT) (s : State) : Host.Outcome State Fault Refusal := .next (s.pureT f (flt2 f (fMul f.ty (rmMd f.md))))

/-- FFMA (R144). -/
def execFfma (f : FmtT) (s : State) : Host.Outcome State Fault Refusal := .next (s.pureT f (flt3 f (fFma f.ty (rmMd f.md))))

/-- FDIV (R144). -/
def execFdiv (f : FmtT) (s : State) : Host.Outcome State Fault Refusal := .next (s.pureT f (flt2 f (fDiv f.ty (rmMd f.md))))

/-- FADDI (R144). -/
def execFaddi (f : FmtI) (s : State) : Host.Outcome State Fault Refusal :=
  .next (s.pureI f (fltImm f (fAdd f.ty (rmMd f.md))))

/-- FMULI (R144). -/
def execFmuli (f : FmtI) (s : State) : Host.Outcome State Fault Refusal :=
  .next (s.pureI f (fltImm f (fMul f.ty (rmMd f.md))))

/-- FSCALE (R145): the second operand is an integer. -/
def execFscale (f : FmtT) (s : State) : Host.Outcome State Fault Refusal :=
  .next (s.pureT f fun r =>
    .flts (vecMd f.md) f.ty.width
      (List.zipWith (fScale f.ty (rmMd f.md)) (r.fops (vecMd f.md) f.ty .a f.sa) (r.fscales (vecMd f.md) f.ty .b f.sb)))

/-- FROUND (R146). -/
def execFround (f : FmtT) (s : State) : Host.Outcome State Fault Refusal :=
  .next (s.pureT f (flt1 f (fRound f.ty (rmMd f.md))))

/-- FMIN (R147). -/
def execFmin (f : FmtT) (s : State) : Host.Outcome State Fault Refusal := .next (s.pureT f (flt2 f (fMinMax f.ty false)))

/-- FMAX (R147). -/
def execFmax (f : FmtT) (s : State) : Host.Outcome State Fault Refusal := .next (s.pureT f (flt2 f (fMinMax f.ty true)))

/-- FCLAMP (R147). -/
def execFclamp (f : FmtT) (s : State) : Host.Outcome State Fault Refusal := .next (s.pureT f (flt3 f (fClamp f.ty)))

/-- FABS (R148). -/
def execFabs (f : FmtT) (s : State) : Host.Outcome State Fault Refusal := .next (s.pureT f (flt1 f (fAbs f.ty)))

/-- FNEG (R148). -/
def execFneg (f : FmtT) (s : State) : Host.Outcome State Fault Refusal := .next (s.pureT f (flt1 f (fNeg f.ty)))

/-- FCMP (R149): 1 or 0, or a mask in each lane. -/
def execFcmp (f : FmtT) (s : State) : Host.Outcome State Fault Refusal :=
  .next (s.pureT f (flt2 f fun a b =>
    let c := fCmp f.ty (rmMd f.md) a b
    (if c.1 then (if vecMd f.md then 2 ^ f.ty.width - 1 else 1) else 0, c.2)))

/-- FCLASS (R150). -/
def execFclass (f : FmtT) (s : State) : Host.Outcome State Fault Refusal := .next (s.pureT f (flt1 f (fClass f.ty)))

/-- FRCP (R151). -/
def execFrcp (f : FmtT) (s : State) : Host.Outcome State Fault Refusal := .next (s.pureT f (flt1 f (fFun .rcp f.ty)))

/-- FRSQ (R151). -/
def execFrsq (f : FmtT) (s : State) : Host.Outcome State Fault Refusal := .next (s.pureT f (flt1 f (fFun .rsq f.ty)))

/-- FSQRT (R151). -/
def execFsqrt (f : FmtT) (s : State) : Host.Outcome State Fault Refusal := .next (s.pureT f (flt1 f (fFun .sqrt f.ty)))

/-- FEXP2 (R151). -/
def execFexp2 (f : FmtT) (s : State) : Host.Outcome State Fault Refusal := .next (s.pureT f (flt1 f (fFun .exp2 f.ty)))

/-- FLOG2 (R151). -/
def execFlog2 (f : FmtT) (s : State) : Host.Outcome State Fault Refusal := .next (s.pureT f (flt1 f (fFun .log2 f.ty)))

/-- FSIG (R151). -/
def execFsig (f : FmtT) (s : State) : Host.Outcome State Fault Refusal := .next (s.pureT f (flt1 f (fFun .sig f.ty)))

/-- FTANH (R151). -/
def execFtanh (f : FmtT) (s : State) : Host.Outcome State Fault Refusal := .next (s.pureT f (flt1 f (fFun .tanh f.ty)))

/-- One level of the pairwise tree: adjacent results are added (R69). -/
def pairAdd (t : Ty) (md : Nat) : List Nat → List Nat × Flags
  | a :: b :: rest =>
    let x := fAdd t md a b
    let y := pairAdd t md rest
    (x.1 :: y.1, x.2 ||| y.2)
  | rest => (rest, 0)

/-- The tree of R69: n levels. -/
def treeAdd (t : Ty) (md : Nat) : Nat → List Nat → Nat × Flags
  | 0, ls => (lget 0 ls 0, 0)
  | n + 1, ls =>
    let x := pairAdd t md ls
    let y := treeAdd t md n x.1
    (y.1, x.2 ||| y.2)

/-- VFRED (R152). -/
def execVfred (f : FmtT) (s : State) : Host.Outcome State Fault Refusal :=
  .next (s.pureT f fun r =>
    .flts false f.ty.width [treeAdd f.ty (rmMd f.md) (Nat.log2 f.ty.lanes) (r.flts f.ty .a f.sa)])

/-- One lane of VFDOT2 (R153): c + Σ a × b exactly, one rounding into fp32. -/
def fdot2 (t : Ty) (md : Nat) (ab : List (Nat × Nat)) (c : Nat) : Nat × Flags :=
  let vs := ab.map fun p => (fDecode t p.1, fDecode t p.2)
  let z := fDecode .fp32 c
  let all := z :: (vs.map (·.1) ++ vs.map (·.2))
  -- 0 × ∞ raises NV beside a NaN too (R153)
  let zeroInf := vs.any fun p => !p.1.isNan && !p.2.isNan && (fProd p.1 p.2).isNone
  let nv := sigFlag all ||| (if zeroInf then flagNV else 0)
  if zeroInf || all.any FVal.isNan then (canon .fp32, nv)
  else fSum .fp32 md (z :: vs.filterMap fun p => fProd p.1 p.2)

/-- VFDOT2 (R153). -/
def execVfdot2 (f : FmtT) (s : State) : Host.Outcome State Fault Refusal :=
  .next (s.pureT f fun r =>
    let ab := List.zip (r.flts f.ty .a f.sa) (r.flts f.ty .b f.sb)
    let cs := r.flts .fp32 .c f.sc
    .flts true 32 ((List.range 32).map fun i =>
      fdot2 f.ty (rmMd f.md) [lget (0, 0) ab (2 * i), lget (0, 0) ab (2 * i + 1)] (lget 0 cs i)))

end Sys2Proof.Machine
end

