-- ==== Sys2Proof/Machine/Integer.lean ====
section
/-!
DEFINITION. Sys2Proof/Machine/Integer.lean: the scalar integer instructions (05_isa_integer.md, R115 to R128).
-/

namespace Sys2Proof.Machine

/-- A scalar entry of one integer source (R111). -/
def int1 (f : FmtT) (g : Int → Int) (r : Rd) : Res := .int f.ty (g (r.int f.ty .a f.sa))

/-- A scalar entry of two integer sources (R111). -/
def int2 (f : FmtT) (g : Int → Int → Int) (r : Rd) : Res := .int f.ty (g (r.int f.ty .a f.sa) (r.int f.ty .b f.sb))

/-- .sat of R113: MD[0]. -/
def satMd (md : BitVec 3) : Bool := md.getLsbD 0

/-- The upper half of an exact product, read as t (R117). -/
def mulhT (t : Ty) (a b : Int) : Int := extT t (lowBits (a * b / (2 ^ t.width : Nat)) t.width)

/-- SHL of R120: the count is unsigned at w(t) bits. -/
def shlT (sat : Bool) (t : Ty) (a : Int) (cnt : Nat) : Int :=
  if t.width ≤ cnt then (if sat then (if a = 0 then 0 else if a < 0 then tyMin t else tyMax t) else 0)
  else fitT sat t (a * (2 ^ cnt : Nat))

/-- SHR of R120: the floor of a / 2^cnt. -/
def shrT (t : Ty) (a : Int) (cnt : Nat) : Int :=
  if t.width ≤ cnt then (if a < 0 then -1 else 0) else a / (2 ^ cnt : Nat)

/-- VRSHR of R130: halves round upward; the sum is exact. -/
def rshrT (t : Ty) (a : Int) (cnt : Nat) : Int :=
  if cnt = 0 then a
  else let cnt := min cnt (t.width + 2); (a + (2 ^ (cnt - 1) : Nat)) / (2 ^ cnt : Nat)

/-- ABS of R121: fit(|a|) for s types, unchanged otherwise. -/
def absT (sat : Bool) (t : Ty) (a : Int) : Int := if t.signed then fitT sat t a.natAbs else a

/-- A bitwise operation on the low w(t) bits, read as t. -/
def bitT (t : Ty) (g : Nat → Nat → Nat) (a b : Int) : Int := extT t (g (lowBits a t.width) (lowBits b t.width))

/-- The conditions of R113: .eq .lt .le .ne .gt .ge. -/
def condT (md : Nat) (a b : Int) : Bool :=
  match md with
  | 0 => a == b | 1 => a < b | 2 => a ≤ b | 3 => a != b | 4 => b < a | _ => b ≤ a

/-- Leading zero bits within w bits (R124). -/
def clzN (w v : Nat) : Nat := if v % 2 ^ w = 0 then w else w - 1 - Nat.log2 (v % 2 ^ w)

/-- The position and length of a field specifier, read whole (R125). -/
def specPos (v : Word) : Nat := natBits v.toNat 6 0
def specLen (v : Word) : Nat := natBits v.toNat 14 8

/-- BFX of R125. -/
def bfxT (t : Ty) (a : Int) (spec : Word) : Int :=
  let pos := specPos spec
  if specLen spec = 0 ∨ t.width ≤ pos then 0
  else
    let len := min (specLen spec) (t.width - pos)
    let v := natBits (lowBits a t.width) (pos + len - 1) pos
    if t.signed then sextN v len else v

/-- BFI of R125. -/
def bfiT (t : Ty) (a fv : Int) (spec : Word) : Int :=
  let pos := specPos spec
  if specLen spec = 0 ∨ t.width ≤ pos then a
  else
    let len := min (specLen spec) (t.width - pos)
    let x := lowBits a t.width
    extT t (x - natBits x (pos + len - 1) pos * 2 ^ pos + lowBits fv len * 2 ^ pos)

/-- LDI of R127: lane l of sixteen bits is replaced by the pattern. -/
def ldiT (t : Ty) (a : Int) (l imm : Nat) : Int :=
  let x := lowBits a t.width
  extT t (x - natBits x (16 * l + 15) (16 * l) * 2 ^ (16 * l) + imm * 2 ^ (16 * l))

/-- ADDR of R128. -/
def addrT (t : Ty) (base : Nat) (idx : Int) (sh : Nat) : Int :=
  wrapT t ((base % 2 ^ t.width : Nat) + idx * (2 ^ (sh % 8) : Nat))

/-- NOP (R115). -/
def execNop (_f : FmtT) (s : State) : Host.Outcome State Fault Refusal := .next (s.mapCe s.key CeCtx.bump)

/-- MOV (R116): bits are copied; a NaN keeps its bits. -/
def execMov (f : FmtT) (s : State) : Host.Outcome State Fault Refusal := .next (s.pureT f (int1 f id))

/-- ADD (R117). -/
def execAdd (f : FmtT) (s : State) : Host.Outcome State Fault Refusal :=
  .next (s.pureT f (int2 f fun a b => fitT (satMd f.md) f.ty (a + b)))

/-- SUB (R117). -/
def execSub (f : FmtT) (s : State) : Host.Outcome State Fault Refusal :=
  .next (s.pureT f (int2 f fun a b => fitT (satMd f.md) f.ty (a - b)))

/-- MUL (R117). -/
def execMul (f : FmtT) (s : State) : Host.Outcome State Fault Refusal :=
  .next (s.pureT f (int2 f fun a b => fitT (satMd f.md) f.ty (a * b)))

/-- MULH (R117). -/
def execMulh (f : FmtT) (s : State) : Host.Outcome State Fault Refusal := .next (s.pureT f (int2 f (mulhT f.ty)))

/-- The DZ flag of a zero divisor (R56, R118). -/
def dzOf (b : Int) : Flags := if b = 0 then flagDZ else 0

/-- DIV (R118). -/
def execDiv (f : FmtT) (s : State) : Host.Outcome State Fault Refusal :=
  .next (s.pureT f fun r =>
    let b := r.int f.ty .b f.sb
    .int f.ty (fitT (satMd f.md) f.ty (divT (r.int f.ty .a f.sa) b)) (dzOf b))

/-- REM (R118). -/
def execRem (f : FmtT) (s : State) : Host.Outcome State Fault Refusal :=
  .next (s.pureT f fun r =>
    let b := r.int f.ty .b f.sb
    .int f.ty (remT (r.int f.ty .a f.sa) b) (dzOf b))

/-- AND (R119). -/
def execAnd (f : FmtT) (s : State) : Host.Outcome State Fault Refusal := .next (s.pureT f (int2 f (bitT f.ty (· &&& ·))))

/-- OR (R119). -/
def execOr (f : FmtT) (s : State) : Host.Outcome State Fault Refusal := .next (s.pureT f (int2 f (bitT f.ty (· ||| ·))))

/-- XOR (R119). -/
def execXor (f : FmtT) (s : State) : Host.Outcome State Fault Refusal := .next (s.pureT f (int2 f (bitT f.ty (· ^^^ ·))))

/-- SHL (R120). -/
def execShl (f : FmtT) (s : State) : Host.Outcome State Fault Refusal :=
  .next (s.pureT f (int2 f fun a b => shlT (satMd f.md) f.ty a (lowBits b f.ty.width)))

/-- SHR (R120). -/
def execShr (f : FmtT) (s : State) : Host.Outcome State Fault Refusal :=
  .next (s.pureT f (int2 f fun a b => shrT f.ty a (lowBits b f.ty.width)))

/-- MIN (R121). -/
def execMin (f : FmtT) (s : State) : Host.Outcome State Fault Refusal := .next (s.pureT f (int2 f fun a b => min a b))

/-- MAX (R121). -/
def execMax (f : FmtT) (s : State) : Host.Outcome State Fault Refusal := .next (s.pureT f (int2 f fun a b => max a b))

/-- ABS (R121). -/
def execAbs (f : FmtT) (s : State) : Host.Outcome State Fault Refusal :=
  .next (s.pureT f (int1 f (absT (satMd f.md) f.ty)))

/-- CMP (R122): the result is zero-extended whatever t is. -/
def execCmp (f : FmtT) (s : State) : Host.Outcome State Fault Refusal :=
  .next (s.pureT f fun r => .nat (b2n (condT f.md.toNat (r.int f.ty .a f.sa) (r.int f.ty .b f.sb))))

/-- CMPI (R122). -/
def execCmpi (f : FmtI) (s : State) : Host.Outcome State Fault Refusal :=
  .next (s.pureI f fun r => .nat (b2n (condT f.md.toNat (r.int f.ty .a f.sa) (imm16I f.ty f.imm))))

/-- SEL (R123): the condition is in SA, the values in SB and SC. -/
def execSel (f : FmtT) (s : State) : Host.Outcome State Fault Refusal :=
  .next (s.pureT f fun r =>
    .int f.ty (if (r.raw 0 .a f.sa).getLsbD 0 then r.int f.ty .b f.sb else r.int f.ty .c f.sc))

/-- CLZ (R124). -/
def execClz (f : FmtT) (s : State) : Host.Outcome State Fault Refusal :=
  .next (s.pureT f (int1 f fun a => clzN f.ty.width (lowBits a f.ty.width)))

/-- POPC (R124). -/
def execPopc (f : FmtT) (s : State) : Host.Outcome State Fault Refusal :=
  .next (s.pureT f (int1 f fun a => popN (lowBits a f.ty.width) f.ty.width))

/-- BFX (R125). -/
def execBfx (f : FmtT) (s : State) : Host.Outcome State Fault Refusal :=
  .next (s.pureT f fun r => .int f.ty (bfxT f.ty (r.int f.ty .a f.sa) (r.w64 .b f.sb)))

/-- BFI (R125). -/
def execBfi (f : FmtT) (s : State) : Host.Outcome State Fault Refusal :=
  .next (s.pureT f fun r => .int f.ty (bfiT f.ty (r.int f.ty .a f.sa) (r.int f.ty .b f.sb) (r.w64 .c f.sc)))

/-- ADDI (R126). -/
def execAddi (f : FmtI) (s : State) : Host.Outcome State Fault Refusal :=
  .next (s.pureI f fun r => .int f.ty (fitT (satMd f.md) f.ty (r.int f.ty .a f.sa + imm16I f.ty f.imm)))

/-- ANDI (R126). -/
def execAndi (f : FmtI) (s : State) : Host.Outcome State Fault Refusal :=
  .next (s.pureI f fun r => .int f.ty (bitT f.ty (· &&& ·) (r.int f.ty .a f.sa) (imm16I f.ty f.imm)))

/-- LDI (R127). -/
def execLdi (f : FmtI) (s : State) : Host.Outcome State Fault Refusal :=
  .next (s.pureI f fun r => .int f.ty (ldiT f.ty (r.int f.ty .a f.sa) f.md.toNat f.imm.toNat))

/-- ADDR (R128). -/
def execAddr (f : FmtT) (s : State) : Host.Outcome State Fault Refusal :=
  .next (s.pureT f fun r =>
    .int f.ty (addrT f.ty (lowBits (r.int f.ty .a f.sa) f.ty.width) (r.int f.ty .b f.sb) (r.w64 .c f.sc).toNat))

end Sys2Proof.Machine
end

