-- ==== Sys2Proof/Machine/System.lean ====
section
/-!
DEFINITION. Sys2Proof/Machine/System.lean: the supervisor's instructions FREC, TRET, QUOTA and MIGR (R186 to R189, R405,
R421, R430), with TRET on every kind of unit.
-/

namespace Sys2Proof.Machine

/-! ## When TRET, QUOTA and MIGR take effect (R405) -/

/-- A write of the running task into a translation area is not performed yet. A push on a write stream counts as one. -/
def State.areaWrites (s : State) (k : Nat) : Bool :=
  let c := s.getCe k
  c.pend.any fun a => a.bind == c.fir.bind &&
    match a.kind with
    | .dev _ r => r.op.writes && !(s.xareaOf r.addr).isEmpty
    | .gather _ g => g.dev && g.kind != .gather && g.eas.any fun x => !(s.xareaOf x).isEmpty
    | .push st _ => (match tfind s.streams st with | some x => x.mode == .writeTensor | none => false)
    | _ => false

/-! ## Unit reference words (R416) -/

def urKind (u : Word) : Nat := natBits u.toNat 63 60
def urPage (u : Word) : Nat := natBits u.toNat 59 51
def urTile (u : Word) : Nat := natBits u.toNat 50 47
def urCtx (u : Word) : Nat := natBits u.toNat 46 45
def urSlot (u : Word) : Nat := natBits u.toNat 44 42
def urId (u : Word) : Nat := natBits u.toNat 31 0

/-- The saved launch of a partition whose context stood in a slot of a logical page, and the index of the page in it. -/
def State.savedAt (s : State) (part lp c : Nat) : Option (Nat × Nat) :=
  s.launches.findSome? fun e =>
    if e.2.part = part ∧ e.2.state = .saved then
      ((List.range e.2.pages.length).find? fun i =>
        e.2.pages.getD i 0 == lp && (match e.2.save[i]? with | some sv => sv.home.2 == c | none => false)).map fun i => (e.1, i)
    else none

/-- Changes what a launch saved of one of its pages. -/
def Launch.mapSave (l : Launch) (i : Nat) (g : SavedPage → SavedPage) : Launch := { l with save := lmod l.save i g }

/-- Changes a saved context of a launch, by the key it had. -/
def Launch.mapSavedCe (l : Launch) (k : Nat) (g : CeCtx → CeCtx) : Launch :=
  let one (e : Nat × CeCtx) : Nat × CeCtx := if e.1 = ceElem k then (e.1, g e.2) else e
  let page (p : SavedPage) : SavedPage := if p.home = (cePage k, ceSlot k) then { p with ces := p.ces.map one } else p
  { l with save := l.save.map page }

/-- An access of a saved context is performed. -/
def CeCtx.forget (c : CeCtx) (acc : Nat) : CeCtx :=
  let d := c.performOrder acc
  { d with pend := d.pend.filter fun a => a.id != acc }

/-! ## Killing a faulted unit (R31, R40) -/

/-- Completion points of a unit killed after its fault count as faulted. A saved launch whose counter they bring to zero
retires at once. -/
def State.countLost (s : State) (id n : Nat) : State :=
  let s := (s.launchFaulted id).countPoints id 0 0 n
  let l := s.launchD id
  if l.state = .saved ∧ l.counter = 0 then
    ({ s with stops := s.stops.filter fun x => x.launch != id } : State).retire id l.result
  else s

/-- A context whose binding is killed: it is unbound, and its residue goes. -/
def CeCtx.dropBinding (c : CeCtx) (b : Nat) : CeCtx :=
  { c with
    fir := if c.fir.active && c.fir.bind == b then {} else c.fir
    binds := lmod c.binds b fun x => { x with bound := false, state := .idle, stack := [], wait := .none, retry := false } }

/-- An operator that is killed has no word: it does nothing more. -/
def OpSlot.dropped (o : OpSlot) : OpSlot := { o with instr := none, placed := none, faulted := none, points := o.ends }

/-! ## TRET, by the kind of the unit (R187, R421)

Each answers the unit's launch and the state after, or none where the word names no FAULTED unit. The mode is 0 retry, 1
skip, 2 kill. -/

/-- A saved context of an element one of whose bindings is faulted, and the binding. -/
def savedBinding (sv : SavedPage) (e b : Nat) : Option (CeCtx × Binding) :=
  match sv.ces.find? fun x => x.1 == e with
  | some (_, c) => let x := lget {} c.binds b; if x.bound ∧ x.state = .faulted then some (c, x) else none
  | none => none

/-- TRET on a task binding. Skip does not act on one rejected at fetch (R187). -/
def State.tretCe (s : State) (part : Nat) (u : Word) (mode : Nat) : Option (Nat × State) :=
  match tileCe (urTile u) with
  | none => none
  | some e =>
    let b := urSlot u
    let k := ceKey ((s.phys part (urPage u)).getD 0) e (urCtx u)
    let c := s.getCe k
    let x := lget {} c.binds b
    if (s.phys part (urPage u)).isSome ∧ c.launch ≠ 0 ∧ c.part = part ∧ x.bound ∧ x.state = .faulted then
      if mode = 2 then some (c.launch, (s.mapCe k (·.dropBinding b)).countLost c.launch (x.ends - x.points))
      else if mode = 1 ∧ c.atFetch b then none
      else some (c.launch, s.ceReturn k b (mode == 1))
    else
      match s.savedAt part (urPage u) (urCtx u) with
      | none => none
      | some (id, i) =>
        let l := s.launchD id
        match (l.save[i]?).bind fun sv => savedBinding sv e b with
        | none => none
        | some (c, x) =>
          let change (g : CeCtx → CeCtx) : State :=
            let one (y : Nat × CeCtx) : Nat × CeCtx := if y.1 = e then (y.1, g y.2) else y
            s.setLaunch id (l.mapSave i fun sv => { sv with ces := sv.ces.map one })
          if mode = 2 then some (id, (change (·.dropBinding b)).countLost id (x.ends - x.points))
          else if mode = 1 ∧ c.atFetch b then none
          else some (id, change fun c => c.returned b (mode == 1))

/-- TRET on a router operator. -/
def State.tretOp (s : State) (part : Nat) (u : Word) (mode : Nat) : Option (Nat × State) :=
  let k := (routerOf ((s.phys part (urPage u)).getD 0) (urTile u) * 4 + urCtx u) * 8 + urSlot u
  let o := s.getOp k
  if (s.phys part (urPage u)).isSome ∧ o.launch ≠ 0 ∧ o.part = part ∧ o.faulted.isSome then
    if mode = 2 then some (o.launch, (s.setOp k o.dropped).countLost o.launch (o.ends - o.points))
    else some (o.launch, s.opReturn k (mode == 1))
  else
    match s.savedAt part (urPage u) (urCtx u) with
    | none => none
    | some (id, i) =>
      let l := s.launchD id
      let at_ := urTile u * 8 + urSlot u
      match (l.save[i]?).bind fun sv => (sv.ops.find? fun x => x.1 == at_).map (·.2) with
      | none => none
      | some o =>
        let change (s : State) (o' : OpSlot) : State :=
          let one (y : Nat × OpSlot) : Nat × OpSlot := if y.1 = at_ then (y.1, o') else y
          s.mapLaunch id fun l => l.mapSave i fun sv => { sv with ops := sv.ops.map one }
        if o.faulted.isNone then none
        else if mode = 2 then some (id, (change s o.dropped).countLost id (o.ends - o.points))
        else some (id, change (s.opSkip o (mode == 1)) { o with faulted := none })

/-- A matrix node's context after TRET. -/
def MnCtx.returned (x : MnCtx) (mode : Nat) : MnCtx := { x with faulted := none, dead := x.dead || mode == 2 }

/-- The input token that TRET skip discards at a matrix node (R242). -/
def State.dropMnToken (s : State) (x : MnCtx) : State :=
  match (if x.faultIn = 0 then x.ctl else x.rows) with
  | some ch => s.freeTokens ch 1
  | none => s

/-- TRET on a matrix node's service of a context. -/
def State.tretMn (s : State) (part : Nat) (u : Word) (mode : Nat) : Option (Nat × State) :=
  match (List.range 2).find? fun n => mnTile n == urTile u with
  | none => none
  | some n =>
    let page := (s.phys part (urPage u)).getD 0
    let id := s.slotLaunch page (urCtx u)
    let x := (s.getMn (page * 2 + n)).ctx (urCtx u)
    if (s.phys part (urPage u)).isSome ∧ id ≠ 0 ∧ s.partOf id = part ∧ x.faulted.isSome then
      let s := (if mode = 1 then s.dropMnToken x else s).mapMnCtx (page * 2 + n) (urCtx u) (·.returned mode)
      some (id, if mode = 2 then s.launchFaulted id else s)
    else
      match s.savedAt part (urPage u) (urCtx u) with
      | none => none
      | some (id, i) =>
        match ((s.launchD id).save[i]?).bind fun sv => (sv.mns.find? fun y => y.1 == n && y.2.faulted.isSome).map (·.2) with
        | none => none
        | some x =>
          let one (y : Nat × MnCtx) : Nat × MnCtx := if y.1 = n then (n, y.2.returned mode) else y
          let s := (if mode = 1 then s.dropMnToken x else s).mapLaunch id fun l =>
            l.mapSave i fun sv => { sv with mns := sv.mns.map one }
          some (id, if mode = 2 then s.launchFaulted id else s)

/-- TRET kill of a copy-like command of a saved launch: its fill's region record goes, and so does the order-out a COPY reserved. -/
def State.killSavedCopy (s : State) (id : Nat) (mt : Nat) (x : Copy) : State :=
  let s := s.launchFaulted id
  match x.kind with
  | .fill mn _ _ _ _ =>
    (s.mapMn (mt / 2 * 2 + mn % 2) fun m => { m with regions := m.regions.filter fun r => !(r.fill == x.fillId && !r.resident) }).unpark
  | .copy => s.mapLaunch id fun l => l.mapSavedCe x.ce fun c => c.dropAcc x.acc
  | _ => s

/-- The faulted copy-like command of a saved launch: its launch, the index of the page that keeps it, and itself. -/
def State.savedCopy (s : State) (part unit ctx seq : Nat) : Option (Nat × Nat × Copy) :=
  s.launches.findSome? fun e =>
    if e.2.part ≠ part ∨ e.2.state ≠ .saved then none
    else (List.range e.2.save.length).findSome? fun i =>
      match e.2.save[i]? with
      | some sv => (sv.copies.find? fun y => y.1 == unit).bind fun y =>
          (y.2.find? fun x => x.ctx == ctx && x.seq.toNat == seq && x.state == .faulted).map fun x => (e.1, i, x)
      | none => none

/-- TRET on a copy, a fill, a replay or an SPMM. -/
def State.tretCopy (s : State) (part : Nat) (u : Word) (mode : Nat) : Option (Nat × State) :=
  match (List.range 2).find? fun m => mtTile m == urTile u with
  | none => none
  | some m =>
    let mt := (s.phys part (urPage u)).getD 0 * 2 + m
    let here := if (s.phys part (urPage u)).isNone then none else
      (s.getMt mt).copies.find? fun x => x.ctx == urCtx u && x.seq.toNat == urId u && x.state == .faulted && s.partOf x.launch == part
    match here with
    | some x => some (x.launch, match x.kind with
        | .spmm _ _ _ _ => s.spmmReturn mt x mode
        | _ => s.copyReturn mt x mode)
    | none =>
      match s.savedCopy part (urPage u * 2 + m) (urCtx u) (urId u) with
      | none => none
      | some (id, i, x) =>
        let y := if mode = 2 then { x with state := .killed } else x.returned (mode == 1)
        let cp (z : Copy) : Copy := if z = x then y else z
        let one (z : Nat × List Copy) : Nat × List Copy := if z.1 = urPage u * 2 + m then (z.1, z.2.map cp) else z
        let s := s.mapLaunch id fun l => l.mapSave i fun sv => { sv with copies := sv.copies.map one }
        some (id, if mode = 2 then s.killSavedCopy id mt x else s)

/-- TRET on a stream. -/
def State.tretStream (s : State) (part : Nat) (u : Word) (mode : Nat) : Option (Nat × State) :=
  match tileCe (urTile u) with
  | none => none
  | some e =>
    let st := urId u % 16
    let key := streamKey (ceKey ((s.phys part (urPage u)).getD 0) e (urCtx u)) st
    let here := if (s.phys part (urPage u)).isNone then none else
      (tfind s.streams key).bind fun x => if x.faulted.isSome ∧ s.partOf x.launch = part then some x else none
    match here with
    | some x => some (x.launch, s.streamReturn key x mode)
    | none =>
      match s.savedAt part (urPage u) (urCtx u) with
      | none => none
      | some (id, i) =>
        match ((s.launchD id).save[i]?).bind fun sv => (sv.streams.find? fun y => y.1 == e * 16 + st && y.2.faulted.isSome).map (·.2) with
        | none => none
        | some x =>
          let (y, gone) := x.returned (mode == 1)
          let lost := if mode = 2 then x.held.map (·.2) else gone.toList
          let forget (c : CeCtx) (a : Nat) : CeCtx := if mode = 2 then c.dropAcc a else c.forget a
          let one (z : Nat × Stream) : Nat × Stream := if z.1 = e * 16 + st then (z.1, y) else z
          let left (zs : List (Nat × Stream)) : List (Nat × Stream) :=
            if mode = 2 then zs.filter (fun z => z.1 != e * 16 + st) else zs.map one
          let keep (sv : SavedPage) : SavedPage := { sv with streams := left sv.streams }
          let s := s.mapLaunch id fun l => lost.foldl (fun l a => l.mapSavedCe x.ce fun c => forget c a) (l.mapSave i keep)
          some (id, if mode = 2 then s.launchFaulted id else s)

/-- TRET on a pattern compile: the first faulted one of the memory tile whose word this is. -/
def State.tretCompile (s : State) (part : Nat) (u : Word) (mode : Nat) : Option (Nat × State) :=
  match (List.range 2).find? fun m => mtTile m == urTile u with
  | none => none
  | some m =>
    let mt := (s.phys part (urPage u)).getD 0 * 2 + m
    if (s.phys part (urPage u)).isNone ∨ urId u ≠ 0 then none
    else
      ((s.getMt mt).compiles.find? fun c => c.faulted && s.partOf c.launch == part && ceSlot c.ce == urCtx u).map fun c =>
        (c.launch, s.compileReturn mt c mode)

/-- TRET on a convoy ingress: that of the die on which the word's page lies. -/
def State.tretIngress (s : State) (part : Nat) (u : Word) (mode : Nat) : Option (Nat × State) :=
  match s.phys part (urPage u) with
  | none => none
  | some pp =>
    let g := s.getIngress (convoyKey part (pageDie pp))
    if g.faultRow ∧ g.binder ≠ 0 then some (g.binder, s.ingressReturn part (pageDie pp) mode) else none

/-- TRET on a collective member: of a resident launch, or of a saved one by the place it was saved from. -/
def State.tretMember (s : State) (part : Nat) (u : Word) (mode : Nat) : Option (Nat × State) :=
  match tileCe (urTile u) with
  | none => none
  | some e =>
    let pages := (s.phys part (urPage u)).toList ++ (match s.savedAt part (urPage u) (urCtx u) with
      | some (id, i) => (((s.launchD id).save[i]?).map fun sv => sv.home.1).toList
      | none => [])
    pages.findSome? fun p =>
      (s.faultedMember part (ceKey p e (urCtx u)) (BitVec.ofNat 32 (urId u))).map fun x =>
        (x.2.launch, s.memberReturn part x.1 x.2 mode)

/-- TRET on a Pannier ring, named by its consumer's context and its channel number. -/
def State.tretRing (s : State) (part : Nat) (u : Word) (mode : Nat) : Option (Nat × State) :=
  match s.chans.find? fun e => e.2.lost == 1 && e.2.part == part && s.ringUref e.1 == u with
  | some (ch, c) => some (c.launch, s.ringReturn ch mode)
  | none => none

/-- TRET on the unit a word names. Kind 6 is an SPMM with the word's SEQ, or else a compile of the memory tile (R325,
R416). -/
def State.tret (s : State) (part : Nat) (u : Word) (mode : Nat) : Option (Nat × State) :=
  match urKind u with
  | 1 => s.tretCe part u mode
  | 2 => s.tretOp part u mode
  | 3 => s.tretMn part u mode
  | 4 => s.tretCopy part u mode
  | 5 => s.tretStream part u mode
  | 6 => (match s.tretCopy part u mode with | some x => some x | none => s.tretCompile part u mode)
  | 7 => s.tretIngress part u mode
  | 8 => s.tretMember part u mode
  | 9 => s.tretRing part u mode
  | _ => none

/-! ## The instructions -/

/-- TRET (R187): PROTECT unless the supervisor issues it. It waits for the task's writes into the translation area (R405)
and for a stop of the unit's launch (R421). A unit whose record has no place in the queue yet is not FAULTED yet (R419). -/
def execTret (f : FmtX) (s : State) : Host.Outcome State Fault Refusal :=
  .next (s.instrX f fun k r s =>
    let u := r.xa f
    if !s.isSuper r.c.launch then s.ceFault k .protect u.toNat 0
    else if s.areaWrites k then s
    else if s.unitRecordWaits r.c.part u then s.giveX k f 0
    else
      match s.tret r.c.part u (f.sub.toNat % 4) with
      | none => s.giveX k f 0
      | some (id, t) => if s.stopping id then s else (t.giveX k f 1).settle)

/-- FREC (R186): PROTECT unless the supervisor issues it; removes the oldest record and delivers its 64 bytes. One that
comes after a PART_TRAPPOP of its cycle waits for the next (R458). -/
def execFrec (f : FmtX) (s : State) : Host.Outcome State Fault Refusal :=
  .next (s.instrX f fun k r s =>
    if !s.isSuper r.c.launch then s.ceFault k .protect 0 0
    else if (s.getPart r.c.part).popAt = some s.cycle.toNat then s
    else
      let (b, s) := s.popRecord r.c.part
      s.mapCe k fun c => c.give true ((b.getD 0).setWidth 1024) f.ta)

/-- MIGR (R189): PROTECT for a logical page outside the partition; asks for the move, and delivers whether it is taken. -/
def execMigr (f : FmtX) (s : State) : Host.Outcome State Fault Refusal :=
  .next (s.instrX f fun k r s =>
    let lp := natBits (r.xa f).toNat 8 0
    if (s.getPart r.c.part).nl ≤ lp then s.ceFault k .protect lp 0
    else if s.areaWrites k then s
    else
      let target := if f.imm = 0x7FFFF#19 then none else some f.imm.toNat
      let (taken, s) := s.requestMove r.c.part lp target (.migr (State.ceUref k r.c.fir.bind r.c))
      s.giveX k f (BitVec.ofNat 64 (b2n taken)))

/-- The launch and image page of the context a word names for QUOTA: resident in the slot, or saved from it (R188). -/
def State.quotaOf (s : State) (part : Nat) (u : Word) : Option (Nat × Nat) :=
  let here := (s.phys part (urPage u)).bind fun pp =>
    let id := s.slotLaunch pp (urCtx u)
    let l := s.launchD id
    if id ≠ 0 ∧ l.resident ∧ l.part = part then (l.pages.findIdx? (· == urPage u)).map fun i => (id, i) else none
  match here with
  | some x => some x
  | none => s.savedAt part (urPage u) (urCtx u)

/-- The quota in KiB of a context of a launch: what its compute elements' CTX_QUOTA holds. -/
def State.quotaNow (s : State) (id i : Nat) : Nat :=
  let l := s.launchD id
  if l.state = .saved then
    match l.save[i]? with
    | some sv => ((sv.ces.head?).map fun x => x.2.quota).getD 0
    | none => 0
  else (s.getCe (ceKey ((s.phys l.part (l.pages.getD i 0)).getD 0) 0 (l.slots.getD i 0))).quota

/-- The extension of a context grows by KiB drawn from the spill reserve (R188, R345). -/
def State.growQuota (s : State) (id i kib : Nat) : State :=
  let l := s.launchD id
  let grow (c : CeCtx) : CeCtx := { c with quota := c.quota + kib }
  let one (x : Nat × CeCtx) : Nat × CeCtx := (x.1, grow x.2)
  let s := s.setLaunch id ({ l with ext := tadd l.ext i kib, extFree := tadd l.extFree i kib } : Launch)
  let s := s.mapPart l.part fun p => { p with regs := { p.regs with panFree := p.regs.panFree - kib } }
  if l.state = .saved then s.mapLaunch id fun l => l.mapSave i fun sv => { sv with ces := sv.ces.map one }
  else (pageCes ((s.phys l.part (l.pages.getD i 0)).getD 0) (l.slots.getD i 0)).foldl (fun s k => s.mapCe k grow) s

/-- QUOTA (R188): PROTECT unless the supervisor issues it. -/
def execQuota (f : FmtX) (s : State) : Host.Outcome State Fault Refusal :=
  .next (s.instrX f fun k r s =>
    let u := r.xa f
    let kib := f.imm.toNat
    if !s.isSuper r.c.launch then s.ceFault k .protect u.toNat 0
    else if s.areaWrites k then s
    else
      match (if urKind u = 0 then none else s.quotaOf r.c.part u) with
      | none => s.giveX k f 0
      | some (id, i) =>
        if (s.getPart r.c.part).regs.panFree < kib then s.giveX k f 0
        else
          let s := s.growQuota id i kib
          s.giveX k f (BitVec.ofNat 64 (s.quotaNow id i)))

end Sys2Proof.Machine
end

