-- ==== Sys2Proof/Machine/Vector.lean ====
section
/-!
DEFINITION. Sys2Proof/Machine/Vector.lean: the vector integer instructions (05_isa_integer.md, R129 to R139).
-/

namespace Sys2Proof.Machine

/-- A lane-wise entry of one source (R129). -/
def lanes1 (f : FmtT) (g : Int → Int) (r : Rd) : Res := .lanes f.ty ((r.ints f.ty .a f.sa).map g)

/-- A lane-wise entry of two sources (R129). -/
def lanes2 (f : FmtT) (g : Int → Int → Int) (r : Rd) : Res :=
  .lanes f.ty (List.zipWith g (r.ints f.ty .a f.sa) (r.ints f.ty .b f.sb))

/-- A whole-vector entry of two sources (R129). -/
def whole2 (f : FmtT) (g : Vec → Vec → Vec) (r : Rd) : Res := ⟨g (r.whole f.ty .a f.sa) (r.whole f.ty .b f.sb), true, 0⟩

/-- The type of twice the width and the same signedness (R134). -/
def wideTy : Ty → Ty
  | .s8 => .s16 | .z8 => .z16 | .s16 => .s32 | .z16 => .z32 | t => t

/-- VMOV (R129). -/
def execVmov (f : FmtT) (s : State) : Host.Outcome State Fault Refusal :=
  .next (s.pureT f fun r => ⟨r.whole f.ty .a f.sa, true, 0⟩)

/-- VADD (R129). -/
def execVadd (f : FmtT) (s : State) : Host.Outcome State Fault Refusal :=
  .next (s.pureT f (lanes2 f fun a b => fitT (satMd f.md) f.ty (a + b)))

/-- VSUB (R129). -/
def execVsub (f : FmtT) (s : State) : Host.Outcome State Fault Refusal :=
  .next (s.pureT f (lanes2 f fun a b => fitT (satMd f.md) f.ty (a - b)))

/-- VMUL (R129). -/
def execVmul (f : FmtT) (s : State) : Host.Outcome State Fault Refusal :=
  .next (s.pureT f (lanes2 f fun a b => fitT (satMd f.md) f.ty (a * b)))

/-- VMULH (R129). -/
def execVmulh (f : FmtT) (s : State) : Host.Outcome State Fault Refusal := .next (s.pureT f (lanes2 f (mulhT f.ty)))

/-- VMAC (R129): one fit of the exact value. -/
def execVmac (f : FmtT) (s : State) : Host.Outcome State Fault Refusal :=
  .next (s.pureT f fun r =>
    .lanes f.ty (List.zipWith (fun ab c => fitT (satMd f.md) f.ty (ab + c))
      (List.zipWith (· * ·) (r.ints f.ty .a f.sa) (r.ints f.ty .b f.sb)) (r.ints f.ty .c f.sc)))

/-- The dot products of R131: m products of lanes of t added to each 32-bit lane of c, fitted once. -/
def dotT (f : FmtT) (m : Nat) (r : Rd) : Res :=
  let u : Ty := if f.ty.signed then .s32 else .z32
  let prods := List.zipWith (· * ·) (r.ints f.ty .a f.sa) (r.ints f.ty .b f.sb)
  let cs := r.ints u .c f.sc
  .lanes u ((List.range 32).map fun i =>
    fitT (satMd f.md) u (lget 0 cs i + ((List.range m).map fun j => lget 0 prods (m * i + j)).sum))

/-- VDOT4 (R131). -/
def execVdot4 (f : FmtT) (s : State) : Host.Outcome State Fault Refusal := .next (s.pureT f (dotT f 4))

/-- VDOT2 (R131). -/
def execVdot2 (f : FmtT) (s : State) : Host.Outcome State Fault Refusal := .next (s.pureT f (dotT f 2))

/-- VMIN (R129). -/
def execVmin (f : FmtT) (s : State) : Host.Outcome State Fault Refusal := .next (s.pureT f (lanes2 f fun a b => min a b))

/-- VMAX (R129). -/
def execVmax (f : FmtT) (s : State) : Host.Outcome State Fault Refusal := .next (s.pureT f (lanes2 f fun a b => max a b))

/-- VABS (R129). -/
def execVabs (f : FmtT) (s : State) : Host.Outcome State Fault Refusal :=
  .next (s.pureT f (lanes1 f (absT (satMd f.md) f.ty)))

/-- VAND (R129). -/
def execVand (f : FmtT) (s : State) : Host.Outcome State Fault Refusal := .next (s.pureT f (whole2 f (· &&& ·)))

/-- VOR (R129). -/
def execVor (f : FmtT) (s : State) : Host.Outcome State Fault Refusal := .next (s.pureT f (whole2 f (· ||| ·)))

/-- VXOR (R129). -/
def execVxor (f : FmtT) (s : State) : Host.Outcome State Fault Refusal := .next (s.pureT f (whole2 f (· ^^^ ·)))

/-- VSHL (R130). -/
def execVshl (f : FmtT) (s : State) : Host.Outcome State Fault Refusal :=
  .next (s.pureT f (lanes2 f fun a b => shlT (satMd f.md) f.ty a (lowBits b f.ty.width)))

/-- VSHR (R130). -/
def execVshr (f : FmtT) (s : State) : Host.Outcome State Fault Refusal :=
  .next (s.pureT f (lanes2 f fun a b => shrT f.ty a (lowBits b f.ty.width)))

/-- VRSHR (R130). -/
def execVrshr (f : FmtT) (s : State) : Host.Outcome State Fault Refusal :=
  .next (s.pureT f (lanes2 f fun a b => rshrT f.ty a (lowBits b f.ty.width)))

/-- VCMP (R132): all ones or zero in each lane. -/
def execVcmp (f : FmtT) (s : State) : Host.Outcome State Fault Refusal :=
  .next (s.pureT f (lanes2 f fun a b => if condT f.md.toNat a b then -1 else 0))

/-- VSEL (R133): bit by bit, the mask in SA. -/
def execVsel (f : FmtT) (s : State) : Host.Outcome State Fault Refusal :=
  .next (s.pureT f fun r =>
    let m := r.whole f.ty .a f.sa
    ⟨(m &&& r.whole f.ty .b f.sb) ||| (~~~m &&& r.whole f.ty .c f.sc), true, 0⟩)

/-- VNARROW (R134): t is the result type. -/
def execVnarrow (f : FmtT) (s : State) : Host.Outcome State Fault Refusal :=
  .next (s.pureT f fun r =>
    let u := wideTy f.ty
    .lanes f.ty ((r.ints u .a f.sa ++ r.ints u .b f.sb).map (fitT (satMd f.md) f.ty)))

/-- VWIDEN (R134): t is the source type; .hi takes the upper half. -/
def execVwiden (f : FmtT) (s : State) : Host.Outcome State Fault Refusal :=
  .next (s.pureT f fun r =>
    let half := f.ty.lanes / 2
    .lanes (wideTy f.ty) (((r.ints f.ty .a f.sa).drop (if f.md.getLsbD 1 then half else 0)).take half))

/-- VSHUF (R135): data in SA and SC, indices in SB. -/
def execVshuf (f : FmtT) (s : State) : Host.Outcome State Fault Refusal :=
  .next (s.pureT f fun r =>
    let pair := r.ints f.ty .a f.sa ++ r.ints f.ty .c f.sc
    .lanes f.ty ((r.nats f.ty .b f.sb).map fun x => lget 0 pair x))

/-- VSLIDE (R136): the scalar count is in SC. -/
def execVslide (f : FmtT) (s : State) : Host.Outcome State Fault Refusal :=
  .next (s.pureT f fun r =>
    let pair := r.ints f.ty .a f.sa ++ r.ints f.ty .b f.sb
    let cnt := (r.w64 .c f.sc).toNat
    .lanes f.ty ((List.range f.ty.lanes).map fun i => lget 0 pair (i + cnt)))

/-- VBCAST (R137): the value is scalar. -/
def execVbcast (f : FmtT) (s : State) : Host.Outcome State Fault Refusal :=
  .next (s.pureT f fun r => .lanes f.ty (List.replicate f.ty.lanes ((r.w64 .a f.sa).toNat : Int)))

/-- VEXT (R137): a scalar; an index past the lanes gives 0. -/
def execVext (f : FmtT) (s : State) : Host.Outcome State Fault Refusal :=
  .next (s.pureT f fun r => .int f.ty (lget 0 (r.ints f.ty .a f.sa) (r.w64 .b f.sb).toNat))

/-- VINS (R137): an index past the lanes changes nothing. -/
def execVins (f : FmtT) (s : State) : Host.Outcome State Fault Refusal :=
  .next (s.pureT f fun r =>
    .lanes f.ty ((r.ints f.ty .a f.sa).set (r.w64 .b f.sb).toNat ((r.w64 .c f.sc).toNat : Int)))

/-- The operation of VRED and VSCAN over lanes that are not empty (R113, R138): 0 add, 1 min, 2 max. -/
def redOp (md : BitVec 3) : List Int → Int
  | [] => 0
  | x :: xs =>
    match md.toNat / 2 with
    | 0 => x + xs.sum
    | 1 => xs.foldl min x
    | _ => xs.foldl max x

/-- VRED (R138): one fit of the exact value. -/
def execVred (f : FmtT) (s : State) : Host.Outcome State Fault Refusal :=
  .next (s.pureT f fun r => .int f.ty (fitT (satMd f.md) f.ty (redOp f.md (r.ints f.ty .a f.sa))))

/-- VSCAN (R138): each exact prefix is fitted. -/
def execVscan (f : FmtT) (s : State) : Host.Outcome State Fault Refusal :=
  .next (s.pureT f fun r =>
    let ls := r.ints f.ty .a f.sa
    .lanes f.ty ((List.range f.ty.lanes).map fun i => fitT (satMd f.md) f.ty (redOp f.md (ls.take (i + 1)))))

/-- VIOTA (R139): the set lanes below each lane. -/
def execViota (f : FmtT) (s : State) : Host.Outcome State Fault Refusal :=
  .next (s.pureT f fun r =>
    let ls := r.ints f.ty .a f.sa
    .lanes f.ty ((List.range f.ty.lanes).map fun i => (((ls.take i).filter (· != 0)).length : Int)))

/-- VPOPC (R139): an unsigned 64-bit value whatever t is. -/
def execVpopc (f : FmtT) (s : State) : Host.Outcome State Fault Refusal :=
  .next (s.pureT f fun r => .nat ((r.ints f.ty .a f.sa).filter (· != 0)).length)

/-- VCOMPRESS (R139): the kept lanes in ascending order, zeros above. -/
def execVcompress (f : FmtT) (s : State) : Host.Outcome State Fault Refusal :=
  .next (s.pureT f fun r =>
    let kept := (List.zip (r.ints f.ty .a f.sa) (r.ints f.ty .b f.sb)).filter fun am => am.2 != 0
    .lanes f.ty (kept.map (·.1)))

end Sys2Proof.Machine
end

