-- ==== Sys2Proof/Machine/Dispatch.lean ====
section
/-!
DEFINITION. Sys2Proof/Machine/Dispatch.lean: one arm per constructor of `Instr`, each a direct call of its meaning.
-/

namespace Sys2Proof.Machine

open Sys2Proof

/-- The meaning of every step of the table. -/
def exec (i : Instr) (s : State) : Host.Outcome State Fault Refusal :=
  match i with
  | .nop f => Sys2Proof.Machine.execNop f s
  | .mov f => Sys2Proof.Machine.execMov f s
  | .add f => Sys2Proof.Machine.execAdd f s
  | .sub f => Sys2Proof.Machine.execSub f s
  | .mul f => Sys2Proof.Machine.execMul f s
  | .mulh f => Sys2Proof.Machine.execMulh f s
  | .div f => Sys2Proof.Machine.execDiv f s
  | .rem f => Sys2Proof.Machine.execRem f s
  | .andOp f => Sys2Proof.Machine.execAnd f s
  | .orOp f => Sys2Proof.Machine.execOr f s
  | .xorOp f => Sys2Proof.Machine.execXor f s
  | .shl f => Sys2Proof.Machine.execShl f s
  | .shr f => Sys2Proof.Machine.execShr f s
  | .minOp f => Sys2Proof.Machine.execMin f s
  | .maxOp f => Sys2Proof.Machine.execMax f s
  | .abs f => Sys2Proof.Machine.execAbs f s
  | .cmp f => Sys2Proof.Machine.execCmp f s
  | .cmpi f => Sys2Proof.Machine.execCmpi f s
  | .sel f => Sys2Proof.Machine.execSel f s
  | .clz f => Sys2Proof.Machine.execClz f s
  | .popc f => Sys2Proof.Machine.execPopc f s
  | .bfx f => Sys2Proof.Machine.execBfx f s
  | .bfi f => Sys2Proof.Machine.execBfi f s
  | .addi f => Sys2Proof.Machine.execAddi f s
  | .andi f => Sys2Proof.Machine.execAndi f s
  | .ldi f => Sys2Proof.Machine.execLdi f s
  | .addr f => Sys2Proof.Machine.execAddr f s
  | .vmov f => Sys2Proof.Machine.execVmov f s
  | .vadd f => Sys2Proof.Machine.execVadd f s
  | .vsub f => Sys2Proof.Machine.execVsub f s
  | .vmul f => Sys2Proof.Machine.execVmul f s
  | .vmulh f => Sys2Proof.Machine.execVmulh f s
  | .vmac f => Sys2Proof.Machine.execVmac f s
  | .vdot4 f => Sys2Proof.Machine.execVdot4 f s
  | .vdot2 f => Sys2Proof.Machine.execVdot2 f s
  | .vmin f => Sys2Proof.Machine.execVmin f s
  | .vmax f => Sys2Proof.Machine.execVmax f s
  | .vabs f => Sys2Proof.Machine.execVabs f s
  | .vand f => Sys2Proof.Machine.execVand f s
  | .vor f => Sys2Proof.Machine.execVor f s
  | .vxor f => Sys2Proof.Machine.execVxor f s
  | .vshl f => Sys2Proof.Machine.execVshl f s
  | .vshr f => Sys2Proof.Machine.execVshr f s
  | .vrshr f => Sys2Proof.Machine.execVrshr f s
  | .vcmp f => Sys2Proof.Machine.execVcmp f s
  | .vsel f => Sys2Proof.Machine.execVsel f s
  | .vnarrow f => Sys2Proof.Machine.execVnarrow f s
  | .vwiden f => Sys2Proof.Machine.execVwiden f s
  | .vshuf f => Sys2Proof.Machine.execVshuf f s
  | .vslide f => Sys2Proof.Machine.execVslide f s
  | .vbcast f => Sys2Proof.Machine.execVbcast f s
  | .vext f => Sys2Proof.Machine.execVext f s
  | .vins f => Sys2Proof.Machine.execVins f s
  | .vred f => Sys2Proof.Machine.execVred f s
  | .vscan f => Sys2Proof.Machine.execVscan f s
  | .viota f => Sys2Proof.Machine.execViota f s
  | .vpopc f => Sys2Proof.Machine.execVpopc f s
  | .vcompress f => Sys2Proof.Machine.execVcompress f s
  | .fadd f => Sys2Proof.Machine.execFadd f s
  | .fsub f => Sys2Proof.Machine.execFsub f s
  | .fmul f => Sys2Proof.Machine.execFmul f s
  | .ffma f => Sys2Proof.Machine.execFfma f s
  | .fdiv f => Sys2Proof.Machine.execFdiv f s
  | .faddi f => Sys2Proof.Machine.execFaddi f s
  | .fmuli f => Sys2Proof.Machine.execFmuli f s
  | .fscale f => Sys2Proof.Machine.execFscale f s
  | .fround f => Sys2Proof.Machine.execFround f s
  | .fmin f => Sys2Proof.Machine.execFmin f s
  | .fmax f => Sys2Proof.Machine.execFmax f s
  | .fclamp f => Sys2Proof.Machine.execFclamp f s
  | .fabs f => Sys2Proof.Machine.execFabs f s
  | .fneg f => Sys2Proof.Machine.execFneg f s
  | .fcmp f => Sys2Proof.Machine.execFcmp f s
  | .fclass f => Sys2Proof.Machine.execFclass f s
  | .frcp f => Sys2Proof.Machine.execFrcp f s
  | .frsq f => Sys2Proof.Machine.execFrsq f s
  | .fsqrt f => Sys2Proof.Machine.execFsqrt f s
  | .fexp2 f => Sys2Proof.Machine.execFexp2 f s
  | .flog2 f => Sys2Proof.Machine.execFlog2 f s
  | .fsig f => Sys2Proof.Machine.execFsig f s
  | .ftanh f => Sys2Proof.Machine.execFtanh f s
  | .vfred f => Sys2Proof.Machine.execVfred f s
  | .vfdot2 f => Sys2Proof.Machine.execVfdot2 f s
  | .cvt f => Sys2Proof.Machine.execCvt f s
  | .cvts f => Sys2Proof.Machine.execCvts f s
  | .packf f => Sys2Proof.Machine.execPackf f s
  | .unpackf f => Sys2Proof.Machine.execUnpackf f s
  | .cbexp f => Sys2Proof.Machine.execCbexp f s
  | .cbqnt f => Sys2Proof.Machine.execCbqnt f s
  | .send f => Sys2Proof.Machine.execSend f s
  | .adv f => Sys2Proof.Machine.execAdv f s
  | .padv f => Sys2Proof.Machine.execPadv f s
  | .mark f => Sys2Proof.Machine.execMark f s
  | .tkind f => Sys2Proof.Machine.execTkind f s
  | .markarg f => Sys2Proof.Machine.execMarkarg f s
  | .osend f => Sys2Proof.Machine.execOsend f s
  | .cfgsend f => Sys2Proof.Machine.execCfgsend f s
  | .exit f => Sys2Proof.Machine.execExit f s
  | .call f => Sys2Proof.Machine.execCall f s
  | .ret f => Sys2Proof.Machine.execRet f s
  | .tend f => Sys2Proof.Machine.execTend f s
  | .yield f => Sys2Proof.Machine.execYield f s
  | .sleep f => Sys2Proof.Machine.execSleep f s
  | .trap f => Sys2Proof.Machine.execTrap f s
  | .brk f => Sys2Proof.Machine.execBrk f s
  | .pset f => Sys2Proof.Machine.execPset f s
  | .launch f => Sys2Proof.Machine.execLaunch f s
  | .glaunch f => Sys2Proof.Machine.execGlaunch f s
  | .join f => Sys2Proof.Machine.execJoin f s
  | .cancel f => Sys2Proof.Machine.execCancel f s
  | .tbmark f => Sys2Proof.Machine.execTbmark f s
  | .tbwait f => Sys2Proof.Machine.execTbwait f s
  | .phend f => Sys2Proof.Machine.execPhend f s
  | .ld f => Sys2Proof.Machine.execLd f s
  | .st f => Sys2Proof.Machine.execSt f s
  | .ldv f => Sys2Proof.Machine.execLdv f s
  | .stv f => Sys2Proof.Machine.execStv f s
  | .stvm f => Sys2Proof.Machine.execStvm f s
  | .aadd f => Sys2Proof.Machine.execAadd f s
  | .amin f => Sys2Proof.Machine.execAmin f s
  | .amax f => Sys2Proof.Machine.execAmax f s
  | .aand f => Sys2Proof.Machine.execAand f s
  | .aor f => Sys2Proof.Machine.execAor f s
  | .axor f => Sys2Proof.Machine.execAxor f s
  | .axchg f => Sys2Proof.Machine.execAxchg f s
  | .acas f => Sys2Proof.Machine.execAcas f s
  | .afadd f => Sys2Proof.Machine.execAfadd f s
  | .bew f => Sys2Proof.Machine.execBew f s
  | .bred f => Sys2Proof.Machine.execBred f s
  | .fence f => Sys2Proof.Machine.execFence f s
  | .xfence f => Sys2Proof.Machine.execXfence f s
  | .gather f => Sys2Proof.Machine.execGather f s
  | .scatter f => Sys2Proof.Machine.execScatter f s
  | .scatadd f => Sys2Proof.Machine.execScatadd f s
  | .copy f => Sys2Proof.Machine.execCopy f s
  | .cpstat f => Sys2Proof.Machine.execCpstat f s
  | .sopen f => Sys2Proof.Machine.execSopen f s
  | .sclose f => Sys2Proof.Machine.execSclose f s
  | .qpush f => Sys2Proof.Machine.execQpush f s
  | .qpop f => Sys2Proof.Machine.execQpop f s
  | .sflush f => Sys2Proof.Machine.execSflush f s
  | .iflush f => Sys2Proof.Machine.execIflush f s
  | .ldg f => Sys2Proof.Machine.execLdg f s
  | .stg f => Sys2Proof.Machine.execStg f s
  | .agadd f => Sys2Proof.Machine.execAgadd f s
  | .mma f => Sys2Proof.Machine.execMma f s
  | .accrd f => Sys2Proof.Machine.execAccrd f s
  | .accwr f => Sys2Proof.Machine.execAccwr f s
  | .accz f => Sys2Proof.Machine.execAccz f s
  | .accrel f => Sys2Proof.Machine.execAccrel f s
  | .wload f => Sys2Proof.Machine.execWload f s
  | .wres f => Sys2Proof.Machine.execWres f s
  | .tseal f => Sys2Proof.Machine.execTseal f s
  | .tdrop f => Sys2Proof.Machine.execTdrop f s
  | .tquery f => Sys2Proof.Machine.execTquery f s
  | .spld f => Sys2Proof.Machine.execSpld f s
  | .spmm f => Sys2Proof.Machine.execSpmm f s
  | .spinv f => Sys2Proof.Machine.execSpinv f s
  | .spq f => Sys2Proof.Machine.execSpq f s
  | .sclook f => Sys2Proof.Machine.execSclook f s
  | .scfill f => Sys2Proof.Machine.execScfill f s
  | .scstep f => Sys2Proof.Machine.execScstep f s
  | .scinv f => Sys2Proof.Machine.execScinv f s
  | .xgate f => Sys2Proof.Machine.execXgate f s
  | .xsend f => Sys2Proof.Machine.execXsend f s
  | .xflush f => Sys2Proof.Machine.execXflush f s
  | .xclose f => Sys2Proof.Machine.execXclose f s
  | .coll f => Sys2Proof.Machine.execColl f s
  | .collwait f => Sys2Proof.Machine.execCollwait f s
  | .csrrd f => Sys2Proof.Machine.execCsrrd f s
  | .csrwr f => Sys2Proof.Machine.execCsrwr f s
  | .cycle f => Sys2Proof.Machine.execCycle f s
  | .statclr f => Sys2Proof.Machine.execStatclr f s
  | .seed f => Sys2Proof.Machine.execSeed f s
  | .tret f => Sys2Proof.Machine.execTret f s
  | .frec f => Sys2Proof.Machine.execFrec f s
  | .migr f => Sys2Proof.Machine.execMigr f s
  | .quota f => Sys2Proof.Machine.execQuota f s
  | .perf f => Sys2Proof.Machine.execPerf f s
  | .steer f => Sys2Proof.Machine.execSteer f s
  | .merge f => Sys2Proof.Machine.execMerge f s
  | .carry f => Sys2Proof.Machine.execCarry f s
  | .repeat f => Sys2Proof.Machine.execRepeat f s
  | .count f => Sys2Proof.Machine.execCount f s
  | .switch f => Sys2Proof.Machine.execSwitch f s
  | .sploop f => Sys2Proof.Machine.execSploop f s
  | .seq f => Sys2Proof.Machine.execSeq f s
  | .smerge f => Sys2Proof.Machine.execSmerge f s
  | .fork f => Sys2Proof.Machine.execFork f s
  | .sink f => Sys2Proof.Machine.execSink f s
  | .filter f => Sys2Proof.Machine.execFilter f s
  | .sync f => Sys2Proof.Machine.execSync f s
  | .configTokenTake op => Sys2Proof.Machine.execConfigTokenTake op s
  | .controlMarkDiscard op => Sys2Proof.Machine.execControlMarkDiscard op s
  | .blockFiring ce => Sys2Proof.Machine.execBlockFiring ce s
  | .linkGrant link err => Sys2Proof.Machine.execLinkGrant link err s
  | .creditReturn ch => Sys2Proof.Machine.execCreditReturn ch s
  | .busGrant bus => Sys2Proof.Machine.execBusGrant bus s
  | .busDelivery bus => Sys2Proof.Machine.execBusDelivery bus s
  | .orderPublish ce out => Sys2Proof.Machine.execOrderPublish ce out s
  | .bankServe mt bank err => Sys2Proof.Machine.execBankServe mt bank err s
  | .bankEccWriteback mt bank => Sys2Proof.Machine.execBankEccWriteback mt bank s
  | .bankDrowse mt bank => Sys2Proof.Machine.execBankDrowse mt bank s
  | .bankWakeEnd mt bank => Sys2Proof.Machine.execBankWakeEnd mt bank s
  | .bankPowerUp mt => Sys2Proof.Machine.execBankPowerUp mt s
  | .pageClear page => Sys2Proof.Machine.execPageClear page s
  | .gatherAccept mt => Sys2Proof.Machine.execGatherAccept mt s
  | .gatherReturn mt ce => Sys2Proof.Machine.execGatherReturn mt ce s
  | .copyChunk mt => Sys2Proof.Machine.execCopyChunk mt s
  | .queueHeaderCheck stream => Sys2Proof.Machine.execQueueHeaderCheck stream s
  | .streamTokenMove port => Sys2Proof.Machine.execStreamTokenMove port s
  | .heldPushRelease stream => Sys2Proof.Machine.execHeldPushRelease stream s
  | .dramIssue chan err => Sys2Proof.Machine.execDramIssue chan err s
  | .dramReply chan again => Sys2Proof.Machine.execDramReply chan again s
  | .arrayEccRewrite chan => Sys2Proof.Machine.execArrayEccRewrite chan s
  | .crcReplay chan ok => Sys2Proof.Machine.execCrcReplay chan ok s
  | .dramRefresh chan start => Sys2Proof.Machine.execDramRefresh chan start s
  | .pageWalkLevelRead die walk => Sys2Proof.Machine.execPageWalkLevelRead die walk s
  | .walkComplete die walk => Sys2Proof.Machine.execWalkComplete die walk s
  | .translationInvalidate part => Sys2Proof.Machine.execTranslationInvalidate part s
  | .matctlTake mn ctx => Sys2Proof.Machine.execMatctlTake mn ctx s
  | .fragmentStart mn => Sys2Proof.Machine.execFragmentStart mn s
  | .fragmentComplete mn => Sys2Proof.Machine.execFragmentComplete mn s
  | .doneFenceGive mn ctx => Sys2Proof.Machine.execDoneFenceGive mn ctx s
  | .tileHandover mn tile => Sys2Proof.Machine.execTileHandover mn tile s
  | .tileRestore mn tile => Sys2Proof.Machine.execTileRestore mn tile s
  | .nodePartitionClear mn => Sys2Proof.Machine.execNodePartitionClear mn s
  | .patternCompileStart mt => Sys2Proof.Machine.execPatternCompileStart mt s
  | .patternInstall mt => Sys2Proof.Machine.execPatternInstall mt s
  | .patternStoreMove mt entry dest => Sys2Proof.Machine.execPatternStoreMove mt entry dest s
  | .patternAgeSweep mt => Sys2Proof.Machine.execPatternAgeSweep mt s
  | .spmmStart mt => Sys2Proof.Machine.execSpmmStart mt s
  | .spmmComplete mt => Sys2Proof.Machine.execSpmmComplete mt s
  | .stepCacheDecision mt => Sys2Proof.Machine.execStepCacheDecision mt s
  | .batchDepart part die => Sys2Proof.Machine.execBatchDepart part die s
  | .ingressBatchTake part die remote => Sys2Proof.Machine.execIngressBatchTake part die remote s
  | .rowPlace part die => Sys2Proof.Machine.execRowPlace part die s
  | .batchReturn part die => Sys2Proof.Machine.execBatchReturn part die s
  | .collectiveExchangeStep part grp seq rank remote => Sys2Proof.Machine.execCollectiveExchangeStep part grp seq rank remote s
  | .collectiveComplete part grp seq => Sys2Proof.Machine.execCollectiveComplete part grp seq s
  | .sleepWake ce bind => Sys2Proof.Machine.execSleepWake ce bind s
  | .copyWaitWake ce bind => Sys2Proof.Machine.execCopyWaitWake ce bind s
  | .promiseTimeout ce bind => Sys2Proof.Machine.execPromiseTimeout ce bind s
  | .joinWake ce bind => Sys2Proof.Machine.execJoinWake ce bind s
  | .tbwaitWake ce bind => Sys2Proof.Machine.execTbwaitWake ce bind s
  | .collwaitWake ce bind => Sys2Proof.Machine.execCollwaitWake ce bind s
  | .turnEnd page => Sys2Proof.Machine.execTurnEnd page s
  | .drainEnd page => Sys2Proof.Machine.execDrainEnd page s
  | .pannierRefill ch err => Sys2Proof.Machine.execPannierRefill ch err s
  | .ringEnlarge ch => Sys2Proof.Machine.execRingEnlarge ch s
  | .quotaRecord ch => Sys2Proof.Machine.execQuotaRecord ch s
  | .watchdog router key => Sys2Proof.Machine.execWatchdog router key s
  | .launchAgeing part => Sys2Proof.Machine.execLaunchAgeing part s
  | .placementDecision part => Sys2Proof.Machine.execPlacementDecision part s
  | .imageLoad part address body => Sys2Proof.Machine.execImageLoad part address body s
  | .phasePreload part => Sys2Proof.Machine.execPhasePreload part s
  | .stopAcknowledge launch unit => Sys2Proof.Machine.execStopAcknowledge launch unit s
  | .emptyPhaseEvaluate part => Sys2Proof.Machine.execEmptyPhaseEvaluate part s
  | .launchResume launch => Sys2Proof.Machine.execLaunchResume launch s
  | .deferredRecordWrite part => Sys2Proof.Machine.execDeferredRecordWrite part s
  | .pageThermRenewal page temp => Sys2Proof.Machine.execPageThermRenewal page temp s
  | .pageMoveTransfer part => Sys2Proof.Machine.execPageMoveTransfer part s
  | .pageMoveCommit part => Sys2Proof.Machine.execPageMoveCommit part s
  | .pageMapout page => Sys2Proof.Machine.execPageMapout page s
  | .powerWindow watts => Sys2Proof.Machine.execPowerWindow watts s
  | .cycleSampleExchange link ahead behind => Sys2Proof.Machine.execCycleSampleExchange link ahead behind s
  | .cycleSlew => Sys2Proof.Machine.execCycleSlew s
  | .flitRetry link ok => Sys2Proof.Machine.execFlitRetry link ok s
  | .functionReady fn ok => Sys2Proof.Machine.execFunctionReady fn ok s
  | .deviceReset => Sys2Proof.Machine.execDeviceReset s
  | .hostlFall => Sys2Proof.Machine.execHostlFall s
  | .registerWrite win reg value host => Sys2Proof.Machine.execRegisterWrite win reg value host s
  | .hostVfmapWrite n value host => Sys2Proof.Machine.execHostVfmapWrite n value host s
  | .pageAssign value host => Sys2Proof.Machine.execPageAssign value host s
  | .pageRelease value host => Sys2Proof.Machine.execPageRelease value host s
  | .hostPcfgWrite value host => Sys2Proof.Machine.execHostPcfgWrite value host s
  | .hostXareaWrite value host => Sys2Proof.Machine.execHostXareaWrite value host s
  | .hostCntclr value host => Sys2Proof.Machine.execHostCntclr value host s
  | .devOwnWrite value host => Sys2Proof.Machine.execDevOwnWrite value host s
  | .partJobStart vf value => Sys2Proof.Machine.execPartJobStart vf value s
  | .partJobCancel vf value => Sys2Proof.Machine.execPartJobCancel vf value s
  | .partTrappop vf value => Sys2Proof.Machine.execPartTrappop vf value s
  | .partDbgAddrWrite vf value => Sys2Proof.Machine.execPartDbgAddrWrite vf value s
  | .partCkptGo vf value => Sys2Proof.Machine.execPartCkptGo vf value s
  | .ckptEnd part linkDown memUe => Sys2Proof.Machine.execCkptEnd part linkDown memUe s
  | .mctpControl msg => Sys2Proof.Machine.execMctpControl msg s
  | .getVersion msg => Sys2Proof.Machine.execGetVersion msg s
  | .getCapabilities msg => Sys2Proof.Machine.execGetCapabilities msg s
  | .negotiateAlgorithms msg => Sys2Proof.Machine.execNegotiateAlgorithms msg s
  | .getDigests msg => Sys2Proof.Machine.execGetDigests msg s
  | .getCertificate msg => Sys2Proof.Machine.execGetCertificate msg s
  | .getMeasurements msg => Sys2Proof.Machine.execGetMeasurements msg s
  | .mgtRegisterRead reg => Sys2Proof.Machine.execMgtRegisterRead reg s
  | .mgtRegisterWrite reg value => Sys2Proof.Machine.execMgtRegisterWrite reg value s
  | .mgtInventoryRead => Sys2Proof.Machine.execMgtInventoryRead s
  | .mgtSensorRead page => Sys2Proof.Machine.execMgtSensorRead page s
  | .mgtErrlogRead => Sys2Proof.Machine.execMgtErrlogRead s
  | .mgtPackageReset => Sys2Proof.Machine.execMgtPackageReset s
  | .mgtFirmwareStage version signed => Sys2Proof.Machine.execMgtFirmwareStage version signed s
  | .vfBar2Write vf address data => Sys2Proof.Machine.execVfBar2Write vf address data s
  | .cycleCounterAdvance => Sys2Proof.Machine.execCycleCounterAdvance s

end Sys2Proof.Machine
end

