-- ==== Sys2Proof/Machine/Fetch.lean ====
section
/-!
DEFINITION. Sys2Proof/Machine/Fetch.lean: whose turn a step gives, and the instruction that turn runs: the next word of
a compute-element firing, the action R220 chooses for an operator, or an event.
-/

namespace Sys2Proof.Machine

/-- FREE VALUE: the turn taken when the agenda is empty. The specification fixes no schedule of its parallel units, and
no schedule of the outside world (log entries 1 and 3). -/
opaque freeTurn : Nat → Turn

/-- Takes the next turn: the head of the agenda, or a free one. -/
def State.nextTurn (s : State) : Turn × State :=
  match s.agenda with
  | t :: rest => (t, { s with agenda := rest })
  | [] => (freeTurn s.free, { s with free := s.free + 1 })

/-- The step of the table that no word encodes: an event. -/
def isEvent (i : Instr) : Bool :=
  match encode i with
  | none => true
  | some _ => false

/-- The instruction a turn runs, or the fault where it names none: a context whose firing stands before a word runs that
word; any other context, a BLOCK_FIRING; an operator, the step R220 chooses; and an event, itself. -/
def State.instrOf (s : State) (t : Turn) : Except Fault Instr :=
  match t with
  | .ce k =>
    let c := s.getCe k
    let f := c.fir
    if f.active && (lget {} c.binds f.bind).state == .firing && f.idx < f.block.words.length then
      match ceWord f.word with
      | .ok i => .ok i
      | .error _ => .error .undecodedWord
    else .ok (.blockFiring k)
  | .op k => .ok ((s.opChoice k).getD (.controlMarkDiscard k))
  | .event i => if isEvent i then .ok i else .error .undecodedWord
  | .wordError _ _ | .sectorError _ _ | .evict _ _ | .systemError _ _ _ _ => .error .undecodedWord

/-- What a turn that runs no instruction does: an error strikes a word of a memory tile or a sector of device memory, and the
next access of an engine to it meets it (R274, R307, R308); a compute element evicts a decoded block (R101, R215); or a system
token takes an error (R18). None of these is a step of the table (log entry 90). None for the turns that run an instruction. -/
def State.outside (s : State) (t : Turn) : Option State :=
  match t with
  | .wordError w lost => some { s with wordErrs := tput s.wordErrs w lost }
  | .sectorError a e => some { s with sectorErrs := tput s.sectorErrs a e }
  | .evict k a => some (s.mapCe k fun c => { c with dec := c.dec.filter fun d => d.address != a })
  | .systemError k acc link lost => some (s.systemError k acc link lost)
  | .ce _ | .op _ | .event _ => none

/-- A launch that an image with one resident context on page 0 would be. -/
def loadedLaunch : Launch :=
  { part := 0, image := 0, args := [], tbufs := [], level := 0, blevel := 0, waited := 0, state := .resident,
    graph := 0, super := false, pages := [0], slots := [0], counter := 1, done := 0, killed := 0, faulted := 0,
    anyFault := false, anyKill := false, outcome := none, placedAt := 0, quota := 0, ext := [], extFree := [],
    parkedOn := [], save := [] }

/-- Stands for the loading and placement of an image whose compute element 0 of page 0 is about to run one word: context
slot 0 is FIRING a block of that word, and the next turn is its. -/
def State.loadCe (s : State) (w : Word) : State :=
  let s := s.mapCe 0 fun c => { c with
    launch := 1
    binds := lmod c.binds 0 fun b => { b with bound := true, state := .firing }
    fir := { active := true, bind := 0, block := ⟨0, 0, [w]⟩, toks := List.replicate 8 [] } }
  { s with agenda := .ce 0 :: s.agenda }

/-- Stands for the placement of an image with one router operator, in slot 0 of context 0 of the router of tile 0: the
next turn is its. -/
def State.loadOp (s : State) (w : Word) : State :=
  let s := { s with launches := tput s.launches 1 loadedLaunch }
  let s := s.setOp 0 { (s.getOp 0) with
    placed := match decC w with | .ok f => some f | .error _ => none
    instr := routerWord w, launch := 1, faulted := none, fired := false }
  { s with agenda := .op 0 :: s.agenda }

end Sys2Proof.Machine
end

