-- ==== Sys2Proof/Machine/Step.lean ====
section
/-!
DEFINITION. Sys2Proof/Machine/Step.lean: one step: the next turn, the instruction it runs, and its meaning.
-/

namespace Sys2Proof.Machine

/-- One step. -/
def step (s : State) : Host.Outcome State Fault Refusal :=
  match s.nextTurn with
  | (t, s) =>
    match s.outside t with
    | some u => .next u
    | none =>
      match s.instrOf t with
      | .ok i => exec i { s with cur := t }
      | .error e => .fault e

/-- The state with one instruction loaded where the next step takes it (log entry 14): in a firing of context slot 0 of
compute element 0 of page 0, or, for a router word, in an operator slot. -/
def State.withFetchWord (s : State) (nbits w : Nat) : State :=
  let word : Word := BitVec.ofNat 64 (w % 2 ^ nbits)
  match routerWord word with
  | some _ => s.loadOp word
  | none => s.loadCe word

end Sys2Proof.Machine
end

