-- ==== Sys2Proof/Safety.lean ====
section
/-!
DEFINITION. Sys2Proof/Safety.lean: what claims about runs are stated in: a safe step, the memories' canonical form, what
delivering a result changes in a state and what it leaves alone, and the specification's integer helpers said as properties
of an integer.
-/

namespace Sys2Proof.Machine

/-- The step answers a next state. -/
def Safe (s : State) : Prop := ∃ t, step s = .next t

/-- Every memory of the machine is in canonical form. -/
structure MemoryOk (s : State) : Prop where
  scratch : Memory.wf s.scratch = true
  istore : Memory.wf s.istore = true
  wbuf : Memory.wf s.wbuf = true
  accs : Memory.wf s.accs = true
  device : Memory.wf s.device = true

/-- Instructions run one after the other, each answering a next state. -/
def Runs : List Instr → State → State → Prop
  | [], s, t => t = s
  | i :: is, s, t => ∃ u, exec i s = .next u ∧ Runs is u t

/-! ## What an instruction of one context changes -/

/-- Nothing changes but the context whose instruction runs. -/
structure OnlyContext (s t : State) : Prop where
  rest : t = { s with ce := t.ce }
  others : ∀ k, k ≠ s.key → t.getCe k = s.getCe k

/-- `deliver(v)` (R81, R82): the registers, slots and output slots that TA or TB names hold the value, flags are raised
(R56), the firing stands at its next instruction, and everything else of the context is as it was. `vec` says that the
result is a vector, so an output slot takes it as a VECTOR token (R165). -/
structure Delivered (c d : CeCtx) (ta tb : Tgt) (vec : Bool) (v : Vec) (fl : Flags) : Prop where
  frame : d = { c with
    regs := { c.regs with s := d.regs.s, w := d.regs.w, p := d.regs.p }
    outs := d.outs
    stat := c.stat ||| fl
    fir := { c.fir with slots := d.fir.slots, idx := c.fir.idx + 1, hold := .none, skip := false } }
  sreg : ∀ n : Fin 8, d.regs.s[n] = if ta = .s ⟨n⟩ ∨ tb = .s ⟨n⟩ then v.toWord else c.regs.s[n]
  wreg : ∀ n : Fin 4, d.regs.w[n] = if ta = .w ⟨n⟩ ∨ tb = .w ⟨n⟩ then v else c.regs.w[n]
  preg : ∀ n : Fin 8, d.regs.p[n] = if ta = .p ⟨n⟩ ∨ tb = .p ⟨n⟩ then v.getLsbD 0 else c.regs.p[n]
  slot : ∀ (i : BitVec 7) (x : SlotName), tget 0 d.fir.slots (3 * i.toNat + SlotName.no x) =
    if ta = .slot i x ∨ tb = .slot i x then v else tget 0 c.fir.slots (3 * i.toNat + SlotName.no x)
  out : ∀ (j : BitVec 3) (o : BitVec 4), c.fir.pub j.toNat ≤ o.toNat → j.toNat < c.outs.length →
    tget default (lget {} d.outs j.toNat).stage (o.toNat - c.fir.pub j.toNat) =
      if ta = .out j o ∨ tb = .out j o then ⟨if vec then 1 else 0, v, 0⟩
      else tget default (lget {} c.outs j.toNat).stage (o.toNat - c.fir.pub j.toNat)
  outRest : ∀ j, lget {} d.outs j = { lget {} c.outs j with stage := (lget {} d.outs j).stage }

/-- The instruction completes: it delivers a value with a property to TA and TB, raises the flags, and changes nothing
else. -/
def Gives (i : Instr) (s : State) (ta tb : Tgt) (vec : Bool) (fl : Flags) (P : Vec → Prop) : Prop :=
  ∃ t v, exec i s = .next t ∧ OnlyContext s t ∧ Delivered (s.getCe s.key) (t.getCe s.key) ta tb vec v fl ∧ P v

/-- The instruction delivers a scalar integer with a property, as a 64-bit value (R50, R79). -/
def GivesInt (i : Instr) (s : State) (ta tb : Tgt) (fl : Flags) (P : Int → Prop) : Prop :=
  Gives i s ta tb false fl fun v => ∃ x : Int, v = Word.toVec (BitVec.ofInt 64 x) ∧ P x

/-! ## Integers of a type (R49, R51, R52, R111) -/

/-- An integer in the range of an integer type. -/
def InRange (t : Ty) (x : Int) : Prop :=
  if t.signed then -(2 : Int) ^ (t.width - 1) ≤ x ∧ x < 2 ^ (t.width - 1) else 0 ≤ x ∧ x < 2 ^ t.width

/-- `fit(v, t)`: the value reduced modulo 2^w(t) into the range of t, or clamped to it. -/
def Fits (sat : Bool) (t : Ty) (exact x : Int) : Prop :=
  InRange t x ∧
  if sat then (InRange t exact → x = exact) ∧ (∀ y, InRange t y → (exact < y → x ≤ y) ∧ (y < exact → y ≤ x))
  else ((2 : Int) ^ t.width) ∣ exact - x

/-- The low bits of an integer of a type, as a bit pattern. -/
def Pat (t : Ty) (x : Int) : BitVec t.width := BitVec.ofInt t.width x

/-! ## Lanes of a type (R49, R112) -/

/-- Lane i of a vector of type t, as a bit pattern. -/
def LaneBits (t : Ty) (v : Vec) (i : Nat) : BitVec t.width := v.extractLsb' (t.width * i) t.width

/-- The instruction delivers a vector whose every lane is an integer of type t with a property. -/
def GivesLanes (i : Instr) (s : State) (ta tb : Tgt) (t : Ty) (P : Nat → Int → Prop) : Prop :=
  Gives i s ta tb true 0 fun v => ∀ n, n < t.lanes → ∃ x, InRange t x ∧ LaneBits t v n = Pat t x ∧ P n x

/-! ## Floating-point results on exact values (R53 to R58, R144) -/

/-- The exact value of a decoded finite value. -/
def FVal.real : FVal → ℚ
  | .fin n m e => (if n then -1 else 1) * m * (2 : ℚ) ^ e
  | _ => 0

/-- A finite value. -/
def FVal.Finite (v : FVal) : Prop := ∃ n m e, v = .fin n m e

/-- y is x rounded in mode md to a multiple of 2^q: nearest with ties to an even multiple, toward zero, down, or up
(R57). -/
def RoundsTo (md : Nat) (q : ℤ) (x : ℝ) (y : ℚ) : Prop :=
  (∃ k : ℤ, y = k * (2 : ℚ) ^ q) ∧
  match md with
  | 0 => |x - y| ≤ (2 : ℝ) ^ q / 2 ∧ (|x - y| = (2 : ℝ) ^ q / 2 → ∃ k : ℤ, y = 2 * k * (2 : ℚ) ^ q)
  | 1 => |(y : ℝ)| ≤ |x| ∧ 0 ≤ x * y ∧ |x - y| < (2 : ℝ) ^ q
  | 2 => (y : ℝ) ≤ x ∧ x - y < (2 : ℝ) ^ q
  | _ => x ≤ y ∧ y - x < (2 : ℝ) ^ q

/-- The largest finite magnitude of a format (R53). -/
def fMax (t : Ty) : ℚ :=
  match t with
  | .fp32 => (2 ^ 24 - 1) * 2 ^ 104 | .fp16 => 65504 | .bf16 => (2 ^ 8 - 1) * 2 ^ 120 | .e5m2 => 57344 | .e4m3 => 448
  | _ => 0

/-- The pattern of an overflow (R58). -/
def Overflows (t : Ty) (md : Nat) (sat neg : Bool) (r : Nat) : Prop :=
  r = if sat then maxBits t neg
      else if md = 0 ∨ (md = 2 ∧ neg = true) ∨ (md = 3 ∧ neg = false) then infBits t neg else maxBits t neg

/-- `rnd(x, t, md)` for an exact x that is not 0 (R57, R58), with its flags (R56): x rounded at the precision of its
binade, or of the subnormals; past the largest finite magnitude an overflow; NX when the result differs from x; UF when it
is inexact and its rounding with an unbounded exponent range lies below the smallest normal. -/
def Rounded (t : Ty) (md : Nat) (sat : Bool) (x : ℝ) (r : Nat) (fl : Flags) : Prop :=
  x ≠ 0 → ∃ y y' : ℚ,
    RoundsTo md (max (Int.log 2 |x|) (fEmin t) - fMan t) x y ∧ RoundsTo md (Int.log 2 |x| - fMan t) x y' ∧
    (|y| ≤ fMax t →
      (∃ m e, fDecode t r = .fin (decide (x < 0)) m e) ∧ (fDecode t r).real = y ∧ r < 2 ^ t.width ∧
      ((y : ℝ) = x → fl = 0) ∧
      ((y : ℝ) ≠ x → |y'| < (2 : ℚ) ^ fEmin t → fl = flagNX ||| flagUF) ∧
      ((y : ℝ) ≠ x → (2 : ℚ) ^ fEmin t ≤ |y'| → fl = flagNX)) ∧
    (fMax t < |y| → Overflows t md sat (decide (x < 0)) r ∧ fl = flagOF ||| flagNX)

/-- The sum x of finite terms with the signs given: rounded, or an exact zero with the sign of R55. -/
def SumTo (t : Ty) (md : Nat) (x : ℚ) (allZero : Bool) (signs : List Bool) (r : Nat) (fl : Flags) : Prop :=
  Rounded t md false x r fl ∧
  (x = 0 → fl = 0 ∧ r = signBit t
    (if allZero ∧ signs.all id then true else if allZero ∧ ¬ signs.any id then false else decide (md = 2)))

/-- R144's table for a sum of two values: a NaN operand, an infinite one, opposite infinities, finite ones. -/
def AddsTo (t : Ty) (md : Nat) (x y : FVal) (r : Nat) (fl : Flags) : Prop :=
  (x.isNan ∨ y.isNan → r = canon t ∧ fl = sigFlag [x, y]) ∧
  (∀ n, x = .inf n → y = .inf n ∨ y.Finite → r = infBits t n ∧ fl = 0) ∧
  (∀ n, y = .inf n → x.Finite → r = infBits t n ∧ fl = 0) ∧
  (∀ n, x = .inf n → y = .inf (!n) → r = canon t ∧ fl = flagNV) ∧
  (x.Finite → y.Finite → SumTo t md (x.real + y.real) (x.isZero && y.isZero) [x.neg, y.neg] r fl)

/-- R144's table for a product. -/
def MulsTo (t : Ty) (md : Nat) (x y : FVal) (r : Nat) (fl : Flags) : Prop :=
  (x.isNan ∨ y.isNan → r = canon t ∧ fl = sigFlag [x, y]) ∧
  ((∃ n, x = .inf n) → y.isZero → r = canon t ∧ fl = flagNV) ∧
  ((∃ n, y = .inf n) → x.isZero → r = canon t ∧ fl = flagNV) ∧
  (∀ n, x = .inf n → ¬ y.isNan → ¬ y.isZero → r = infBits t (n != y.neg) ∧ fl = 0) ∧
  (∀ n, y = .inf n → ¬ x.isNan → ¬ x.isZero → r = infBits t (n != x.neg) ∧ fl = 0) ∧
  (x.Finite → y.Finite →
    Rounded t md false ((x.real * y.real : ℚ) : ℝ) r fl ∧ (x.real * y.real = 0 → r = signBit t (x.neg != y.neg) ∧ fl = 0))

/-- R144's table for a quotient. -/
def DivsTo (t : Ty) (md : Nat) (x y : FVal) (r : Nat) (fl : Flags) : Prop :=
  (x.isNan ∨ y.isNan → r = canon t ∧ fl = sigFlag [x, y]) ∧
  ((∃ n m, x = .inf n ∧ y = .inf m) → r = canon t ∧ fl = flagNV) ∧
  (x.isZero → y.isZero → r = canon t ∧ fl = flagNV) ∧
  (∀ n, x = .inf n → y.Finite → r = infBits t (n != y.neg) ∧ fl = 0) ∧
  (∀ n, y = .inf n → x.Finite → r = signBit t (x.neg != n) ∧ fl = 0) ∧
  (x.Finite → ¬ x.isZero → y.isZero →
    r = infBits t (x.neg != y.neg) ∧ fl = if t = .e4m3 then flagDZ ||| flagNV else flagDZ) ∧
  (x.Finite → y.Finite → ¬ y.isZero →
    Rounded t md false ((x.real / y.real : ℚ) : ℝ) r fl ∧ (x.isZero → r = signBit t (x.neg != y.neg) ∧ fl = 0))

/-- R144 for a × b + c: one rounding; 0 × ∞ raises NV, beside a NaN addend too. -/
def FusesTo (t : Ty) (md : Nat) (x y z : FVal) (r : Nat) (fl : Flags) : Prop :=
  (x.isNan ∨ y.isNan → r = canon t ∧ fl = sigFlag [x, y, z]) ∧
  (((∃ n, x = .inf n) ∧ y.isZero ∨ (∃ n, y = .inf n) ∧ x.isZero) → r = canon t ∧ fl = flagNV) ∧
  (∀ n, ((x = .inf n ∧ ¬ y.isNan ∧ ¬ y.isZero) ∨ (y = .inf n ∧ ¬ x.isNan ∧ ¬ x.isZero)) →
    AddsTo t md (.inf (x.neg != y.neg)) z r fl) ∧
  (x.Finite → y.Finite → z.isNan → r = canon t ∧ fl = sigFlag [z]) ∧
  (x.Finite → y.Finite → ∀ n, z = .inf n → r = infBits t n ∧ fl = 0) ∧
  (x.Finite → y.Finite → z.Finite →
    SumTo t md (x.real * y.real + z.real) ((x.isZero || y.isZero) && z.isZero) [x.neg != y.neg, z.neg] r fl)

/-- One value lies below another: −0 below +0 (R55). -/
def FBelow (a b : FVal) : Prop :=
  match a, b with
  | .inf true, .inf true | .inf false, .inf false | .nan _, _ | _, .nan _ => False
  | .inf true, _ | _, .inf false => True
  | _, .inf true | .inf false, _ => False
  | x, y => x.real < y.real ∨ (x.real = 0 ∧ y.real = 0 ∧ x.neg = true ∧ y.neg = false)

/-- minimumNumber or maximumNumber of two patterns (R55). -/
def PicksTo (t : Ty) (isMax : Bool) (a b x : Nat) (fl : Flags) : Prop :=
  let v := fDecode t
  fl = sigFlag [v a, v b] ∧ ((v a).isNan → (v b).isNan → x = canon t) ∧
  ((v a).isNan → ¬ (v b).isNan → x = b) ∧ ((v b).isNan → ¬ (v a).isNan → x = a) ∧
  (¬ (v a).isNan → ¬ (v b).isNan → x = a ∨ x = b) ∧
  (FBelow (v a) (v b) → x = if isMax then b else a) ∧ (FBelow (v b) (v a) → x = if isMax then a else b)

/-- One operation of a bank on two patterns of a type (R199, R200): addition, wrapping or with one rounding; minimum and
maximum; and, or, exclusive or. -/
def ElemTo (op : Nat) (t : Ty) (a b n : Nat) : Prop :=
  match op with
  | 0 => if t.isFloat then ∃ fl, AddsTo t 0 (fDecode t a) (fDecode t b) n fl else n = (a + b) % 2 ^ t.width
  | 1 => if t.isFloat then ∃ fl, PicksTo t false a b n fl else extT t n = min (extT t a) (extT t b) ∧ (n = a ∨ n = b)
  | 2 => if t.isFloat then ∃ fl, PicksTo t true a b n fl else extT t n = max (extT t a) (extT t b) ∧ (n = a ∨ n = b)
  | 3 => n = a &&& b
  | 4 => n = a ||| b
  | _ => n = a ^^^ b

/-- The pairwise tree of R69 over 2^n values: the sum of the lower half's tree and the upper half's. -/
def TreeTo (t : Ty) (md : Nat) : Nat → (Nat → Nat) → Nat → Flags → Prop
  | 0, a, r, fl => r = a 0 ∧ fl = 0
  | n + 1, a, r, fl => ∃ r1 f1 r2 f2 f3, TreeTo t md n a r1 f1 ∧ TreeTo t md n (fun i => a (2 ^ n + i)) r2 f2 ∧
      AddsTo t md (fDecode t r1) (fDecode t r2) r f3 ∧ fl = f1 ||| f2 ||| f3

/-- The instruction delivers floating-point results: one pattern zero-extended to 64 bits, or one in each lane, with the
union of the lanes' flags (R56, R142). -/
def GivesFloats (i : Instr) (s : State) (ta tb : Tgt) (vec : Bool) (t : Ty) (P : Nat → Nat → Flags → Prop) : Prop :=
  ∃ (r : Nat → Nat) (fl : Nat → Flags),
    Gives i s ta tb vec ((List.range (if vec then t.lanes else 1)).foldl (fun u j => u ||| fl j) 0) (fun v =>
      (vec = true → ∀ j, j < t.lanes → LaneBits t v j = BitVec.ofNat t.width (r j)) ∧
      (vec = false → v = BitVec.ofNat 1024 (r 0))) ∧
    ∀ j, j < (if vec then t.lanes else 1) → P j (r j) (fl j)

/-! ## Conversions (R59, R61, R154 to R156) -/

/-- The value of a source element: an integer is a finite value. -/
def srcValue (src : Ty) (a : Nat) : FVal :=
  if src.isInt then .fin (decide (extT src a < 0)) (extT src a).natAbs 0 else fDecode src a

/-- One element converted from the exact value a × 2^sc (R154, R156): to an integer by R59, between integers without
flags but NX, to a floating-point format by R57 and R58. -/
def ConvertsTo (dst src : Ty) (md : Nat) (sat : Bool) (sc : Int) (a r : Nat) (fl : Flags) : Prop :=
  let v := srcValue src a
  let bound (n : Bool) : Prop :=
    extT dst r = (if n then tyMin dst else tyMax dst) ∧ r < 2 ^ dst.width ∧ fl = if src.isInt then 0 else flagNV
  if dst.isInt then
    (v.isNan → r = 0 ∧ fl = flagNV) ∧ (∀ n, v = .inf n → bound n) ∧
    (v.Finite → ∃ y : ℚ, RoundsTo md 0 ((v.real : ℝ) * (2 : ℝ) ^ sc) y ∧
      (y < tyMin dst → bound true) ∧ ((tyMax dst : ℚ) < y → bound false) ∧
      ((tyMin dst : ℚ) ≤ y → y ≤ tyMax dst → (extT dst r : ℚ) = y ∧ r < 2 ^ dst.width ∧
        ((y : ℝ) = v.real * (2 : ℝ) ^ sc → fl = 0) ∧ ((y : ℝ) ≠ v.real * (2 : ℝ) ^ sc → fl = flagNX)))
  else
    (v.isNan → r = canon dst ∧ fl = sigFlag [v]) ∧
    (∀ n, v = .inf n → if sat then r = maxBits dst n ∧ fl = 0
      else r = infBits dst n ∧ fl = if dst = .e4m3 then flagNV else 0) ∧
    (v.isZero → r = signBit dst v.neg ∧ fl = 0) ∧ (v.Finite → Rounded dst md sat ((v.real : ℝ) * (2 : ℝ) ^ sc) r fl)

/-- One element rounded stochastically (R61): of the bits below the last kept place the 32 most significant are added to
as many low bits of the state, and a carry adds one unit; zeros, infinities and NaNs convert as without. -/
def StochasticTo (dst src : Ty) (sat : Bool) (seed : BitVec 32) (a r : Nat) (fl : Flags) : Prop :=
  let v := srcValue src a
  (¬ v.Finite ∨ v.isZero → ConvertsTo dst src 0 sat 0 a r fl) ∧
  ∀ n m e, v = .fin n m e → m ≠ 0 →
    let x := |v.real|
    let q := max (Int.log 2 x) (fEmin dst) - fMan dst
    let d := min (q - e).toNat 32
    let k := ⌊x / (2 : ℚ) ^ q⌋
    let carry : Bool := decide (0 < d ∧ (2 : ℤ) ^ d ≤ ⌊(x / (2 : ℚ) ^ q - k) * 2 ^ d⌋ + (seed.toNat % 2 ^ d : Nat))
    let y : ℚ := (k + if carry then 1 else 0) * (2 : ℚ) ^ q
    (y ≤ fMax dst → (∃ m' e', fDecode dst r = .fin n m' e') ∧ |(fDecode dst r).real| = y ∧ r < 2 ^ dst.width ∧
      fl = if y = x then 0 else if y < (2 : ℚ) ^ fEmin dst then flagNX ||| flagUF else flagNX) ∧
    (fMax dst < y → Overflows dst 0 sat n r ∧ fl = flagOF ||| flagNX)

/-- The instruction converts (R155): scalar, or m = min(n_s, n_d) elements from and to the lanes of its part; CTX_SEED
advances once per element with stochastic rounding. `P seed a r fl` relates a source element to its result. -/
def GivesConverted (i : Instr) (s : State) (f : FmtT) (src : Ty) (part : Nat) (sr : Bool)
    (P : BitVec 32 → Nat → Nat → Flags → Prop) : Prop :=
  let c := s.getCe s.key
  let r := s.rdAt s.key
  let vec := f.md.getLsbD 2
  let m := if vec then min src.lanes f.ty.lanes else 1
  let a (j : Nat) : Nat :=
    if vec then (if src.isFloat then lget 0 (r.flts src .a f.sa) j else lget 0 (r.nats src .a f.sa) j)
    else if src.isFloat then r.flt src .a f.sa else lowBits (r.int src .a f.sa) src.width
  let srcAt := if vec ∧ f.ty.lanes < src.lanes then part * m else 0
  let dstAt := if src.lanes < f.ty.lanes then part * m else 0
  ∃ (t : State) (d : CeCtx) (v : Vec) (x : Nat → Nat) (fl : Nat → Flags),
    exec i s = .next t ∧ OnlyContext s t ∧
    Delivered c d f.ta f.tb vec v ((List.range m).foldl (fun u j => u ||| fl j) 0) ∧
    t.getCe s.key = { d with seed := if sr then seedNext^[m] c.seed else c.seed } ∧
    (∀ j, j < m → P (seedNext^[j + 1] c.seed) (a (srcAt + j)) (x j) (fl j)) ∧
    (vec = false → v = if f.ty.isInt then Word.toVec (BitVec.ofInt 64 (extT f.ty (x 0))) else BitVec.ofNat 1024 (x 0)) ∧
    (vec = true → ∀ j, j < f.ty.lanes → LaneBits f.ty v j =
      if dstAt ≤ j ∧ j < dstAt + m then BitVec.ofNat f.ty.width (x (j - dstAt)) else 0)

/-! ## Instructions of format X and M -/

/-- An instruction of format X is not held, and its guard is true (R84, R187). -/
def Ready (s : State) (f : FmtX) : Prop :=
  (s.getCe s.key).fir.hold = .none ∧ (s.getCe s.key).fir.skip = false ∧ ((s.rdAt s.key).raw 0 .b f.sb).getLsbD 0 = true

/-- The firing stands at its next instruction. -/
def CeCtx.stepped (c : CeCtx) (g : Firing → Firing) : CeCtx :=
  { c with fir := { g c.fir with idx := (g c.fir).idx + 1, hold := .none, skip := false } }

/-- The instruction completes: it changes its firing, which goes on, and nothing else. -/
def Goes (i : Instr) (s : State) (g : Firing → Firing) : Prop :=
  ∃ t, exec i s = .next t ∧ OnlyContext s t ∧ t.getCe s.key = (s.getCe s.key).stepped g

/-- The instruction takes the exception (R28, R187, R417). -/
def Faults (i : Instr) (s : State) (cls : FaultClass) (addr detail : Nat) : Prop :=
  exec i s = .next (s.ceFault s.key cls addr detail)

/-- The instruction completes: it writes a token into output slot o past the producer pointer of channel j, as it stood
when the block fired (R165), and changes nothing else. -/
def WritesToken (i : Instr) (s : State) (j o : Nat) (tok : Token) : Prop :=
  let c := s.getCe s.key
  ∃ t, exec i s = .next t ∧ OnlyContext s t ∧
    let d := t.getCe s.key
    d = { c.stepped id with outs := d.outs } ∧
    (∀ j' o', c.fir.pub j' ≤ o' → j' < c.outs.length →
      tget default (lget {} d.outs j').stage (o' - c.fir.pub j') =
        if j' = j ∧ o' = o then tok else tget default (lget {} c.outs j').stage (o' - c.fir.pub j')) ∧
    ∀ j', lget {} d.outs j' = { lget {} c.outs j' with stage := (lget {} d.outs j').stage }

/-- The instruction completes with a state that differs from s only in what `g` changes; its value is delivered in it. -/
def GivesAfter (i : Instr) (s : State) (g : State → State) (ta : Tgt) (vec : Bool) (v : Vec) : Prop :=
  exec i s = .next ((g s).mapCe s.key fun c => c.give vec v ta)

/-- An instruction of format M is not held, its order-in is an ORDER token and its guard is true (R84 to R86), its task has
no access outstanding, and its word is the one its firing stands at. -/
structure Issues (s : State) (f : FmtM) : Prop where
  word : decM (s.getCe s.key).fir.word = .ok f
  free : (s.getCe s.key).fir.hold = .none
  order : ∀ i o, f.sc = .chan i o → ((s.rdAt s.key).tok i.toNat o.toNat).kind = 2
  guard : (s.rdAt s.key).guardM f = true
  alone : (s.getCe s.key).pend = []

/-- A bank that is awake, that nothing else waits for and that has served nothing in this cycle, on a page that is neither
cleared nor given up. -/
structure BankFree (s : State) (mt bank : Nat) : Prop where
  awake : (lget {} (s.getMt mt).banks bank).power = .awake
  queue : (lget {} (s.getMt mt).banks bank).queue = []
  input : (s.getMt mt).input = []
  gather : (s.getMt mt).gatherHead bank = none
  served : ∀ e ∈ (lget {} (s.getMt mt).banks bank).served, e.2 < s.cycle.toNat
  page : (s.getPage (mt / 2)).clearing = false ∧ (s.getPage (mt / 2)).gating = false

/-- A context whose access has been numbered and performed: its order-out, if it has one, may be published (R87). -/
def CeCtx.accessed (c : CeCtx) (f : FmtM) : CeCtx :=
  { ((c.reserve f.oo c.accNext).performOrder c.accNext) with accNext := c.accNext + 1 }

/-- The instruction issues one access and its bank serves it: two steps. The context afterwards is `d` but for SCOPE_MISS,
which only an acquire can raise, now and at the end of the cycle; other contexts, every other memory, the partitions and the channels are as they were. -/
def ServedBy (i : Instr) (s : State) (f : FmtM) (mt bank : Nat) (d : CeCtx) (P : State → Prop) : Prop :=
  ∃ t u, exec i s = .next t ∧ t.scratch = s.scratch ∧ exec (.bankServe mt bank .good) t = .next u ∧ P u ∧
    u.getCe s.key = { d with stat := (u.getCe s.key).stat, late := (u.getCe s.key).late } ∧
    ((f.sem.getLsbD 0 = false) → (u.getCe s.key).stat = d.stat ∧ (u.getCe s.key).late = d.late) ∧
    (∀ k, k ≠ s.key → u.getCe k = s.getCe k) ∧ u.device = s.device ∧ u.istore = s.istore ∧ u.wbuf = s.wbuf ∧
    u.accs = s.accs ∧ u.parts = s.parts ∧ u.chans = s.chans ∧ u.launches = s.launches

/-- n bytes of a memory from an address on, as a number (R3). -/
def memNat (m : Memory) (a n : Nat) : Nat := natOfBytes ((List.range n).map fun i => m.read (a + i))

/-- Memory m' is m with n bytes at a holding a number, every other byte as it was. -/
def Stored (m m' : Memory) (a n v : Nat) : Prop :=
  ∀ x, m'.read x = if a ≤ x ∧ x < a + n then BitVec.ofNat 8 (v / 2 ^ (8 * (x - a))) else m.read x

/-! ## Router operators (R216 to R222) -/

/-- It is the turn of an operator's own rule (R220): it may fire, no CONFIG token stands at its heads, and no MARK at its
control, predicate or index input. -/
structure OpTurn (i : Instr) (s : State) (f : FmtC) : Prop where
  may : s.opMay s.key = true
  conf : s.opConfig (s.getOp s.key) f = none
  mark : s.opMark (s.getOp s.key) i f = none

/-- The operator takes the head tokens of inputs and gives tokens, on a way of OUT0 and on OUT1, into their empty holding
slots, and its state becomes `o'` (R216); while a holding slot it needs is full it takes no action. A token for a way of a
SWITCH that no channel binds is held there (R18, R400). -/
def OpActs (i : Instr) (s : State) (f : FmtC) (takes : List Nat) (give0 : Option (Nat × Token)) (give1 : Option Token)
    (o' : OpSlot) : Prop :=
  let o := s.getOp s.key
  let g0 := if f.out0.dir = .none then none else give0
  let g1 := if f.out1.dir = .none then none else give1
  let room := (g0 ≠ none → o.stuck = none ∧ ∀ ch ∈ o.out0, (s.chanD ch).startq = []) ∧
    (g1 ≠ none → ∀ ch, o.out1 = some ch → (s.chanD ch).startq = [])
  let bound : Prop := ∀ w x, g0 = some (w, x) → o.isSwitch = true → w < o.out0.length
  (¬ room → exec i s = .next s) ∧
  (room → ∀ w x, g0 = some (w, x) → o.isSwitch = true → o.out0.length ≤ w → s.isSuper o'.launch = false →
    ∃ t, exec i s = .next t ∧ (t.getOp s.key) = { o' with fired := true, stuck := some x }) ∧
  (room → bound → ∃ t, exec i s = .next t ∧ t.getOp s.key = { o' with fired := true } ∧ (∀ k, k ≠ s.key → t.getOp k = s.getOp k) ∧
    t.scratch = s.scratch ∧ t.device = s.device ∧ ∀ ch c, tfind s.chans ch = some c →
      (t.chanD ch).endq = c.endq.drop (takes.countP fun n => o.inCh f n = some ch) ∧
      (t.chanD ch).startq = c.startq ++
        (match g0 with | some (w, x) => if o.out0[w]? = some ch then [x] else [] | none => []) ++
        (match g1 with | some x => if o.out1 = some ch then [x] else [] | none => []))

/-- The operator takes and gives nothing and becomes FAULTED with a class, naming an input (R222). -/
def OpFails (i : Instr) (s : State) (f : FmtC) (cls : FaultClass) (input addr detail : Nat) : Prop :=
  ∃ word, exec i s = .next (s.opFault s.key f word cls input addr detail) ∧
    (s.isSuper (s.getOp s.key).launch = false →
      (s.opFault s.key f word cls input addr detail).getOp s.key =
        { s.getOp s.key with faulted := some cls.code, faultIn := input, fired := true } ∧
      ∀ ch, ((s.opFault s.key f word cls input addr detail).chanD ch).endq = (s.chanD ch).endq)

/-! ## Events -/

/-- A fault record of a class enters the trap queue, or waits for a place in it (R417 to R419): it names the unit, the
address and the detail, and its cycle; the records of its cycle that R419 puts after it follow it, with the RSEQ after
theirs. -/
def Recorded (s t : State) (part : Nat) (cls : FaultClass) (uref : Word) (addr detail : Nat) : Prop :=
  ∃ b : BitVec 512, b.extractLsb' 56 8 = BitVec.ofNat 8 cls.code ∧ b.extractLsb' 64 64 = uref ∧
    b.extractLsb' 192 64 = BitVec.ofNat 64 addr ∧ b.extractLsb' 256 64 = BitVec.ofNat 64 detail ∧ b.extractLsb' 384 64 = s.cycle ∧
    let p := s.getPart part
    let q := t.getPart part
    let place (es : List (Bool × BitVec 512)) : Nat := es.length - laterRecords es b
    let after (n : Nat) (es : List (Bool × BitVec 512)) := es.take n ++ (false, b) :: es.drop n
    (q.traps = p.traps.take (place p.traps) ++ (false, b) ::
        (p.traps.drop (place p.traps)).map (fun e => (e.1, withRseq e.2 (recordRseq e.2 + 1))) ∧ q.trapWait = p.trapWait) ∨
      (q.traps = p.traps ∧ q.trapWait = after (place p.trapWait) p.trapWait)

/-- The event happens: it leads to a state with a property. -/
def Happens (i : Instr) (s : State) (P : State → Prop) : Prop := ∃ t, exec i s = .next t ∧ P t

/-- The event has nothing to do: nothing changes. -/
def Idles (i : Instr) (s : State) : Prop := exec i s = .next s

end Sys2Proof.Machine
end

