-- ==== Sys2Proof/Certificates/Slice0/Obligations.lean ====
section
/-!
DEFINITION. Sys2Proof/Certificates/Slice0/Obligations.lean: the statements for the provers.
-/

open Sys2Proof Sys2Proof.Machine

/-! ## Scalar integer instructions -/

/-- R117, R118, R121, R126 with R111 and R113: each delivers the exact result fitted to its type (wrapped, or clamped with
.sat), and nothing else changes. MULH delivers the upper half of the exact product. R118 with R52: the quotient is truncated
toward zero and fitted; a zero divisor gives 0, or the dividend for REM, and sets DZ. -/
def Obligations.ScalarArithmetic : Prop :=
  (∀ (s : State) (f : FmtT) (g : FmtI), f.ty.isInt = true → g.ty.isInt = true →
    let r := s.rdAt s.key
    let a := r.int f.ty .a f.sa
    let b := r.int f.ty .b f.sb
    let sat := f.md.getLsbD 0
    GivesInt (.add f) s f.ta f.tb 0 (Fits sat f.ty (a + b)) ∧
    GivesInt (.sub f) s f.ta f.tb 0 (Fits sat f.ty (a - b)) ∧
    GivesInt (.mul f) s f.ta f.tb 0 (Fits sat f.ty (a * b)) ∧
    GivesInt (.mulh f) s f.ta f.tb 0 (Fits false f.ty (a * b / 2 ^ f.ty.width)) ∧
    GivesInt (.minOp f) s f.ta f.tb 0 (fun x => x = min a b) ∧
    GivesInt (.maxOp f) s f.ta f.tb 0 (fun x => x = max a b) ∧
    GivesInt (.abs f) s f.ta f.tb 0 (Fits (f.ty.signed && sat) f.ty |a|) ∧
    GivesInt (.addi g) s g.ta g.tb 0 (Fits (g.md.getLsbD 0) g.ty (r.int g.ty .a g.sa + imm16I g.ty g.imm))) ∧
  (∀ (s : State) (f : FmtT), f.ty.isInt = true →
    let r := s.rdAt s.key
    let a := r.int f.ty .a f.sa
    let b := r.int f.ty .b f.sb
    (b = 0 → GivesInt (.div f) s f.ta f.tb flagDZ (fun x => x = 0) ∧ GivesInt (.rem f) s f.ta f.tb flagDZ (fun x => x = a)) ∧
    (b ≠ 0 →
      GivesInt (.div f) s f.ta f.tb 0 (Fits (f.md.getLsbD 0) f.ty (a.tdiv b)) ∧
      GivesInt (.rem f) s f.ta f.tb 0 (fun x => x = a - b * a.tdiv b)))

/-- R119, R120, R126, R127: bit i of a bitwise result is the operation on bit i of the operands; a shift takes its count as
an unsigned value of the type's width, at or beyond the width too; LDI replaces one 16-bit lane. -/
def Obligations.ScalarBits : Prop :=
  ∀ (s : State) (f : FmtT) (g : FmtI), f.ty.isInt = true → g.ty.isInt = true →
    let r := s.rdAt s.key
    let a := r.int f.ty .a f.sa
    let b := r.int f.ty .b f.sb
    let cnt := (Pat f.ty b).toNat
    let bitsAre (t : Ty) (p : Nat → Bool) (x : Int) : Prop := InRange t x ∧ ∀ i, i < t.width → (Pat t x).getLsbD i = p i
    GivesInt (.andOp f) s f.ta f.tb 0 (bitsAre f.ty fun i => (Pat f.ty a).getLsbD i && (Pat f.ty b).getLsbD i) ∧
    GivesInt (.orOp f) s f.ta f.tb 0 (bitsAre f.ty fun i => (Pat f.ty a).getLsbD i || (Pat f.ty b).getLsbD i) ∧
    GivesInt (.xorOp f) s f.ta f.tb 0 (bitsAre f.ty fun i => (Pat f.ty a).getLsbD i != (Pat f.ty b).getLsbD i) ∧
    GivesInt (.shl f) s f.ta f.tb 0 (Fits (f.md.getLsbD 0) f.ty (a * 2 ^ cnt)) ∧
    GivesInt (.shr f) s f.ta f.tb 0 (fun x => x = a / 2 ^ cnt) ∧
    GivesInt (.andi g) s g.ta g.tb 0 (bitsAre g.ty fun i =>
      (Pat g.ty (r.int g.ty .a g.sa)).getLsbD i && (Pat g.ty (imm16I g.ty g.imm)).getLsbD i) ∧
    (16 * g.md.toNat < g.ty.width →
      GivesInt (.ldi g) s g.ta g.tb 0 (bitsAre g.ty fun i =>
        if 16 * g.md.toNat ≤ i ∧ i < 16 * g.md.toNat + 16 then g.imm.getLsbD (i - 16 * g.md.toNat)
        else (Pat g.ty (r.int g.ty .a g.sa)).getLsbD i)) ∧
    encode (.andOp f) = some (encT 0x08 f) ∧ encode (.orOp f) = some (encT 0x09 f) ∧ encode (.xorOp f) = some (encT 0x0A f) ∧
    encode (.shl f) = some (encT 0x0B f) ∧ encode (.shr f) = some (encT 0x0C f) ∧ encode (.ldi g) = some (encI 0x18 g) ∧
    (∀ i ∈ [Instr.andOp f, .orOp f, .xorOp f, .shr f], i.bad = none → f.md = 0) ∧
    ((Instr.ldi g).bad = none → 16 * g.md.toNat < g.ty.width)

/-- R115, R116, R122, R123, R124, R128: NOP changes nothing but the firing's place; MOV and SEL copy a value of the type; a
comparison gives 1 or 0; CLZ and POPC count within the type's width; ADDR adds a scaled index. R125: a field specifier gives
a position in bits [6:0] and a length in bits [14:8]. BFX delivers the field, extended by the type's sign; BFI replaces it;
a length of 0 or a position outside the type gives 0, or the value unchanged; a field that runs past the type's width ends
there. Where the rules leave a choice open or are read by inference, this states the model's reading, that of log entry 10. -/
def Obligations.ScalarMoves : Prop :=
  (∀ (s : State) (f : FmtT) (g : FmtI),
    let r := s.rdAt s.key
    let a := r.int f.ty .a f.sa
    let b := r.int f.ty .b f.sb
    let truth (c : Bool) (x : Int) : Prop := x = if c then 1 else 0
    let cond (m : Nat) (a b : Int) : Bool :=
      match m with
      | 0 => decide (a = b) | 1 => decide (a < b) | 2 => decide (a ≤ b)
      | 3 => decide (a ≠ b) | 4 => decide (a > b) | _ => decide (a ≥ b)
    Gives (.nop f) s .none .none false 0 (fun _ => True) ∧
    GivesInt (.mov f) s f.ta f.tb 0 (fun x => x = a) ∧
    GivesInt (.sel f) s f.ta f.tb 0 (fun x => x = if (r.raw 0 .a f.sa).getLsbD 0 then b else r.int f.ty .c f.sc) ∧
    GivesInt (.cmp f) s f.ta f.tb 0 (truth (cond f.md.toNat a b)) ∧
    GivesInt (.cmpi g) s g.ta g.tb 0 (truth (cond g.md.toNat (r.int g.ty .a g.sa) (imm16I g.ty g.imm))) ∧
    (f.ty.isInt = true →
      GivesInt (.clz f) s f.ta f.tb 0 (fun x => ∃ n : Nat, x = (n : Int) ∧ n ≤ f.ty.width ∧
        (∀ i, f.ty.width - n ≤ i → (Pat f.ty a).getLsbD i = false) ∧
        (n < f.ty.width → (Pat f.ty a).getLsbD (f.ty.width - 1 - n) = true)) ∧
      GivesInt (.popc f) s f.ta f.tb 0 (fun x =>
        x = ((List.range f.ty.width).countP fun i => (Pat f.ty a).getLsbD i : Nat)) ∧
      GivesInt (.addr f) s f.ta f.tb 0
        (Fits false f.ty (a + b * 2 ^ ((r.w64 .c f.sc).toNat % 8))))) ∧
  (∀ (s : State) (f : FmtT), f.ty.isInt = true →
    let r := s.rdAt s.key
    let a := r.int f.ty .a f.sa
    let b := r.int f.ty .b f.sb
    let field (w : Word) : Nat × Nat :=
      let pos := (w.extractLsb' 0 7).toNat
      let len := (w.extractLsb' 8 7).toNat
      (pos, if pos < f.ty.width then min len (f.ty.width - pos) else 0)
    GivesInt (.bfx f) s f.ta f.tb 0 (fun x =>
      let (pos, len) := field (r.w64 .b f.sb)
      InRange f.ty x ∧ ∀ i, i < f.ty.width → (Pat f.ty x).getLsbD i =
        if i < len then (Pat f.ty a).getLsbD (pos + i)
        else f.ty.signed && decide (0 < len) && (Pat f.ty a).getLsbD (pos + len - 1)) ∧
    GivesInt (.bfi f) s f.ta f.tb 0 (fun x =>
      let (pos, len) := field (r.w64 .c f.sc)
      InRange f.ty x ∧ ∀ i, i < f.ty.width → (Pat f.ty x).getLsbD i =
        if pos ≤ i ∧ i < pos + len then (Pat f.ty b).getLsbD (i - pos) else (Pat f.ty a).getLsbD i))

/-! ## Vector integer instructions -/

/-- R129 with R111 and R112: each operation acts in every lane; the exact value is fitted once. R130: the count is the same
lane of b, unsigned; VSHL fits a × 2^cnt, VSHR is the floor of a / 2^cnt, and VRSHR the floor of (a + 2^(cnt − 1)) / 2^cnt,
or a for a count of 0. -/
def Obligations.VectorArithmetic : Prop :=
  (∀ (s : State) (f : FmtT), f.ty.code ≤ 5 →
    let r := s.rdAt s.key
    let a i := lget 0 (r.ints f.ty .a f.sa) i
    let b i := lget 0 (r.ints f.ty .b f.sb) i
    let c i := lget 0 (r.ints f.ty .c f.sc) i
    let sat := f.md.getLsbD 0
    GivesLanes (.vadd f) s f.ta f.tb f.ty (fun i => Fits sat f.ty (a i + b i)) ∧
    GivesLanes (.vsub f) s f.ta f.tb f.ty (fun i => Fits sat f.ty (a i - b i)) ∧
    GivesLanes (.vmul f) s f.ta f.tb f.ty (fun i => Fits sat f.ty (a i * b i)) ∧
    GivesLanes (.vmulh f) s f.ta f.tb f.ty (fun i => Fits false f.ty (a i * b i / 2 ^ f.ty.width)) ∧
    GivesLanes (.vmac f) s f.ta f.tb f.ty (fun i => Fits sat f.ty (a i * b i + c i)) ∧
    GivesLanes (.vmin f) s f.ta f.tb f.ty (fun i x => x = min (a i) (b i)) ∧
    GivesLanes (.vmax f) s f.ta f.tb f.ty (fun i x => x = max (a i) (b i)) ∧
    GivesLanes (.vabs f) s f.ta f.tb f.ty (fun i => Fits (f.ty.signed && sat) f.ty |a i|)) ∧
  (∀ (s : State) (f : FmtT), f.ty.code ≤ 5 →
    let r := s.rdAt s.key
    let a i := lget 0 (r.ints f.ty .a f.sa) i
    let cnt i := (Pat f.ty (lget 0 (r.ints f.ty .b f.sb) i)).toNat
    GivesLanes (.vshl f) s f.ta f.tb f.ty (fun i => Fits (f.md.getLsbD 0) f.ty (a i * 2 ^ cnt i)) ∧
    GivesLanes (.vshr f) s f.ta f.tb f.ty (fun i x => x = a i / 2 ^ cnt i) ∧
    GivesLanes (.vrshr f) s f.ta f.tb f.ty (fun i x =>
      (cnt i = 0 → x = a i) ∧ (cnt i ≠ 0 → x = (a i + 2 ^ (cnt i - 1)) / 2 ^ cnt i)))

/-- R129, R132, R133: VMOV, VAND, VOR, VXOR and VSEL act bit by bit on the whole vector, VSEL taking b where the mask a is
set and c where it is clear; VCMP gives all ones or zero in each lane. -/
def Obligations.VectorBits : Prop :=
  ∀ (s : State) (f : FmtT),
    let r := s.rdAt s.key
    let a := r.whole f.ty .a f.sa
    let b := r.whole f.ty .b f.sb
    let c := r.whole f.ty .c f.sc
    let holds (m : Nat) (x y : Int) : Prop :=
      match m with
      | 0 => x = y | 1 => x < y | 2 => x ≤ y | 3 => x ≠ y | 4 => x > y | _ => x ≥ y
    let bitsAre (p : Nat → Bool) (v : Vec) : Prop := ∀ i, i < 1024 → v.getLsbD i = p i
    Gives (.vmov f) s f.ta f.tb true 0 (bitsAre fun i => a.getLsbD i) ∧
    Gives (.vand f) s f.ta f.tb true 0 (bitsAre fun i => a.getLsbD i && b.getLsbD i) ∧
    Gives (.vor f) s f.ta f.tb true 0 (bitsAre fun i => a.getLsbD i || b.getLsbD i) ∧
    Gives (.vxor f) s f.ta f.tb true 0 (bitsAre fun i => a.getLsbD i != b.getLsbD i) ∧
    Gives (.vsel f) s f.ta f.tb true 0 (bitsAre fun i => if a.getLsbD i then b.getLsbD i else c.getLsbD i) ∧
    Gives (.vcmp f) s f.ta f.tb true 0 (fun v => ∀ i, i < f.ty.lanes →
      (holds f.md.toNat (lget 0 (r.ints f.ty .a f.sa) i) (lget 0 (r.ints f.ty .b f.sb) i) →
        LaneBits f.ty v i = BitVec.allOnes f.ty.width) ∧
      (¬ holds f.md.toNat (lget 0 (r.ints f.ty .a f.sa) i) (lget 0 (r.ints f.ty .b f.sb) i) → LaneBits f.ty v i = 0)) ∧
    encode (.vcmp f) = some (encT 0x31 f) ∧ encode (.vsel f) = some (encT 0x32 f) ∧ ((Instr.vsel f).bad = none → f.md = 0)

/-- R134: VNARROW fits the lanes of a, then of b, each read as the type of twice the width, into the lower and the upper
half of the result; VWIDEN holds half of the lanes of a at twice the width, the upper half with .hi. R131: the exact sum of
four or two products and the 32-bit lane of c is fitted once. Where the rules leave a choice open or are read by inference,
this states the model's reading, that of log entry 101. -/
def Obligations.VectorWidths : Prop :=
  (∀ (s : State) (f : FmtT) (u : Ty), f.ty.code ≤ 3 → u.width = 2 * f.ty.width → u.signed = f.ty.signed → u.isInt = true →
    let r := s.rdAt s.key
    let half := f.ty.lanes / 2
    GivesLanes (.vnarrow f) s f.ta f.tb f.ty (fun i => Fits (f.md.getLsbD 0) f.ty
      (if i < half then lget 0 (r.ints u .a f.sa) i else lget 0 (r.ints u .b f.sb) (i - half))) ∧
    GivesLanes (.vwiden f) s f.ta f.tb u (fun i x =>
      x = lget 0 (r.ints f.ty .a f.sa) (i + if f.md.getLsbD 1 then half else 0))) ∧
  (∀ (s : State) (f : FmtT), f.ty.code ≤ 3 →
    let r := s.rdAt s.key
    let u : Ty := if f.ty.signed then .s32 else .z32
    let a i := lget 0 (r.ints f.ty .a f.sa) i
    let b i := lget 0 (r.ints f.ty .b f.sb) i
    let c i := lget 0 (r.ints u .c f.sc) i
    (f.ty.width = 8 →
      GivesLanes (.vdot4 f) s f.ta f.tb u (fun i => Fits (f.md.getLsbD 0) u
        (c i + (a (4 * i) * b (4 * i) + a (4 * i + 1) * b (4 * i + 1) + a (4 * i + 2) * b (4 * i + 2)
          + a (4 * i + 3) * b (4 * i + 3))))) ∧
    (f.ty.width = 16 →
      GivesLanes (.vdot2 f) s f.ta f.tb u (fun i => Fits (f.md.getLsbD 0) u
        (c i + (a (2 * i) * b (2 * i) + a (2 * i + 1) * b (2 * i + 1))))))

/-- R135, R136, R137: VSHUF and VSLIDE take lanes of a pair of vectors, 0 past it; VBCAST fills every lane; VEXT delivers
one lane, or 0 past the last; VINS replaces one lane, or none past the last. -/
def Obligations.VectorLaneMoves : Prop :=
  ∀ (s : State) (f : FmtT),
    let r := s.rdAt s.key
    let n := f.ty.lanes
    let a i := lget 0 (r.ints f.ty .a f.sa) i
    let b i := lget 0 (r.ints f.ty .b f.sb) i
    let c i := lget 0 (r.ints f.ty .c f.sc) i
    let low (x : Int) (w : Word) : Prop := Pat f.ty x = w.setWidth f.ty.width
    GivesLanes (.vshuf f) s f.ta f.tb f.ty (fun i x =>
      let ix := (Pat f.ty (b i)).toNat
      x = if ix < n then a ix else if ix < 2 * n then c (ix - n) else 0) ∧
    GivesLanes (.vslide f) s f.ta f.tb f.ty (fun i x =>
      let j := i + (r.w64 .c f.sc).toNat
      x = if j < n then a j else if j < 2 * n then b (j - n) else 0) ∧
    GivesLanes (.vbcast f) s f.ta f.tb f.ty (fun _ x => low x (r.w64 .a f.sa)) ∧
    GivesInt (.vext f) s f.ta f.tb 0 (fun x => x = if (r.w64 .b f.sb).toNat < n then a (r.w64 .b f.sb).toNat else 0) ∧
    GivesLanes (.vins f) s f.ta f.tb f.ty (fun i x =>
      (i = (r.w64 .b f.sb).toNat → low x (r.w64 .c f.sc)) ∧ (i ≠ (r.w64 .b f.sb).toNat → x = a i)) ∧
    encode (.vshuf f) = some (encT 0x35 f) ∧ encode (.vslide f) = some (encT 0x36 f) ∧ encode (.vbcast f) = some (encT 0x37 f) ∧
    encode (.vext f) = some (encT 0x38 f) ∧ encode (.vins f) = some (encT 0x39 f) ∧
    (∀ i ∈ [Instr.vshuf f, .vslide f, .vbcast f, .vext f, .vins f], i.bad = none → f.md = 0)

/-- R138: VRED's and VSCAN's sums are exact and fitted once; their least and greatest are lanes that none is below or above.
VSCAN's lane i takes the lanes up to i. R139: VIOTA counts the set lanes below each lane, VPOPC all of them, and VCOMPRESS
moves the lanes of a that b marks to the low lanes, in ascending order, with 0 above. -/
def Obligations.VectorReductions : Prop :=
  (∀ (s : State) (f : FmtT), f.ty.code ≤ 5 →
    let r := s.rdAt s.key
    let a i := lget 0 (r.ints f.ty .a f.sa) i
    let sum (n : Nat) : Int := ((List.range n).map a).sum
    let least (n : Nat) (x : Int) : Prop := (∃ j, j < n ∧ x = a j) ∧ ∀ j, j < n → x ≤ a j
    let greatest (n : Nat) (x : Int) : Prop := (∃ j, j < n ∧ x = a j) ∧ ∀ j, j < n → a j ≤ x
    (f.md.toNat ≤ 1 →
      GivesInt (.vred f) s f.ta f.tb 0 (Fits (f.md.getLsbD 0) f.ty (sum f.ty.lanes)) ∧
      GivesLanes (.vscan f) s f.ta f.tb f.ty (fun i => Fits (f.md.getLsbD 0) f.ty (sum (i + 1)))) ∧
    (f.md = 2 →
      GivesInt (.vred f) s f.ta f.tb 0 (least f.ty.lanes) ∧
      GivesLanes (.vscan f) s f.ta f.tb f.ty (fun i => least (i + 1))) ∧
    (f.md = 4 →
      GivesInt (.vred f) s f.ta f.tb 0 (greatest f.ty.lanes) ∧
      GivesLanes (.vscan f) s f.ta f.tb f.ty (fun i => greatest (i + 1)))) ∧
  (∀ (s : State) (f : FmtT), f.ty.code ≤ 0xC →
    let r := s.rdAt s.key
    let a i := lget 0 (r.ints f.ty .a f.sa) i
    let b i := lget 0 (r.ints f.ty .b f.sb) i
    let set (n : Nat) : Nat := (List.range n).countP fun j => decide (a j ≠ 0)
    let kept (n : Nat) : Nat := (List.range n).countP fun j => decide (b j ≠ 0)
    GivesLanes (.viota f) s f.ta f.tb f.ty (fun i x => x = set i) ∧
    GivesInt (.vpopc f) s f.ta f.tb 0 (fun x => x = set f.ty.lanes) ∧
    GivesLanes (.vcompress f) s f.ta f.tb f.ty (fun i x =>
      (∀ j, j < f.ty.lanes → b j ≠ 0 → kept j = i → x = a j) ∧ (kept f.ty.lanes ≤ i → x = 0)))

/-! ## Floating-point instructions -/

/-- R57, R58 with R56: `rnd` of ± num / den × 2^ex delivers the correctly rounded value of its mode, or the overflow of R58,
with the flags NX, UF and OF. R144 with R54, R55, R57 and R58: in every lane, one rounding of the exact result, and the
special operands. R145, R146: FSCALE rounds a × 2^n; FROUND gives the integral value of its mode with the sign of a, and NX
when it differs; infinities are unchanged and a NaN gives the canonical one. Where the rules leave a choice open or are read
by inference, this states the model's reading, that of log entry 97. -/
def Obligations.FloatArithmetic : Prop :=
  (∀ (t : Ty) (md : Nat) (sat neg : Bool) (num den : Nat) (ex : Int), t.isFloat = true → md < 4 → 0 < den →
    Rounded t md sat ((if neg then -1 else 1) * ((num : ℝ) / den) * (2 : ℝ) ^ ex)
      (rnd t md sat neg num den ex).1 (rnd t md sat neg num den ex).2) ∧
  (∀ (s : State) (f : FmtT) (g : FmtI), f.ty.isFloat = true → g.ty.isFloat = true →
    let r := s.rdAt s.key
    let vec := f.md.getLsbD 2
    let md := f.md.toNat % 4
    let a j := fDecode f.ty (lget 0 (r.fops vec f.ty .a f.sa) j)
    let b j := fDecode f.ty (lget 0 (r.fops vec f.ty .b f.sb) j)
    let c j := fDecode f.ty (lget 0 (r.fops vec f.ty .c f.sc) j)
    let ga j := fDecode g.ty (lget 0 (r.fops (g.md.getLsbD 2) g.ty .a g.sa) j)
    let neg (v : FVal) : FVal := match v with | .fin n m e => .fin (!n) m e | .inf n => .inf (!n) | .nan q => .nan q
    GivesFloats (.fadd f) s f.ta f.tb vec f.ty (fun j => AddsTo f.ty md (a j) (b j)) ∧
    GivesFloats (.fsub f) s f.ta f.tb vec f.ty (fun j => AddsTo f.ty md (a j) (neg (b j))) ∧
    GivesFloats (.fmul f) s f.ta f.tb vec f.ty (fun j => MulsTo f.ty md (a j) (b j)) ∧
    GivesFloats (.fdiv f) s f.ta f.tb vec f.ty (fun j => DivsTo f.ty md (a j) (b j)) ∧
    GivesFloats (.ffma f) s f.ta f.tb vec f.ty (fun j => FusesTo f.ty md (a j) (b j) (c j)) ∧
    GivesFloats (.faddi g) s g.ta g.tb (g.md.getLsbD 2) g.ty (fun j =>
      AddsTo g.ty (g.md.toNat % 4) (ga j) (fDecode g.ty (imm16F g.ty g.imm))) ∧
    GivesFloats (.fmuli g) s g.ta g.tb (g.md.getLsbD 2) g.ty (fun j =>
      MulsTo g.ty (g.md.toNat % 4) (ga j) (fDecode g.ty (imm16F g.ty g.imm)))) ∧
  (∀ (s : State) (f : FmtT), f.ty.isFloat = true →
    let r := s.rdAt s.key
    let vec := f.md.getLsbD 2
    let md := f.md.toNat % 4
    let p j := lget 0 (r.fops vec f.ty .a f.sa) j
    let a j := fDecode f.ty (p j)
    let n j := lget 0 (r.fscales vec f.ty .b f.sb) j
    let special (j : Nat) (x : Nat) (fl : Flags) : Prop :=
      ((a j).isNan → x = canon f.ty ∧ fl = sigFlag [a j]) ∧ (∀ ng, a j = .inf ng → x = infBits f.ty ng ∧ fl = 0) ∧
      ((a j).isZero → x = signBit f.ty (a j).neg ∧ fl = 0)
    GivesFloats (.fscale f) s f.ta f.tb vec f.ty (fun j x fl => special j x fl ∧
      ((a j).Finite → Rounded f.ty md false ((a j).real * (2 : ℝ) ^ n j) x fl)) ∧
    GivesFloats (.fround f) s f.ta f.tb vec f.ty (fun j x fl => special j x fl ∧
      ((a j).Finite → (fDecode f.ty x).Finite ∧ (fDecode f.ty x).neg = (a j).neg ∧
        RoundsTo md 0 ((a j).real : ℝ) (fDecode f.ty x).real ∧
        fl = if (fDecode f.ty x).real = (a j).real then 0 else flagNX)))

/-- R55, R147, R148, R149, R150: minimumNumber and maximumNumber with −0 below +0; a clamp is the minimum of a maximum; the
sign is cleared or inverted; comparisons take −0 and +0 as equal and are false beside a NaN, but for UN; the class numbers. -/
def Obligations.FloatOrder : Prop :=
  ∀ (s : State) (f : FmtT), f.ty.isFloat = true →
    let r := s.rdAt s.key
    let vec := f.md.getLsbD 2
    let p sl x j := lget 0 (r.fops vec f.ty sl x) j % 2 ^ f.ty.width
    let v := fDecode f.ty
    let nan (a x : Nat) (fl : Flags) : Prop := (v a).isNan → x = canon f.ty ∧ fl = sigFlag [v a]
    GivesFloats (.fmin f) s f.ta f.tb vec f.ty (fun j => PicksTo f.ty false (p .a f.sa j) (p .b f.sb j)) ∧
    GivesFloats (.fmax f) s f.ta f.tb vec f.ty (fun j => PicksTo f.ty true (p .a f.sa j) (p .b f.sb j)) ∧
    GivesFloats (.fclamp f) s f.ta f.tb vec f.ty (fun j x fl => ∃ m f1 f2,
      PicksTo f.ty true (p .a f.sa j) (p .b f.sb j) m f1 ∧ PicksTo f.ty false m (p .c f.sc j) x f2 ∧ fl = f1 ||| f2) ∧
    GivesFloats (.fabs f) s f.ta f.tb vec f.ty (fun j x fl => nan (p .a f.sa j) x fl ∧
      (¬ (v (p .a f.sa j)).isNan → x = p .a f.sa j % 2 ^ (f.ty.width - 1) ∧ fl = 0)) ∧
    GivesFloats (.fneg f) s f.ta f.tb vec f.ty (fun j x fl => nan (p .a f.sa j) x fl ∧
      (¬ (v (p .a f.sa j)).isNan → x = p .a f.sa j ^^^ 2 ^ (f.ty.width - 1) ∧ fl = 0)) ∧
    GivesFloats (.fcmp f) s f.ta f.tb vec f.ty (fun j x fl =>
      let a := v (p .a f.sa j)
      let b := v (p .b f.sb j)
      let yes := if vec then 2 ^ f.ty.width - 1 else 1
      let eq : Prop := ¬ a.isNan ∧ ¬ b.isNan ∧ (a = b ∨ (a.isZero ∧ b.isZero))
      let lt : Prop := FBelow a b ∧ ¬ (a.isZero ∧ b.isZero)
      let c : Prop := match f.md.toNat % 4 with | 0 => eq | 1 => lt | 2 => eq ∨ lt | _ => a.isNan ∨ b.isNan
      (c → x = yes) ∧ (¬ c → x = 0) ∧ fl = sigFlag [a, b]) ∧
    GivesFloats (.fclass f) s f.ta f.tb vec f.ty (fun j x fl => fl = sigFlag [v (p .a f.sa j)] ∧
      match v (p .a f.sa j) with
      | .nan q => x = if q then 8 else 9
      | .inf n => x = if n then 0 else 7
      | .fin n m e => if m = 0 then x = (if n then 3 else 4)
          else if (2 : ℚ) ^ fEmin f.ty ≤ |FVal.real (.fin n m e)| then x = (if n then 1 else 6)
          else x = (if n then 2 else 5))

/-- R60, R151: the special operands of the seven functions; FRCP, FSQRT and FRSQ are correctly rounded, and FEXP2 of an
integer and FLOG2 of a power of two are too. R69, R152, R153: VFRED adds the lanes in the pairwise tree, each addition
rounded; VFDOT2 rounds the exact sum of a lane of c and two products once, into fp32. -/
def Obligations.FloatFunctions : Prop :=
  (∀ (s : State) (f : FmtT), 0xA ≤ f.ty.code → f.ty.code ≤ 0xC → f.md.toNat % 4 = 0 →
    let r := s.rdAt s.key
    let t := f.ty
    let vec := f.md.getLsbD 2
    let a j := fDecode t (lget 0 (r.fops vec t .a f.sa) j)
    let one := fBias t * 2 ^ fMan t
    let nan (v : FVal) (x : Nat) (fl : Flags) : Prop := v.isNan → x = canon t ∧ fl = sigFlag [v]
    let invalid (v : FVal) (x : Nat) (fl : Flags) : Prop := (v = .inf true ∨ v.Finite ∧ v.real < 0) → x = canon t ∧ fl = flagNV
    GivesFloats (.frcp f) s f.ta f.tb vec t (fun j x fl => nan (a j) x fl ∧
      (∀ n, a j = .inf n → x = signBit t n ∧ fl = 0) ∧ ((a j).isZero → x = infBits t (a j).neg ∧ fl = flagDZ) ∧
      ((a j).Finite → ¬ (a j).isZero → Rounded t 0 false (1 / (a j).real) x fl)) ∧
    GivesFloats (.frsq f) s f.ta f.tb vec t (fun j x fl => nan (a j) x fl ∧ invalid (a j) x fl ∧
      (a j = .inf false → x = 0 ∧ fl = 0) ∧ ((a j).isZero → x = infBits t (a j).neg ∧ fl = flagDZ) ∧
      ((a j).Finite → 0 < (a j).real → Rounded t 0 false (1 / Real.sqrt (a j).real) x fl)) ∧
    GivesFloats (.fsqrt f) s f.ta f.tb vec t (fun j x fl => nan (a j) x fl ∧ invalid (a j) x fl ∧
      (a j = .inf false → x = infBits t false ∧ fl = 0) ∧ ((a j).isZero → x = signBit t (a j).neg ∧ fl = 0) ∧
      ((a j).Finite → 0 < (a j).real → Rounded t 0 false (Real.sqrt (a j).real) x fl)) ∧
    GivesFloats (.fexp2 f) s f.ta f.tb vec t (fun j x fl => nan (a j) x fl ∧
      (∀ n, a j = .inf n → x = (if n then 0 else infBits t false) ∧ fl = 0) ∧
      (∀ k : ℤ, (a j).Finite → (a j).real = k → Rounded t 0 false ((2 : ℝ) ^ k) x fl)) ∧
    GivesFloats (.flog2 f) s f.ta f.tb vec t (fun j x fl => nan (a j) x fl ∧ invalid (a j) x fl ∧
      (a j = .inf false → x = infBits t false ∧ fl = 0) ∧ ((a j).isZero → x = infBits t true ∧ fl = flagDZ) ∧
      (∀ k : ℤ, (a j).Finite → (a j).real = (2 : ℚ) ^ k → (k = 0 → x = 0 ∧ fl = 0) ∧ Rounded t 0 false k x fl)) ∧
    GivesFloats (.fsig f) s f.ta f.tb vec t (fun j x fl => nan (a j) x fl ∧
      (∀ n, a j = .inf n → (x : ℤ) = (if n then 0 else one) ∧ fl = 0) ∧
      ((a j).isZero → (x : ℤ) = one - 2 ^ fMan t ∧ fl = 0)) ∧
    GivesFloats (.ftanh f) s f.ta f.tb vec t (fun j x fl => nan (a j) x fl ∧
      (∀ n, a j = .inf n → (x : ℤ) = one + signBit t n ∧ fl = 0) ∧ ((a j).isZero → x = signBit t (a j).neg ∧ fl = 0))) ∧
  (∀ (s : State) (f : FmtT), 0xA ≤ f.ty.code → f.ty.code ≤ 0xC →
    let r := s.rdAt s.key
    let md := f.md.toNat % 4
    GivesFloats (.vfred f) s f.ta f.tb false f.ty (fun _ =>
      TreeTo f.ty md (if f.ty = .fp32 then 5 else 6) (fun i => lget 0 (r.flts f.ty .a f.sa) i)) ∧
    (f.ty ≠ .fp32 → GivesFloats (.vfdot2 f) s f.ta f.tb true .fp32 (fun i x fl =>
      let a j := fDecode f.ty (lget 0 (r.flts f.ty .a f.sa) j)
      let b j := fDecode f.ty (lget 0 (r.flts f.ty .b f.sb) j)
      let c := fDecode .fp32 (lget 0 (r.flts .fp32 .c f.sc) i)
      let vs := [c, a (2 * i), a (2 * i + 1), b (2 * i), b (2 * i + 1)]
      (vs.any FVal.isNan → x = canon .fp32) ∧ (vs.any FVal.isSig → fl = flagNV) ∧
      ((∀ v ∈ vs, v.Finite) →
        Rounded .fp32 md false
          ((c.real + (a (2 * i)).real * (b (2 * i)).real + (a (2 * i + 1)).real * (b (2 * i + 1)).real : ℚ) : ℝ) x fl))))

/-- R154, R155, R156 with R57 to R61: CVT and CVTS convert each element of their part once. R156: CVTS scales by two to a
signed power, rounds once, and saturates to finite in the 8-bit formats. -/
def Obligations.Conversions : Prop :=
  (∀ (s : State) (f : FmtT) (b m : BitVec 7) (src : Ty), (Instr.cvt f).bad = none → f.sb = .imm b → f.sc = .imm m →
    (Ty.ofCode b.toNat = some src →
      GivesConverted (.cvt f) s f src (m.toNat / 4) (m.getLsbD 0) (fun seed a x fl =>
        (m.getLsbD 0 = false → ConvertsTo f.ty src (f.md.toNat % 4) (m.getLsbD 1) 0 a x fl) ∧
        (m.getLsbD 0 = true → StochasticTo f.ty src (m.getLsbD 1) seed a x fl)))) ∧
  (∀ (s : State) (f : FmtT) (b : BitVec 7) (src : Ty), (Instr.cvts f).bad = none → f.sb = .imm b →
    Ty.ofCode (b.toNat % 16) = some src →
      GivesConverted (.cvts f) s f src (b.toNat / 16) false (fun _ a x fl =>
        ConvertsTo f.ty src (f.md.toNat % 4) (f.ty = .e4m3 || f.ty = .e5m2)
          ((((s.rdAt s.key).w64 .c f.sc).setWidth 32).toInt) a x fl))

/-- R157, R158: PACKF scales each block by its greatest magnitude and converts it, with the scale byte above the codes; a
block that holds a NaN or an infinity takes the scale 0xFF. UNPACKF converts each code back. R64, R159, R160: CBEXP gives
the codebook entries of its part exactly; CBQNT gives each lane the code of the least exact distance, ties to the lower
code, an infinity the extreme entry, a NaN code 0 with NV; a part past the vector gives zero; a handle that is not live or
has no codebook raises HANDLE and delivers nothing. Where the rules leave a choice open or are read by inference, this
states the model's reading, that of log entry 61. -/
def Obligations.BlockScales : Prop :=
  (∀ (s : State) (f : FmtT) (b : BitVec 7), (f.ty = .e4m3 ∨ f.ty = .e5m2) → f.sb = .imm b → b.toNat ≤ 1 →
    let r := s.rdAt s.key
    let md := f.md.toNat % 4
    let size := if b = 1 then 16 else 32
    let a j := lget 0 (r.flts .fp32 .a f.sa) j
    let v j := fDecode .fp32 (a j)
    let big : Int := if f.ty = .e4m3 then 7 else 14
    let code j := (LaneBits .z8 (r.raw 8 .a f.sa) j).toNat
    (∃ (q : Nat → Nat) (fl : Nat → Flags) (sc : Nat → Nat),
      Gives (.packf f) s f.ta f.tb true ((List.range 32).foldl (fun u j => u ||| fl j) 0) (fun w =>
        ∀ j, j < 128 → (LaneBits .z8 w j).toNat =
          if j < 32 then q j else if j = 32 then sc 0 else if j = 33 ∧ b = 1 then sc 1 else 0) ∧
      ∀ k, k < 32 / size →
        let inBlock (j : Nat) : Prop := k * size ≤ j ∧ j < (k + 1) * size
        ((∃ j, inBlock j ∧ ¬ (v j).Finite) → sc k = 0xFF ∧ ∀ j, inBlock j → q j = 0 ∧ fl j = flagNV) ∧
        ((∀ j, inBlock j → (v j).Finite) → ∃ amax : ℚ, (∃ j, inBlock j ∧ amax = |(v j).real|) ∧
          (∀ j, inBlock j → |(v j).real| ≤ amax) ∧ (amax = 0 → sc k = 127) ∧
          (amax ≠ 0 → (sc k : Int) = min 254 (max 0 (Int.log 2 amax - big + 127))) ∧
          ∀ j, inBlock j → ConvertsTo f.ty .fp32 md true (127 - (sc k : Int)) (a j) (q j) (fl j))) ∧
    GivesFloats (.unpackf f) s f.ta f.tb true .fp32 (fun j x fl =>
      let scale := code (if b = 1 then 32 + j / 16 else 32)
      (scale = 0xFF → x = canon .fp32 ∧ fl = 0) ∧
      (scale ≠ 0xFF → ConvertsTo .fp32 f.ty md false ((scale : Int) - 127) (code j) x fl))) ∧
  (∀ (s : State) (f : FmtT) (book : Vec), (f.ty = .bf16 ∨ f.ty = .fp32) →
    (s.getCe s.key).fir.hold = .none → (s.getCe s.key).fir.skip = false →
    let r := s.rdAt s.key
    let h := r.w64 .b f.sb
    let n := f.ty.lanes
    let part := (r.w64 .c f.sc).toNat
    let entry c : Nat := (book.extractLsb' (640 + 16 * c) 16).toNat
    let e c : FVal := fDecode .bf16 (entry c)
    let code (i : Nat) : Nat := match f.sa with | .imm v => v.toNat % 16 | x => (LaneBits .c4 (r.raw 4 .a x) i).toNat
    let a i : FVal := fDecode f.ty (lget 0 (r.flts f.ty .a f.sa) i)
    (s.tensor (s.getCe s.key).part h = some book → book.extractLsb' 128 4 = 0xD#4 → (∀ c, c < 16 → (e c).Finite) →
      (256 / n ≤ part → Gives (.cbexp f) s f.ta f.tb true 0 (fun v => v = 0) ∧
        Gives (.cbqnt f) s f.ta f.tb true 0 (fun v => v = 0)) ∧
      (part < 256 / n →
        Gives (.cbexp f) s f.ta f.tb true 0 (fun v => ∀ i, i < n →
          (fDecode f.ty (LaneBits f.ty v i).toNat).Finite ∧
          (fDecode f.ty (LaneBits f.ty v i).toNat).real = (e (code (part * n + i))).real) ∧
        ∃ (q : Nat → Nat) (fl : Nat → Flags),
          Gives (.cbqnt f) s f.ta f.tb true ((List.range n).foldl (fun u j => u ||| fl j) 0) (fun v =>
            ∀ j, j < 256 → (LaneBits .c4 v j).toNat = if part * n ≤ j ∧ j < part * n + n then q (j - part * n) else 0) ∧
          ∀ i, i < n → q i < 16 ∧
            ((a i).isNan → q i = 0 ∧ fl i = flagNV) ∧
            (∀ neg, a i = .inf neg → fl i = flagNX ∧ (∀ c, c < 16 → if neg then (e (q i)).real ≤ (e c).real else (e c).real ≤ (e (q i)).real) ∧
              ∀ c, c < q i → (e c).real ≠ (e (q i)).real) ∧
            ((a i).Finite → (∀ c, c < 16 → |(a i).real - (e (q i)).real| ≤ |(a i).real - (e c).real|) ∧
              (∀ c, c < q i → |(a i).real - (e (q i)).real| < |(a i).real - (e c).real|) ∧
              fl i = if (a i).real = (e (q i)).real then 0 else flagNX)))  ∧
    ((s.tensor (s.getCe s.key).part h = none ∨ ∃ w, s.tensor (s.getCe s.key).part h = some w ∧ w.extractLsb' 128 4 ≠ 0xD#4) →
      exec (.cbexp f) s = .next (s.ceFault s.key .handle h.toNat 0) ∧
      exec (.cbqnt f) s = .next (s.ceFault s.key .handle h.toNat 0)))

/-! ## Channels, tokens and blocks -/

/-- R84, R85, R163, R187: with a false guard, or skipped by TRET, an instruction of format X delivers 0 and does nothing
else. R85, R86, R87: with a false guard a memory instruction accesses nothing, delivers 0 and reserves its order-out; an
order-in that holds no ORDER token raises ILLEGAL. Where the rules leave a choice open or are read by inference, this states
the model's reading, that of log entry 13. -/
def Obligations.FalseGuards : Prop :=
  (∀ (s : State) (f : FmtX), (s.getCe s.key).fir.hold = .none →
    ((s.getCe s.key).fir.skip = true ∨ ((s.rdAt s.key).raw 0 .b f.sb).getLsbD 0 = false) →
    ∀ i ∈ [Instr.send f, .adv f, .padv f, .mark f, .tkind f, .markarg f, .osend f, .cfgsend f, .exit f, .call f, .ret f,
        .tend f, .yield f, .sleep f, .trap f, .brk f, .pset f, .launch f, .glaunch f, .join f, .cancel f, .tbmark f,
        .tbwait f, .phend f, .csrrd f, .csrwr f, .cycle f, .statclr f, .seed f, .tret f, .frec f, .migr f, .quota f,
        .perf f],
      Gives i s f.ta .none false 0 (fun v => v = 0)) ∧
  (∀ (s : State) (f : FmtM), (s.getCe s.key).fir.hold = .none →
    let c := s.getCe s.key
    let all : List Instr := [.ld f, .st f, .ldv f, .stv f, .stvm f, .aadd f, .amin f, .amax f, .aand f, .aor f, .axor f,
      .axchg f, .acas f, .afadd f, .bew f, .bred f, .fence f, .xfence f, .gather f, .scatter f, .scatadd f, .copy f,
      .cpstat f, .sopen f, .sclose f, .qpush f, .qpop f, .sflush f, .iflush f, .ldg f, .stg f, .agadd f]
    ((∀ i o, f.sc ≠ .chan i o) → (s.rdAt s.key).guardM f = false → ∀ i ∈ all, ∃ t, exec i s = .next t ∧ OnlyContext s t ∧
      t.getCe s.key = { c.reserve f.oo c.accNext with accNext := c.accNext + 1 }.give false 0 f.ta) ∧
    (∀ i o, f.sc = .chan i o → c.fir.skip = false → ((s.rdAt s.key).tok i.toNat o.toNat).kind ≠ 2 →
      ∀ i ∈ all, ∃ d, Faults i s .illegal 0 d))

/-- R164, R165, R166: SEND, MARK, OSEND and CFGSEND write one token into the slot that IMM19 names. R168: TKIND delivers the
kind and a mark's code, MARKARG a mark's argument or a row's header. R167: ADV and PADV count against WAIT of their input
and FREE of their output, and move at block end; past it they raise SLOT_WINDOW. Where the rules leave a choice open or are
read by inference, this states the model's reading, that of log entries 11 and 26. -/
def Obligations.Tokens : Prop :=
  (∀ (s : State) (f : FmtX), Ready s f →
    let r := s.rdAt s.key
    let a := r.raw 0 .a f.sa
    let j := (f.imm.extractLsb' 4 3).toNat
    let o := (f.imm.extractLsb' 0 4).toNat
    (f.sub = 0 → WritesToken (.send f) s j o ⟨0, Word.toVec (a.setWidth 64), 0⟩) ∧
    (f.sub = 1 → WritesToken (.send f) s j o ⟨1, a, 0⟩) ∧
    (f.sub = 5 → WritesToken (.send f) s j o ⟨5, a, (s.getCe s.key).regs.s[(f.imm.extractLsb' 8 3).toNat]!⟩) ∧
    (f.sub = 6 → WritesToken (.send f) s j o ⟨6, Word.toVec (a.setWidth 64), 0⟩) ∧
    WritesToken (.osend f) s j o ⟨2, 0, 0⟩ ∧
    WritesToken (.cfgsend f) s j o ⟨4, Word.toVec (a.setWidth 64), 0⟩ ∧
    ∃ d : Vec, WritesToken (.mark f) s j o ⟨3, d, 0⟩ ∧
      d = (f.sub.setWidth 1024) ||| ((a.setWidth 32).setWidth 1024 <<< 32)) ∧
  (∀ (s : State) (f : FmtX) (i : BitVec 3) (off : BitVec 4), Ready s f → f.sa = .chan i off →
    let tok := (s.rdAt s.key).tok i.toNat off.toNat
    tok.kind < 8 →
    Gives (.tkind f) s f.ta .none false 0 (fun v =>
      v.extractLsb' 0 3 = BitVec.ofNat 3 tok.kind ∧ v.extractLsb' 3 5 = 0 ∧
      v.extractLsb' 8 8 = (if tok.kind = 3 then tok.data.extractLsb' 0 8 else 0) ∧ v.extractLsb' 16 1008 = 0) ∧
    Gives (.markarg f) s f.ta .none false 0 (fun v =>
      (tok.kind = 3 → v = (tok.data.extractLsb' 32 32).setWidth 1024) ∧ (tok.kind = 5 → v = tok.rhdr.toVec) ∧
      (tok.kind ≠ 3 → tok.kind ≠ 5 → v = 0))) ∧
  (∀ (s : State) (f : FmtX), Ready s f → f.sub.toNat < 8 →
    let c := s.getCe s.key
    let n := ((s.rdAt s.key).w64 .a f.sa).toNat + f.imm.toNat
    let ch := f.sub.toNat
    let wait := (c.fir.block.header.extractLsb' (64 + 6 * ch) 6).toNat
    let free := (c.fir.block.header.extractLsb' (16 + 6 * ch) 6).toNat
    let ins := tget 0 c.fir.advUsed ch
    let outs := tget 0 c.fir.padvUsed ch
    (ins + n ≤ wait → Goes (.adv f) s fun x => { x with
      advUsed := tput x.advUsed ch (ins + n), advMoves := if n = 0 then x.advMoves else x.advMoves ++ [(ch, n)] }) ∧
    (wait < ins + n → ∃ detail, Faults (.adv f) s .slotWindow ins detail) ∧
    (outs + n ≤ free → Goes (.padv f) s fun x => { x with
      padvUsed := tput x.padvUsed ch (outs + n), padvMoves := if n = 0 then x.padvMoves else x.padvMoves ++ [(ch, n)] }) ∧
    (free < outs + n → ∃ detail, Faults (.padv f) s .slotWindow outs detail))

/-- R26, R29, R169, R170, R171: EXIT, CALL and RET choose the next block, and CALL and RET raise ILLEGAL by the return stack
as it stood at firing and for a second one; TEND and YIELD act at block end. R172, R173, R178, R180, R181: SLEEP, JOIN and
TBWAIT set the firing's one wait, and a second raises ILLEGAL; JOIN raises HANDLE for an unknown handle and PROTECT for one
whose counter counts the task; PSET writes at block end. R174, R180: TRAP raises SW_TRAP and BRK raises BREAK, with a in the
address field and the code beside it; TBMARK sets a tile buffer's state once every access of the task is performed, raises
PROTECT on a RESERVED one and HANDLE outside the partition's buffers. -/
def Obligations.NextBlock : Prop :=
  (∀ (s : State) (f : FmtX), Ready s f →
    let c := s.getCe s.key
    let stack := (lget {} c.binds c.fir.bind).stack
    let to_ := blockTarget c.fir.block.address f.imm
    Goes (.exit f) s (fun x => { x with target := some (to_, false) }) ∧
    (stack.length < 8 → c.fir.called = false → Goes (.call f) s fun x => { x with target := some (to_, true), called := true }) ∧
    (8 ≤ stack.length ∨ c.fir.called = true → ∃ d, Faults (.call f) s .illegal 0 d) ∧
    (stack ≠ [] → c.fir.ret = false → Goes (.ret f) s fun x => { x with ret := true }) ∧
    (stack = [] ∨ c.fir.ret = true → ∃ d, Faults (.ret f) s .illegal 0 d) ∧
    Goes (.tend f) s (fun x => { x with tend := true }) ∧
    Goes (.yield f) s (fun x => { x with yield := true })) ∧
  (∀ (s : State) (f : FmtX) (n : BitVec 3), Ready s f →
    let c := s.getCe s.key
    let a := (s.rdAt s.key).w64 .a f.sa
    let once (i : Instr) (w : Wait) : Prop :=
      (c.fir.waitSet = false → Goes i s fun x => { x with waitSet := true, wait := w }) ∧
      (c.fir.waitSet = true → ∃ d, Faults i s .illegal 0 d)
    (f.sub = 0 → once (.sleep f) (.cycles (a.extractLsb' 0 32).toNat)) ∧
    (f.sub = 1 → once (.sleep f) (.copy a (64 * f.imm.toNat) f.imm.toNat)) ∧
    (f.ta = .s n → s.knownHandle c.part a = true → c.ownCounter a = false → once (.join f) (.join a n)) ∧
    (s.knownHandle c.part a = false → Faults (.join f) s .handle a.toNat 0) ∧
    (s.knownHandle c.part a = true → c.ownCounter a = true → Faults (.join f) s .protect a.toNat 0) ∧
    (f.ta = .s n → f.sub.toNat < 4 → a.toNat < Config.tileBuffers → once (.tbwait f) (.tbuf a.toNat f.sub.toNat n false)) ∧
    (Config.tileBuffers ≤ a.toNat → Faults (.tbwait f) s .handle a.toNat 0) ∧
    Goes (.pset f) s (fun x => { x with
      psets := x.psets ++ [((f.sub.extractLsb' 0 4).toNat, (f.sub.extractLsb' 4 2).toNat, a.getLsbD 0)] })) ∧
  (∀ (s : State) (f : FmtX), Ready s f →
    let c := s.getCe s.key
    let a := ((s.rdAt s.key).w64 .a f.sa).toNat
    Faults (.trap f) s .swTrap a f.imm.toNat ∧ Faults (.brk f) s .breakPoint a f.imm.toNat ∧
    (Config.tileBuffers ≤ a → Faults (.tbmark f) s .handle a 0) ∧
    (a < Config.tileBuffers → c.allPerformed = true →
      (s.tbuf c.part a = 1 → Faults (.tbmark f) s .protect a 0) ∧
      (s.tbuf c.part a ≠ 1 → f.sub.toNat < 4 → ∃ t, exec (.tbmark f) s = .next t ∧ t.tbuf c.part a = f.sub.toNat ∧
        (∀ b, b ≠ a → t.tbuf c.part b = s.tbuf c.part b) ∧
        (t.getCe s.key).fir = ((s.getCe s.key).stepped id).fir ∧ (t.getCe s.key).regs = c.regs)))

/-! ## Registers, the supervisor and work -/

/-- R183, R184, R185: CSRRD delivers a defined register and CSRWR writes one; ILLEGAL for an undefined number, PROTECT by
class; CYCLE delivers the counter as the firing began, STATCLR clears the bits it names, SEED stores 0 as 1, PERF delivers a
counter and with .clr clears one of the issuing context. R449: it waits while an event of the cycle has moved the counter,
or an issuer on a later tile has read it. R381, R382 with R275, R320, R328, R350, R359: what a partition register reads
after CSRWR wrote it. Where the rules leave a choice open or are read by inference, this states the model's reading, that of
log entries 56 and 67. -/
def Obligations.Registers : Prop :=
  (∀ (s : State) (f : FmtX), Ready s f →
    let k := s.key
    let c := s.getCe k
    let n := (f.imm.extractLsb' 0 12).toNat
    let a := (s.rdAt k).w64 .a f.sa
    let super := s.isSuper c.launch
    let ctx (i : Instr) (d : CeCtx) : Prop := ∃ t, exec i s = .next t ∧ OnlyContext s t ∧ t.getCe k = d
    (s.csr k n = none → (∃ d, Faults (.csrrd f) s .illegal 0 d) ∧ ∃ d, Faults (.csrwr f) s .illegal 0 d) ∧
    (∀ v, s.csr k n = some v → (n < 0xC00 ∨ super = true → Gives (.csrrd f) s f.ta .none false 0 (fun x => x = v.toVec)) ∧
      (0xC00 ≤ n → super = false → ∃ a d, Faults (.csrrd f) s .protect a d) ∧
      (0xC00 ≤ n ∨ (0x400 ≤ n ∧ super = false) → ∃ a d, Faults (.csrwr f) s .protect a d)) ∧
    (n = 0 → ctx (.csrwr f) { c.stepped id with stat := a.setWidth 7 }) ∧
    (n = 1 → ctx (.csrwr f) { c.stepped id with seed := if a.setWidth 32 = 0#32 then 1 else a.setWidth 32 }) ∧
    (4 ≤ n → n ≤ 8 → ctx (.csrwr f) (c.stepped id)) ∧
    (super = true → n = 0x400 → ∃ t, exec (.csrwr f) s = .next t ∧ t.getCe k = c.stepped id ∧
      t.getPage (cePage k) = { s.getPage (cePage k) with quantum := max 64 (min 65536 (a.extractLsb' 0 17).toNat) }) ∧
    (super = true → 0x800 ≤ n → n < 0xC00 → ∀ v, s.csr k n = some v →
      exec (.csrwr f) s = .next ((s.csrPart c.part n a false).mapCe k (·.stepped id))) ∧
    Gives (.cycle f) s f.ta .none false 0 (fun x => x = Word.toVec (BitVec.ofNat 64 c.fir.cycle)) ∧
    ctx (.statclr f) { c.stepped id with stat := c.stat &&& ~~~(f.imm.setWidth 7) } ∧
    ctx (.seed f) { c.stepped id with seed := if a.setWidth 32 = 0#32 then 1 else a.setWidth 32 } ∧
    (let key := if n / 256 = 2 then 2 ^ 32 + (c.launch * 8 + pageDie (cePage k)) * 4096 + n else (cePage k * 4 + ceSlot k) * 4096 + n
     let tile := ceTile (ceElem k)
     let waits := ((n / 256 = 1 ∨ n / 256 = 2) ∧ (key ∈ s.counted ∨ ∃ t, (key, t) ∈ s.perfReads ∧ tile < t)) ∨
       (n / 256 = 3 ∧ n ∈ (s.getPart c.part).counted) ∨ (n / 256 = 4 ∧ n ∈ s.dev.counted)
     (waits → exec (.perf f) s = .next s) ∧
     (¬ waits → f.sub = 0 → exec (.perf f) s = .next (({ s with perfReads := (key, tile) :: s.perfReads } : State).setCe k
       (c.give false (Word.toVec (BitVec.ofNat 64 (s.perf k n))) f.ta))) ∧
     (¬ waits → f.sub = 1 → n / 256 = 1 → ∃ t, exec (.perf f) s = .next t ∧ t.perf k n = 0 ∧ (∀ m, m ≠ n → t.perf k m = s.perf k m) ∧
       t.perfReads = (key, tile) :: s.perfReads ∧ t.getCe k = c.give false (Word.toVec (BitVec.ofNat 64 (s.perf k n))) f.ta))) ∧
  (∀ (s : State) (k : Nat) (v : Word),
    let part := (s.getCe k).part
    let after n m := (s.csrPart part n v false).csr k m
    after 0x810 0x810 = some ((v.setWidth 32).setWidth 64) ∧ after 0x811 0x811 = some ((v.setWidth 16).setWidth 64) ∧
    after 0x812 0x812 = some (BitVec.ofNat 64 (min 1024 (v.extractLsb' 0 11).toNat)) ∧
    after 0x821 0x821 = some ((v.setWidth 32).setWidth 64) ∧
    after 0x822 0x822 = some ((v.extractLsb' 0 1).setWidth 64) ∧
    (∀ n, n ∈ [0x800, 0x801, 0x802, 0x803, 0x81A, 0x823] → ∀ m, after n m = s.csr k m) ∧
    ((s.getPart part).job.running = true → ∀ n, n ∈ [0x818, 0x819, 0x820] → ∀ m, after n m = s.csr k m) ∧
    (s.workPlaced part = true → ∀ n, 0x830 ≤ n → n ≤ 0x87F → ∀ m, after n m = s.csr k m))

/-- R186, R188, R189: FREC, TRET and QUOTA raise PROTECT outside the supervisor; FREC takes the oldest record; MIGR delivers
0 for a page whose move is pending and else asks for the move; QUOTA adds to the extension named. Where the rules leave a
choice open or are read by inference, this states the model's reading, that of log entries 1, 63 and 64. -/
def Obligations.SupervisorWork : Prop :=
  ∀ (s : State) (f : FmtX), Ready s f →
    let k := s.key
    let c := s.getCe k
    let p := s.getPart c.part
    let a := (s.rdAt k).w64 .a f.sa
    let lp := (a.extractLsb' 0 9).toNat
    let move := s.requestMove c.part lp (if f.imm = 0x7FFFF#19 then none else some f.imm.toNat)
      (.migr (State.ceUref k c.fir.bind c))
    (s.isSuper c.launch = false → ∀ i ∈ [Instr.frec f, .tret f, .quota f], ∃ a d, Faults i s .protect a d) ∧
    (s.isSuper c.launch = true → p.popAt = some s.cycle.toNat → exec (.frec f) s = .next s) ∧
    (s.isSuper c.launch = true → p.popAt ≠ some s.cycle.toNat →
      (p.traps = [] → Gives (.frec f) s f.ta .none true 0 (fun v => v = 0)) ∧
      (∀ own b rest, p.traps = (own, b) :: rest →
        GivesAfter (.frec f) s (fun s => s.setPart c.part { p with traps := rest }) f.ta true (b.setWidth 1024))) ∧
    (s.isSuper c.launch = true → s.areaWrites k = false → 0 < urKind a →
      (s.quotaOf c.part a = none → Gives (.quota f) s f.ta .none false 0 (fun v => v = 0)) ∧
      (∀ id i, s.quotaOf c.part a = some (id, i) →
        (p.regs.panFree < f.imm.toNat → Gives (.quota f) s f.ta .none false 0 (fun v => v = 0)) ∧
        (f.imm.toNat ≤ p.regs.panFree →
          GivesAfter (.quota f) s (fun s => s.growQuota id i f.imm.toNat) f.ta false
            (Word.toVec (BitVec.ofNat 64 ((s.growQuota id i f.imm.toNat).quotaNow id i)))))) ∧
    (p.nl ≤ lp → Faults (.migr f) s .protect lp 0) ∧
    (lp < p.nl → s.areaWrites k = false →
      (s.movePending c.part lp = true → Gives (.migr f) s f.ta .none false 0 (fun v => v = 0)) ∧
      (s.movePending c.part lp = false → GivesAfter (.migr f) s (fun _ => move.2) f.ta false 1))

/-- R28, R417: a fault on a compute element leaves every effect of the instructions before it, their pointer moves applied,
and none of its own; its binding is FAULTED at this block, and a record names the binding, the instruction, the class and
its values. R419: it stands among the records of its cycle by page, tile and slot. R187: a return runs it again, or past the
instruction, from what it left; a skip of a block that was rejected at its fetch changes nothing. R187, R421: TRET of the
supervisor on a FAULTED task binding of a resident launch: retry and skip make it RUNNABLE with its residue, kill unbinds it
and counts its completion points as faulted; it delivers 1. On a word that names no FAULTED unit, and with skip on a block
rejected at fetch, it delivers 0 and changes nothing. Where the rules leave a choice open or are read by inference, this
states the model's reading, that of log entry 79. -/
def Obligations.Exceptions : Prop :=
  (∀ (s : State) (k : Nat) (cls : FaultClass) (addr detail i m ch : Nat),
    let c := s.getCe k
    let f := c.fir
    let own := s.isSuper c.launch
    let p := s.getPart c.part
    let t := s.ceFault k cls addr detail
    let d := t.getCe k
    let q := t.getPart c.part
    (own = true → p.traps.countP (fun e => e.1) < 16) →
    (∀ k', k' ≠ k → t.getCe k' = s.getCe k') ∧ t.scratch = s.scratch ∧ t.device = s.device ∧ t.istore = s.istore ∧ t.wbuf = s.wbuf ∧
    t.accs = s.accs ∧ t.launches = s.launches ∧ d.regs = c.regs ∧ d.stat = c.stat ∧ d.seed = c.seed ∧ d.pend = c.pend ∧
    d.fir.active = f.active ∧ d.fir.bind = f.bind ∧ d.fir.block = f.block ∧ d.fir.idx = f.idx ∧ d.fir.slots = f.slots ∧ d.fir.hold = .none ∧
    d.fir.advMoves = [] ∧ d.fir.padvMoves = [] ∧
    (∀ n, n ≠ f.bind → lget {} d.binds n = lget {} c.binds n) ∧
    (f.bind < c.binds.length → lget {} d.binds f.bind = { lget {} c.binds f.bind with state := .faulted, retry := false }) ∧
    (f.advMoves = [(i, m)] → f.padvMoves = [] → c.inCh i = some ch → (tfind s.chans ch).isSome = true →
      (t.chanD ch).endq = (s.chanD ch).endq.drop m) ∧
    (∃ b : BitVec 512, b.extractLsb' 16 14 = BitVec.ofNat 14 (ceXy k) ∧ b.extractLsb' 39 3 = BitVec.ofNat 3 f.bind ∧
      b.extractLsb' 42 7 = BitVec.ofNat 7 f.idx ∧ b.extractLsb' 49 1 = 0 ∧ b.extractLsb' 50 2 = BitVec.ofNat 2 (ceSlot k) ∧
      b.extractLsb' 52 4 = 0 ∧ b.extractLsb' 56 8 = BitVec.ofNat 8 cls.code ∧ b.extractLsb' 64 64 = State.ceUref k f.bind c ∧
      b.extractLsb' 128 64 = f.word ∧ b.extractLsb' 192 64 = BitVec.ofNat 64 addr ∧ b.extractLsb' 256 64 = BitVec.ofNat 64 detail ∧
      b.extractLsb' 384 64 = s.cycle ∧ b.extractLsb' 448 64 = 0 ∧
      let n := laterRecords p.traps b
      let m := p.trapWait.length - laterRecords p.trapWait b
      ((q.traps = p.traps.take (p.traps.length - n) ++ (own, b) ::
            (p.traps.drop (p.traps.length - n)).map (fun e => (e.1, withRseq e.2 (recordRseq e.2 + 1))) ∧
          b.extractLsb' 0 16 = p.rseq - BitVec.ofNat 16 n ∧ q.rseq = p.rseq + 1 ∧ q.trapWait = p.trapWait) ∨
        (own = false ∧ q.traps = p.traps ∧ q.trapWait = p.trapWait.take m ++ (own, b) :: p.trapWait.drop m))) ∧
    (∀ (b : BitVec 512) (es : List (Bool × BitVec 512)), laterRecords es b = (es.reverse.takeWhile fun e =>
      e.2.extractLsb' 384 64 == b.extractLsb' 384 64 && recordPlace b < recordPlace e.2).length) ∧
    ∀ (bind : Nat) (skip : Bool), bind < c.binds.length →
      let x := lget {} c.binds bind
      let y := (s.ceReturn k bind skip).getCe k
      let z := lget {} y.binds bind
      y.regs = c.regs ∧ (∀ n, n ≠ bind → lget {} y.binds n = lget {} c.binds n) ∧ z.pc = x.pc ∧ z.stack = x.stack ∧
      (f.active = true → f.bind = bind → y.fir = { f with skip := skip } ∧ z.state = .runnable) ∧
      (f.active = false ∨ f.bind ≠ bind → y.fir = f ∧ (x.retry = false → skip = false → z.state = .runnable) ∧
        (x.retry = false → skip = true → y = c) ∧
        (x.retry = true → skip = false → z.state = .sleeping ∧ z.wait = x.wait ∧ z.retry = false) ∧
        (x.retry = true → skip = true → z.state = .runnable ∧ z.wait = .none ∧ z.retry = false))) ∧
  (∀ (s : State) (f : FmtX), Ready s f →
    let k := s.key
    let c := s.getCe k
    let u := (s.rdAt k).w64 .a f.sa
    let mode := (f.sub.extractLsb' 0 2).toNat
    s.isSuper c.launch = true → s.areaWrites k = false → s.unitRecordWaits c.part u = false →
    (s.tret c.part u mode = none → Gives (.tret f) s f.ta .none false 0 (fun v => v = 0)) ∧
    (∀ e pp, urKind u = 1 → tileCe (urTile u) = some e → s.phys c.part (urPage u) = some pp →
      let j := ceKey pp e (urCtx u)
      let d := s.getCe j
      let b := lget {} d.binds (urSlot u)
      d.launch ≠ 0 → d.part = c.part → b.bound = true → b.state = .faulted → s.stopping d.launch = false →
      (mode = 0 ∨ (mode = 1 ∧ d.atFetch (urSlot u) = false) → exec (.tret f) s = .next
        (((s.ceReturn j (urSlot u) (mode == 1)).mapCe k fun c => c.give false 1 f.ta).settle)) ∧
      (mode = 1 → d.atFetch (urSlot u) = true → Gives (.tret f) s f.ta .none false 0 (fun v => v = 0)) ∧
      (mode = 2 → exec (.tret f) s = .next
        ((((s.mapCe j fun x => x.dropBinding (urSlot u)).countLost d.launch (b.ends - b.points)).mapCe k fun c =>
          c.give false 1 f.ta).settle))))

/-- R33, R38, R175, R176, R177, R352: LAUNCH, once every access of the task is performed, queues the launch its record
describes at the tail of its level, launches of one cycle standing in the order of their issuers, as a graph instance of its
own, and delivers its handle; a record that breaks its map delivers BADREC and queues nothing; a record address that is not
128-byte aligned raises ALIGN. GLAUNCH does the same for the records of a template and delivers the graph's handle. R40,
R179, R182: CANCEL raises HANDLE for an unknown handle, delivers 0 for a counter at zero and changes nothing else, and
delivers 1 and cancels the level for one that is not; PHEND cancels the current phase. Where the rules leave a choice open
or are read by inference, this states the model's reading, that of log entries 12, 49 and 75. -/
def Obligations.QueuesWork : Prop :=
  (∀ (s : State) (f : FmtX), Ready s f →
    let k := s.key
    let c := s.getCe k
    let a := ((s.rdAt k).w64 .a f.sa).toNat
    let gave (t : State) (v : Word) : State := t.mapCe k fun c => c.give false v.toVec f.ta
    let new (g : Nat) (r : LaunchRec) : Launch :=
      { newLaunch c.part g r r.level false with queuedAt := s.cycle.toNat, issuer := psetKey k }
    -- the entries at a queue's end that issuers after this one queued in this cycle (R352)
    let later (t : State) (q : List Nat) : Nat := (q.reverse.takeWhile fun x =>
      (t.launchD x).queuedAt == s.cycle.toNat && psetKey k < (t.launchD x).issuer).length
    c.allPerformed = true →
    (a % 128 ≠ 0 → s.scratchAt c.part a 128 = .error (some ⟨.align, a, 0⟩) → Faults (.launch f) s .align a 0) ∧
    (∀ mt off, s.scratchAt c.part a 128 = .ok (mt, off) → s.banksAwake mt off 128 = (true, s) →
      s.scratchLost mt off 128 = false →
      let rec_ := launchRec (natOfBytes (s.scratchRead mt off 128))
      (rec_ = none → exec (.launch f) s = .next (gave s 0xF000000000000004)) ∧
      (∀ r b s', rec_ = some r → s.nameImage c.part r.image = (.body b, s') → s'.nextId = s.nextId →
        (s'.getPart c.part).noFit b = false → (s'.getPart c.part).queueFull [r.level] = false →
        let g := s.nextId + 1
        ∃ t, exec (.launch f) s = .next (gave t (handle 1 (g + 1))) ∧ t.nextId = g + 1 ∧
          tfind t.launches (g + 1) = some (new g r) ∧
          tfind t.graphs g = some { part := c.part, counter := 1, completed := 0, killed := 0, faulted := 0, phase := none } ∧
          (t.getPart c.part).queues = ((s'.getPart c.part).queues.modify r.level fun q =>
            q.take (q.length - later t q) ++ [g + 1] ++ q.drop (q.length - later t q)))) ∧
    (∀ h s1 vs s2 n g ids s3, State.readRecords k 1 a [] s = (.ok [h], s1) → templateCount h = some n →
      State.readRecords k n (a + 128) [] s1 = (.ok vs, s2) →
      s2.admission c.part (psetKey k) (vs.map launchRec) none false = (.taken g ids, s3) →
      exec (.glaunch f) s = .next (gave s3 (handle 2 g))) ∧
    (∀ h s1, State.readRecords k 1 a [] s = (.ok [h], s1) → templateCount h = none →
      exec (.glaunch f) s = .next (gave s1 0xF000000000000004))) ∧
  (∀ (s : State) (f : FmtX), Ready s f →
    let k := s.key
    let c := s.getCe k
    let h := (s.rdAt k).w64 .a f.sa
    let gave (v : Vec) : State := s.mapCe k fun c => c.give false v f.ta
    (s.knownHandle c.part h = false → Faults (.cancel f) s .handle h.toNat 0) ∧
    (s.knownHandle c.part h = true → s.counterUp c.part h = false → Gives (.cancel f) s f.ta .none false 0 (fun v => v = 0)) ∧
    (s.knownHandle c.part h = true → s.counterUp c.part h = true →
      (handleKind h = 1 → exec (.cancel f) s = .next ((gave 1).cancelLaunch (handleId h)).settle) ∧
      (handleKind h = 2 → exec (.cancel f) s = .next ((gave 1).cancelGraph (handleId h)).settle) ∧
      (handleKind h = 3 → exec (.cancel f) s = .next ((gave 1).cancelPhase (handleId h)).settle) ∧
      (handleKind h = 4 → exec (.cancel f) s = .next ((gave 1).cancelJob c.part).settle)) ∧
    (∀ id p, s.phaseNow c.part = some (id, p) →
      exec (.phend f) s = .next ((s.mapCe k fun c => c.stepped (fun x => x)).cancelPhase id).settle) ∧
    (s.phaseNow c.part = none → Goes (.phend f) s (fun x => x)))

/-! ## Memory instructions -/

/-- R192, R277, R425: the checks of a scratchpad address, in their order; a page that moves, or that is not clear yet for
its new owner, holds the access. R191, R192, R195: a scratchpad access whose address fails its check raises the check's
fault at its own index and accesses nothing. R194, R402: the checks of a device virtual address, and an address that an
entry of the range table covers. -/
def Obligations.AddressChecks : Prop :=
  (∀ (s : State) (part a size : Nat), 0 < size →
    let p := s.getPart part
    let lp := a / 2 ^ 21 % 512
    let e := tget {} p.map lp
    let mt := 2 * e.ppage + a / 2 ^ 20 % 2
    let gone := e.v = false ∨ (s.getPage e.ppage).mapout = true ∨ ∃ b ∈ (s.getMt mt).banks, b.power = .gated
    (2 ^ 30 ≤ a ∨ p.nl ≤ lp → ∃ d, s.scratchAt part a size = .error (some ⟨.protect, a, d⟩)) ∧
    (a < 2 ^ 30 → lp < p.nl → (e.mov = true ∧ s.leaving = false) ∨ (e.v = true ∧ (s.getPage e.ppage).clearing = true) →
      s.scratchAt part a size = .error none) ∧
    (a < 2 ^ 30 → lp < p.nl → e.mov = false → (e.v = true → (s.getPage e.ppage).clearing = false) →
      (gone → ∃ d, s.scratchAt part a size = .error (some ⟨.gated, a, d⟩)) ∧
      (¬ gone → a % size ≠ 0 → ∃ d, s.scratchAt part a size = .error (some ⟨.align, a, d⟩)) ∧
      (¬ gone → a % size = 0 → s.scratchAt part a size = .ok (mt, a % 2 ^ 20)))) ∧
  (∀ (s : State) (f : FmtM) (e : Err), Issues s f →
    let part := (s.getCe s.key).part
    let a := ((s.rdAt s.key).w64 .a f.sa).toNat
    (s.scratchAt part a (f.ty.width / 8) = .error (some e) →
      ∀ i ∈ [Instr.ld f, .st f, .aadd f, .amin f, .amax f, .aand f, .aor f, .axor f, .axchg f, .acas f, .afadd f],
        Faults i s e.cls e.addr e.detail) ∧
    (s.scratchAt part a 128 = .error (some e) → ∀ i ∈ [Instr.ldv f, .stv f, .stvm f], Faults i s e.cls e.addr e.detail)) ∧
  (∀ (s : State) (k va size : Nat) (write : Bool), 0 < size →
    let part := (s.getCe k).part
    (2 ^ 56 ≤ va → ∃ d, s.devAt k va size write = (.error (some ⟨.protect, va, d⟩), s)) ∧
    (va < 2 ^ 56 → s.inSpill part va size = false →
      (va % size ≠ 0 → ∃ d, s.devAt k va size write = (.error (some ⟨.align, va, d⟩), s)) ∧
      (∀ pa wr, va % size = 0 → s.rangeFind part va = some (pa, wr) →
        (write = true → wr = false → ∃ d, s.devAt k va size write = (.error (some ⟨.protect, va, d⟩), s)) ∧
        (write = false ∨ wr = true → s.devAt k va size write = (.ok pa, s)))))

/-- R198: LD delivers the element at its address, extended by its type, and LDV the 128 bytes of a line; no byte of memory
changes. R198: ST stores the low bits of its data, STV a line, and STVM the lanes that its mask selects; every other byte of
memory is as it was. -/
def Obligations.ScratchAccesses : Prop :=
  (∀ (s : State) (f : FmtM) (mt off : Nat), Issues s f →
    let k := s.key
    let c := s.getCe k
    let a := ((s.rdAt k).w64 .a f.sa).toNat
    let bank := off / 128 % 16
    BankFree s mt bank →
    (s.scratchAt c.part a (f.ty.width / 8) = .ok (mt, off) → 8 ≤ f.ty.width → s.scratchLost mt off (f.ty.width / 8) = false →
      ceWord c.fir.word = .ok (.ld f) →
      ServedBy (.ld f) s f mt bank
        ((c.accessed f).give false (Word.toVec (BitVec.ofInt 64
          (extT f.ty (memNat s.scratch (mt * 2 ^ 20 + off) (f.ty.width / 8))))) f.ta)
        (fun u => u.scratch = s.scratch)) ∧
    (s.scratchAt c.part a 128 = .ok (mt, off) → s.scratchLost mt off 128 = false → ceWord c.fir.word = .ok (.ldv f) →
      ServedBy (.ldv f) s f mt bank
        ((c.accessed f).give true (BitVec.ofNat 1024 (memNat s.scratch (mt * 2 ^ 20 + off) 128)) f.ta)
        (fun u => u.scratch = s.scratch))) ∧
  (∀ (s : State) (f : FmtM) (mt off : Nat), Issues s f → MemoryOk s →
    let k := s.key
    let r := s.rdAt k
    let c := s.getCe k
    let a := (r.w64 .a f.sa).toNat
    let bank := off / 128 % 16
    let at_ := mt * 2 ^ 20 + off
    let d := (c.accessed f).stepped id
    BankFree s mt bank → 8 ≤ f.ty.width →
    (s.scratchAt c.part a (f.ty.width / 8) = .ok (mt, off) →
      ServedBy (.st f) s f mt bank d (fun u =>
        Stored s.scratch u.scratch at_ (f.ty.width / 8) ((r.data f.ty .b f.sb).toNat % 2 ^ f.ty.width))) ∧
    (s.scratchAt c.part a 128 = .ok (mt, off) →
      ServedBy (.stv f) s f mt bank d (fun u => Stored s.scratch u.scratch at_ 128 (r.vdata f.ty .b f.sb).toNat)) ∧
    (s.scratchAt c.part a 128 = .ok (mt, off) → ∀ n : BitVec 2, f.sb = .w n → n = 0 ∨ n = 2 →
      ServedBy (.stvm f) s f mt bank d (fun u => ∀ x, u.scratch.read x =
        if at_ ≤ x ∧ x < at_ + 128 ∧ LaneBits f.ty c.regs.w[n.toNat + 1]! ((x - at_) / (f.ty.width / 8)) ≠ 0
        then c.regs.w[n.toNat]!.extractLsb' (8 * (x - at_)) 8 else s.scratch.read x)))

/-- R199 with R55, R57 and R70: an atomic stores its operation's result in the element at its address, every other byte of
memory staying as it was, and delivers the old value. R200, R201: BEW applies its operation in every lane of one line. BRED
delivers the reduction of its range in ascending order, and changes no memory; each line of the range is read by a step of
its own, one in a cycle (a line's step is stated at the cycle it comes in). Reserved operations raise ILLEGAL, and a range
that leaves its memory tile PROTECT. Where the rules leave a choice open or are read by inference, this states the model's
reading, that of log entries 8 and 78. -/
def Obligations.BankAtomics : Prop :=
  (∀ (s : State) (f : FmtM) (mt off : Nat), Issues s f → MemoryOk s →
    let k := s.key
    let r := s.rdAt k
    let c := s.getCe k
    let w := f.ty.width
    let bank := off / 128 % 16
    let at_ := mt * 2 ^ 20 + off
    let old := memNat s.scratch at_ (w / 8)
    let b := (r.data f.ty .b f.sb).toNat
    let does (i : Instr) (P : Nat → Prop) : Prop :=
      ServedBy i s f mt bank ((c.accessed f).give false (Word.toVec (BitVec.ofInt 64 (extT f.ty old))) f.ta)
        (fun u => ∃ n, n < 2 ^ w ∧ P n ∧ Stored s.scratch u.scratch at_ (w / 8) n)
    BankFree s mt bank → 8 ≤ w → s.scratchAt c.part (r.w64 .a f.sa).toNat (w / 8) = .ok (mt, off) →
    s.scratchLost mt off (w / 8) = false →
    does (.aadd f) (ElemTo 0 f.ty old (b % 2 ^ w)) ∧ does (.amin f) (ElemTo 1 f.ty old (b % 2 ^ w)) ∧
    does (.amax f) (ElemTo 2 f.ty old (b % 2 ^ w)) ∧ does (.aand f) (ElemTo 3 f.ty old (b % 2 ^ w)) ∧
    does (.aor f) (ElemTo 4 f.ty old (b % 2 ^ w)) ∧ does (.axor f) (ElemTo 5 f.ty old (b % 2 ^ w)) ∧
    does (.axchg f) (fun n => n = b % 2 ^ w) ∧
    does (.acas f) (fun n => n = if old = b % 2 ^ w then b / 2 ^ w % 2 ^ w else old) ∧
    does (.afadd f) (ElemTo 0 f.ty old (b % 2 ^ w))) ∧
  (∀ (s : State) (f : FmtM) (mt off : Nat), Issues s f → MemoryOk s →
    let k := s.key
    let r := s.rdAt k
    let c := s.getCe k
    let size := f.ty.width / 8
    let a := (r.w64 .a f.sa).toNat
    let at_ := mt * 2 ^ 20 + off
    let ctl := (r.w64 .b f.sb).toNat
    let count := ctl % 2 ^ 20
    let op := ctl / 2 ^ 20 % 8
    let elem (m : Memory) i := memNat m (at_ + i * size) size
    8 ≤ f.ty.width →
    (a / 8 % 16 ≠ 0 ∨ 5 < a % 8 ∨ (2 < a % 8 ∧ f.ty.isFloat = true) → ∃ d, Faults (.bew f) s .illegal 0 d) ∧
    (a / 8 % 16 = 0 → a % 8 ≤ 5 → (2 < a % 8 → f.ty.isFloat = false) → BankFree s mt (off / 128 % 16) →
      s.scratchAt c.part (a - a % 8) 128 = .ok (mt, off) → s.scratchLost mt off 128 = false →
      ServedBy (.bew f) s f mt (off / 128 % 16) ((c.accessed f).give false 0 f.ta) (fun u =>
        (∀ i, i < f.ty.lanes → ElemTo (a % 8) f.ty (elem s.scratch i)
          (LaneBits f.ty (r.vdata f.ty .b f.sb) i).toNat (elem u.scratch i)) ∧
        ∀ x, x < at_ ∨ at_ + 128 ≤ x → u.scratch.read x = s.scratch.read x)) ∧
    (2 < op ∨ 2 ^ 23 ≤ ctl → ∃ d, Faults (.bred f) s .illegal 0 d) ∧
    (op ≤ 2 → ctl < 2 ^ 23 → s.scratchAt c.part a size = .ok (mt, off) →
      (2 ^ 20 < off + count * size → Faults (.bred f) s .protect a 0) ∧
      (off + count * size ≤ 2 ^ 20 → count = 0 → ∃ t, exec (.bred f) s = .next t ∧ OnlyContext s t ∧
        t.getCe k = (c.accessed f).give false 0 f.ta) ∧
      (off + count * size ≤ 2 ^ 20 → 0 < count → (∀ b, b < 16 → BankFree s mt b) →
        s.scratchLost mt off (count * size) = false → s.cycle.toNat + 2 ^ 14 < 2 ^ 64 →
        let lines := (off % 128 + count * size + 127) / 128
        ∃ (acc : Nat → Nat) (u : Nat → State), acc 0 = elem s.scratch 0 ∧
          (∀ j, j + 1 < count → ElemTo op f.ty (acc j) (elem s.scratch (j + 1)) (acc (j + 1))) ∧
          exec (.bred f) s = .next (u 0) ∧
          (∀ i, i < lines → exec (.bankServe mt ((off / 128 + i) % 16) .good)
            { u i with cycle := s.cycle + BitVec.ofNat 64 i } = .next (u (i + 1))) ∧
          (u lines).getCe k = { (c.accessed f).give false (Word.toVec (BitVec.ofInt 64 (extT f.ty (acc (count - 1))))) f.ta with
            stat := ((u lines).getCe k).stat, late := ((u lines).getCe k).late } ∧
          (u lines).scratch = s.scratch ∧ (u lines).device = s.device)))

/-- R202, R289, R288: a fence with nothing outstanding is performed at once, and sets for each of its streams whether its
later writes are releases; behind an access of its streams it stays outstanding without holding the firing. Where the rules
leave a choice open or are read by inference, this states the model's reading, that of log entry 33. -/
def Obligations.Fences : Prop :=
  ∀ (s : State) (f : FmtM), (s.getCe s.key).fir.hold = .none → (s.rdAt s.key).guardM f = true →
    (∀ i o, f.sc = .chan i o → ((s.rdAt s.key).tok i.toNat o.toNat).kind = 2) →
    let k := s.key
    let c := s.getCe k
    let a := (s.rdAt k).w64 .a f.sa
    let does (i : Instr) (mask : Nat → Bool) : Prop :=
      ∃ t, exec i s = .next t ∧ OnlyContext s t ∧
        (t.getCe k).fir = (c.stepped id).fir ∧ (t.getCe k).regs = c.regs ∧
        (c.pend = [] → t.getCe k = { (c.accessed f).stepped id with fenceRel := (t.getCe k).fenceRel }) ∧
        (∀ e mt q, c.pend = [e] → e.sent = true → e.kind = .bank mt q → e.bind = c.fir.bind →
          if mask e.str then (t.getCe k).pend.length = 2 else (t.getCe k).pend = [e]) ∧
        (c.fenceRel.length = 64 → c.fir.bind < 4 → ∀ j, j < 64 →
          lget none (t.getCe k).fenceRel j =
            if j / 16 = c.fir.bind ∧ mask (j % 16) then (if f.sem = 1 then none else some f.sco.toNat)
            else lget none c.fenceRel j)
    (c.pend = [] ∨ ∃ e mt q, c.pend = [e] ∧ e.sent = true ∧ e.kind = .bank mt q ∧ e.str < 16) →
    does (.fence f) (fun i => decide (i < 16)) ∧ does (.xfence f) (fun i => decide (i < 16) && a.getLsbD i)

/-- R193, R194, R203, R213: GATHER, SCATTER and SCATADD check every element and hand one request to the gather engine of the
memory tile that serves it; LDG, STG and AGADD hand one request to the controller of their element. A value-delivering one,
and a SCATADD, which reads what it adds to, holds its firing, and a SCATTER holds it until a slot accepts it. R203, R204,
R272, R279, R280: the gather engine accepts, once in a cycle, the first request whose element holds fewer than sixteen of
its slots, in its lowest free slot; a bank serves the lanes of a slot that lie in one line; an element's results return in
the order of its requests, and a lost element raises MEM_UE. Where the rules leave a choice open or are read by inference,
this states the model's reading, that of log entry 8. -/
def Obligations.GatherAndDeviceRequests : Prop :=
  (∀ (s : State) (f : FmtM), Issues s f →
    let k := s.key
    let r := s.rdAt k
    let c := s.getCe k
    let size := f.ty.width / 8
    let w := r.w64 .a f.sa
    let base : Nat := w.toNat % 2 ^ 56
    let idx (i : Nat) : Int := ((r.raw f.ty.width .b f.sb).extractLsb' (32 * i) 32).toInt
    let ea (i : Nat) : Nat := (((base : Int) + idx i * (size : Int)) % 2 ^ 64).toNat
    let num := if f.ty.width = 64 then 16 else 32
    let held (t : State) (h : Hold) : Prop := (t.getCe k).fir = { c.fir with hold := h } ∧ (t.getCe k).regs = c.regs ∧
      t.scratch = s.scratch ∧ t.device = s.device
    let asks (i : Instr) (kind : GatherKind) (mt : Nat) (dev : Bool) (eas : Nat → Nat) : Prop :=
      ∃ t q, exec i s = .next t ∧ t = { s with ce := t.ce, mts := t.mts } ∧
        t.getMt mt = { s.getMt mt with gatherIn := (s.getMt mt).gatherIn ++ [q] } ∧
        q.kind = kind ∧ q.ty = f.ty ∧ q.ce = k ∧ q.acc = c.accNext ∧ q.dev = dev ∧ q.left = List.range num ∧
        (∀ i, i < num → lget 0 q.eas i = eas i) ∧ (kind ≠ .gather → q.data = r.pair2 f.sb) ∧
        held t (if kind = .scatter then .gather else .value c.accNext)
    let all (P : Instr → GatherKind → Prop) : Prop := P (.gather f) .gather ∧ P (.scatter f) .scatter ∧ P (.scatadd f) .scatadd
    (place w = none ∨ w.toNat / 2 ^ 62 = 2 → all fun i _ => Faults i s .protect w.toNat 0) ∧
    (∀ (mt : Nat) (off : Nat → Nat), place w = some (0, base) →
      (∀ i, i < num → s.scratchAt c.part (ea i) size = .ok (mt, off i) ∧ ea i / 2 ^ 20 = base / 2 ^ 20) →
      all fun i kind => asks i kind mt false off) ∧
    (∀ (mt : Nat) (off : Nat → Nat) (j : Nat), place w = some (0, base) → j < num →
      (∀ i, i < j → s.scratchAt c.part (ea i) size = .ok (mt, off i) ∧ ea i / 2 ^ 20 = base / 2 ^ 20) →
      (∀ e, s.scratchAt c.part (ea j) size = .error (some e) → all fun i _ => Faults i s e.cls e.addr e.detail) ∧
      (∀ p, s.scratchAt c.part (ea j) size = .ok p → ea j / 2 ^ 20 ≠ base / 2 ^ 20 → all fun i _ => Faults i s .protect (ea j) 0)) ∧
    (∀ pa : Nat → Nat, place w = some (1, base) → (∀ i wr, i < num → s.devAt k (ea i) size wr = (.ok (pa i), s)) →
      all fun i kind => asks i kind (homeMt k) true fun n => canonAddr (pa n)) ∧
    (∀ pa, s.sectorsTaken (homeMt k) < 256 → (∀ wr, s.devAt k w.toNat size wr = (.ok pa, s)) →
      let sent (i : Instr) (op : DevOp) (t : State) : Prop :=
        exec i s = .next t ∧ ∃ q, (t.getDc (devChannel (canonAddr pa))).queue =
            (s.getDc (devChannel (canonAddr pa))).queue ++ [q] ∧
          q.addr = canonAddr pa ∧ q.op = op ∧ q.part = c.part ∧ q.owner = .ce k c.accNext ∧
        (t.getMt (homeMt k)).outstanding = (s.getMt (homeMt k)).outstanding + 1 ∧ t.scratch = s.scratch ∧ t.device = s.device
      (∃ t, sent (.ldg f) (.read size) t ∧ held t (.value c.accNext)) ∧
      (∃ t, sent (.agadd f) (.atom .add f.ty (r.data f.ty .b f.sb)) t ∧ held t (.value c.accNext)) ∧
      (∃ t, sent (.stg f) (.write ((List.range size).map fun i => (r.data f.ty .b f.sb).extractLsb' (8 * i) 8)) t ∧
        (t.getCe k).fir = (c.stepped id).fir ∧ (t.getCe k).regs = c.regs)) ∧
    (∀ e wr, s.devAt k w.toNat size wr = (.error (some e), s) →
      (wr = false → Faults (.ldg f) s e.cls e.addr e.detail) ∧
      (wr = true → Faults (.stg f) s e.cls e.addr e.detail ∧ Faults (.agadd f) s e.cls e.addr e.detail))) ∧
  (∀ (s : State) (mt bank slot elem : Nat) (q r : GatherReq) (a : Acc),
    let m := s.getMt mt
    let next := m.gatherIn.find? (fun x => m.slotsOf (elemOf x.ce) < 16)
    let b := lget {} m.banks bank
    let c := s.getCe r.ce
    let g := s.getPage (mt / 2)
    let serves := g.clearing = false ∧ g.gating = false ∧ ∀ e ∈ b.served, e.2 ≠ s.cycle.toNat
    let w := r.ty.width
    let lanes (line : Nat) : List Nat := r.left.filter fun e => lget 0 r.eas e / 128 == line
    let addr (e : Nat) : Nat := mt * 2 ^ 20 + lget 0 r.eas e
    (m.gatherAt = some s.cycle.toNat ∨ next = none ∨ m.gather.findIdx? (· == .free) = none → Idles (.gatherAccept mt) s) ∧
    (m.gatherAt ≠ some s.cycle.toNat → next = some q → m.gather.findIdx? (· == .free) = some slot → q.dev = false → Happens (.gatherAccept mt) s fun t =>
      lget .free (t.getMt mt).gather slot = .accepted { q with arrive := s.cycle.toNat } ∧
      (∀ j, j ≠ slot → lget .free (t.getMt mt).gather j = lget .free m.gather j) ∧ (t.getMt mt).gatherIn = m.gatherIn.erase q ∧
      (q.kind ≠ .gather → (s.getCe q.ce).fir.hold = .gather → t.getCe q.ce = (s.getCe q.ce).stepped id) ∧
      (q.kind = .gather → t.getCe q.ce = s.getCe q.ce) ∧ t.scratch = s.scratch) ∧
    (∀ line, serves → b.power = .awake → b.queue = [] → m.gatherHead bank = some (slot, r, line) → m.gather.length = 64 → slot < 64 → m.lost = [] →
      8 ≤ w → MemoryOk s → (∀ e, e < r.eas.length → lget 0 r.eas e % (w / 8) = 0) → (∀ e ∈ r.left, e < r.eas.length) → r.left.Nodup →
      Happens (.bankServe mt bank .good) s fun t =>
        let left := r.left.filter fun e => !(lanes line).contains e
        (r.kind = .gather → t.scratch = s.scratch ∧ ∃ y, lget .free (t.getMt mt).gather slot = (if left = [] then .done y else .accepted y) ∧
          y.left = left ∧ y.ce = r.ce ∧ y.acc = r.acc ∧ (r.result = 0 → r.eas.length = 1024 / w → ∀ e, e < 1024 / w →
            (LaneBits r.ty y.result e).toNat = if e ∈ lanes line then memNat s.scratch (addr e) (w / 8) else 0)) ∧
        (r.kind = .scatter → r.eas.length ≤ 1024 / w → ∀ x : Nat,
          (∀ e ∈ lanes line, addr e ≤ x → x < addr e + w / 8 → (∀ n ∈ lanes line, e < n → addr n ≠ addr e) → r.left.Pairwise (· < ·) →
            t.scratch.read x = r.data.extractLsb' (w * e + 8 * (x - addr e)) 8) ∧
          ((∀ e ∈ lanes line, ¬ (addr e ≤ x ∧ x < addr e + w / 8)) → t.scratch.read x = s.scratch.read x)) ∧
        (r.kind = .scatadd → ∀ e, lanes line = [e] →
          ElemTo 0 r.ty (memNat s.scratch (addr e) (w / 8)) (lane r.data w e) (memNat t.scratch (addr e) (w / 8)))) ∧
    (∀ rest, (m.order.find? (·.1 == elem)).map (·.2) = some (slot :: rest) → lget .free m.gather slot = .done r → c.pend = [a] → a.id = r.acc →
      m.gather.length = 64 → slot < 64 →
      (∀ f, r.bad = none → decM c.fir.word = .ok f → Happens (.gatherReturn mt elem) s fun t =>
        t.getCe r.ce = { c.performOrder r.acc with pend := [] }.give true r.result f.ta ∧ lget .free (t.getMt mt).gather slot = .free ∧
        (∀ k, k ≠ r.ce → t.getCe k = s.getCe k) ∧ t.scratch = s.scratch ∧ t.device = s.device) ∧
      (∀ n, r.bad = some n → s.isSuper c.launch = false → c.fir.bind < c.binds.length → Happens (.gatherReturn mt elem) s fun t =>
        (lget {} (t.getCe r.ce).binds c.fir.bind).state = .faulted ∧ lget .free (t.getMt mt).gather slot = .free ∧
        Recorded s t c.part .memUe (State.ceUref r.ce c.fir.bind c) (lget 0 r.vas n) (if r.dev then 1 else 0))))

/-- R205, R206, R208, R214: COPY queues one copy and delivers its promise, CPSTAT a promise's status, and IFLUSH discards
the decoded blocks that share a 16-byte unit with its range. R205, R207, R270: once nothing earlier waits at the banks, a
step of a copy reads its chunk of 4 KiB whole before it writes any of it; the last chunk completes the copy; a chunk that
meets an error writes nothing, is recorded, and leaves the copy FAULTED. Where the rules leave a choice open or are read by
inference, this states the model's reading, that of log entries 8, 30 and 37. -/
def Obligations.CopyCommands : Prop :=
  (∀ (s : State) (f : FmtM), Issues s f →
    let k := s.key
    let r := s.rdAt k
    let c := s.getCe k
    let d := r.raw 0 .a f.sa
    let w := r.w64 .a f.sa
    let mt := homeMt k
    let len := (d.extractLsb' 128 32).toNat
    let m := s.getMt mt
    (2 ^ 160 ≤ d.toNat → ∃ x, Faults (.copy f) s .illegal 0 x) ∧
    (∀ e, s.copyCheck c d = .error (some e) → Faults (.copy f) s e.cls e.addr e.detail) ∧
    (s.copyCheck c d = .ok () → m.pendingCopies (ceCtxOf k) < 32 →
      ∃ (t : State) (v : Word) (x : Copy), exec (.copy f) s = .next t ∧ t = { s with ce := t.ce, mts := t.mts } ∧
        (∀ j, j ≠ k → t.getCe j = s.getCe j) ∧
        t.getMt mt = { m with copies := m.copies ++ [x], copySeq := tput m.copySeq (ceCtxOf k) (tget 0 m.copySeq (ceCtxOf k) + 1) } ∧
        x.src = d.extractLsb' 0 64 ∧ x.dst = d.extractLsb' 64 64 ∧ x.len = len ∧ x.done = 0 ∧ x.kind = .copy ∧ x.ce = k ∧
        x.launch = c.launch ∧ x.seq = tget 0 m.copySeq (ceCtxOf k) ∧ x.state = (if len = 0 then .complete else .pending) ∧
        v.extractLsb' 60 4 = 6#4 ∧ v.extractLsb' 50 10 = BitVec.ofNat 10 (2 * c.lpage + mt % 2) ∧
        v.extractLsb' 48 2 = BitVec.ofNat 2 (ceSlot k) ∧ v.extractLsb' 32 16 = BitVec.ofNat 16 c.launch ∧
        v.extractLsb' 0 32 = tget 0 m.copySeq (ceCtxOf k) ∧
        t.getCe k = (c.engineAcc f (len == 0)).give false v.toVec f.ta) ∧
    (∀ v : Word,
      (s.findCopy k w = none → v = 1) →
      (∀ e x, s.findCopy k w = some (e, x) → v = BitVec.ofNat 64 (x.done * 2 ^ 32 + match x.state with
        | .pending => 0 | .complete => 1 | .faulted => 2 | .killed => 3)) →
      ∃ t, exec (.cpstat f) s = .next t ∧ OnlyContext s t ∧ t.getCe k = (c.accessed f).give false v.toVec f.ta) ∧
    (w.toNat % 16 ≠ 0 → Faults (.iflush f) s .align w.toNat 0) ∧
    (w.toNat % 16 = 0 →
      let a := (w.extractLsb' 0 16).toNat
      let stop := min (a + ((r.w64 .b f.sb).extractLsb' 0 17).toNat) c.winSize
      ∃ t, exec (.iflush f) s = .next t ∧ OnlyContext s t ∧
        t.getCe k = { (c.accessed f).give false 0 f.ta with dec := (t.getCe k).dec } ∧
        ∀ b, b ∈ (t.getCe k).dec ↔ b ∈ c.dec ∧
          ¬ ∃ n, (a < 16 * n + 16 ∧ 16 * n < stop) ∧ b.address < 16 * n + 16 ∧ 16 * n < b.nextPc)) ∧
  (∀ (s : State) (mt key : Nat) (x : Copy) (sa da m1 o1 m2 o2 : Nat),
    (s.getMt mt).copyHeads.find? (fun h => s.copyGoes mt h.2) = some (key, x) → x.kind = .copy → 4096 * x.chunk < x.len → MemoryOk s →
    place x.src = some (0, sa) → place x.dst = some (0, da) →
    let part := s.partOf x.launch
    let off := 4096 * x.chunk
    let n := min 4096 (x.len - off)
    let same (y : Copy) : Prop := y.launch = x.launch ∧ y.ctx = x.ctx ∧ y.seq = x.seq
    (s.scratchAt part (sa + off) 1 = .ok (m1, o1) → s.scratchAt part (da + off) 1 = .ok (m2, o2) → o1 + n ≤ 2 ^ 20 → o2 + n ≤ 2 ^ 20 →
      (∀ y, y < 16 → ∀ m ∈ [m1, m2], (lget {} (s.getMt m).banks y).power = .awake ∧ s.bankFree m y = true) → s.wordErrs = [] →
      s.scratchLost m1 o1 n = false → Happens (.copyChunk mt) s fun t =>
        Stored s.scratch t.scratch (m2 * 2 ^ 20 + o2) n (memNat s.scratch (m1 * 2 ^ 20 + o1) n) ∧ t.device = s.device ∧
        ∃ y ∈ (t.getMt mt).copies, same y ∧ y.chunk = x.chunk + 1 ∧ y.done = x.done + n ∧
          y.state = if x.len ≤ off + 4096 then .complete else .pending) ∧
    (∀ e, s.scratchAt part (sa + off) 1 = .error (some e) → s.isSuper x.launch = false → Happens (.copyChunk mt) s fun t =>
      t.scratch = s.scratch ∧ t.device = s.device ∧ Recorded s t part e.cls (s.copyUref mt x) e.addr e.detail ∧
      ∃ y ∈ (t.getMt mt).copies, same y ∧ y.state = .faulted ∧ y.chunk = x.chunk ∧ y.done = x.done))

/-- R209, R211, R212: SOPEN opens the stream with its walk at START; QPUSH adds an entry to those its port holds and QPOP
adds to the credit; SFLUSH and SCLOSE with nothing before them are performed at once, SCLOSE ending the stream. R209 to
R212, R310 to R316: a stream's header or tensor form is checked before it moves a token. A port serves its streams in
rotation. A read walk fetches a granule of 4 KiB at most and delivers the elements up to the end of a row, and its LAST at
the end; a write walk stores its head token's elements and discards a MARK; a queue is popped at HEAD and pushed at TAIL. A
stream left open at its launch's retirement ends with its last held push. Where the rules leave a choice open or are read by
inference, this states the model's reading, that of log entries 28, 29, 38 and 39. -/
def Obligations.StreamCommands : Prop :=
  (∀ (s : State) (f : FmtM), Issues s f →
    let k := s.key
    let r := s.rdAt k
    let c := s.getCe k
    let key := k * 16 + f.str.toNat
    let a := r.w64 .a f.sa
    let ctl := r.w64 .b f.sb
    let mode := (ctl.extractLsb' 0 2).toNat
    let queue := 2 ≤ mode
    let mt := cePage k * 2 + (ctl.extractLsb' 7 1).toNat
    let bad := ctl.extractLsb' 12 20 ≠ 0#20 ∨ ctl.extractLsb' 2 5 ≠ 0#5 ∨ (queue ∧ ctl.extractLsb' 32 32 ≠ 0#32) ∨
      (ctl.getLsbD 11 = true ∧ mode ≠ 0) ∨ tfind s.streams key ≠ none
    let chan := s.mtChan mt (ceSlot k) (ctl.extractLsb' 8 3).toNat (mode = 0 ∨ mode = 2)
    let free (ch : Nat) := ∀ e ∈ s.streams, e.1 ≠ key → e.2.ch ≠ ch
    let alone (i : Instr) (streams : Tab Stream) : Prop :=
      ∃ t, exec i s = .next t ∧ t = { s with ce := t.ce, streams := streams } ∧ (∀ j, j ≠ k → t.getCe j = s.getCe j) ∧
        t.getCe k = (c.accessed f).stepped id
    (bad ∨ chan = none → ∃ d, Faults (.sopen f) s .illegal 0 d) ∧
    (∀ ch, ¬ bad → chan = some ch → free ch →
      (¬ queue → s.tensor c.part a = none → Faults (.sopen f) s .handle a.toNat 0) ∧
      (queue → a.toNat % 64 ≠ 0 → Faults (.sopen f) s .align a.toNat 0) ∧
      (∀ rec_, (if queue then a.toNat % 64 = 0 ∧ rec_ = 0 else s.tensor c.part a = some rec_) → s.streams.length < 64 →
        ∃ t x, exec (.sopen f) s = .next t ∧ t = { s with ce := t.ce, streams := t.streams } ∧
          (∀ j, j ≠ k → t.getCe j = s.getCe j) ∧ t.getCe k = (c.accessed f).give false 0 f.ta ∧
          tfind t.streams key = some x ∧ x.ce = k ∧ x.ch = ch ∧ x.mt = mt ∧ x.tensor = rec_ ∧ x.ended = false ∧
          x.pos = (ctl.extractLsb' 32 32).toNat ∧ x.lastm = ctl.getLsbD 11 ∧ x.credit = 0 ∧ x.held = [] ∧
          x.mode = (match mode with | 0 => .readTensor | 1 => .writeTensor | 2 => .readQueue | _ => .writeQueue))) ∧
    ((∀ x, tfind s.streams key = some x → x.mode ≠ .writeQueue) → ∃ d, Faults (.qpush f) s .illegal 0 d) ∧
    (∀ x, tfind s.streams key = some x → x.mode = .writeQueue →
      ∃ t, exec (.qpush f) s = .next t ∧ (t.getCe k).fir = (c.stepped id).fir ∧ (t.getCe k).regs = c.regs ∧
        tfind t.streams key = some { x with held := x.held ++ [(r.raw 0 .b f.sb, c.accNext)] }) ∧
    ((∀ x, tfind s.streams key = some x → x.mode ≠ .readQueue) → ∃ d, Faults (.qpop f) s .illegal 0 d) ∧
    (∀ x, tfind s.streams key = some x → x.mode = .readQueue →
      (a.toNat = 0 ∨ 64 < a.toNat ∨ 65535 < x.credit + a.toNat → ∃ d, Faults (.qpop f) s .illegal 0 d) ∧
      (0 < a.toNat → a.toNat ≤ 64 → x.credit + a.toNat ≤ 65535 →
        alone (.qpop f) (tput s.streams key { x with credit := x.credit + a.toNat }))) ∧
    alone (.sflush f) s.streams ∧ alone (.sclose f) (tdel s.streams key)) ∧
  (∀ (s s2 s3 s4 : State) (key key' port : Nat) (x y : Stream) (c : Chan),
    let part := s.partOf x.launch
    let goes := s.streamGoes key x = true
    let t := x.tensor
    let w := x.width
    let total := recTotal t
    let row := min (1024 / max 1 w) (rowLeft t x.pos)
    let bit := elemBit t w x.pos
    let only := s.streams = [(key, x)] ∧ x.port = port ∧ s.streamReady key x = true ∧ tfind s.chans x.ch = some c
    let eng := portEngine x.port
    let s1 : State := { s with ports := tput s.ports port key }
    let whole := x.pieces x.pos row = [(x.pos, row)] ∧ x.dead x.pos = false
    -- the engine's read of n bytes gives them and a state that differs in no channel
    let read (u : State) (a n : Nat) (bs : List Byte) (u' : State) : Prop := u.readAt part 1 a n eng = (.ok bs, u') ∧ u'.chans = u.chans
    let gives (u : State) (tok : Token) (x' : Stream) : Prop := tfind u.streams key = some x' ∧
      (u.chanD x.ch).startq = c.startq ++ [tok] ∧ ∀ j, j ≠ x.ch → u.chanD j = s.chanD j
    -- the stream becomes FAULTED with CONFIG in the state that its reading left
    let config (u0 : State) : Prop := u0.isSuper x.launch = false → x.closing = false → Happens (.queueHeaderCheck key) s fun u =>
      (tfind u.streams key).map (·.faulted) = some (some 0x11) ∧ Recorded u0 u (u0.partOf x.launch) .config (u0.streamUref x) 0 0
    let field (hb : List Byte) (lo n : Nat) : Nat := natOfBytes hb / 2 ^ lo % 2 ^ n
    let good (hb : List Byte) : Prop := natOfBytes hb / 2 ^ 192 % 2 ^ 320 = 0 ∧ field hb 96 32 = 0 ∧ 1 ≤ field hb 64 32 ∧
      field hb 64 32 ≤ 2 ^ 24 ∧ field hb 0 64 % 128 = 0 ∧ field hb 0 64 < 2 ^ 56
    let entry (hb : List Byte) (at_ : Nat) : Nat := field hb 0 64 + 128 * (field hb at_ 32 % field hb 64 32)
    (tfind s.streams key = some x →
      (x.checked = true ∨ ¬ goes → Idles (.queueHeaderCheck key) s) ∧
      (x.checked = false → goes →
        let passes (u0 : State) : Prop :=
          exec (.queueHeaderCheck key) s = .next { u0 with streams := tput u0.streams key { x with checked := true } }
        (x.mode = .readTensor → passes s) ∧
        (x.mode = .writeTensor → recEnt t = false → recForm t = 0 → passes s) ∧
        (x.mode = .writeTensor → recEnt t = true ∨ recForm t ≠ 0 → config s) ∧
        (∀ hb, x.mode = .readQueue ∨ x.mode = .writeQueue → read s x.header 64 hb s2 →
          (good hb → passes s2) ∧ (¬ good hb → config s2)))) ∧
    ((∀ e ∈ s.streams, e.2.port = port → s.streamReady e.1 e.2 = false) → Idles (.streamTokenMove port) s) ∧
    (s.streams = [(key, x), (key', y)] → key < key' → x.port = port → y.port = port → s.streamReady key x = true → s.streamReady key' y = true →
      Happens (.streamTokenMove port) s fun u =>
        tget 0 u.ports port = if tget 0 s.ports port < key ∨ key' ≤ tget 0 s.ports port then key else key') ∧
    (only →
      (x.mode = .readTensor → total ≤ x.pos → Happens (.streamTokenMove port) s fun u =>
        (x.lastm = true → gives u ⟨3, 5, 0⟩ { x with ended := true }) ∧
        (x.lastm = false → tfind u.streams key = some { x with ended := true } ∧ u.chans = s.chans)) ∧
      (x.mode = .readTensor → x.pos < total → recForm t = 0 →
        let moved (v : Vec) (vs : List Vec) (ready : Nat) (u : State) : Prop := gives u ⟨1, v, 0⟩
          { x with pos := x.pos + row, ahead := vs, ready := ready, ended := decide (total ≤ x.pos + row ∧ x.lastm = false) }
        (∀ v vs, x.ahead = v :: vs → Happens (.streamTokenMove port) s fun u =>
          moved v vs x.ready u ∧ u.scratch = s.scratch ∧ u.device = s.device) ∧
        (∀ v vs s', x.ahead = [] → State.fetchTokens part x x.fetchStop (x.fetchStop + 1 - x.pos) s1 x.pos [] = (.ok (v :: vs), s') →
          s'.streams = s.streams → s'.chans = s.chans → Happens (.streamTokenMove port) s fun u =>
          moved v vs x.fetchStop u ∧ u.device = s'.device) ∧
        (∀ bs, x.ahead = [] → recEnt t = false → whole → 0 < row → x.fetchStop = x.pos + row →
          s1.readAt part (if recDev t then 1 else 0) (recBase t + bit / 8) ((bit % 8 + w * row + 7) / 8) eng = (.ok bs, s2) →
          s2.chans = s.chans → Happens (.streamTokenMove port) s fun u => u.scratch = s2.scratch ∧ u.device = s2.device ∧
            moved (BitVec.ofNat 1024 (natOfBytes bs / 2 ^ (bit % 8) % 2 ^ (w * row))) [] x.fetchStop u)) ∧
      (∀ tok rest, x.mode = .writeTensor → c.endq = tok :: rest → tok.kind = 3 ∨ total ≤ x.pos → Happens (.streamTokenMove port) s fun u =>
        tfind u.streams key = some x ∧ (u.chanD x.ch).endq = rest ∧ u.scratch = s.scratch ∧ u.device = s.device) ∧
      (∀ tok rest s', x.mode = .writeTensor → c.endq = tok :: rest → tok.isData = true → x.pos < total → whole → bit % 8 = 0 →
        0 < row → w * row % 8 = 0 → s'.streams = s.streams →
        s1.writeAt part x.launch (if recDev t then 1 else 0) (recBase t + bit / 8)
          (bytesOfNat (w * row / 8) (tok.data.toNat % 2 ^ (w * row))) eng = (.ok (), s') →
        Happens (.streamTokenMove port) s fun u => u.scratch = s'.scratch ∧ u.device = s'.device ∧
          tfind u.streams key = some { x with pos := x.pos + row }) ∧
      (∀ hb bs, x.mode = .readQueue → read s1 x.header 64 hb s2 → good hb → field hb 128 32 ≠ field hb 160 32 → read s2 (entry hb 128) 128 bs s3 →
        s3.writeAt part x.launch 1 (x.header + 16) (bytesOfNat 4 (field hb 128 32 + 1)) eng = (.ok (), s4) → s4.chans = s.chans →
        Happens (.streamTokenMove port) s fun u => u.device = s4.device ∧
          gives u ⟨1, BitVec.ofNat 1024 (natOfBytes bs), 0⟩ { x with credit := x.credit - 1 })) ∧
    (∀ hb v acc a rest, tfind s.streams key = some x → x.mode = .writeQueue → s.streamReady key x = true → x.held = (v, acc) :: rest →
      read s x.header 64 hb s2 → good hb → (field hb 160 32 + 2 ^ 32 - field hb 128 32) % 2 ^ 32 < field hb 64 32 →
      s2.writeAt part x.launch 1 (entry hb 160) (bytesOfNat 128 v.toNat) eng = (.ok (), s3) →
      s3.writeAt part x.launch 1 (x.header + 20) (bytesOfNat 4 (field hb 160 32 + 1)) eng = (.ok (), s4) →
      (s4.getCe x.ce).pend = [a] → a.id = acc →
      Happens (.heldPushRelease key) s fun u => u.device = s4.device ∧
        (x.closing = false → tfind u.streams key = some { x with held := rest } ∧
          u.getCe x.ce = { (s4.getCe x.ce).performOrder acc with pend := [] }) ∧
        (x.closing = true → u.getCe x.ce = s4.getCe x.ce ∧
          (rest = [] → tfind u.streams key = none) ∧ (rest ≠ [] → tfind u.streams key = some { x with held := rest }))) ∧
    (tfind s.streams key = none → Idles (.heldPushRelease key) s) ∧
    (tfind s.streams key = some x → x.mode ≠ .writeQueue ∨ s.streamReady key x = false → Idles (.heldPushRelease key) s))

/-! ## Matrix, tensor, sparse, step-cache, convoy and collective instructions -/

/-- R246, R383, R385, R386, R192: the table of the tile accesses. On an IDLE tile, or a READY one that the issuer owns,
ACCRD delivers a quarter row, ACCWR writes one and ACCZ writes +0 everywhere, an IDLE tile becoming READY with the issuer
its owner; ACCREL makes a READY tile IDLE. Another context's tile raises PROTECT, the issuer's BUSY tile ACC_BUSY. What R386
has come first in the cycle holds the instruction. R245: MMA delivers a MATCTL word with the fields of g, q, its type and
its modifiers. Where the rules leave a choice open or are read by inference, this states the model's reading, that of log
entries 27 and 32. -/
def Obligations.TileAccesses : Prop :=
  (∀ (s : State) (f : FmtT) (mn tile : Nat), (s.getCe s.key).fir.hold = .none → (s.getCe s.key).fir.skip = false → MemoryOk s →
    let k := s.key
    let r := s.rdAt k
    let c := s.getCe k
    let n := r.w64 .a f.sa
    let p := s.getPart c.part
    let lp := n.toNat / 16 % 512
    let e := tget {} p.map lp
    let all := [Instr.accrd f, .accwr f, .accz f, .accrel f]
    let own := cePage k * 4 + ceSlot k
    let t := (s.getMn mn).tile tile
    let rw_ := r.w64 .b f.sb
    let base := mn * 2 ^ 18 + tile * 2 ^ 15
    let at_ := base + (rw_.extractLsb' 0 6).toNat * 512 + (rw_.extractLsb' 6 2).toNat * 128
    let became (u : State) (x : AccTile) : Prop :=
      u = { s with ce := u.ce, accs := u.accs, mns := u.mns } ∧ (∀ j, j ≠ k → u.getCe j = s.getCe j) ∧
      (∀ i, ((u.getMn mn).tile i) = if i = tile then x else (s.getMn mn).tile i) ∧
      (u.getMn mn).frags = (s.getMn mn).frags ∧ (u.getMn mn).regions = (s.getMn mn).regions ∧
      (∀ j, j ≠ mn → u.getMn j = s.getMn j) ∧ (f.ta = .none → f.tb = .none → u.getCe k = c.stepped id)
    let after : AccTile := if t.state = .idle then { state := .ready, owner := own, owned := true, waitrel := false } else t
    (2 ^ 13 ≤ n.toNat ∨ p.nl ≤ lp → ∀ i ∈ all, Faults i s .protect n.toNat 0) ∧
    (n.toNat < 2 ^ 13 → lp < p.nl → e.mov = false →
      (e.v = true → (s.getPage e.ppage).clearing = false ∧ (s.getMn (e.ppage * 2 + n.toNat / 8 % 2)).clearing = false) →
      (e.v = false ∨ (s.getPage e.ppage).mapout = true → ∀ i ∈ all, Faults i s .gated n.toNat 0) ∧
      (e.v = true → (s.getPage e.ppage).mapout = false → mn = e.ppage * 2 + n.toNat / 8 % 2 → tile = n.toNat % 8 →
        ((s.getMn mn).tileWait tile s.cycle.toNat = true → ∀ i ∈ all, exec i s = .next s) ∧
        ((s.getMn mn).tileWait tile s.cycle.toNat = false →
        (t.state ≠ .idle → t.owner ≠ own → ∀ i ∈ all, Faults i s .protect n.toNat 0) ∧
        (t.state = .busy → t.owner = own → ∀ i ∈ all, ∃ a, Faults i s .accBusy a 0 ∧ a / 4 % 2 ^ 13 = n.toNat ∧
          ∀ x, ((s.getMn mn).onTile tile)[0]? = some x → a / 2 ^ 33 = mcSeq x.word) ∧
        (t.state = .idle ∨ (t.state = .ready ∧ t.owner = own) →
          Gives (.accrd f) s f.ta f.tb true 0 (fun v =>
            ∀ j, j < 32 → (LaneBits .z32 v j).toNat = memNat s.accs (at_ + 4 * j) 4) ∧
          ((s.getMn mn).tiles.length = 8 →
            (∃ u, exec (.accwr f) s = .next u ∧ Stored s.accs u.accs at_ 128 (r.raw 32 .c f.sc).toNat ∧ became u after) ∧
            (∃ u, exec (.accz f) s = .next u ∧ (∀ x, u.accs.read x =
              if base ≤ x ∧ x < base + 2 ^ 15 then 0 else s.accs.read x) ∧ became u after) ∧
            (t.state = .ready → ∃ u, exec (.accrel f) s = .next u ∧ u.accs = s.accs ∧
              u = { s with ce := u.ce, mns := u.mns } ∧ (u.getMn mn).tile tile = { idleAt := some s.cycle.toNat } ∧
              (u.getMn mn).frags = (s.getMn mn).frags ∧ u.getCe k = (c.put2 false 1 f.ta f.tb).bump)) ∧
          (t.state = .idle → Gives (.accrel f) s f.ta f.tb false 0 (fun v => v = 0))))))) ∧
  (∀ (s : State) (f : FmtT) (b : BitVec 7), f.sc = .imm b →
    let g := (s.rdAt s.key).w64 .a f.sa
    let q := (s.rdAt s.key).w64 .b f.sb
    Gives (.mma f) s f.ta f.tb false 0 (fun v =>
      v.extractLsb' 57 3 = g.extractLsb' 57 3 ∧ v.extractLsb' 36 20 = g.extractLsb' 36 20 ∧
      v.extractLsb' 15 13 = g.extractLsb' 15 13 ∧ v.extractLsb' 0 15 = q.extractLsb' 0 15 ∧
      v.extractLsb' 60 4 = (f.md.extractLsb' 1 2).setWidth 4 ∧ v.getLsbD 56 = f.md.getLsbD 0 ∧
      v.extractLsb' 32 4 = BitVec.ofNat 4 f.ty.code ∧ v.extractLsb' 28 4 = b.extractLsb' 0 4 ∧ v.extractLsb' 64 960 = 0))

/-- R247, R249: WLOAD checks its descriptor, queues a fill at the memory tile of the node's column bus, records the region
as FILLING in place of those it overlaps, and delivers a promise; WRES reports a region and with .park marks the launch.
Where the rules leave a choice open or are read by inference, this states the model's reading, that of log entries 30 and
31. -/
def Obligations.WeightLoads : Prop :=
  ∀ (s : State) (f : FmtT) (mn tile : Nat), (s.getCe s.key).fir.hold = .none → (s.getCe s.key).fir.skip = false →
    let k := s.key
    let r := s.rdAt k
    let c := s.getCe k
    let n := r.w64 .a f.sa
    let d := r.raw 0 .b f.sb
    let src : Word := d.extractLsb' 0 64
    let h : Word := d.extractLsb' 128 64
    let woff := (d.extractLsb' 64 13).toNat
    let nu := (d.extractLsb' 80 13).toNat + 1
    let tag := (d.extractLsb' 96 32).toNat
    let ent := d.getLsbD 94
    let bad := d.toNat / 2 ^ 192 ≠ 0 ∨ d.getLsbD 95 = true ∨ d.getLsbD 93 = true ∨ d.extractLsb' 77 3 ≠ 0#3 ∨
      (ent = false ∧ h ≠ 0) ∨ 8192 < woff + nu
    let mt := if mn % 2 = 0 then mn + 1 else mn - 1
    let m := s.getMt mt
    let overlaps (q : Region) : Prop := q.woff < woff + nu ∧ woff < q.woff + q.nu
    (bad → ∃ x, Faults (.wload f) s .illegal 0 x) ∧
    (s.nodeAt c.part n = .ok (mn, tile) →
      (¬ bad → 2 ≤ (src.extractLsb' 62 2).toNat → Faults (.wload f) s .protect src.toNat 0) ∧
      (∀ ap a, ¬ bad → place src = some (ap, a) → ap < 2 →
        (a % 8 ≠ 0 → Faults (.wload f) s .align src.toNat 0) ∧
        (a % 8 = 0 → ent = true → s.tensor c.part h = none → Faults (.wload f) s .handle h.toNat 0) ∧
        (∀ t, a % 8 = 0 → (if ent then s.tensor c.part h = some t ∧ t.getLsbD 142 = true else t = 0) →
          m.pendingCopies (ceCtxOf k) < 32 →
          ∃ (u : State) (v : Word) (x : Copy), exec (.wload f) s = .next u ∧ u.getCe k = (c.put2 false v.toVec f.ta f.tb).bump ∧
            (u.getMt mt).copies = m.copies ++ [x] ∧
            x.kind = .fill mn woff nu tag (if ent then some t else none) ∧ x.src = src ∧ x.len = 64 * nu ∧ x.state = .pending ∧
            v.extractLsb' 60 4 = 6#4 ∧ v.extractLsb' 0 32 = tget 0 m.copySeq (ceCtxOf k) ∧
            (u.getMn mn).regions.getLast? = some ⟨woff, nu, tag, false, c.launch, x.fillId⟩ ∧
            (∀ q ∈ (u.getMn mn).regions.dropLast, q ∈ (s.getMn mn).regions ∧ ¬ overlaps q) ∧
            ((s.getMn mn).regions.length < 16 → ∀ q ∈ (s.getMn mn).regions, ¬ overlaps q → q ∈ (u.getMn mn).regions) ∧
            u.scratch = s.scratch ∧ u.wbuf = s.wbuf ∧ u.device = s.device)) ∧
      (∀ (code : Nat) (fill : Nat × Nat × BitVec 32),
        ((∀ q ∈ (s.getMn mn).regions, ¬ (q.woff = woff ∧ q.nu = nu ∧ q.tag = tag)) → code = 0) →
        (∀ q ∈ (s.getMn mn).regions, q.woff = woff → q.nu = nu → q.tag = tag →
          code = (if q.resident then 2 else 1) ∧ fill = q.fill) →
        let parks := if code = 1 ∧ f.md.getLsbD 0 = true then c.fir.park ++ [(mn, fill)] else c.fir.park
        ∃ u, exec (.wres f) s = .next u ∧ OnlyContext s u ∧
          u.getCe k = ({ c with fir := { c.fir with park := parks } }.put2 false (BitVec.ofNat 1024 code) f.ta f.tb).bump))

/-- R250, R251, R395: TSEAL delivers the error of the first check that fails, or 8 with the table full, changing nothing; or
it seals the record in a free slot and delivers a handle, from which `tensor` reads the record back. TDROP makes the handle
stale, and it and TQUERY give 0 for a handle that is not live. -/
def Obligations.TensorRecords : Prop :=
  ∀ (s : State) (f : FmtT), (s.getCe s.key).fir.hold = .none → (s.getCe s.key).fir.skip = false →
    let k := s.key
    let r := s.rdAt k
    let c := s.getCe k
    let rec_ := r.raw 0 .a f.sa
    let h := r.w64 .a f.sa
    let q := (r.w64 .b f.sb).toNat
    let p := s.getPart c.part
    let slot (u : State) (n : Nat) : TensorSlot := tget {} (u.getPart c.part).tensors n
    let full := ∀ n, n < 4096 → (slot s n).live = true
    (∀ e, sealError rec_ = some e → 1 ≤ e ∧ e ≤ 7 ∧ Gives (.tseal f) s f.ta f.tb false 0 (fun v => v = BitVec.ofNat 1024 e)) ∧
    (sealError rec_ = none → full → Gives (.tseal f) s f.ta f.tb false 0 (fun v => v = 8)) ∧
    (sealError rec_ = none → ¬ full → ∃ (u : State) (v : Word) (n : Nat), exec (.tseal f) s = .next u ∧ n < 4096 ∧
      (slot s n).live = false ∧ v.extractLsb' 60 4 = 8#4 ∧ v.extractLsb' 44 16 = (slot s n).gen ∧
      v.extractLsb' 12 32 = 0#32 ∧ (v.extractLsb' 0 12).toNat = n ∧
      slot u n = { live := true, gen := (slot s n).gen, record := rec_ } ∧ (∀ i, i ≠ n → slot u i = slot s i) ∧
      u.tensor c.part v = some rec_ ∧ u.getCe k = (c.put2 false v.toVec f.ta f.tb).bump ∧
      u = { s with ce := u.ce, parts := u.parts }) ∧
    (rec_.extractLsb' 192 64 ≠ 0#64 → rec_.getLsbD 142 = false → sealError rec_ = some 1) ∧
    (s.tensor c.part h = none → Gives (.tdrop f) s f.ta f.tb false 0 (fun v => v = 0) ∧
      Gives (.tquery f) s f.ta f.tb false 0 (fun v => v = 0)) ∧
    (∀ t, s.tensor c.part h = some t →
      (∃ u, exec (.tdrop f) s = .next u ∧ u.tensor c.part h = none ∧ u.getCe k = (c.put2 false 1 f.ta f.tb).bump ∧
        (∀ i, i ≠ h.toNat % 4096 → slot u i = slot s i) ∧ u.scratch = s.scratch ∧ u.device = s.device ∧
        ∀ mt, (mt / 2 ∈ p.pages → ∀ e ∈ (u.getMt mt).dir,
            ¬ (e.2.slot = h.toNat % 4096 ∧ e.2.gen = (slot s (h.toNat % 4096)).gen.toNat)) ∧
          (mt / 2 ∉ p.pages → u.getMt mt = s.getMt mt)) ∧
      Gives (.tquery f) s f.ta f.tb false 0 (fun v =>
        v = if q < 16 then (t.extractLsb' (64 * q) 64).setWidth 1024 else if q = 16 then 1 else 0))

/-- R252, R253, R254, R255: SPLD delivers the pattern status and starts a compile for a tile of ST 0 or without a record;
SPQ delivers the status; SPINV removes the record and delivers 1 when there was one; SPMM queues a command on the memory
tile that serves its tile and delivers a promise. R71, R239, R254, R333, R334: an SPMM runs its compiled program, waits for
its own stream's compile, or reads the whole block first; it works in the cycles after its start, up to 64 micro-operations
at a time. Each row of Y is its accumulator after the fused multiply-adds of the row's non-zeros in order, from +0 or from
the row of Y; a row with none is +0, or with .acc stays; then its promise is complete. Where the rules leave a choice open
or are read by inference, this states the model's reading, that of log entries 8, 40 and 41. -/
def Obligations.PatternCommands : Prop :=
  (∀ (s : State) (f : FmtT), (s.getCe s.key).fir.hold = .none → (s.getCe s.key).fir.skip = false →
    let k := s.key
    let r := s.rdAt k
    let c := s.getCe k
    let h := r.w64 .a f.sa
    let w := r.w64 .b f.sb
    let d := r.raw 0 .a f.sa
    let gave (u : State) (v : Word) : Prop := u.getCe k = (c.put2 false v.toVec f.ta f.tb).bump
    (∀ hdr e, s.tileAt c.part h w hdr = .error (some e) →
      (hdr = true → Faults (.spld f) s e.cls e.addr e.detail) ∧
      (hdr = false → Faults (.spq f) s e.cls e.addr e.detail ∧ Faults (.spinv f) s e.cls e.addr e.detail)) ∧
    (∀ hdr x, s.tileAt c.part h w hdr = .ok x →
      let m := s.getMt x.mt
      let compiles (u : State) (i : Nat) : Prop := ∃ j p, exec (.spld f) s = .next u ∧ gave u 0 ∧
        (u.getMt x.mt).compiles = m.compiles ++ [j] ∧ j.handle = h ∧ j.tile = w ∧ j.running = false ∧ j.dir = i ∧
        tget {} (u.getMt x.mt).dir i = p ∧ p.valid = true ∧ p.st = 1 ∧ p.slot = x.slot ∧ p.gen = x.gen ∧ p.tr = x.tr ∧
        p.tc = x.tc ∧ (∀ n, n ≠ i → tget {} (u.getMt x.mt).dir n = tget {} m.dir n) ∧ u.scratch = s.scratch
      (m.pattern x = none →
        (hdr = true → m.compiles.length < 16 → (∃ i, i < 256 ∧ (tget {} m.dir i).valid = false) →
          ∃ u i, compiles u i ∧ (tget {} m.dir i).valid = false) ∧
        (hdr = false → Gives (.spq f) s f.ta f.tb false 0 (fun v => v = 0) ∧ Gives (.spinv f) s f.ta f.tb false 0 (fun v => v = 0))) ∧
      (∀ i p, m.pattern x = some (i, p) →
        let status : Word := BitVec.ofNat 64 ((if p.st = 2 ∨ p.st = 3 then p.nnz * 2 ^ 16 else 0) +
          (if p.st = 2 then p.uops * 2 ^ 4 else 0) + p.st)
        (hdr = true → p.st = 0 → m.compiles.length < 16 → ∃ u, compiles u i) ∧
        (hdr = true → p.st = 1 ∨ p.st = 3 → Gives (.spld f) s f.ta f.tb false 0 (fun v => v = status.toVec)) ∧
        (hdr = true → p.st = 2 → ∃ u, exec (.spld f) s = .next u ∧ gave u status ∧
          u.getMt x.mt = { m with dir := tput m.dir i { p with lastUse := s.cycle.setWidth 32 } }) ∧
        (hdr = false → Gives (.spq f) s f.ta f.tb false 0 (fun v => v = status.toVec) ∧
          ∃ u, exec (.spinv f) s = .next u ∧ gave u 1 ∧ u = { s with ce := u.ce, mts := u.mts, counters := u.counters, counted := u.counted } ∧
            (u.getMt x.mt).dir = tdel m.dir i ∧ (i < 256 → ∀ q ∈ (u.getMt x.mt).compiles, q.dir ≠ i)))) ∧
    (2 ^ 256 ≤ d.toNat → ∃ n, Faults (.spmm f) s .illegal 0 n) ∧
    (∀ x, d.toNat < 2 ^ 256 → s.tileAt c.part (spHandle d) (spTile d) true = .ok x →
      rowsCheck (spTile d) (spX d) = .ok () → rowsCheck (spTile d) (spY d) = .ok () →
      (s.getMt x.mt).pendingCopies (ceCtxOf k) < 32 →
      ∃ (u : State) (v : Word) (y : Copy), exec (.spmm f) s = .next u ∧ gave u v ∧ u = { s with ce := u.ce, mts := u.mts } ∧
        (u.getMt x.mt).copies = (s.getMt x.mt).copies ++ [y] ∧ y.state = .pending ∧ y.done = 0 ∧
        y.kind = .spmm d x.tensor (f.md.getLsbD 1) (f.md.getLsbD 0) ∧
        v.extractLsb' 60 4 = 6#4 ∧ v.extractLsb' 0 32 = tget 0 (s.getMt x.mt).copySeq (ceCtxOf k))) ∧
  ((∀ (s : State) (mt i : Nat) (x : Copy) (r : PatRec) (d t : Vec) (acc nw : Bool) (b : Block) (p : List (BitVec 32)),
    let m := s.getMt mt
    let a := spTileAt mt d t
    let awake := s.wordErrs = [] ∧ ∀ n, n < 16 → (lget {} m.banks n).power = .awake ∧ s.bankFree mt n = true
    let rd (o n : Nat) : Nat := memNat s.scratch (scratchAddr mt o) n
    let copy (u : State) (y : Copy) : Prop := (u.getMt mt).copies =
      m.copies.map fun z => if z.who = x.who ∧ z.seq = x.seq then y else z
    let same (u : State) : Prop := u.scratch = s.scratch ∧ u.ce = s.ce
    let own := r.opage = (s.getCe x.ce).lpage ∧ r.octx = ceSlot x.ce ∧ r.ostr = x.str
    (m.spmmHeads = [] → Idles (.spmmStart mt) s ∧ Idles (.spmmComplete mt) s) ∧
    (m.spmmHeads = [x] → s.copyGoes mt x = false → Idles (.spmmStart mt) s ∧ Idles (.spmmComplete mt) s) ∧
    (∀ n, m.spmmHeads = [x] → x.startAt = some (s.cycle.toNat, n) → Idles (.spmmComplete mt) s) ∧
    (m.spmmHeads = [x] → s.copyGoes mt x = true → x.kind = .spmm d t acc nw →
      (x.path = 0 → m.pattern a = some (i, r) →
        (r.st = 2 → Happens (.spmmStart mt) s fun u => same u ∧
          copy u { x with path := 1, prog := (List.range r.words).map (fun j => tget 0 m.store (r.basew + j)), dir := i, ver := r.ver,
                          startAt := some (s.cycle.toNat, 0) } ∧
          tget {} (u.getMt mt).dir i = { r with use := r.use + 1, lastUse := s.cycle.setWidth 32 }) ∧
        (r.st = 1 → own → nw = false → Idles (.spmmStart mt) s)) ∧
      (x.path = 0 → m.pattern a = none ∨ (m.pattern a = some (i, r) ∧ r.st ≠ 2 ∧ (r.st ≠ 1 ∨ ¬ own ∨ nw = true)) → awake → m.lost = [] →
        (blockHead t a.off (rd a.off 16) = some b → blockProg t a.off b rd = some p → Happens (.spmmStart mt) s fun u => same u ∧
          copy u { x with path := 2, prog := p }) ∧
        (s.isSuper x.launch = false → blockHead t a.off (rd a.off 16) = none ∨
            (blockHead t a.off (rd a.off 16) = some b ∧ blockProg t a.off b rd = none) → Happens (.spmmStart mt) s fun u => same u ∧
          copy u { x with state := .faulted, path := 5 } ∧ Recorded s u (s.partOf x.launch) .config
            (urefWord 6 (s.lpageOf (s.partOf x.launch) (mt / 2)) (mtTile (mt % 2)) x.ctx 0 x.seq.toNat) (spHandle d).toNat (spTile d).toNat)) ∧
      (x.path = 1 ∨ x.path = 2 → x.startAt.all (fun a => a.1 < s.cycle.toNat) = true → x.chunk = 0 → x.next = 0 → x.rowAcc = none →
        awake → m.lost = [] → MemoryOk s →
        let xo := scratchAddr mt (spX d % 2 ^ 20)
        let yo := scratchAddr mt (spY d % 2 ^ 20)
        let us := progUops t x.prog
        let row (n : Nat) : List (BitVec 32) := us.filter fun u => natBits u.toNat 31 26 == n
        let same (z : Copy) : Prop := z.seq = x.seq ∧ z.ctx = x.ctx ∧ z.launch = x.launch
        (us.map uopPos).Pairwise (· < ·) → xo + 8192 ≤ yo ∨ yo + 8192 ≤ xo → (spY d) % 128 = 0 → (spX d) % 128 = 0 → spY d % 2 ^ 20 + 8192 ≤ 2 ^ 20 →
        (64 < us.length → Happens (.spmmComplete mt) s fun u => (∀ y, y < yo ∨ yo + 8192 ≤ y → u.scratch.read y = s.scratch.read y) ∧
          u.device = s.device ∧ ∃ z ∈ (u.getMt mt).copies, same z ∧ z.state = .pending ∧ (us.filter fun u => uopPos u < z.next).length = 64) ∧
        (us.length ≤ 64 → Happens (.spmmComplete mt) s fun u =>
          (∀ n, n < 64 → u.scratch.readLine (yo + 128 * n) = if acc = true ∧ row n = [] then s.scratch.readLine (yo + 128 * n)
            else (row n).foldl (fun v o => spmmOp t x.prog o (s.scratch.readLine (xo + 128 * natBits o.toNat 25 20)) v)
              (if acc then s.scratch.readLine (yo + 128 * n) else 0)) ∧
          (∀ y, y < yo ∨ yo + 8192 ≤ y → u.scratch.read y = s.scratch.read y) ∧ u.device = s.device ∧
          ∃ z ∈ (u.getMt mt).copies, same z ∧ z.state = .complete ∧ z.done = 8192)))) ∧
  ∀ (t : Vec) (p : List (BitVec 32)) (o : BitVec 32) (x v : Vec) (l : Nat), l < 32 →
    let a := scaleBy (progScale t p (natBits o.toNat 31 26) (natBits o.toNat 25 20)) (elemVal (spTy t) (recBook t) (natBits o.toNat 15 0))
    ∃ fl, FusesTo .fp32 0 a (fDecode .fp32 (lane x 32 l)) (fDecode .fp32 (lane v 32 l)) (lane (spmmOp t p o x v) 32 l) fl)

/-- R256 to R259, R318: SCLOOK and SCSTEP stand at the home memory tile and hold their firing; the decision delivers 2, 3, 1
or a replay's promise by the table of R257. SCFILL writes the entry of its key when the pending signature bears its key and
step; SCINV removes entries and delivers their number. -/
def Obligations.StepCache : Prop :=
  (∀ (s : State) (f : FmtT), (s.getCe s.key).fir.hold = .none → (s.getCe s.key).fir.skip = false →
    let k := s.key
    let r := s.rdAt k
    let c := s.getCe k
    let d := r.raw 0 .a f.sa
    let a := r.w64 .a f.sa
    let m := s.getMt (homeMt k)
    let waits (i : Instr) (bare : Bool) : Prop := ∃ u l, exec i s = .next u ∧ u = { s with ce := u.ce, mts := u.mts } ∧
      (u.getMt (homeMt k)).lookups = m.lookups ++ [l] ∧ l.ce = k ∧ l.desc = d ∧ l.bare = bare ∧
      u.getCe k = { c with accNext := c.accNext + 1, fir := { c.fir with hold := .value c.accNext } }
    (∀ e, s.sclookCheck c d = .error (some e) → Faults (.sclook f) s e.cls e.addr e.detail) ∧
    (∀ e, s.scstepCheck c d = .error (some e) → Faults (.scstep f) s e.cls e.addr e.detail) ∧
    (s.sclookCheck c d = .ok () → waits (.sclook f) false) ∧ (s.scstepCheck c d = .ok () → waits (.scstep f) true) ∧
    (∀ e, s.scfillCheck c d = .error (some e) → Faults (.scfill f) s e.cls e.addr e.detail) ∧
    (s.scfillCheck c d = .ok () → c.pend = [] →
      ((∀ p, tfind m.pending (ceSlot k) = some p → ¬ (p.key = scKey d ∧ p.step = scStep d)) →
        Gives (.scfill f) s f.ta f.tb false 0 (fun v => v = 0)) ∧
      (∀ p, tfind m.pending (ceSlot k) = some p → p.key = scKey d → p.step = scStep d →
        ∃ u i e, exec (.scfill f) s = .next u ∧ u.getCe k = (c.put2 false 1 f.ta f.tb).bump ∧
          (∀ n, tget {} (u.getMt (homeMt k)).steps n = if n = i then e else tget {} m.steps n) ∧
          tfind (u.getMt (homeMt k)).pending (ceSlot k) = none ∧ e.valid = true ∧ e.key = p.key ∧ e.step = p.step ∧
          e.age = 0 ∧ e.limit = scLimit d ∧ e.len = scLen d ∧ e.place = scSrc d ∧ e.sig = p.sig ∧
          (∀ j x, m.stepEntry p.key = some (j, x) → i = j))) ∧
    (let gone (e : StepEntry) : Bool := e.valid && (a.getLsbD 32 || e.key == a.extractLsb' 0 32)
     ∃ u, exec (.scinv f) s = .next u ∧ u = { s with ce := u.ce, mts := u.mts } ∧
      u.getCe k = (c.put2 false (BitVec.ofNat 1024 (m.steps.countP fun e => gone e.2)) f.ta f.tb).bump ∧
      ∀ e, e ∈ (u.getMt (homeMt k)).steps ↔ e ∈ m.steps ∧ gone e.2 = false)) ∧
  (∀ (s s1 : State) (mt : Nat) (l : Lookup) (rest : List Lookup) (f : FmtT) (sig : Option (List (BitVec 32))),
    (s.getMt mt).lookups = l :: rest → s.handed l.ce l.after = true → decT (s.getCe l.ce).fir.word = .ok f →
    (l.bare = true ∧ sig = none ∧ s1 = s) ∨ (l.bare = false ∧ ∃ ap a t bs, place (scSrc l.desc) = some (ap, a) ∧
      scTy l.desc = some t ∧ s.readAt (s.getCe l.ce).part ap a (scNin l.desc * (t.width / 8)) (tileEngine mt 3) = (.ok bs, s1) ∧
      sig = some (signature t ((List.range (scNin l.desc)).map fun i => packedElem bs t.width i))) →
    let m := s1.getMt mt
    let ent := m.stepEntry (scKey l.desc)
    let theta := (s.getPart (s.getCe l.ce).part).regs.theta
    let gave (u : State) (v : Word) : Prop := exec (.stepCacheDecision mt) s = .next u ∧
      u.getCe l.ce = ((s.getCe l.ce).put2 false v.toVec f.ta f.tb).bump ∧ (u.getMt mt).lookups = rest ∧ u.scratch = s.scratch
    let miss (v : Word) : Prop := ∃ u, gave u v ∧ (u.getMt mt).steps = m.steps ∧ (u.getMt mt).copies = m.copies ∧
      (∀ x, sig = some x → tfind (u.getMt mt).pending (ceSlot l.ce) = some ⟨scKey l.desc, scStep l.desc, x⟩) ∧
      (sig = none → (u.getMt mt).pending = m.pending)
    ((∀ i e, ent = some (i, e) → e.step + 1 ≠ scStep l.desc) → miss 2) ∧
    (∀ i e, ent = some (i, e) → e.step + 1 = scStep l.desc →
      (e.limit ≤ e.age → miss 3) ∧
      (∀ x, e.age < e.limit → sig = some x → sigMatch theta x e.sig = false → miss 1) ∧
      (e.age < e.limit → (∀ x, sig = some x → sigMatch theta x e.sig = true) →
        m.pendingCopies (ceCtxOf l.ce) < 32 →
        ∃ (u : State) (v : Word) (x : Copy), gave u v ∧ v.extractLsb' 60 4 = 6#4 ∧ (u.getMt mt).copies = m.copies ++ [x] ∧
          x.kind = .replay ∧ x.src = e.place ∧ x.dst = scDst l.desc ∧ x.len = e.len ∧
          ∀ n, tget {} (u.getMt mt).steps n =
            if n = i then { e with step := scStep l.desc, age := e.age + 1, lastUse := s.cycle.setWidth 63 }
            else tget {} m.steps n)))

/-- R261, R262, R360: XSEND appends one row to its list, and a list that reaches CVY_SEND_BATCH rows leaves it with a
header; XFLUSH forms a header for every list of the context that is not empty, and XCLOSE one for every destination of the
table, after which the context's convoy step has advanced. R361, R362, R364, R365, R368, R462: batches leave an egress a row
at a time in rotation over their destinations, but for one whose ingress is full, and one that has left arrives whole at its
ingress, those of one cycle by SPKG and SDIE, or with its link down ends in LINK_DOWN. An ingress takes one whole in a later
cycle, discards one of another group, gives a close's tokens in one action, with a release at die scope over its buffer
(R296), and frees the RUNNING page a returned token names. That the input holds one batch of each egress is the model's
choice (log entry 103). R55, R260: XGATE delivers in its low bytes the lanes of the first maxima in descending order, equal
values by the lower lane first and a NaN below −∞, and 0xFF in the bytes above. Where the rules leave a choice open or are
read by inference, this states the model's reading, that of log entries 34 and 103. -/
def Obligations.ConvoySends : Prop :=
  (∀ (s : State) (f : FmtT), (s.getCe s.key).fir.hold = .none → (s.getCe s.key).fir.skip = false →
    let k := s.key
    let r := s.rdAt k
    let c := s.getCe k
    let w := r.w64 .c f.sc
    let grp := (w.extractLsb' 32 6).toNat
    let die := pageDie (cePage k)
    let ctx := cePage k * 4 + ceSlot k
    let e := s.getEgress (c.part * 8 + die)
    let batch := (s.getPart c.part).regs.cvyBatch
    let rows := e.listOf ctx grp
    let after (i : Instr) (P : Egress → Prop) : Prop := ∃ u, exec i s = .next u ∧ u.getCe k = c.stepped id ∧
      u = { s with ce := u.ce, egress := u.egress, counters := u.counters, counted := u.counted } ∧ P (u.getEgress (c.part * 8 + die))
    let groups : List Nat := (List.range 64).filter fun n => (s.groupEntry c.part n).isSome
    let leave (x : Egress) (gs : List Nat) (P : Nat → Batch → Prop) : Prop := ∃ bs, x.formed = e.formed ++ bs ∧
      bs.length = gs.length ∧ ∀ i, i < gs.length → ∃ b, bs[i]? = some b ∧ b.rows = e.listOf ctx (lget 0 gs i) ∧
        hdrGroup b.header = lget 0 gs i ∧ b.sent = 0 ∧ P (lget 0 gs i) b
    (w.extractLsb' 38 26 ≠ 0#26 → ∃ n, Faults (.xsend f) s .illegal 0 n) ∧
    (w.extractLsb' 38 26 = 0#26 → s.groupEntry c.part grp = none → Faults (.xsend f) s .protect w.toNat 0) ∧
    (∀ g, w.extractLsb' 38 26 = 0#26 → s.groupEntry c.part grp = some g → rows.length < 64 → s.egressRows die < 1024 →
      after (.xsend f) (fun x => ∃ row : Row, row.data = r.raw 0 .a f.sa ∧ row.seq = w.extractLsb' 0 32 ∧
        row.step = e.stepOf ctx ∧ (∀ i, i < gentSize g → LaneBits .z32 row.scores i = LaneBits .z32 (r.raw 32 .b f.sb) i) ∧
        (rows.length + 1 < batch → x.listOf ctx grp = rows ++ [row] ∧ x.formed = e.formed) ∧
        (batch ≤ rows.length + 1 → x.listOf ctx grp = [] ∧ ∃ b, x.formed = e.formed ++ [b] ∧ b.rows = rows ++ [row] ∧
          hdrGroup b.header = grp ∧ hdrFlags b.header = 1) ∧
        ∀ ctx' g', ¬ (ctx' = ctx ∧ g' = grp) → x.listOf ctx' g' = e.listOf ctx' g')) ∧
    after (.xflush f) (fun x => (∀ n ∈ groups, x.listOf ctx n = []) ∧ x.steps = e.steps ∧
      leave x (groups.filter fun n => decide (e.listOf ctx n ≠ [])) (fun _ b => hdrFlags b.header = 2 ∧ hdrStep b.header = e.stepOf ctx)) ∧
    after (.xclose f) (fun x => (∀ n ∈ groups, x.listOf ctx n = []) ∧ x.stepOf ctx = e.stepOf ctx + 1 ∧
      leave x groups (fun n b => hdrStep b.header = (r.w64 .a f.sa).extractLsb' 0 32 ∧
        hdrFlags b.header = 4 + (if e.listOf ctx n = [] then 0 else 2) + (if (r.w64 .a f.sa).getLsbD 32 then 8 else 0)))) ∧
  (∀ (s : State) (part die n size : Nat) (b : Batch) (rest : List Batch) (lb : LinkBatch),
    let pd := part * 8 + die
    let e := s.getEgress pd
    let g := s.getIngress pd
    let d (x : Batch) : Nat := natBits x.header.toNat 63 48 * 8 + natBits x.header.toNat 42 40
    let src (x : BitVec 512) : Nat := natBits x.toNat 31 16 * 8 + natBits x.toNat 10 8
    let dest (x : Batch) : Ingress := s.getIngress (natBits x.header.toNat 116 112 * 8 + natBits x.header.toNat 42 40)
    let open_ (x : Batch) : Prop := natBits x.header.toNat 63 48 ≠ s.dev.pkg.toNat ∨ ∀ y ∈ (dest x).arrived, src y.header ≠ src x.header
    let first (x : Batch) : Prop := x ∈ e.formed ∧ e.formed.find? (fun y => d y == d x) = some x
    let joins (old new : List Batch) (b : Batch) : Prop := ∃ pre post, old = pre ++ post ∧ new = pre ++ [b] ++ post ∧
      (∀ x ∈ pre, x.arrive < s.cycle.toNat ∨ src x.header ≤ src b.header) ∧
      ∀ x, post.head? = some x → s.cycle.toNat ≤ x.arrive ∧ src b.header < src x.header
    let depart := Instr.batchDepart part die
    let take (r : Option LinkBatch) := Instr.ingressBatchTake part die r
    let here := natBits b.header.toNat 63 48 = s.dev.pkg.toNat
    let link := s.linkFor (natBits b.header.toNat 63 48)
    let uref := urefWord 7 (s.binderAt g.binder die).1 0 (s.binderAt g.binder die).2.2 0 0
    let user := s.isSuper g.binder = false
    let goes := s.ingressGoes part die = true
    let given (u : State) (x : Ingress) : Prop := u.getIngress pd = x ∧ ∀ k, k ≠ pd → u.getIngress k = s.getIngress k
    ((∀ x, first x → ¬ open_ x) → Idles depart s) ∧
    (first b → open_ b → (∀ x, first x → open_ x → d x ≠ d b → (e.last < d b ∧ (e.last < d x → d b < d x)) ∨ (d b ≤ e.last ∧ d x ≤ e.last ∧ d b < d x)) →
      (b.sent + 1 < b.rows.length → Happens depart s fun u => u = { s with egress := u.egress } ∧ (u.getEgress pd).last = d b ∧
        (u.getEgress pd).formed = e.formed.map fun x => if x = b then { b with sent := b.sent + 1 } else x) ∧
      (b.rows.length ≤ b.sent + 1 →
        (here → Happens depart s fun u => (u.getEgress pd).last = d b ∧ (u.getEgress pd).formed = e.formed.erase b ∧
          let k := natBits b.header.toNat 116 112 * 8 + natBits b.header.toNat 42 40
          joins (s.getIngress k).arrived (u.getIngress k).arrived { b with sent := b.rows.length, arrive := s.cycle.toNat }) ∧
        (¬ here → link.2 = true → Happens depart s fun u => u = { s with egress := u.egress } ∧ (u.getEgress pd).formed = e.formed.erase b) ∧
        (¬ here → link.2 = false → s.isSuper b.launch = false → Happens depart s fun u => (u.getEgress pd).formed = e.formed.erase b ∧
          u.ingress = s.ingress ∧ Recorded s u (natBits b.header.toNat 116 112) .linkDown 0 0 link.1))) ∧
    (¬ goes → Idles (take none) s) ∧
    (g.give = [] → (g.batch ≠ none ∨ ∀ x, g.arrived.head? = some x → s.cycle.toNat ≤ x.arrive) → Idles (take none) s) ∧
    (natBits lb.header.toNat 116 112 ≠ part ∨ natBits lb.header.toNat 42 40 ≠ die ∨ natBits lb.header.toNat 63 48 ≠ s.dev.pkg.toNat ∨
      64 < lb.rows.length ∨ (∃ y ∈ g.arrived, src y.header = src lb.header) → exec (take (some lb)) s = exec (take none) s) ∧
    (¬ goes → (∀ y ∈ g.arrived, src y.header ≠ src lb.header) → natBits lb.header.toNat 116 112 = part → natBits lb.header.toNat 42 40 = die →
      natBits lb.header.toNat 63 48 = s.dev.pkg.toNat → lb.rows.length ≤ 64 → Happens (take (some lb)) s fun u =>
        given u { g with arrived := (u.getIngress pd).arrived } ∧ joins g.arrived (u.getIngress pd).arrived
          ⟨lb.header, lb.rows.map fun r => ⟨r.1, r.2.1, r.2.2.1, r.2.2.2⟩, lb.rows.length, 0, 0, s.cycle.toNat⟩) ∧
    (goes → g.give = [] → g.batch = none → g.arrived = b :: rest → b.arrive < s.cycle.toNat → s.ownEntry part die = some (n, size) →
      (n ≠ natBits b.header.toNat 89 84 → user → Happens (take none) s fun u => given u { g with arrived := rest } ∧
        Recorded s u part .config uref 0 0) ∧
      (n = natBits b.header.toNat 89 84 → b.rows ≠ [] → Happens (take none) s fun u =>
        given u { g with arrived := rest, batch := some b, place := 0 } ∧ u = { s with ingress := u.ingress })) ∧
    (∀ (ts : List Token) (chs : List Nat), g.give = [ts] → goes → g.batch ≠ none → chs.length = ts.length →
      g.out.take ts.length = chs.map some → chs.Nodup → (∀ ch ∈ chs, (tfind s.chans ch).isSome = true) →
      let room := ∀ ch ∈ chs, (s.chanD ch).startq.length < (s.chanD ch).depth
      let v := (ts.headD default).data.toNat
      (¬ room → Idles (take none) s) ∧
      (room → Happens (take none) s fun u => given u { g with give := [] } ∧ (∀ ch, ch ∉ chs → u.chanD ch = s.chanD ch) ∧
        (∀ i, i < ts.length → (u.chanD (lget 0 chs i)).startq = (s.chanD (lget 0 chs i)).startq ++ [lget default ts i]) ∧
        (die < 8 → (ts.headD default).kind = 0 → 0 < v / 2 ^ 32 % 128 → ∀ j mt off, v % 2 ^ 30 / 64 ≤ j → j < (v % 2 ^ 30 + 256 * (v / 2 ^ 32 % 128) + 63) / 64 →
          s.scratchAt part (64 * j) 1 = .ok (mt, off) → tfind u.lineScope (scratchAddr mt off / 128) = some ⟨3, die⟩))) ∧
    (¬ goes ∨ g.give = [] → ¬ goes ∨ g.ret = none ∨ (∃ ch, g.ret = some ch ∧ (s.chanD ch).endq = []) → Idles (.batchReturn part die) s) ∧
    (∀ ch t ts, goes → g.give = [] → g.ret = some ch → (tfind s.chans ch).isSome = true → (s.chanD ch).endq = t :: ts →
      let names (i : Nat) : Prop := (∃ x st, (i, PoolState.running x st) ∈ g.pool) ∧ poolAddr (s.getPart part).regs.cvyPool i = t.data.toNat % 2 ^ 30
      (∀ i, names i → (∀ j, names j → j = i) → (tkeys g.pool).Nodup → Happens (.batchReturn part die) s fun u => (u.chanD ch).endq = ts ∧
        given u { g with pool := (u.getIngress pd).pool } ∧
        ∀ j, (u.getIngress pd).page j = if j = i then .free else g.page j) ∧
      (user → (∀ i, ¬ names i) → Happens (.batchReturn part die) s fun u => (u.chanD ch).endq = ts ∧ given u g ∧ Recorded s u part .config uref 0 0))) ∧
  (∀ (s : State) (f : FmtT), f.ty.isFloat = true →
    let r := s.rdAt s.key
    let v j := fDecode f.ty (lget 0 (r.flts f.ty .a f.sa) j)
    let n := min (r.w64 .b f.sb).toNat f.ty.lanes
    let m := min (r.w64 .c f.sc).toNat 8
    let less (i j : Nat) : Prop := ((v i).isNan ∧ ¬ (v j).isNan) ∨ FBelow (v i) (v j)
    let first (i j : Nat) : Prop := less j i ∨ (¬ less i j ∧ i < j)
    ∃ order : List Nat, order.Perm (List.range n) ∧ order.Pairwise first ∧
      Gives (.xgate f) s f.ta f.tb false 0 (fun x => x.extractLsb' 64 960 = 0 ∧ ∀ i, i < 8 →
        (x.extractLsb' (8 * i) 8).toNat = if i < m then lget 0xFF order i else 0xFF))

/-- R263, R266: COLL joins the collective of its count on the group and delivers its handle; a reserved descriptor raises
ILLEGAL and an element that is no member PROTECT. COLLWAIT sets the wait of its firing, and raises HANDLE for a handle that
names no collective of the context. R264, R265, R462: a member's exchange step brings its descriptor and its source to every
other member, or ends in LINK_DOWN when one cannot be reached. Once every rank's data are there the members end with the
results of the operation, element by element in ascending rank; members that disagree end FAULTED with CONFIG. Where the
rules leave a choice open or are read by inference, this states the model's reading, that of log entries 45 and 62. -/
def Obligations.Collectives : Prop :=
  (∀ (s : State) (f : FmtT), (s.getCe s.key).fir.hold = .none → (s.getCe s.key).fir.skip = false →
    let k := s.key
    let r := s.rdAt k
    let c := s.getCe k
    let d := r.raw 0 .a f.sa
    let h := r.w64 .a f.sa
    let grp := collGroup d
    let words := s.groupMembers c.part grp
    (collBad d words.length = true → ∃ n, Faults (.coll f) s .illegal 0 n) ∧
    (collBad d words.length = false → s.memberWord k ∉ words → Faults (.coll f) s .protect grp 0) ∧
    (∀ rank : Nat, collBad d words.length = false → words[rank]? = some (s.memberWord k) →
      (∀ i, i < rank → words[i]? ≠ some (s.memberWord k)) →
      s.placesCheck c (some (collSrc d, collLen d)) (some (collDst d, collOut d words.length)) = .ok () →
      let seq : BitVec 32 := tget 0 (s.getPart c.part).cseq (grp * 4096 + rank)
      ∃ (u : State) (v : Word) (x : Collective) (m : Member), exec (.coll f) s = .next u ∧
        u.getCe k = (c.put2 false v.toVec f.ta f.tb).bump ∧ u = { s with ce := u.ce, parts := u.parts } ∧
        v.extractLsb' 60 4 = 9#4 ∧ v.extractLsb' 54 6 = BitVec.ofNat 6 grp ∧ v.extractLsb' 0 32 = seq ∧ v.extractLsb' 32 22 = 0#22 ∧
        (u.getPart c.part).collective grp seq = some x ∧ m ∈ x.members ∧ m.rank = rank ∧ m.ce = k ∧ m.desc = d ∧
        m.status = none ∧ tget 0 (u.getPart c.part).cseq (grp * 4096 + rank) = seq + 1) ∧
    (h.extractLsb' 32 22 ≠ 0#22 ∨ s.memberOf k h = none → Faults (.collwait f) s .handle h.toNat 0) ∧
    (∀ m n, h.extractLsb' 32 22 = 0#22 → s.memberOf k h = some m → f.ta = .s n →
      (c.fir.waitSet = false → Goes (.collwait f) s fun x => { x with waitSet := true, wait := .coll h n }) ∧
      (c.fir.waitSet = true → ∃ n, Faults (.collwait f) s .illegal 0 n))) ∧
  (∀ (s s' : State) (part grp seq rank ap a : Nat) (c : Collective) (m : Member) (bs : List Byte) (remote : List (BitVec 8)),
    let step := Instr.collectiveExchangeStep part grp seq rank remote
    let complete := Instr.collectiveComplete part grp seq
    let found (u : State) : Option Collective := (u.getPart part).collective grp (BitVec.ofNat 32 seq)
    let words := s.groupMembers part grp
    let pkg (w : Word) : Nat := natBits w.toNat 31 16
    let here := s.dev.pkg.toNat
    let d := m.desc
    let x := s.getCe m.ce
    let uref := urefWord 8 x.lpage (ceTile (ceElem m.ce)) (ceSlot m.ce) 0 seq
    let user := s.isSuper m.launch = false
    let goes := s.memberGoes c m = true
    (found s = none → Idles step s ∧ Idles complete s) ∧
    (found s = some c →
      ((∃ y ∈ c.data, y.1 = rank) → Idles step s) ∧
      (c.members = [m] → m.rank = rank → (∀ y ∈ c.data, y.1 ≠ rank) →
        (¬ goes → Idles step s) ∧
        (∀ w ∈ words, goes → user → pkg w ≠ here → (s.linkFor (pkg w)).2 = false → (∀ w' ∈ words, pkg w' = here ∨ pkg w' = pkg w) →
          seq < 2 ^ 32 → Happens step s fun u => ((found u).map fun y => (y.members.map (·.faulted), y.data)) = some ([true], c.data) ∧
            Recorded s u part .linkDown uref 0 (s.linkFor (pkg w)).1) ∧
        (goes → (∀ w ∈ words, pkg w = here ∨ (s.linkFor (pkg w)).2 = true) → place (collSrc d) = some (ap, a) →
          s.readAt part ap a (collLen d) m.engine = (.ok bs, s') → found s' = some c → Happens step s fun u =>
            u = { s' with parts := u.parts } ∧ found u = some { c with members := [{ m with exchanged := true }], data := c.data ++ [(rank, d, bs)] })) ∧
      ((∀ y ∈ c.members, y.rank ≠ rank) → (∀ y ∈ c.data, y.1 ≠ rank) →
        let w := words.getD rank 0
        let rd : Vec := BitVec.ofNat 1024 (natOfBytes (remote.take 128))
        (words.length ≤ rank ∨ pkg w = here ∨ remote.length ≠ 128 + collLen rd → Idles step s) ∧
        (rank < words.length → pkg w ≠ here → remote.length = 128 + collLen rd → Happens step s fun u => u = { s with parts := u.parts } ∧
          found u = some { c with data := c.data ++ [(rank, rd, remote.drop 128)] })) ∧
      ((∃ r, r < words.length ∧ ∀ y ∈ c.data, y.1 ≠ r) ∨ words = [] → Idles complete s) ∧
      (∀ (ds : Nat → Vec) (xs : Nat → List Byte), words ≠ [] → c.members = [m] → m.status = none →
        (∀ r, r < words.length → c.data.find? (fun y => y.1 == r) = some (r, ds r, xs r) ∧ (xs r).length = collLen d) →
        let agree := ∀ r, r < words.length → (ds r).extractLsb' 8 56 = d.extractLsb' 8 56
        (user → seq < 2 ^ 32 → m.rank < words.length → ds m.rank = d → ¬ agree → Happens complete s fun u => u.scratch = s.scratch ∧ u.device = s.device ∧
          (found u).map (fun y => y.members.map (·.status)) = some [some 1] ∧ Recorded s u part .config uref 0 0) ∧
        (agree → ¬ goes → Idles complete s) ∧
        (agree → goes → m.rank < words.length → place (collDst d) = some (ap, a) → s.writeAt part m.launch ap a bs m.engine = (.ok (), s') →
          let n := words.length
          let chunk := collLen d / n
          let mine (y : List Byte) : List Byte := (y.drop (chunk * m.rank)).take chunk
          let elem (t : Ty) (y : List Byte) (j : Nat) : Nat := natOfBytes ((y.drop (t.width / 8 * j)).take (t.width / 8))
          let sum (t : Ty) (j v : Nat) : Prop := ∃ p : Nat → Nat, p 0 = elem t (xs 0) j ∧ v = p (n - 1) ∧
            ∀ k, k + 1 < n → ElemTo (collRed d) t (p k) (elem t (xs (k + 1)) j) (p (k + 1))
          let right := (collOp d = 2 ∧ bs = ((List.range n).map xs).flatten) ∨ (collOp d = 3 ∧ bs = xs (collRoot d) ∧ collRoot d < n) ∨
            (collOp d = 4 ∧ bs = ((List.range n).map fun r => mine (xs r)).flatten) ∨
            (∃ t, collTy d = some t ∧ collRed d ≤ 2 ∧ collLen d % (128 * n) = 0 ∧
              ((collOp d = 0 ∧ bs.length = collLen d ∧ ∀ j, j < collLen d / (t.width / 8) → sum t j (elem t bs j)) ∨
               (collOp d = 1 ∧ bs.length = chunk ∧ ∀ j, j < chunk / (t.width / 8) → sum t (j + chunk * m.rank / (t.width / 8)) (elem t bs j))))
          right → Happens complete s fun u => u.scratch = s'.scratch ∧ u.device = s'.device ∧
            (found u).map (fun y => y.members.map (·.status)) = some [some 0]))))

/-! ## Router operators -/

/-- R219, R224, R225, R226, R229, R233, R234, R235: the actions of STEER, MERGE, CARRY, SWITCH, FORK, SINK, FILTER and SYNC. -/
def Obligations.TokenRouting : Prop :=
  ∀ (s : State) (f : FmtC),
    let o := s.getOp s.key
    let h n := (s.filled (o.inCh f n)).head?
    let ctl (c : Token) : Bool := c.data.getLsbD 0 ^^ f.param.getLsbD 0
    let last (x : Option Token) : Prop := ∃ d, x = some d ∧ d.is 5 = true
    let scalar (x : Option Token) : Prop := ∀ c, x = some c → c.kind = 0
    (OpTurn (.steer f) s f →
      (∀ c, h 1 = some c → c.kind ≠ 0 → OpFails (.steer f) s f .illegal 1 0 0xF) ∧
      (∀ d, h 0 = some d → d.is 5 = true → scalar (h 1) → OpActs (.steer f) s f [0] (some (0, d)) (some d) o) ∧
      (∀ d c, h 0 = some d → d.is 5 = false → h 1 = some c → c.kind = 0 →
        (ctl c = true → OpActs (.steer f) s f [0, 1] none (some d) o) ∧
        (ctl c = false → OpActs (.steer f) s f [0, 1] (some (0, d)) none o))) ∧
    (OpTurn (.merge f) s f →
      (∀ c, h 2 = some c → c.kind ≠ 0 → OpFails (.merge f) s f .illegal 2 0 0xF) ∧
      (∀ d, h 0 = some d → last (h 0) → last (h 1) → scalar (h 2) → OpActs (.merge f) s f [0, 1] (some (0, d)) none o) ∧
      (∀ d c, h 2 = some c → c.kind = 0 → ¬ (last (h 0) ∧ last (h 1)) → h (if ctl c then 1 else 0) = some d →
        (d.is 5 = true → exec (.merge f) s = .next s) ∧
        (d.is 5 = false → OpActs (.merge f) s f [2, if ctl c then 1 else 0] (some (0, d)) none o))) ∧
    (OpTurn (.carry f) s f →
      (∀ c, h 2 = some c → c.kind ≠ 0 → OpFails (.carry f) s f .illegal 2 0 0xF) ∧
      (∀ d, o.loop = false → scalar (h 2) → h 0 = some d →
        OpActs (.carry f) s f [0] (some (0, d)) none { o with loop := decide (d.kind ≠ 3) }) ∧
      (∀ c d, o.loop = true → h 2 = some c → c.kind = 0 → h 1 = some d →
        (ctl c = true → OpActs (.carry f) s f [2, 1] (some (0, d)) none o) ∧
        (ctl c = false → OpActs (.carry f) s f [2, 1] none (some d) { o with loop := false }))) ∧
    (OpTurn (.switch f) s f →
      let w := (f.param.extractLsb' 0 4).toNat + 1
      (∀ c, h 1 = some c → c.kind ≠ 0 → OpFails (.switch f) s f .illegal 1 0 0xF) ∧
      (∀ d, h 0 = some d → d.is 5 = true → scalar (h 1) →
        (o.lb + 1 < w → OpActs (.switch f) s f [] (some (o.lb, d)) none { o with lb := o.lb + 1 }) ∧
        (w ≤ o.lb + 1 → OpActs (.switch f) s f [0] (some (o.lb, d)) none { o with lb := 0 })) ∧
      (∀ d c, h 0 = some d → d.is 5 = false → h 1 = some c → c.kind = 0 →
        let x := (c.data.extractLsb' 0 32).toNat
        (x < w → OpActs (.switch f) s f [0, 1] (some (x, d)) none o) ∧
        (w ≤ x → OpFails (.switch f) s f .indexRange 0 x w))) ∧
    (OpTurn (.fork f) s f → ∀ d, h 0 = some d → OpActs (.fork f) s f [0] (some (0, d)) (some d) o) ∧
    (OpTurn (.sink f) s f → ∀ d, h 0 = some d →
      OpActs (.sink f) s f [0] none none (if d.is 5 = true ∧ o.points < o.ends then { o with points := o.points + 1 } else o)) ∧
    (OpTurn (.filter f) s f →
      (∀ c, h 1 = some c → c.kind ≠ 0 → OpFails (.filter f) s f .illegal 1 0 0xF) ∧
      (∀ d, h 0 = some d → d.kind = 3 → scalar (h 1) → OpActs (.filter f) s f [0] (some (0, d)) none o) ∧
      (∀ d c, h 0 = some d → d.kind ≠ 3 → h 1 = some c → c.kind = 0 →
        OpActs (.filter f) s f [0, 1] (if ctl c then some (0, d) else none) none o)) ∧
    (OpTurn (.sync f) s f →
      let ins := if f.in2.dir = .none then [0, 1] else [0, 1, 2]
      let sel := (f.param.extractLsb' 0 2).toNat
      ((∃ n ∈ ins, h n = none) → exec (.sync f) s = .next s) ∧
      (∀ d, (∀ n ∈ ins, h n ≠ none) → h sel = some d → sel < 3 → OpActs (.sync f) s f ins (some (0, d)) (some d) o))

/-- R227, R228, R230, R231, R232: the actions of REPEAT, COUNT, SPLOOP, SEQ and SMERGE. -/
def Obligations.TokenStreams : Prop :=
  ∀ (s : State) (f : FmtC),
    let o := s.getOp s.key
    let h n := (s.filled (o.inCh f n)).head?
    let ctl (c : Token) : Bool := c.data.getLsbD 0 ^^ f.param.getLsbD 0
    let fixed := f.param.extractLsb' 1 12 ≠ 0#12
    let arg (d : Token) : Nat := (d.data.extractLsb' 32 32).toNat
    let sc (v : Nat) : Token := ⟨0, BitVec.ofNat 1024 v, 0⟩
    let mk (code : Nat) : Token := ⟨3, BitVec.ofNat 1024 code, 0⟩
    let start : BitVec 32 := (f.param.extractLsb' 0 20).setWidth 32
    (OpTurn (.repeat f) s f →
      (∀ c, ¬ fixed → h 1 = some c → c.kind ≠ 0 → OpFails (.repeat f) s f .illegal 1 0 0xF) ∧
      (∀ d, o.held = none → h 0 = some d → (fixed ∨ ∀ c, h 1 = some c → c.kind = 0) →
        (d.is 4 = true → OpActs (.repeat f) s f [0] none none (if fixed then { o with copies := arg d } else o)) ∧
        (d.is 4 = false → d.kind = 3 → OpActs (.repeat f) s f [0] (some (0, d)) none o) ∧
        (d.kind ≠ 3 → ¬ fixed → OpActs (.repeat f) s f [0] none none { o with held := some d }) ∧
        (d.kind ≠ 3 → fixed → OpActs (.repeat f) s f [0] none none
          { o with left := o.copies, held := if o.copies = 0 then none else some d })) ∧
      (∀ d, o.held = some d → fixed → OpActs (.repeat f) s f [] (some (0, d)) none
        { o with left := o.left - 1, held := if o.left ≤ 1 then none else some d }) ∧
      (∀ d c, o.held = some d → ¬ fixed → h 1 = some c → c.kind = 0 →
        (ctl c = true → OpActs (.repeat f) s f [1] (some (0, d)) none o) ∧
        (ctl c = false → OpActs (.repeat f) s f [1] none none { o with held := none }))) ∧
    (OpTurn (.count f) s f →
      let fixn := f.param.extractLsb' 0 12
      (∀ d, h 0 = some d → d.is 4 = true → OpActs (.count f) s f [0] none none { o with n := BitVec.ofNat 32 (arg d) }) ∧
      (∀ d, h 0 = some d → d.is 4 = false → o.run = false →
        (d.kind = 3 → OpActs (.count f) s f [0] (some (0, d)) none o) ∧
        (d.kind ≠ 3 → d.kind ≠ 0 → OpFails (.count f) s f .illegal 0 0 0xF) ∧
        (d.kind = 0 → OpActs (.count f) s f [0] none none { o with
          base := d.data.extractLsb' 32 32, i := 0, run := true, n := if fixn = 0 then d.data.extractLsb' 0 32 else o.n })) ∧
      ((∀ d, h 0 = some d → d.is 4 = false) → o.run = true →
        (o.i.toNat < o.n.toNat → OpActs (.count f) s f []
          (some (0, sc ((o.base.toNat + o.i.toNat * (f.param.extractLsb' 12 8).toNat) % 2 ^ 32))) (some (sc 1)) { o with i := o.i + 1 }) ∧
        (o.n.toNat ≤ o.i.toNat → OpActs (.count f) s f [] (if f.param.getLsbD 20 then some (0, mk 5) else none) (some (sc 0))
          { o with run := false }))) ∧
    (OpTurn (.sploop f) s f → f.param.extractLsb' 0 2 = 0#2 ∨ f.param.extractLsb' 0 2 = 1#2 →
      let inSet (x : OpSlot) (i : Nat) : Prop :=
        if f.param.extractLsb' 0 2 = 1#2 then i < 64 ∧ x.mask.getLsbD i = true else x.next ≤ i ∧ i < x.stop
      let ends (tk : List Nat) (x : OpSlot) : Prop :=
        OpActs (.sploop f) s f tk (if f.param.getLsbD 20 then some (0, mk 1) else none) (some (sc 0)) { x with run := false }
      (∀ d, h 0 = some d → o.run = false →
        (d.kind = 3 → OpActs (.sploop f) s f [0] (some (0, d)) none o) ∧
        (d.kind ≠ 3 → d.kind ≠ 0 → OpFails (.sploop f) s f .illegal 0 0 0xF) ∧
        (d.kind = 0 → ∃ x : OpSlot, (∀ i, inSet x i ↔ if f.param.extractLsb' 0 2 = 1#2 then i < 64 ∧ d.data.getLsbD i = true
            else (d.data.extractLsb' 0 32).toNat ≤ i ∧ i < (d.data.extractLsb' 32 32).toNat) ∧
          ((∀ i, ¬ inSet x i) → ends [0] x) ∧
          ((∃ i, inSet x i) → OpActs (.sploop f) s f [0] none none { x with run := true }))) ∧
      (o.run = true →
        ((∀ i, ¬ inSet o i) → ends [] o) ∧
        (∀ i, inSet o i → (∀ j, j < i → ¬ inSet o j) → ∃ x : OpSlot, x.run = true ∧ (∀ j, inSet x j ↔ inSet o j ∧ j ≠ i) ∧
          OpActs (.sploop f) s f [] (some (0, sc i)) (some (sc 1)) x))) ∧
    (OpTurn (.seq f) s f → ∀ d, h 0 = some d →
      (d.kind = 3 → OpActs (.seq f) s f [0] (some (0, d)) none (if d.is 5 = true ∧ f.param.getLsbD 20 = true then { o with seq := start } else o)) ∧
      (d.kind = 2 ∨ d.kind = 6 → OpFails (.seq f) s f .illegal 0 0 0xF) ∧
      (d.kind ≠ 2 → d.kind ≠ 3 → d.kind ≠ 6 → ∃ hd : Word, hd.extractLsb' 0 32 = o.seq ∧
        hd.extractLsb' 32 32 = (if d.kind = 5 then d.rhdr.extractLsb' 32 32 else 0) ∧
        OpActs (.seq f) s f [0] (some (0, ⟨5, d.data, hd⟩)) none { o with seq := o.seq + 1 })) ∧
    (OpTurn (.smerge f) s f →
      let row n q := ∃ d, h n = some d ∧ d.kind = 5 ∧ d.rhdr.extractLsb' 0 32 = q
      let mark n := ∃ d, h n = some d ∧ d.kind = 3 ∧ d.is 5 = false
      let last n := ∃ d, h n = some d ∧ d.is 5 = true
      let good n := ∀ d, h n = some d → d.kind = 5 ∨ d.kind = 3
      let below (x y : BitVec 32) : Prop := (x - y).toInt < 0
      let goes n (x : OpSlot) : Prop := ∀ d, h n = some d → OpActs (.smerge f) s f [n] (some (0, d)) none x
      let both : Prop := ∀ d, h 0 = some d → OpActs (.smerge f) s f [0, 1] (some (0, d)) none { o with seq := start, prev := none }
      (¬ good 0 → OpFails (.smerge f) s f .illegal 0 0 0xF) ∧ (good 0 → ¬ good 1 → OpFails (.smerge f) s f .illegal 1 0 0xF) ∧
      (good 0 → good 1 → f.param.getLsbD 20 = false →
        let early n := ∃ q, row n q ∧ below q o.seq
        (∀ q, row 0 q → below q o.seq → OpFails (.smerge f) s f .seqDup 0 q.toNat 0) ∧
        (∀ q, ¬ early 0 → row 1 q → below q o.seq → OpFails (.smerge f) s f .seqDup 1 q.toNat 1) ∧
        (¬ early 0 → ¬ early 1 →
          (row 0 o.seq → row 1 o.seq → OpFails (.smerge f) s f .seqDup 1 o.seq.toNat 1) ∧
          (row 0 o.seq → ¬ row 1 o.seq → goes 0 { o with seq := o.seq + 1 }) ∧
          (¬ row 0 o.seq → row 1 o.seq → goes 1 { o with seq := o.seq + 1 }) ∧
          (¬ row 0 o.seq → ¬ row 1 o.seq → (mark 0 → goes 0 o) ∧ (¬ mark 0 → mark 1 → goes 1 o) ∧ (last 0 → last 1 → both)))) ∧
      (good 0 → good 1 → f.param.getLsbD 20 = true → h 0 ≠ none → h 1 ≠ none →
        let old n q := row n q ∧ ∃ p, o.prev = some p ∧ (q - p).toInt ≤ 0
        (mark 0 → goes 0 o) ∧ (¬ mark 0 → mark 1 → goes 1 o) ∧
        (¬ mark 0 → ¬ mark 1 →
          (∀ q, old 0 q → OpFails (.smerge f) s f .seqDup 0 q.toNat 0) ∧
          (∀ q, (∀ p, ¬ old 0 p) → old 1 q → OpFails (.smerge f) s f .seqDup 1 q.toNat 1) ∧
          ((∀ q, ¬ old 0 q) → (∀ q, ¬ old 1 q) →
            (∀ a b, row 0 a → row 1 b → (a = b → OpFails (.smerge f) s f .seqDup 1 b.toNat 1) ∧
              (a ≠ b → below a b → goes 0 { o with prev := some a }) ∧ (a ≠ b → ¬ below a b → goes 1 { o with prev := some b })) ∧
            (∀ a, row 0 a → last 1 → goes 0 { o with prev := some a }) ∧
            (∀ b, last 0 → row 1 b → goes 1 { o with prev := some b }) ∧ (last 0 → last 1 → both)))))

/-! ## Events: channels, banks and device memory -/

/-- R12, R15, R18: a link grants the ready channel that comes first after the one last granted; its head token moves over
the one hop, to the next buffer or to its endpoint or ring, and no other channel changes. R344: a diverted token is written
to its entry of the ring. An uncorrectable token, or one with a bad envelope (R16), stays where it was, counted from the end
of its route, and MEM_UE is recorded. R20: a bus grants the first of its eight drivers in rotation, and delivers to every
addressed node, or to none while one has no space. R340: a freed token's credit returns to its producer, if it is a compute
element; credits it owes are paid first (R345). R282: an ORDER token is given once its access is performed, and not before.
R344, R345: the Pannier reads up to four tokens from the ring's head into an empty refill buffer; the oldest buffered token
enters the endpoint, and a segment of the extension whose last token that was returns with its four credits; a full ring
takes a segment of the extension. R348: a refill read that fails stops the ring. R346: the record of a blocked producer,
once. Where the rules leave a choice open or are read by inference, this states the model's reading, that of log entries 19,
36, 52, 77, 91, 104, 105 and 115. -/
def Obligations.LinksAndRings : Prop :=
  (∀ (s : State) (link bus key ch i d n : Nat) (c : Chan) (tok : Token) (rest : List Token) (x : BusXfer),
    let last := (tget {} s.links link).last
    let s1 : State := { s with links := tput s.links link { tget {} s.links link with last := key } }
    let b := s.bus bus
    let nodes := (List.range 8).filter fun i => x.mask.getLsbD i
    let room := ∀ i ∈ nodes, ((s.getMn (busNode bus i)).ctx x.ctx).bus.length < Config.busOperands
    let bad := badEnvelope (tok.envelope (c.hopNum i).1 (c.hopNum i).2)
    let sooner (last x y : Nat) := (last < x ∧ (last < y → x < y)) ∨ (x ≤ last ∧ y ≤ last ∧ x < y)
    let moves (t : State) := (tget {} t.links link).last = key ∧ (t.chanD ch).before i = rest ∧ ∀ j, j ≠ ch → t.chanD j = s.chanD j
    let direct := c.ring = [] ∧ c.refill = [] ∧ c.endq.length < c.depth
    (s.linkReady link = [] → ∀ e, Idles (.linkGrant link e) s) ∧
    ((key, ch, i) ∈ s.linkReady link → (∀ y ∈ s.linkReady link, y ≠ (key, ch, i) → sooner last key y.1) →
      tfind s.chans ch = some c → c.before i = tok :: rest → i < c.hops.length →
      (bad = true → exec (.linkGrant link .good) s = exec (.linkGrant link .lost) s) ∧
      (bad = false → Happens (.linkGrant link .good) s fun t =>
        exec (.linkGrant link .corrected) s = .next (t.countPart c.part 0x302 1)) ∧
      (bad = false → i + 1 < c.hops.length → Happens (.linkGrant link .good) s fun t => moves t ∧
        (t.chanD ch).before (i + 1) = c.before (i + 1) ++ [tok] ∧ (t.chanD ch).endq = c.endq ∧ t.device = s.device) ∧
      (bad = false → i + 1 = c.hops.length → direct → Happens (.linkGrant link .good) s fun t => moves t ∧
        (t.chanD ch).endq = c.endq ++ [tok] ∧ (t.chanD ch).ring = [] ∧ t.device = s.device) ∧
      (bad = false → i + 1 = c.hops.length → ¬ direct → ∀ ps s2,
        State.entryTurn c.part (s.entryVa c.part c.freeEntry) true 4 s1 [] = (.ok ps, s2) →
        Happens (.linkGrant link .good) s fun t => moves t ∧ (t.chanD ch).endq = c.endq ∧ (t.chanD ch).ring = c.ring ++ [tok] ∧
          (t.chanD ch).entries = c.entries ++ [c.freeEntry] ∧ t.device = (s2.writeEntry ps (entryBytes tok)).device) ∧
      (s.isSuper c.launch = false → (tget {} s.links link).lostAt = none →
        Happens (.linkGrant link .lost) s fun t =>
          t.chanD ch = { c with stuckAt := some (match c.stuckAt with | some n => min n (c.ahead i) | none => c.ahead i) } ∧
          (∀ j, j ≠ ch → t.chanD j = s.chanD j) ∧ Recorded s t c.part .memUe 0 0 3)) ∧
    (b.held ≠ none → Idles (.busGrant bus) s) ∧
    (b.held = none → n < 8 → d = busDriver bus n →
      (∀ y ∈ b.waiting, ∀ m, m < 8 → y.driver = busDriver bus m → y.driver ≠ d → sooner b.last d y.driver) →
      b.waiting.find? (fun y => y.driver == d) = some x → Happens (.busGrant bus) s fun t =>
        t = { s with buses := t.buses } ∧ t.bus bus = { waiting := b.waiting.erase x, held := some x, last := d }) ∧
    (b.held = none → (∀ y ∈ b.waiting, ∀ m, m < 8 → y.driver ≠ busDriver bus m) → Idles (.busGrant bus) s) ∧
    (b.held = none → Idles (.busDelivery bus) s) ∧
    (b.held = some x → x.fill = none → x.ctx < 4 → (∀ i ∈ nodes, (s.getMn (busNode bus i)).ctxs.length = 4) →
      (¬ room → Idles (.busDelivery bus) s) ∧
      (room → Happens (.busDelivery bus) s fun t => t.bus bus = { b with held := none } ∧ t.wbuf = s.wbuf ∧
        ∀ i ∈ nodes, ((t.getMn (busNode bus i)).ctx x.ctx).bus = ((s.getMn (busNode bus i)).ctx x.ctx).bus ++ [x.data])) ∧
    (∀ off, b.held = some x → x.fill = some (off, 128) → nodes = [i] → MemoryOk s →
      Happens (.busDelivery bus) s fun t => t.bus bus = { b with held := none } ∧
        Stored s.wbuf t.wbuf (busNode bus i * 2 ^ 19 + off) 128 x.data.toNat)) ∧
  (∀ (s : State) (ch : Nat) (c : Chan), tfind s.chans ch = some c →
    let pg := (s.consumer ch).1
    let x := (s.consumer ch).2
    let ok := c.lost ≠ 1 ∧ (s.launchD c.launch).resident = true ∧ s.unitStopped c.launch (unitNo 6 ch) = false
    let frame (t : State) : Prop := ∀ j, j ≠ ch → t.chanD j = s.chanD j
    let gains (c : Chan) (n : Nat) : Chan :=
      if c.credited then { c with debt := c.debt - n, credit := min (c.depth + hopRoom c.hops + 4 * c.segs) (c.credit + (n - c.debt)) } else c
    let enters (c : Chan) (t : State) : Prop := ∀ tok q, c.refill = tok :: q → if c.depth ≤ c.endq.length then t.chanD ch = c else
      let seg := c.entries.headD 0 / 4
      let back := seg ∈ c.held.drop c.quota ∧ ∀ e ∈ c.entries.drop 1, e / 4 ≠ seg
      let c1 : Chan := { c with refill := q, entries := c.entries.drop 1, endq := c.endq ++ [tok], arrived := c.arrived ++ [s.cycle.toNat] }
      (back → t.chanD ch = { c1 with
          segs := c.segs - 1, held := c.held.erase seg, credit := if c.credited then c.credit - 4 else c.credit,
          debt := if c.credited then c.debt + (4 - c.credit) else c.debt } ∧ t.extFree ch = s.extFree ch + 1) ∧
        (¬ back → t.chanD ch = c1 ∧ t.extFree ch = s.extFree ch)
    (c.freed = 0 → Happens (.creditReturn ch) s fun t => t.chanD ch = c ∧ frame t) ∧
    (0 < c.freed → Happens (.creditReturn ch) s fun t =>
      t.chanD ch = gains { c with freed := c.freed - 1 } 1 ∧ frame t) ∧
    (∀ k j acc rest, (lget {} (s.getCe k).outs j).orders = ⟨acc, false⟩ :: rest → Idles (.orderPublish k j) s) ∧
    (∀ k j acc rest, (lget {} (s.getCe k).outs j).orders = ⟨acc, true⟩ :: rest → (lget {} (s.getCe k).outs j).ch = some ch →
      j < (s.getCe k).outs.length → Happens (.orderPublish k j) s fun t =>
        (t.chanD ch).startq = c.startq ++ [⟨2, 0, 0⟩] ∧ (t.chanD ch).credit = (if c.credited then c.credit - 1 else c.credit) ∧ frame t ∧
        (lget {} (t.getCe k).outs j).orders = rest ∧ ∀ n, n ≠ j → lget {} (t.getCe k).outs n = lget {} (s.getCe k).outs n) ∧
    (ok → c.refill ≠ [] → ∀ e, Happens (.pannierRefill ch e) s fun t => frame t ∧ enters c t) ∧
    (ok → c.refill = [] → c.ring ≠ [] →
      (∀ n r s', State.readEntries c.part c.heads s 0 = (n, r, s') →
        (0 < n → Happens (.pannierRefill ch false) s fun t => frame t ∧
          enters { c with refill := c.ring.take n, ring := c.ring.drop n } t) ∧
        (n = 0 → r = .error none → exec (.pannierRefill ch false) s = .next s')) ∧
      (s.isSuper c.launch = false → Happens (.pannierRefill ch true) s fun t =>
        t.chanD ch = { c with lost := 1 } ∧ frame t ∧ Recorded s t c.part .memUe (s.ringUref ch) 0 1)) ∧
    (¬ ok ∨ c.refill ++ c.ring = [] → ∀ e, Idles (.pannierRefill ch e) s) ∧
    (c.quota ≠ 0 → c.room = 0 → s.extFree ch ≠ 0 → Happens (.ringEnlarge ch) s fun t =>
      t.chanD ch = gains { c with segs := c.segs + 1, held := c.held ++ s.freeSegments c.part 1 } 4 ∧
      t.extFree ch = s.extFree ch - 1 ∧ frame t) ∧
    (c.quota = 0 ∨ c.room ≠ 0 ∨ s.extFree ch = 0 → Idles (.ringEnlarge ch) s) ∧
    (c.blocked < 2 ^ 16 ∨ c.recorded = true → Idles (.quotaRecord ch) s) ∧
    (2 ^ 16 ≤ c.blocked → c.recorded = false → s.isSuper c.launch = false → Happens (.quotaRecord ch) s fun t =>
      (t.chanD ch).recorded = true ∧ Recorded s t c.part .quota (s.ringUref ch) (s.getCe (ceKey pg 0 x)).quota c.num))

/-- R47: a compute element, or a matrix node's context, that has held waiting tokens and fired nothing for 2^24 cycles gets
one WATCHDOG record, which names the input whose head arrived first; so do the operators of a router. R219, R221: an
operator takes a CONFIG token and its word becomes the payload's, or raises CONFIG; it discards a MARK at a control input
alone. R422, R462: a flit that its retry repairs is counted; one that it does not maps out a lane, and the link with its
last lane. Where the rules leave a choice open or are read by inference, this states the model's reading, that of log
entries 51 and 119. -/
def Obligations.WatchdogsAndConfiguration : Prop :=
  ∀ (s : State) (k : Nat),
    let c := s.getCe k
    let o := s.getOp k
    let free := s.opMay k = true
    let x := (s.getMn (k / 4)).ctx (k % 4)
    (k < 2 ^ 20 → c.watched = true ∨ c.waited < 2 ^ 24 → Idles (.watchdog false k) s) ∧
    (x.watched = true ∨ x.waited < 2 ^ 24 → Idles (.watchdog false (2 ^ 20 + k)) s) ∧
    (∀ at_ i, x.watched = false → 2 ^ 24 ≤ x.waited → (s.getMn (k / 4)).ctxs.length = 4 →
      s.oldestInput ((x.ctl.map fun ch => (0, ch)).toList ++ (x.rows.map fun ch => (1, ch)).toList) = some (at_, i) →
      s.isSuper (s.slotLaunch (k / 4 / 2) (k % 4)) = false → Happens (.watchdog false (2 ^ 20 + k)) s fun t =>
        (t.getMn (k / 4)).ctx (k % 4) = { x with watched := true } ∧
        Recorded s t (s.pageOwner (k / 4 / 2)) .watchdog (s.mnUref (k / 4) (k % 4) 0) 0 i) ∧
    (∀ at_ i, k < 2 ^ 20 → c.watched = false → 2 ^ 24 ≤ c.waited → s.oldestInput c.inputs = some (at_, i) → s.isSuper c.launch = false →
      Happens (.watchdog false k) s fun t => t.getCe k = { c with watched := true } ∧
        Recorded s t c.part .watchdog (State.ceUref k 0 c) 0 i) ∧
    (∀ f at_ i, s.ops = [(k, o)] → o.watched = false → 2 ^ 24 ≤ o.waited → s.oldestInput o.inputs = some (at_, i) →
      o.instr.bind fmtCOf = some f → s.isSuper o.launch = false →
      Happens (.watchdog true (k / 8)) s fun t => t.getOp k = { o with watched := true } ∧
        Recorded s t o.part .watchdog (s.opUref k) 0 i) ∧
    (∀ p f i n tok, o.placed = some p → o.instr = some i → fmtCOf i = some f → s.opConfig o f = some n → free →
      (s.filled (o.inCh f n)).head? = some tok → n < 3 →
      (∀ i', configWord k p i tok.data.toWord = some i' → Happens (.configTokenTake k) s fun t =>
        (t.getOp k).instr = some i' ∧ (t.getOp k).placed = some p ∧ (t.getOp k).fired = true ∧
        (∀ ch, o.inCh f n = some ch → (t.chanD ch).endq = (s.chanD ch).endq.drop 1) ∧
        (∀ ch, o.inCh f n ≠ some ch → t.chanD ch = s.chanD ch) ∧ ∀ j, j ≠ k → t.getOp j = s.getOp j) ∧
      (configWord k p i tok.data.toWord = none → s.isSuper o.launch = false → Happens (.configTokenTake k) s fun t =>
        (t.getOp k).faulted = some 0x11 ∧ (t.getOp k).instr = some i ∧ (∀ ch, (t.chanD ch).endq = (s.chanD ch).endq) ∧
        Recorded s t o.part .config (s.opUref k) 0 0)) ∧
    (∀ f i n, o.instr = some i → fmtCOf i = some f → s.opConfig o f = none → s.opMark o i f = some n → free →
      Happens (.controlMarkDiscard k) s fun t => t.getOp k = { o with fired := true } ∧
        (∀ ch, o.inCh f n = some ch → (t.chanD ch).endq = (s.chanD ch).endq.drop 1) ∧
        (∀ ch, o.inCh f n ≠ some ch → t.chanD ch = s.chanD ch) ∧ ∀ j, j ≠ k → t.getOp j = s.getOp j) ∧
    (18 ≤ k ∨ s.dev.linkReady.getLsbD k = false → ∀ ok, Idles (.flitRetry k ok) s) ∧
    (k < 18 → s.dev.linkReady.getLsbD k = true →
      exec (.flitRetry k true) s = .next (s.countDev 0x400 1) ∧
      (1 < tget 0 s.dev.lanes k → Happens (.flitRetry k false) s fun t =>
        tget 0 t.dev.lanes k = tget 0 s.dev.lanes k - 1 ∧ t.dev.linkReady = s.dev.linkReady) ∧
      (tget 0 s.dev.lanes k ≤ 1 → Happens (.flitRetry k false) s fun t =>
        t.dev.linkReady.getLsbD k = false ∧ ∀ j, j ≠ k → t.dev.linkReady.getLsbD j = s.dev.linkReady.getLsbD j))

/-- R274, R275, R276, R277: a corrected word is written back while its bank is free; a bank idle for the partition's number
of cycles becomes drowsy, and one that a request reaches wakes; a bank serves one request in a cycle (R269), and none on a
page that is being cleared, unless they were queued when the page was taken; a tile that has powered up reads zero; a page
that changed hands is emptied once its launches have left and its nodes are clear. -/
def Obligations.BanksAndPower : Prop :=
  ∀ (s : State) (mt bank page : Nat), bank < 16 → (s.getMt mt).banks.length = 16 →
    let m := s.getMt mt
    let b := lget {} m.banks bank
    let alone := b.queue = [] ∧ m.gatherHead bank = none
    let g := s.getPage (mt / 2)
    let serves := ¬ (g.clearing = true ∧ g.gating = false) ∧ ∀ e ∈ b.served, e.2 ≠ s.cycle.toNat
    let limit := (s.getPart (s.mtPart mt)).regs.drowsyIdle.toNat
    let becomes (i : Instr) (b' : Bank) : Prop := Happens i s fun t => t = { s with mts := t.mts } ∧
      lget {} (t.getMt mt).banks bank = b' ∧ (∀ j, j ≠ bank → lget {} (t.getMt mt).banks j = lget {} m.banks j) ∧
      (t.getMt mt).gather = m.gather ∧ (t.getMt mt).lost = m.lost ∧ ∀ j, j ≠ mt → t.getMt j = s.getMt j
    let p := s.getPage page
    let ready := p.clearing = true ∧ p.gating = false ∧ (∀ id ∈ p.resident, id = 0) ∧ ∀ n, n < 2 → (s.getMn (page * 2 + n)).clearing = false
    (∀ e, serves → b.power = .drowsy → ¬ alone → becomes (.bankServe mt bank e) { b with power := .waking 24 }) ∧
    (∀ e, alone ∨ ¬ serves → Idles (.bankServe mt bank e) s) ∧
    (b.power = .awake → alone → b.writeback ≠ [] → becomes (.bankEccWriteback mt bank) { b with writeback := b.writeback.drop 1, idle := 0 }) ∧
    (b.power ≠ .awake ∨ ¬ alone ∨ b.writeback = [] → Idles (.bankEccWriteback mt bank) s) ∧
    (b.power = .awake → alone → 0 < limit → limit ≤ b.idle → becomes (.bankDrowse mt bank) { b with power := .drowsy }) ∧
    (b.power ≠ .awake ∨ ¬ alone ∨ limit = 0 ∨ b.idle < limit → Idles (.bankDrowse mt bank) s) ∧
    (b.power = .waking 0 → becomes (.bankWakeEnd mt bank) { b with power := .awake, idle := 0 }) ∧
    (b.power ≠ .waking 0 → Idles (.bankWakeEnd mt bank) s) ∧
    ((∀ x ∈ m.banks, x.power = .powering 0) → Happens (.bankPowerUp mt) s fun t =>
      (∀ x ∈ (t.getMt mt).banks, x.power = .awake) ∧ (t.getMt mt).lost = [] ∧ (t.getMt mt).banks.length = 16 ∧
      (∀ a, t.scratch.read a = if mt * 2 ^ 20 ≤ a ∧ a < (mt + 1) * 2 ^ 20 then 0 else s.scratch.read a) ∧
      ∀ j, j ≠ mt → t.getMt j = s.getMt j) ∧
    ((∃ x ∈ m.banks, x.power ≠ .powering 0) → Idles (.bankPowerUp mt) s) ∧
    (¬ ready → Idles (.pageClear page) s) ∧
    (ready → Happens (.pageClear page) s fun t => t.getPage page = { p with clearing := false } ∧
      (∀ a, t.istore.read a = if page * 2 ^ 20 ≤ a ∧ a < (page + 1) * 2 ^ 20 then 0 else s.istore.read a) ∧
      (∀ k, routerPage (k / 320) = page → tget {} t.routes k = {}) ∧
      (∀ k, t.getCe k = if cePage k = page then {} else s.getCe k) ∧ (∀ k, t.getOp k = if opPage k = page then {} else s.getOp k) ∧
      (∀ n, n < 2 → let x := t.getMt (page * 2 + n); x.dir = [] ∧ x.store = [] ∧ x.stale = [] ∧ x.compiles = [] ∧ x.steps = [] ∧ x.xcache = []) ∧
      ∀ j, j / 2 ≠ page → t.getMt j = s.getMt j)

/-- R305, R306, R307, R308, R309 with R213 and R272: a channel issues nothing during a refresh, and of one partition's
requests the oldest that has waited 512 cycles, or else the oldest of the oldest group present that may issue. A read
returns the bytes at its address, a write stores its bytes, an atomic its operation's result; a corrected read is counted
and its sector rewritten; a read that two reads cannot give, and a transfer that its replay does not mend, end in MEM_UE, on
a spare row or lane or with the channel mapped out. R403, R404, R405: a walk reads level after level from the root table, as
its channel lets it (R304, R306); a leaf ends it with its mapping, an invalid or refused entry, or a sector no read can
give, with a miss; its end fills the caches of the tiles and ports it served, whose accesses go on, or raises XLATE in each,
an engine as it asks again. An invalidation drops the partition's translation caches and restarts its walks. Where the rules
leave a choice open or are read by inference, this states the model's reading, that of log entries 42 and 43. -/
def Obligations.DeviceMemory : Prop :=
  (∀ (s : State) (ch : Nat) (r : DevReq) (k : Nat) (a : Acc) (f : FmtM),
    let d := s.getDc ch
    let c := s.getCe k
    let sector := r.addr / 64
    let plain : Prop := s.xareaOf r.addr = [] ∧ d.mapout = false ∧ sector ∉ s.sectorLost ∧ r.sem = 0 ∧ canonAddr r.addr = r.addr ∧ MemoryOk s
    let mine : Prop := r.owner = .ce k a.id ∧ c.pend = [a] ∧ s.ce = [(k, c)] ∧ a.bind = c.fir.bind
    let value (n : Nat) : Vec := BitVec.ofNat 1024 (s.devNat r.addr n)
    -- the access is performed and its reply waits
    let done (t : State) (v : Vec) : Prop := (t.getDc ch).replies = d.replies ++ [(r, v, false)] ∧
      t.getCe k = { c.performOrder a.id with pend := [] } ∧ ∀ j, j ≠ ch → t.getDc j = s.getDc j
    let bytes (t : State) (n v : Nat) : Prop := ∀ x, t.device.read x =
      if r.addr ≤ x ∧ x < r.addr + n then BitVec.ofNat 8 (v / 2 ^ (8 * (x - r.addr))) else s.device.read x
    let refused (t : State) (detail : Nat) : Prop := Recorded s t c.part .memUe (State.ceUref k a.bind c) a.addr detail ∧
      (a.value = true → (lget {} (t.getCe k).binds c.fir.bind).state = .faulted)
    (∀ e, d.refresh = true → Idles (.dramIssue ch e) s) ∧
    (∀ p, (∀ q ∈ d.queue, q.part = p) → (s.devChoice ch).1 = some r → r ∈ d.eligible ∧
      (∀ q ∈ d.eligible, q.arrive + 512 ≤ s.cycle.toNat → r.arrive ≤ q.arrive) ∧
      ((∀ q ∈ d.eligible, s.cycle.toNat < q.arrive + 512) → ∀ g ∈ d.queue, (∀ q ∈ d.queue, q ≠ g → g.arrive < q.arrive) →
        ((∃ q ∈ d.eligible, q.group = g.group) → r.group = g.group ∧ ∀ q ∈ d.eligible, q.group = g.group → r.arrive ≤ q.arrive) ∧
        ((∀ q ∈ d.eligible, q.group ≠ g.group) → ∀ q ∈ d.eligible, r.arrive ≤ q.arrive))) ∧
    (∀ e, d.eligible = [] → Idles (.dramIssue ch e) s) ∧
    (exec (.dramRefresh ch true) s = .next (s.setDc ch { d with refresh := true }) ∧
      exec (.dramRefresh ch false) s = .next (s.setDc ch { d with refresh := false })) ∧
    (d.refresh = false → (s.devChoice ch).1 = some r → r.op.writes = false ∨ s.xareaOf r.addr = [] → plain → mine →
      (∀ n, r.op = .read n →
        (Happens (.dramIssue ch .good) s fun t => done t (value n) ∧ t.device = s.device ∧ (t.getDc ch).queue = d.queue.erase r) ∧
        (Happens (.dramIssue ch .corrected) s fun t => done t (value n) ∧ t.device = s.device ∧ (t.getDc ch).rewrite = d.rewrite ++ [sector]) ∧
        (Happens (.dramIssue ch .retry) s fun t => (t.getDc ch).replies = d.replies ++ [(r, 0, true)] ∧ t.getCe k = c ∧ t.device = s.device)) ∧
      (∀ bs, r.op = .write bs → bs.length ≤ 64 - r.addr % 64 → Happens (.dramIssue ch .good) s fun t =>
        done t 0 ∧ bytes t bs.length (natOfBytes bs)) ∧
      (∀ t' b, r.op = .atom .add t' b → 8 ≤ t'.width → Happens (.dramIssue ch .good) s fun t => done t (value (t'.width / 8)) ∧
        ∃ n, n < 2 ^ t'.width ∧ bytes t (t'.width / 8) n ∧ ElemTo 0 t' (s.devNat r.addr (t'.width / 8)) (lane b t'.width 0) n) ∧
      (Happens (.dramIssue ch .crc) s fun t => (t.getDc ch).replay = d.replay ++ [r] ∧ (t.getDc ch).queue = d.queue.erase r ∧
        t.getCe k = c ∧ t.device = s.device)) ∧
    (d.refresh = false → (s.devChoice ch).1 = some r → r.op.writes = true → s.xareaOf r.addr ≠ [] → ∀ e, Happens (.dramIssue ch e) s fun t =>
      t.device = s.device ∧ t.ce = s.ce ∧ (t.getDc ch).queue = d.queue.map (fun q => if q == r then { q with held := true } else q) ∧
      ∀ p ∈ s.xareaOf r.addr, (t.getPart p).invalidate = true) ∧
    (∀ v rest, d.replies = (r, v, false) :: rest → r.owner = .ce k a.id → c.pend = [] → s.ce = [(k, c)] → c.fir.hold = .value a.id →
      decM c.fir.word = .ok f → s.mts = [(r.tile, {})] → Happens (.dramReply ch false) s fun t =>
        (t.getDc ch).replies = rest ∧ t.device = s.device ∧
        t.getCe k = c.give false (Word.toVec (BitVec.ofInt 64 (extT f.ty v.toNat))) f.ta) ∧
    (∀ v rest n, d.replies = (r, v, true) :: rest → d.refresh = false → r.op = .read n → plain → mine →
      (Happens (.dramReply ch true) s fun t => (t.getDc ch).replies = rest ++ [(r, value n, false)] ∧ t.device = s.device) ∧
      (s.isSuper c.launch = false → c.fir.bind < c.binds.length → s.mts = [(r.tile, {})] → Happens (.dramReply ch false) s fun t =>
        refused t 1 ∧ sector ∈ t.sectorLost ∧ t.device = s.device ∧
        if d.spares = 0 then (t.getDc ch).mapout = true else (t.getDc ch).spares = d.spares - 1)) ∧
    (d.refresh = false → d.queue = [] → d.rewrite ≠ [] →
      exec (.arrayEccRewrite ch) s = .next (s.setDc ch { d with rewrite := d.rewrite.drop 1 })) ∧
    (d.refresh = true ∨ d.queue ≠ [] ∨ d.rewrite = [] → Idles (.arrayEccRewrite ch) s) ∧
    (d.replay = [] ∨ d.refresh = true → ∀ ok, Idles (.crcReplay ch ok) s) ∧
    (∀ rest n, d.replay = r :: rest → d.refresh = false → r.op = .read n → plain → mine →
      (Happens (.crcReplay ch true) s fun t => done t (value n) ∧ (t.getDc ch).replay = rest ∧ t.device = s.device) ∧
      (s.isSuper c.launch = false → c.fir.bind < c.binds.length → s.mts = [(r.tile, {})] → Happens (.crcReplay ch false) s fun t =>
        refused t 2 ∧ (t.getDc ch).replay = rest ∧ t.device = s.device ∧
        if d.lanes = 0 then (t.getDc ch).mapout = true else (t.getDc ch).lanes = d.lanes - 1))) ∧
  (∀ (s : State) (die n part : Nat) (w : Walk), (tget [] s.walks die)[n]? = some w →
    let ws := tget [] s.walks die
    let p := s.getPart w.part
    let idx := walkIndex w.level w.vpage
    let table := if w.level = 0 then s.rootTable w.part else some w.table
    let entry (t : Nat) : Nat := s.devNat (t + 8 * idx) 8
    let level := if w.level = 1 then 2 ^ 34 else if w.level = 2 then 2 ^ 25 else 2 ^ 16
    let now (t : State) (P : Walk → Prop) : Prop := ∃ w', tget [] t.walks die = ws.set n w' ∧ P w' ∧ w'.running = true ∧
      w'.vpage = w.vpage ∧ w'.served = w.served
    let turn := w.found = none ∧ w.failed = none ∧ (w.running = true ∨ ((ws.filter fun x => x.running && !x.closed).length < 32 ∧ ∀ x ∈ ws.take n, x.running = true))
    let chan (a : Nat) : DevChan := s.getDc (devChannel (canonAddr a))
    let calm (a : Nat) : Prop := (chan a).queue = [] ∧ (chan a).replies = [] ∧ (chan a).replay = [] ∧ s.sectorErrs = []
    let inArea (a : Nat) : Prop := a / 2 ^ p.xareaLog2 = p.xareaBase / 2 ^ p.xareaLog2
    (¬ turn → Idles (.pageWalkLevelRead die n) s) ∧
    (turn → table = none → Happens (.pageWalkLevelRead die n) s fun t => now t fun x => x.failed = some (7, false, 0)) ∧
    (∀ tb, turn → table = some tb → tget [] s.wcache die = [] → calm (tb + 8 * idx) → (chan (tb + 8 * idx)).refresh = true →
      (chan (tb + 8 * idx)).mapout = false → Happens (.pageWalkLevelRead die n) s fun t => now t fun x => x = { w with running := true }) ∧
    (∀ tb, turn → table = some tb → tget [] s.wcache die = [] → calm (tb + 8 * idx) → (chan (tb + 8 * idx)).refresh = false →
      s.devLost (tb + 8 * idx) = true → Happens (.pageWalkLevelRead die n) s fun t => now t fun x => x.failed = some (8, false, 0)) ∧
    (∀ tb, turn → table = some tb → w.level < 4 → tget [] s.wcache die = [] → calm (tb + 8 * idx) →
      (chan (tb + 8 * idx)).refresh = false → s.devLost (tb + 8 * idx) = false →
      let e := entry tb
      let pa := e / 2 ^ 12 % 2 ^ 30 * 2 ^ 12
      let zeros := e / 2 ^ 42 % 2 ^ 19 = 0 ∧ e % 2 ^ 12 = 0
      Happens (.pageWalkLevelRead die n) s fun t => t.device = s.device ∧
        (e / 2 ^ 63 % 2 = 0 → now t fun x => x.failed = some (w.level, false, idx)) ∧
        (e / 2 ^ 63 % 2 = 1 → e / 2 ^ 61 % 2 = 0 → zeros → w.level < 3 → inArea pa → now t fun x =>
          x.level = w.level + 1 ∧ x.table = pa ∧ x.found = none ∧ x.failed = none) ∧
        (e / 2 ^ 63 % 2 = 1 → e / 2 ^ 61 % 2 = 1 → zeros → 0 < w.level → pa % level = 0 → leavesWindows pa level = false → now t fun x =>
          x.failed = none ∧ x.found = some { vpage := w.vpage - w.vpage % level, size := level, ppage := pa, wr := decide (e / 2 ^ 62 % 2 = 1) }) ∧
        (e / 2 ^ 63 % 2 = 1 → ¬ zeros ∨ (e / 2 ^ 61 % 2 = 1 ∧ w.level = 0) ∨ (e / 2 ^ 61 % 2 = 0 ∧ w.level = 3) ∨
          (e / 2 ^ 61 % 2 = 0 ∧ ¬ inArea pa) ∨ (e / 2 ^ 61 % 2 = 1 ∧ pa % level ≠ 0) →
          now t fun x => x.failed = some (w.level, true, idx))) ∧
    (w.closed = true ∨ (w.found = none ∧ w.failed = none) → Idles (.walkComplete die n) s) ∧
    (∀ id m, w.closed = false → w.found = none → w.failed = some m → w.served = [(id, engineMiss)] →
      (s.getCe engineMiss).fir.hold = .none → Happens (.walkComplete die n) s fun t =>
        tget [] t.walks die = ws.set n { w with closed := true } ∧ t.device = s.device) ∧
    (∀ mt k va, w.closed = false → w.served = [(mt, k)] → mt < 2 ^ 20 → k < 2 ^ 40 → (s.getCe k).fir.hold = .xlate va → va / 2 ^ 16 * 2 ^ 16 = w.vpage →
      (∀ e, w.found = some e → Happens (.walkComplete die n) s fun t => tget [] t.walks die = ws.eraseIdx n ∧
        (t.getMt mt).xcache.head? = some e ∧ (t.getMt mt).xcache.length ≤ 256 ∧
        t.getCe k = { s.getCe k with fir := { (s.getCe k).fir with hold := .none } } ∧ t.device = s.device) ∧
      (∀ lv idx, w.found = none → w.failed = some (lv, false, idx) → lv < 8 →
        exec (.walkComplete die n) s = .next (({ s with walks := tput s.walks die (ws.eraseIdx n) }.ceFault k .xlate va (lv + 16 * idx)).retryMisses die))) ∧
    ((s.getPart part).invalidate = false → Idles (.translationInvalidate part) s) ∧
    ((s.getPart part).invalidate = true → (∀ e ∈ s.devChans, ∀ q ∈ e.2.queue, q.held = false) → Happens (.translationInvalidate part) s fun t =>
      (t.getPart part).invalidate = false ∧ t.device = s.device ∧
      (part < 32 → ∀ port, tget [] t.portCache (port * 32 + part) = []) ∧
      (∀ mt, mt / 2 ∈ (s.getPart part).pages → (t.getMt mt).xcache = []) ∧
      (∀ mt, mt / 2 ∉ (s.getPart part).pages → t.getMt mt = s.getMt mt) ∧
      (∀ d, ∀ x ∈ tget [] t.walks d, x.part = part → x.level = 0 ∧ x.found = none ∧ x.failed = none)))

/-! ## Events: matrix nodes, sparse tiles and the convoy -/

/-- R97, R242, R243, R384, R385, R386, R389: a node takes the MATCTL at a context's in0: onto an IDLE tile, in a cycle after
it became so, when no earlier one waits for it, onto the context's own BUSY tile, or onto its own READY tile to accumulate,
which otherwise waits for its release; a DONE fence takes no tile, and a DONE slot. A seventeenth fragment waits. A token
that is no MATCTL, or an illegal one when the node would take it, raises ILLEGAL and stays. R243, R244, R248, R384, R387:
the array starts a fragment of the next context in rotation whose next fragment can start, not before I cycles after the
last start, and reserves the DONE slot of MOP 1; while the context's launch is stopped, or off the package, one that lacks
rows does not start. The fragment that is due completes: it writes its M × N elements alone, gives DONE for MOP 1 unless its
launch is being killed or the node's service of it has ended, and leaves its tile READY if no other is in flight. A DONE
fence waits for the fragments before it on its tile. Where the rules leave a choice open or are read by inference, this
states the model's reading, that of log entries 94 and 117. -/
def Obligations.Fragments : Prop :=
  (∀ (s : State) (mn c ch : Nat) (q : Chan) (t : Token) (rest : List Token),
    let m := s.getMn mn
    let x := m.ctx c
    let w := t.data.toWord
    let own := mn / 2 * 4 + c
    let tile := m.tile (mcAcc w)
    let event := Instr.matctlTake mn c
    let at_ := (q.arrived.headD 0)
    let served := x.ctl = some ch ∧ tfind s.chans ch = some q ∧ x.dead = false ∧ x.faulted = none ∧ s.mnTakes mn c = true
    let head := served ∧ q.endq = t :: rest ∧ t.kind = 6
    let good := head ∧ s.matctlBad mn w = false
    let few := (m.frags.filter Fragment.real).length < 16
    let waits := s.tileWaiters mn (mcAcc w)
    let turn := tile.state = .idle ∧ tile.idleAt ≠ some s.cycle.toNat ∧ c < 4 ∧ ∀ y ∈ waits, at_ < y.1 ∨ (at_ = y.1 ∧ c ≤ y.2.1)
    let opens := (mcMop w = 2 ∧ s.doneRoom x = true) ∨ (mcMop w ≠ 2 ∧ few ∧
      (turn ∨ (tile.owner = own ∧ (tile.state = .busy ∨ (tile.state = .ready ∧ mcAccum w = true)))))
    let illegal := 2 < mcMop w ∨ (mcMop w < 2 ∧ (matPair (mcAfmt w) (mcBfmt w) = false ∨ 8191 < mcWoff w + mcK w * rowUnits w))
    let frame (u : State) : Prop := (∀ j, j ≠ ch → u.chanD j = s.chanD j) ∧ (∀ k, k ≠ mn → u.getMn k = s.getMn k) ∧ u.accs = s.accs ∧
      u.wbuf = s.wbuf
    let entered (u : State) : Prop := frame u ∧ (u.chanD ch).endq = rest ∧ (u.getMn mn).frags = m.frags ++
      [{ ctx := c, word := w, rows := [], arrive := s.cycle.toNat, started := false, due := 0 }]
    let taken : Prop := Happens event s fun u => entered u ∧ (∀ k, k ≠ mcAcc w → (u.getMn mn).tile k = m.tile k) ∧
      (u.getMn mn).tile (mcAcc w) = { state := .busy, owner := own, owned := true, waitrel := false }
    m.tiles.length = 8 →
    (x.pend = [] → x.ctl = none → Idles event s) ∧
    (x.pend = [] → x.dead = true → x.ctl = some ch → x.rows = none → tfind s.chans ch = some q → Happens event s fun u =>
      (u.chanD ch).endq = [] ∧ u.mns = s.mns ∧ ∀ j, j ≠ ch → u.chanD j = s.chanD j) ∧
    (x.pend = [] → x.dead = false → x.faulted ≠ none ∨ s.mnTakes mn c = false → Idles event s) ∧
    (served → q.endq = [] → Idles event s) ∧
    (served → q.endq = t :: rest → s.isSuper (s.slotLaunch (mn / 2) c) = false →
      t.kind ≠ 6 ∨ (illegal ∧ opens) →
      Happens event s fun u => ((u.getMn mn).ctx c).faulted = some t ∧ (u.getMn mn).frags = m.frags ∧ (u.chanD ch).endq = q.endq ∧
        Recorded s u (s.pageOwner (mn / 2)) .illegal (s.mnUref mn c (mcSeq w)) 0 0xF) ∧
    (good → mcMop w = 2 → s.doneRoom x = true → Happens event s fun u => entered u ∧ (u.getMn mn).tiles = m.tiles ∧
      ((u.getMn mn).ctx c).reserved = x.reserved + 1) ∧
    (head → mcMop w = 2 → s.doneRoom x = false → Idles event s) ∧
    (head → mcMop w ≠ 2 → ¬ few → Idles event s) ∧
    (head → mcMop w ≠ 2 → few → (tile.state = .busy ∨ tile.state = .ready → tile.owner ≠ own → Idles event s) ∧
      (tile.state = .idle → tile.idleAt = some s.cycle.toNat → Idles event s) ∧
      (tile.state = .idle → (∃ y ∈ waits, y.1 < at_ ∨ (y.1 = at_ ∧ y.2.1 < c)) → c < 4 → Idles event s)) ∧
    (good → mcMop w ≠ 2 → few →
      (tile.state = .ready → tile.owner = own → mcAccum w = false → Happens event s fun u => frame u ∧ u.chans = s.chans ∧
        (u.getMn mn).frags = m.frags ∧ (u.getMn mn).tile (mcAcc w) = { tile with waitrel := true }) ∧
      (x.rows = none → x.bus = [] → opens → taken))) ∧
  (∀ (s : State) (mn c i n : Nat) (f : Fragment),
    let m := s.getMn mn
    let x := m.ctx c
    let w := f.word
    let now := s.cycle.toNat
    let fed := s.feedAll mn = s
    let a := tyOfCode (mcAfmt w)
    let b := tyOfCode (mcBfmt w)
    let cycles := if b = .bf16 then 2 * mcM w else if b = .c4 ∧ a ≠ .bf16 then (mcM w + 1) / 2 else mcM w
    let rows := if s.mnLive mn c then rowTokens w else mcM w * rowTokens w
    let slot := mcMop w = 1 → x.dead = false → s.doneRoom x = true
    let first (real : Bool) : Prop := m.frags[i]? = some f ∧ f.ctx = c ∧ f.real = real ∧ (real = true → f.started = false) ∧
      ∀ j g, j < i → m.frags[j]? = some g → ¬ (g.ctx = c ∧ g.real = real ∧ (real = true → g.started = false))
    let others (u : State) : Prop := ∀ k, k ≠ mn → u.getMn k = s.getMn k
    let given (u : State) : Prop := ∀ ch q, (m.ctx f.ctx).out = some ch → tfind s.chans ch = some q →
      (u.chanD ch).startq = q.startq ++ [⟨3, BitVec.ofNat 1024 (6 + mcSeq w * 2 ^ 32), 0⟩] ∧
      ((u.getMn mn).ctx f.ctx).reserved = (m.ctx f.ctx).reserved - 1 ∧ ∀ j, j ≠ ch → u.chanD j = s.chanD j
    (fed → now < m.nextStart → Idles (.fragmentStart mn) s) ∧
    (fed → (∀ k, k < 4 → s.startable mn k = none) → Idles (.fragmentStart mn) s) ∧
    (first true → f.rows.length < rows ∨ ¬ slot ∨ s.fillConflict mn w = true ∨ s.mnStopped mn c = true → s.startable mn c = none) ∧
    (fed → m.nextStart ≤ now → n < 4 → c = (m.last + 1 + n) % 4 → (∀ k, k < n → s.startable mn ((m.last + 1 + k) % 4) = none) →
      first true → s.mnStopped mn c = false → rows ≤ f.rows.length → slot → s.fillConflict mn w = false → Happens (.fragmentStart mn) s fun u => others u ∧ u.accs = s.accs ∧ u.wbuf = s.wbuf ∧
        u.chans = s.chans ∧ (u.getMn mn).frags = m.frags.set i { f with started := true, due := now + 140 + cycles } ∧
        (u.getMn mn).last = c ∧ (u.getMn mn).nextStart = now + cycles ∧ (u.getMn mn).tiles = m.tiles ∧
        ((u.getMn mn).ctx c).reserved = x.reserved + if mcMop w = 1 ∧ x.dead = false then 1 else 0) ∧
    (fed → (∀ g ∈ m.frags, g.started = true → now < g.due) → Idles (.fragmentComplete mn) s) ∧
    (fed → MemoryOk s → m.tiles.length = 8 → f ∈ m.frags → f.started = true → f.real = true → (∀ g ∈ m.frags, g.started = true → g ≠ f → f.due < g.due) →
      f.due ≤ now → f.need ≤ f.rows.length → Happens (.fragmentComplete mn) s fun u =>
        others u ∧ u.wbuf = s.wbuf ∧ (u.getMn mn).frags = m.frags.erase f ∧
        (∀ r k, r < 64 → k < 128 → memNat u.accs (accAddr mn (mcAcc w) r k) 4 =
          if r < mcM w ∧ k < mcN w then s.fragElem mn f r k else memNat s.accs (accAddr mn (mcAcc w) r k) 4) ∧
        (∀ y, y < accAddr mn (mcAcc w) 0 0 ∨ accAddr mn (mcAcc w) 0 0 + 32768 ≤ y → u.accs.read y = s.accs.read y) ∧
        (mcMop w = 1 → s.noDone mn f.ctx = false → given u) ∧ (mcMop w ≠ 1 ∨ s.noDone mn f.ctx = true → u.chans = s.chans) ∧ (∀ k, k ≠ mcAcc w → (u.getMn mn).tile k = m.tile k) ∧
        (u.getMn mn).tile (mcAcc w) = if MatNode.flights { m with frags := m.frags.erase f } mn (mcAcc w) = []
          then { m.tile (mcAcc w) with state := .ready } else m.tile (mcAcc w)) ∧
    ((∀ g ∈ m.frags, g.ctx = c → g.real = true) → Idles (.doneFenceGive mn c) s) ∧
    (first false → (∃ g ∈ m.frags.take i, g.real = true ∧ mcAcc g.word = mcAcc w) → Idles (.doneFenceGive mn c) s) ∧
    (first false → (∀ g ∈ m.frags.take i, g.real = true → mcAcc g.word ≠ mcAcc w) →
      Happens (.doneFenceGive mn c) s fun u => others u ∧ u.accs = s.accs ∧ (u.getMn mn).frags = m.frags.eraseIdx i ∧
        (u.getMn mn).tiles = m.tiles ∧ (s.noDone mn c = false → given u) ∧ (s.noDone mn c = true → u.chans = s.chans)))

/-- R385, R386, R391: an IDLE tile goes, in a cycle after it became so, to what has waited for it longest: a context's
MATCTL, or a restore, which writes the whole saved tile back, and with the last one of a context takes its pending fragments
again in their order, as far as the node has places for them (R384). R392: a node that passes to another partition is
cleared once no launch holds its page. R67, R68: the sum of a matrix node. The s8 pair is exact and wraps at 32 bits. A
group of sixteen products is cut to 48 bits below its largest exponent, toward zero, summed exactly, and added to the
accumulator with one rounding to fp32; a group whose sum is 0 leaves the accumulator as it is. Groups follow one another in
ascending k. -/
def Obligations.TileHandovers : Prop :=
  (∀ (s : State) (mn t c : Nat) (r : TileEntry),
    let m := s.getMn mn
    let base := accAddr mn t 0 0
    let next := firstWaiter (s.tileWaiters mn t)
    let own := r.ctx % 4
    let last := r.ctx / 4 = mn / 2 ∧ ∀ y ∈ m.restores.erase r, y.ctx ≠ r.ctx
    let idle := (m.tile t).state = .idle ∧ (m.tile t).idleAt ≠ some s.cycle.toNat
    let pend := (m.ctx own).pend
    let room := (∀ g ∈ pend, g.real = true) ∧ (m.frags.filter Fragment.real).length + pend.length ≤ 16 ∧ s.mnLive mn own = true
    let restored (u : State) : Prop := (∀ o, o < 32768 → u.accs.read (base + o) = Memory.read r.contents o) ∧
      (∀ y, y < base ∨ base + 32768 ≤ y → u.accs.read y = s.accs.read y) ∧
      (u.getMn mn).tile t = { state := if r.busy then .busy else .ready, owner := r.ctx, owned := true, waitrel := false } ∧
      (∀ k, k ≠ t → (u.getMn mn).tile k = m.tile k) ∧ (u.getMn mn).restores = m.restores.erase r ∧
      (¬ last → (u.getMn mn).frags = m.frags ∧ (u.getMn mn).ctxs = m.ctxs) ∧
      (last → ∃ n, (u.getMn mn).frags = m.frags ++ pend.take n ∧ ((u.getMn mn).ctx own).pend = pend.drop n ∧ (room → n = pend.length)) ∧
      u.wbuf = s.wbuf ∧ ∀ k, k ≠ mn → u.getMn k = s.getMn k
    (¬ idle ∨ s.tileWaiters mn t = [] → Idles (.tileHandover mn t) s ∧ Idles (.tileRestore mn t) s) ∧
    (idle → next = some (.token c) →
      exec (.tileHandover mn t) s = exec (.matctlTake mn c) s ∧ Idles (.tileRestore mn t) s) ∧
    (idle → next = some (.restore r) → r.tile = t → t < m.tiles.length → m.ctxs.length = 4 → MemoryOk s →
      Memory.wf r.contents = true → (∀ e ∈ r.contents, e.1 < 32768) →
      Happens (.tileHandover mn t) s restored ∧ Happens (.tileRestore mn t) s restored) ∧
    (m.clearing = false ∨ (∃ l ∈ (s.getPage (mn / 2)).resident, l ≠ 0) → Idles (.nodePartitionClear mn) s) ∧
    (m.clearing = true → (∀ l ∈ (s.getPage (mn / 2)).resident, l = 0) → Happens (.nodePartitionClear mn) s fun u =>
      u.getMn mn = {} ∧ (∀ k, k ≠ mn → u.getMn k = s.getMn k) ∧
      (∀ y, u.accs.read y = if mn * 2 ^ 18 ≤ y ∧ y < (mn + 1) * 2 ^ 18 then 0 else s.accs.read y) ∧
      ∀ y, u.wbuf.read y = if mn * 2 ^ 19 ≤ y ∧ y < (mn + 1) * 2 ^ 19 then 0 else s.wbuf.read y)) ∧
  ((∀ (acc : Nat) (as bs : List Int), as.length = bs.length →
    let val (x : Int) : FVal := .fin (decide (x < 0)) x.natAbs 0
    (nodeSum true acc (as.map val) (bs.map val) : Int) = (acc + (List.zipWith (· * ·) as bs).sum) % 2 ^ 32) ∧
  (∀ (acc : Nat) (as bs as' bs' : List FVal), as.length = bs.length → as'.length = bs'.length →
    (as.length ≤ 16 → nodeSum false acc as bs = groupSum acc (List.zipWith prodVal as bs)) ∧
    (as.length = 16 → as'.length ≤ 112 →
      nodeSum false acc (as ++ as') (bs ++ bs') = nodeSum false (groupSum acc (List.zipWith prodVal as bs)) as' bs')) ∧
  (∀ (a b : FVal), a.Finite → b.Finite → (prodVal a b).Finite ∧ (prodVal a b).real = a.real * b.real) ∧
  ∀ (acc : Nat) (ps : List FVal),
    let adds (y : FVal) : Prop := ∃ fl, AddsTo .fp32 0 (fDecode .fp32 acc) y (groupSum acc ps) fl
    ((∃ p ∈ ps, p.isNan = true) ∨ (.inf true ∈ ps ∧ .inf false ∈ ps) → groupSum acc ps = canon .fp32) ∧
    (∀ n, (∀ p ∈ ps, p.isNan = false) → .inf n ∈ ps → .inf (!n) ∉ ps → adds (.inf n)) ∧
    ((∀ p ∈ ps, p.Finite ∧ p.real = 0) → groupSum acc ps = acc) ∧
    ∀ (emax : Int), (∀ p ∈ ps, p.Finite) → (∃ p ∈ ps, p.real ≠ 0 ∧ Int.log 2 |p.real| = emax) →
      (∀ p ∈ ps, p.real ≠ 0 → Int.log 2 |p.real| ≤ emax) →
      let cut (p : FVal) : ℚ := (if p.real < 0 then -1 else 1) * ⌊|p.real| / (2 : ℚ) ^ (emax - 47)⌋ * (2 : ℚ) ^ (emax - 47)
      let sum := (ps.map cut).sum
      (sum = 0 → groupSum acc ps = acc) ∧ (sum ≠ 0 → ∀ y : FVal, y.Finite → y.real = sum → adds y))

/-- R325, R327, R330, R331: a compile starts after its hand-off by reading its header, watches the block's lines and
installs its program 64 + 2 × NNZ cycles later, or ST 3 after 64 when NNZ is above the limit; a record that changed
meanwhile discards it. An install with no room and no record to reclaim gives ST 0; the words of an invalidated program stay
while a command runs them. A malformed block is CONFIG with the handle and the tile word. Moves of entries change no
program; old records' ages are held. R323, R324, R326: the program of a block. It has a micro-operation for each stored
element, in ascending flat position, with the position, the element as stored, and LAST on the last of its row; then its
scale bytes, four to a word. -/
def Obligations.PatternCompiles : Prop :=
  (∀ (s : State) (mt entry dest : Nat) (c : Compile) (rest : List Compile) (b : Block) (p : List (BitVec 32)),
    let m := s.getMt mt
    let now : BitVec 32 := s.cycle.setWidth 32
    let h := natOfBytes (s.scratchRead mt c.off 16)
    let form := recForm c.tensor
    let limit := min 1024 (s.getPart ((s.getPage (mt / 2)).owner.getD 0)).regs.patLimit
    let awake := s.wordErrs = [] ∧ ∀ n, n < 16 → (lget {} m.banks n).power = .awake ∧ s.bankFree mt n = true
    let held := m.compiles = c :: rest ∧ c.faulted = false
    let user := s.isSuper c.launch = false
    let failed (u : State) (cls : FaultClass) (addr detail : Nat) : Prop := (u.getMt mt).compiles.head? = some { c with faulted := true } ∧
      u.scratch = s.scratch ∧ Recorded s u (s.partOf c.launch) cls (s.compileUref mt c) addr detail
    let r := tget {} m.dir c.dir
    let ended (u : State) : Prop := (u.getMt mt).compiles = m.compiles.filter (· != c) ∧ u.scratch = s.scratch
    let install := Instr.patternInstall mt
    let old (u : State) : Prop := ∀ n, n ≠ c.dir → { tget {} (u.getMt mt).dir n with basew := 0 } = { tget {} m.dir n with basew := 0 } ∧
      ∀ i, i < (tget {} m.dir n).words → tget 0 (u.getMt mt).store ((tget {} (u.getMt mt).dir n).basew + i) =
        tget 0 m.store ((tget {} m.dir n).basew + i)
    let e := tget {} m.dir entry
    let clash := (∃ x ∈ m.dir, x.1 ≠ entry ∧ x.2.words ≠ 0 ∧ x.2.basew < dest + e.words ∧ dest < x.2.basew + x.2.words) ∨
      ∃ y ∈ m.stale, y.2.1 < dest + e.words ∧ dest < y.2.1 + y.2.2
    (m.compiles = [] → Idles (.patternCompileStart mt) s ∧ Idles install s) ∧
    (m.compiles = c :: rest → c.running = true ∨ c.faulted = true ∨ s.handed c.ce c.after = false → Idles (.patternCompileStart mt) s) ∧
    (held → c.running = false → s.handed c.ce c.after = true → r.st ≠ 1 → Happens (.patternCompileStart mt) s fun u =>
      ended u ∧ (u.getMt mt).dir = m.dir ∧ (u.getMt mt).store = m.store) ∧
    (held → c.running = false → s.handed c.ce c.after = true → r.st = 1 → awake →
      let bad := h / 2 ^ 112 ≠ 0 ∨ 4096 < natBits h 95 64 ∨ (form = 1 ∧ natBits h 111 96 ≠ 0) ∨
        (form ≠ 1 ∧ (natBits h 63 0 ≠ 0 ∨ natBits h 111 108 ≠ 0))
      (user → s.scratchLost mt c.off 16 = true → Happens (.patternCompileStart mt) s fun u => failed u .memUe c.off 0) ∧
      (user → s.scratchLost mt c.off 16 = false → bad →
        Happens (.patternCompileStart mt) s fun u => failed u .config c.handle.toNat c.tile.toNat) ∧
      (s.scratchLost mt c.off 16 = false → blockHead c.tensor c.off h = some b → Happens (.patternCompileStart mt) s fun u =>
        let nnz := natBits h 95 64
        let due := s.cycle.toNat + if limit < nnz then 64 else 64 + 2 * nnz
        u.scratch = s.scratch ∧
        (u.getMt mt).compiles.head? = some { c with running := true, ver := r.ver, big := decide (limit < nnz), nnz := nnz, due := due } ∧
        tget {} (u.getMt mt).dir c.dir = { r with wfirst := c.off / 128, wlast := (b.stop - 1) / 128 } ∧
        ∀ n, n ≠ c.dir → tget {} (u.getMt mt).dir n = tget {} m.dir n)) ∧
    (m.compiles = c :: rest → c.running = false ∨ c.faulted = true ∨ s.cycle.toNat < c.due → Idles install s) ∧
    (held → c.running = true → c.due ≤ s.cycle.toNat →
      (r.ver ≠ c.ver ∨ r.st ≠ 1 → Happens install s fun u => ended u ∧ (u.getMt mt).dir = m.dir ∧ (u.getMt mt).store = m.store) ∧
      (r.ver = c.ver → r.st = 1 → c.big = true → Happens install s fun u => ended u ∧ (u.getMt mt).store = m.store ∧
        tget {} (u.getMt mt).dir c.dir = { r with st := 3, nnz := c.nnz, lastUse := now, instAt := some s.cycle.toNat } ∧
        ∀ n, n ≠ c.dir → tget {} (u.getMt mt).dir n = tget {} m.dir n) ∧
      (r.ver = c.ver → r.st = 1 → c.big = false → awake → m.lost = [] → blockHead c.tensor c.off h = some b →
        (user → blockProg c.tensor c.off b (fun a n => memNat s.scratch (scratchAddr mt a) n) = none →
          Happens install s fun u => failed u .config c.handle.toNat c.tile.toNat) ∧
        (blockProg c.tensor c.off b (fun a n => memNat s.scratch (scratchAddr mt a) n) = some p → (tkeys m.dir).Pairwise (· < ·) →
          (m.storeUsed + p.length ≤ 8192 → Happens install s fun u => ended u ∧ old u ∧
            let q := tget {} (u.getMt mt).dir c.dir
            q = { r with st := 2, nnz := b.nnz, lastUse := now, basew := q.basew, uops := b.nnz, scw := q.scw, instAt := some s.cycle.toNat } ∧ q.words = p.length ∧
            ∀ i, i < p.length → tget 0 (u.getMt mt).store (q.basew + i) = p.getD i 0) ∧
          (8192 < m.storeUsed + p.length → (∀ x ∈ m.dir, x.2.valid = true → x.2.use = 0 → x.2.st = 1) →
            Happens install s fun u => ended u ∧ (u.getMt mt).store = m.store ∧ tget {} (u.getMt mt).dir c.dir = { r with st := 0 })))) ∧
    (e.valid = false ∨ e.words = 0 ∨ 8192 < dest + e.words ∨ clash → Idles (.patternStoreMove mt entry dest) s) ∧
    (e.valid = true → e.words ≠ 0 → dest + e.words ≤ 8192 → ¬ clash → Happens (.patternStoreMove mt entry dest) s fun u =>
      u = { s with mts := u.mts } ∧ (∀ n, tget {} (u.getMt mt).dir n = if n = entry then { e with basew := dest } else tget {} m.dir n) ∧
      (∀ i, i < e.words → tget 0 (u.getMt mt).store (dest + i) = tget 0 m.store (e.basew + i)) ∧
      ∀ a, a < dest ∨ dest + e.words ≤ a → a < e.basew ∨ e.basew + e.words ≤ a → tget 0 (u.getMt mt).store a = tget 0 m.store a) ∧
    (s.cycle.toNat < m.sweep + 2 ^ 30 → Idles (.patternAgeSweep mt) s) ∧
    (m.sweep + 2 ^ 30 ≤ s.cycle.toNat → Happens (.patternAgeSweep mt) s fun u => u = { s with mts := u.mts } ∧
      (u.getMt mt).sweep = s.cycle.toNat ∧ (u.getMt mt).store = m.store ∧
      ∀ n, tfind (u.getMt mt).dir n = (tfind m.dir n).map fun x =>
        if 2 ^ 31 < (now - x.lastUse).toNat then { x with lastUse := now - BitVec.ofNat 32 (2 ^ 31) } else x)) ∧
  (∀ (m : Memory) (base off : Nat) (t : Vec) (b : Block) (p : List (BitVec 32)),
    let rd (a n : Nat) : Nat := memNat m (base + a) n
    let w := (spTy t).width
    blockHead t off (rd off 16) = some b → blockProg t off b rd = some p →
    p.length = b.nnz + scaleBytes t / 4 ∧ b.nnz = rd (off + 8) 4 ∧
    ∃ pos : Nat → Nat,
      (∀ n, n < b.nnz → pos n < 4096 ∧ (n + 1 < b.nnz → pos n < pos (n + 1))) ∧
      (recForm t = 1 → ∀ q, q < 4096 → ((∃ n, n < b.nnz ∧ pos n = q) ↔
        bitN (rd off 8) (q / 64) = true ∧ bitN (rd (off + 16 + 8 * popN (rd off 8) (q / 64)) 8) (q % 64) = true)) ∧
      (recForm t = 2 → ∀ n, n < b.nnz → pos n = rd (off + 12) 2 + rd (off + 16 + n) 1) ∧
      (recForm t = 3 → ∀ n, n < b.nnz → pos n = rd (off + 12) 2 + rd (off + 16 + 2 * n) 2) ∧
      (∀ n, n < b.nnz → p.getD n 0 = BitVec.ofNat 32 (pos n * 2 ^ 20 +
        (if n + 1 = b.nnz ∨ pos (n + 1) / 64 ≠ pos n / 64 then 2 ^ 19 else 0) +
        rd (b.values + n * w / 8) ((w + 7) / 8) / 2 ^ (n * w % 8) % 2 ^ w)) ∧
      ∀ i, i < scaleBytes t / 4 → p.getD (b.nnz + i) 0 = BitVec.ofNat 32 (rd (b.scales + 4 * i) 4))

/-- R363, R364, R365, R366: an ingress places a row with the best expert whose CLOSED is 0, a late one with its best, and
alone when its step is running or none is open; it writes the row record, and closes the buffer with its CAP-th row. With no
page FREE it waits, or forces shut the buffer filled first. A record that cannot be written, or whose place an uncorrectable
error has struck (R372), stops it with that fault. R364, R365, R367: a close is counted after its rows, for the open step
and the fifteen after it; any other is CONFIG. With the NSRC-th close of the open step every FILLING buffer closes in
ascending index, every CLOSED flag clears and the next step opens; a FINAL close gives LAST after those tokens and opens
none. Where the rules leave a choice open or are read by inference, this states the model's reading, that of log entries 25
and 46. -/
def Obligations.RowsPlaced : Prop :=
  (∀ (s : State) (part die n size e i mt off : Nat) (b : Batch) (r : Row) (order : List Nat) (late ovr : Bool),
    let pd := part * 8 + die
    let g := s.getIngress pd
    let regs := (s.getPart part).regs
    let levels := Nat.clog 2 size
    let v (i : Nat) : FVal := fDecode .fp32 (lane r.scores 32 i)
    let less (i j : Nat) : Prop := ((v i).isNan ∧ ¬ (v j).isNan) ∨ FBelow (v i) (v j)
    let best := order.headD 0
    let x := g.expert e
    let pages := s.poolPages part die
    let works (P : Ingress → State → Prop) : Prop := ∃ u, exec (.rowPlace part die) s = .next (State.cvyGive pd 32 u) ∧ P (u.getIngress pd) u ∧
      u.device = s.device ∧ u.chans = s.chans
    let last := g.place + 1 = b.rows.length
    let moved (h : Ingress) : Prop := h.place = (if last then 0 else g.place + 1) ∧ h.batch = (if last then none else some b) ∧
      h.step = g.step ∧ h.final = g.final
    let tokens (e : Nat) (gen : BitVec 32) (count addr : Nat) : List Token :=
      ⟨0, BitVec.ofNat 1024 (gen.toNat % 2 ^ 16 * 2 ^ 48 + e % 16 * 2 ^ 40 + count % 128 * 2 ^ 32 + addr % 2 ^ 30), 0⟩ ::
        (List.range levels).map fun k => ⟨0, BitVec.ofNat 1024 (e / 2 ^ (levels - 1 - k) % 2), 0⟩
    let wrote (u : State) (k : Nat) (l o solo : Bool) (gen : BitVec 32) : Prop := Stored s.scratch u.scratch (scratchAddr mt off) 256
      (r.data.toNat + r.scores.toNat % 2 ^ 512 * 2 ^ 1024 + 2 ^ 1536 * (r.seq.toNat + gen.toNat % 2 ^ 16 * 2 ^ 32 +
        natBits b.header.toNat 10 8 * 2 ^ 48 + b2n solo * 2 ^ 51 + b2n o * 2 ^ 52 + b2n l * 2 ^ 53 + n * 2 ^ 54 + k * 2 ^ 60))
    let lies (k : Nat) : Prop := s.scratchAt part (poolAddr regs.cvyPool i + 256 * k) 1 = .ok (mt, off) ∧ MemoryOk s ∧
      ∀ n, n < 16 → (lget {} (s.getMt mt).banks n).power = .awake ∧ s.bankFree mt n = true
    let lands (k : Nat) : Prop := lies k ∧ s.wordErrs = []
    let uref := urefWord 7 (s.binderAt g.binder die).1 0 (s.binderAt g.binder die).2.2 0 0
    let lowest := i ∈ pages ∧ g.page i = .free ∧ ∀ j ∈ pages, g.page j = .free → i ≤ j
    let runs := ∃ k y, (k, PoolState.running y r.step) ∈ g.pool
    let normal := g.final = false ∧ ((¬ r.step < g.step ∧ late = false ∧ ovr = decide (e ≠ best) ∧
        e = (order.find? fun k => !(g.expert k).closed).getD best) ∨ (r.step < g.step ∧ ¬ runs ∧ late = true ∧ ovr = false ∧ e = best))
    let solo := e = best ∧ ovr = false ∧ late = decide (r.step < g.step) ∧ (g.final = true ∨ (r.step < g.step ∧ runs))
    s.ingressGoes part die = true → g.batch = some b → g.faultRow = false → s.ownEntry part die = some (n, size) →
    b.rows[g.place]? = some r → ¬ last ∨ bitN b.header.toNat 82 = false → order.Perm (List.range size) →
    order.Pairwise (fun i j => less j i ∨ (¬ less i j ∧ i < j)) →
    (∀ k, normal → (x.openBuf = some i ∧ k = x.count) ∨ (x.openBuf = none ∧ lowest ∧ k = 0) → lands k → works fun h u =>
      wrote u e late ovr false x.gen ∧ moved h ∧ h.rowCount = g.rowCount + 1 ∧ (∀ j, j ≠ e → h.expert j = g.expert j) ∧
      (∀ j, j ≠ i → h.page j = g.page j) ∧
      (x.count + 1 < regs.cvyCap → h.give = g.give ∧ h.expert e = { x with openBuf := some i, count := x.count + 1 } ∧ ∃ m, h.page i = .filling e m) ∧
      (regs.cvyCap ≤ x.count + 1 → h.give = g.give ++ [tokens e x.gen (x.count + 1) (poolAddr regs.cvyPool i)] ∧
        h.expert e = { openBuf := none, count := 0, gen := x.gen + 1, closed := true } ∧ h.page i = .running e g.step)) ∧
    (solo → lowest → lands 0 → works fun h u => wrote u e late false true x.gen ∧ moved h ∧ h.experts = g.experts ∧
      (∀ j, h.page j = if j = i then .running e r.step else g.page j) ∧ h.give = g.give ++ [tokens e x.gen 1 (poolAddr regs.cvyPool i)]) ∧
    ((normal ∧ x.openBuf = none) ∨ solo → (∀ j ∈ pages, g.page j ≠ .free) →
      ((∃ j ∈ pages, ∀ y m, g.page j ≠ .filling y m) → works fun _ u => u = s) ∧
      (∀ y m, i ∈ pages → g.page i = .filling y m → (∀ j ∈ pages, ∃ y' m', g.page j = .filling y' m' ∧ (m < m' ∨ (m = m' ∧ y ≤ y'))) →
        (g.expert y).openBuf = some i → works fun h u => u.scratch = s.scratch ∧ h.place = g.place ∧ h.batch = some b ∧
          h.give = g.give ++ [tokens y (g.expert y).gen (g.expert y).count (poolAddr regs.cvyPool i)] ∧
          h.expert y = { openBuf := none, count := 0, gen := (g.expert y).gen + 1, closed := (g.expert y).closed } ∧
          h.page i = .running y g.step ∧ (∀ j, j ≠ y → h.expert j = g.expert j) ∧ ∀ j, j ≠ i → h.page j = g.page j)) ∧
    (∀ err, normal → x.openBuf = some i → s.isSuper g.binder = false →
      s.scratchAt part (poolAddr regs.cvyPool i + 256 * x.count) 1 = .error (some err) → Happens (.rowPlace part die) s fun u =>
        g.give = [] → u.getIngress pd = { g with faultRow := true } ∧ u.scratch = s.scratch ∧
          Recorded s u part err.cls uref err.addr 0) ∧
    (∀ w, normal → x.openBuf = some i → s.isSuper g.binder = false → lies x.count → (w, true) ∈ s.wordErrs →
      mt * 2 ^ 17 + off / 8 ≤ w → w < mt * 2 ^ 17 + off / 8 + 32 → Happens (.rowPlace part die) s fun u =>
        g.give = [] → u.getIngress pd = { g with faultRow := true } ∧ u.scratch = s.scratch ∧
          Recorded s u part .memUe uref (poolAddr regs.cvyPool i + 256 * x.count) 0)) ∧
  (∀ (s : State) (part die n size : Nat) (b : Batch) (rest : List Batch),
    let pd := part * 8 + die
    let g := s.getIngress pd
    let regs := (s.getPart part).regs
    let levels := Nat.clog 2 size
    let works (P : Ingress → State → Prop) : Prop := ∃ u, exec (.ingressBatchTake part die none) s = .next (State.cvyGive pd 32 u) ∧
      P (u.getIngress pd) u ∧ u.scratch = s.scratch ∧ u.chans = s.chans
    let tokens (e : Nat) : List Token :=
      let x := g.expert e
      ⟨0, BitVec.ofNat 1024 (x.gen.toNat % 2 ^ 16 * 2 ^ 48 + e % 16 * 2 ^ 40 + x.count % 128 * 2 ^ 32 +
          poolAddr regs.cvyPool (x.openBuf.getD 0) % 2 ^ 30), 0⟩ ::
        (List.range levels).map fun k => ⟨0, BitVec.ofNat 1024 (e / 2 ^ (levels - 1 - k) % 2), 0⟩
    let taken : Ingress := { g with arrived := rest, batch := none, place := 0 }
    let step := b.header.extractLsb' 160 32
    let ahead := (step - g.step).toNat
    let count := tget 0 g.closes ahead + 1
    let final := bitN b.header.toNat 83
    let open_ := (List.range size).filter fun e => (g.expert e).openBuf.isSome
    let ended (h : Ingress) : Prop := (∀ e, e < size → h.expert e = if (g.expert e).openBuf.isSome = true
        then { openBuf := none, count := 0, gen := (g.expert e).gen + 1, closed := false } else { g.expert e with closed := false }) ∧
      (∀ e i, e < size → (g.expert e).openBuf = some i → h.page i = .running e g.step) ∧
      ∀ i, (∀ e, e < size → (g.expert e).openBuf ≠ some i) → h.page i = g.page i
    s.ingressGoes part die = true → g.batch = none → g.arrived = b :: rest → b.arrive < s.cycle.toNat → b.rows = [] → bitN b.header.toNat 82 = true →
    s.ownEntry part die = some (n, size) → n = natBits b.header.toNat 89 84 →
    (g.final = true → works fun h _ => h = taken) ∧
    (g.final = false → 16 ≤ ahead → s.isSuper g.binder = false → ∃ u, exec (.ingressBatchTake part die none) s = .next (State.cvyGive pd 32 u) ∧
      u.getIngress pd = taken ∧ Recorded s u part .config (urefWord 7 (s.binderAt g.binder die).1 0 (s.binderAt g.binder die).2.2 0 0) 0 0) ∧
    (g.final = false → ahead < 16 → (if ahead = 0 then count else tget 0 g.closes 0) < regs.cvyNsrc → works fun h _ =>
      h.step = g.step ∧ h.give = g.give ∧ h.experts = g.experts ∧ h.pool = g.pool ∧ h.batch = none ∧
      ∀ k, tget 0 h.closes k = if k = ahead then count else tget 0 g.closes k) ∧
    (g.final = false → ahead = 0 → count = regs.cvyNsrc → (∀ e e' i, e < size → e' < size → (g.expert e).openBuf = some i →
        (g.expert e').openBuf = some i → e = e') →
      (final = false → g.step ∉ g.finalStep → tget 0 g.closes 1 < regs.cvyNsrc → works fun h _ => ended h ∧ h.step = g.step + 1 ∧
        h.final = false ∧ h.give = g.give ++ open_.map tokens ∧ ∀ k, tget 0 h.closes k = tget 0 g.closes (k + 1)) ∧
      (final = true → works fun h _ => ended h ∧ h.final = true ∧ h.step = g.step + 1 ∧ h.give = g.give ++ open_.map tokens ++ [[⟨3, 5, 0⟩]])))

/-! ## Events: firings, waits and the cycle -/

/-- R25, R27, R28, R29, R100, R101, R167, R181: an idle element fires the first RUNNABLE binding in rotation whose block is
ready, with the tokens its WAIT counts name, or raises ILLEGAL for one rejected at fetch. At its end the pointer moves and
predicates take effect, those of one cycle in the order of their page, tile and slot and before the cycle's phase
evaluation, and the binding stands at its next block, sleeps, or after TEND is IDLE with a completion point counted. Where
the rules leave a choice open or are read by inference, this states the model's reading, that of log entries 1 and 9. -/
def Obligations.BlockFirings : Prop :=
  ∀ (s : State) (k i j m n ch ch' : Nat) (d : Decoded) (r : Reject) (l : Launch),
    let c := s.getCe k
    let f := c.fir
    let b := lget {} c.binds f.bind
    let may := s.mayFire (cePage k) (ceSlot k) c.launch = true
    let fire := Instr.blockFiring k
    let others (u : State) : Prop := ∀ k', k' ≠ k → u.getCe k' = s.getCe k'
    let stands (i : Nat) : Prop := let x := lget {} c.binds i
      x.bound = false ∨ x.state ≠ .runnable ∨ ((∀ y ∈ c.dec, y.address ≠ x.pc) ∧ s.codeHold k = true) ∨
        ∃ d', s.blockOf k x.pc = .ok d' ∧ s.blockReady k d'.header = false
    let chosen := f.active = false ∧ may ∧ n < 4 ∧ i = (c.next + n) % 4 ∧ (∀ m, m < n → stands ((c.next + m) % 4)) ∧ ¬ stands i
    let ending := f.active = true ∧ b.state = .firing ∧ f.block.words.length ≤ f.idx ∧ f.park = [] ∧
      (∀ x ∈ c.binds, x.bound = true → s.filled (c.inCh x.trigger) = []) ∧
      (∀ h t, f.waitSet = true → f.wait = .join h t → s.joinStatus h = none)
    let next := f.block.address + 16 * (1 + (f.block.words.length + 1) / 2)
    (f.active = true → b.state = .firing → f.idx < f.block.words.length → Idles fire s) ∧
    (f.active = true → b.state ≠ .firing → b.state ≠ .runnable ∨ ¬ may → Idles fire s) ∧
    (f.active = true → b.state = .runnable → may → Happens fire s fun u => u = { s with ce := u.ce } ∧ others u ∧
      u.getCe k = { c with binds := c.binds.set f.bind { b with state := .firing }, waited := 0, watched := false }) ∧
    (f.active = false → ¬ may ∨ (∀ i, i < 4 → stands i) → Idles fire s) ∧
    (chosen → s.blockOf k (lget {} c.binds i).pc = .ok d → Happens fire s fun u => u = { s with ce := u.ce } ∧ others u ∧
      (u.getCe k).regs = c.regs ∧ (u.getCe k).binds = c.binds.set i { lget {} c.binds i with state := .firing } ∧
      (u.getCe k).dec = (if c.dec.any (fun y => y.address == d.address) then c.dec else c.dec ++ [d]) ∧
      (u.getCe k).fir = { active := true, bind := i, block := d, cycle := s.cycle.toNat,
                          toks := (List.range 8).map fun j => (s.filled (c.inCh j)).take (hdrWait d.header j) }) ∧
    (chosen → s.blockOf k (lget {} c.binds i).pc = .error r → s.isSuper c.launch = false → Happens fire s fun u => others u ∧
      u.getCe k = { c with binds := c.binds.set i { lget {} c.binds i with state := .faulted, retry := false } } ∧
      Recorded s u c.part .illegal (State.ceUref k i c) 0 r.row) ∧
    (ending → f.advMoves = [] → f.padvMoves = [] → f.psets = [] → Happens fire s fun u => others u ∧ u.chans = s.chans ∧ u.scratch = s.scratch ∧
      (u.getCe k).fir = {} ∧ (u.getCe k).regs = c.regs ∧ (u.getCe k).next = (f.bind + 1) % 4 ∧ (u.getPart c.part).pred = (s.getPart c.part).pred ∧
      ((u.getPage (cePage k)).yielded = true ↔ (s.getPage (cePage k)).yielded = true ∨ (f.yield = true ∧ (s.getPage (cePage k)).active = ceSlot k)) ∧
      (u.getCe k).binds = c.binds.set f.bind (if f.tend then { b with state := .idle, stack := [], wait := .none, points := b.points + 1 }
        else
          let go (pc : Nat) (st : List Nat) : Binding :=
            let x : Binding := { b with pc := pc, stack := st }
            if f.waitSet = true ∧ f.wait ≠ .cycles 0 then { x with state := .sleeping, wait := f.wait } else { x with state := .runnable, wait := .none }
          match f.target with
          | some (t, true) => go t (next :: b.stack)
          | some (t, false) => go t b.stack
          | none => if f.ret then go (lget 0 b.stack 0) (b.stack.drop 1) else go next b.stack) ∧
      (f.tend = true → tfind s.launches c.launch = some l → l.state ≠ .retired → l.counter = m + 1 →
        (u.launchD c.launch).counter = m ∧ (u.launchD c.launch).done = l.done + 1 ∧
        (m ≠ 0 → u.stops = s.stops) ∧ (m = 0 → s.stopping c.launch = false → u.stops.map (fun x => (x.launch, x.action, x.phase)) =
          s.stops.map (fun x => (x.launch, x.action, x.phase)) ++ [(c.launch, .retire, 1)])) ∧
      (f.tend = false → u.launches = s.launches)) ∧
    (∀ q z, ending → f.psets = [(n, q, z)] → (s.getPart c.part).evalAt ≠ some s.cycle.toNat → n < 16 → (s.getPart c.part).predLate = [] → Happens fire s fun u => ∀ a, a < 16 → (u.getPart c.part).pred.getLsbD a =
      let old := (s.getPart c.part).pred.getLsbD a
      if a = n then (if q = 1 then old || z else if q = 2 then old && z else z) else old) ∧
    (f.active = true → b.state = .firing → f.psets ≠ [] → (s.getPart c.part).evalAt = some s.cycle.toNat → Idles fire s) ∧
    (∀ e, ending → f.psets ≠ [] → (s.getPart c.part).evalAt ≠ some s.cycle.toNat → (s.getPart c.part).predLate = [e] → Happens fire s fun u =>
      let old := (s.getPart c.part).predOld
      (u.getPart c.part).pred = if e.1 ≤ cePage k * 64 + ceTile (ceElem k) * 4 + ceSlot k then predAfter (predAfter old e.2) f.psets
        else predAfter (predAfter old f.psets) e.2) ∧
    (∀ p, ending → f.psets = [] ∨ (s.getPart c.part).evalAt ≠ some s.cycle.toNat → f.advMoves = [(i, m)] → f.padvMoves = [(j, p)] → c.inCh i = some ch → c.outCh j = some ch' → ch ≠ ch' →
      (tfind s.chans ch).isSome = true → (tfind s.chans ch').isSome = true → Happens fire s fun u =>
        (u.chanD ch).endq = (s.chanD ch).endq.drop m ∧ (u.chanD ch).freed = (s.chanD ch).freed + min m (s.chanD ch).endq.length ∧
        (u.chanD ch').startq = (s.chanD ch').startq ++ (List.range p).map (fun a => tget default (lget {} c.outs j).stage a) ∧
        (∀ a, tget default (lget {} (u.getCe k).outs j).stage a = tget default (lget {} c.outs j).stage (a + p)) ∧
        ∀ a, a ≠ ch → a ≠ ch' → u.chanD a = s.chanD a)

/-- R172, R173, R178, R180, R187, R266: each kind of wait ends when what it waits for has come, its binding is RUNNABLE and
the register it names takes the value; nothing else ends it. A copy wait whose cycles run out first raises PROMISE_MISS.
R44, R353, R354: a turn ends with its QUANTUM, after eight idle cycles, at a YIELD or when its context is gone, and the next
context that could fire takes the page, once the old one's last block has ended. R47, R172, R216, R275, R276, R376, R442,
R443: a cycle advances the counter by one, or by none or two while it is slewed, and with it the counts of banks, sleeps,
pages, waiting tokens and blocked producers; the status bits that its banks have set stand at its end. R349: a job's queue
entries stand in device memory (their indexes: log entry 115). Where the rules leave a choice open or are read by inference,
this states the model's reading, that of log entries 49 and 115. -/
def Obligations.WaitsAndTurns : Prop :=
  (∀ (s : State) (k i : Nat) (w : Wait),
    let c := s.getCe k
    let b := lget {} c.binds i
    let wakes (e : Instr) (regs : RegFile) : Prop := Happens e s fun u => u = { s with ce := u.ce } ∧ (∀ k', k' ≠ k → u.getCe k' = s.getCe k') ∧
      u.getCe k = { c with binds := c.binds.set i { b with state := .runnable, wait := .none }, regs := regs }
    let give (n : BitVec 3) (v : Word) : RegFile := { c.regs with s := c.regs.s.set n.toNat v }
    b.bound = true → b.state = .sleeping → b.wait = w →
    (w = .cycles 0 → wakes (.sleepWake k i) c.regs) ∧ (w ≠ .cycles 0 → Idles (.sleepWake k i) s) ∧
    (∀ p left t, w = .copy p left t → (s.copyOver k p = true → wakes (.copyWaitWake k i) c.regs ∧ Idles (.promiseTimeout k i) s) ∧
      (s.copyOver k p = false → Idles (.copyWaitWake k i) s ∧
        (left ≠ 0 ∨ t = 0 → Idles (.promiseTimeout k i) s) ∧
        (left = 0 → t ≠ 0 → s.isSuper c.launch = false → Happens (.promiseTimeout k i) s fun u => (u.getCe k).regs = c.regs ∧
          (u.getCe k).binds = c.binds.set i { b with state := .faulted, retry := true, wait := .copy p 0 0 } ∧
          Recorded s u c.part .promiseMiss (State.ceUref k i c) 0 t))) ∧
    (∀ p x, s.findCopy k p = some x → (s.copyOver k p = true ↔ x.2.state = .complete ∨ x.2.state = .killed)) ∧
    (∀ h n, w = .join h n →
      (∀ g, handleKind h = 2 → tfind s.graphs (handleId h) = some g →
        (g.counter ≠ 0 → Idles (.joinWake k i) s) ∧
        (g.counter = 0 → wakes (.joinWake k i) (give n (BitVec.ofNat 64
          (min 0xFFFF g.faulted * 2 ^ 48 + min 0xFFFF g.killed * 2 ^ 32 + min 0xFFFFFFFF g.completed))))) ∧
      (∀ l, handleKind h = 1 → tfind s.launches (handleId h) = some l →
        (l.state = .queued ∨ (l.counter ≠ 0 ∧ l.state ≠ .retired) → Idles (.joinWake k i) s) ∧
        (l.state = .retired ∨ (l.counter = 0 ∧ l.state ≠ .queued) → wakes (.joinWake k i) (give n (BitVec.ofNat 64
          (min 0xFFFF l.faulted * 2 ^ 48 + min 0xFFFF l.killed * 2 ^ 32 + min 0xFFFFFFFF l.done)))))) ∧
    (∀ a want n seen, w = .tbuf a want n seen →
      (seen = true ∨ s.tbuf c.part a = want → wakes (.tbwaitWake k i) (give n (BitVec.ofNat 64 want))) ∧
      (seen = false → s.tbuf c.part a ≠ want → Idles (.tbwaitWake k i) s)) ∧
    (∀ h n x, w = .coll h n → s.memberOf k h = some x →
      (∀ v, x.status = some v → wakes (.collwaitWake k i) (give n (BitVec.ofNat 64 v))) ∧ (x.status = none → Idles (.collwaitWake k i) s))) ∧
  ((∀ (s : State) (page c : Nat),
    let g := s.getPage page
    let over_ := g.drain = false ∧ (g.turn ≤ g.used ∨ 8 ≤ g.idle ∨ g.yielded = true ∨ s.slotLive page g.active = false)
    let others := [(g.active + 1) % 4, (g.active + 2) % 4, (g.active + 3) % 4]
    let set (e : Instr) (x : Page) : Prop := Happens e s fun u => u = { s with pages := u.pages } ∧ u.getPage page = x ∧
      ∀ p, p ≠ page → u.getPage p = s.getPage p
    let to_ (c : Nat) : Prop := set (.turnEnd page)
      { g with active := c, drain := true, drainFrom := g.active, used := 0, idle := 0, yielded := false }
    (¬ over_ → Idles (.turnEnd page) s) ∧
    (over_ → others.find? (fun c => s.slotFireable page c) = some c → to_ c) ∧
    (over_ → (∀ c ∈ others, s.slotFireable page c = false) →
      (s.slotLive page g.active = true → set (.turnEnd page) { g with turn := g.quantum, used := 0, idle := 0, yielded := false }) ∧
      (s.slotLive page g.active = false → others.find? (fun c => s.slotLive page c) = some c → to_ c) ∧
      (s.slotLive page g.active = false → (∀ c ∈ others, s.slotLive page c = false) → Idles (.turnEnd page) s)) ∧
    (g.drain = false ∨ s.slotRuns page g.drainFrom = true → Idles (.drainEnd page) s) ∧
    (g.drain = true → s.slotRuns page g.drainFrom = false → set (.drainEnd page)
      { g with drain := false, turn := g.quantum, used := 0, idle := 0 })) ∧
  (∀ (s : State) (part id lv pa : Nat) (wr : Bool) (p : Partition) (l : Launch), s.phaseNow part = none → s.parts = [(part, p)] → p.job.running = true →
    lv < 4 → p.queues = (List.replicate 4 []).set lv [id] → s.launches = [(id, l)] → MemoryOk s → id < 2 ^ 32 → l.level < 4 → l.blevel < 4 →
    l.image < 2 ^ 56 → l.graph < 2 ^ 32 → l.saveIx < 2 ^ 32 → s.translate part (p.regs.drvQbase.toNat + lv * 10240 * 32) = .ok (pa, wr) →
    pa % 32 = 0 → s.chans = [] → Happens .cycleCounterAdvance s fun u => memNat u.device (canonAddr pa) 32 =
      id * 2 ^ 224 + min 0xFFFFFFFF (l.waited + 1) * 2 ^ 192 + l.level * 2 ^ 190 + l.blevel * 2 ^ 188 +
        (if l.state = .saved then 2 ^ 187 else 0) + 0x3FFF * 2 ^ 164 + l.image * 2 ^ 64 + l.graph * 2 ^ 32 +
        (if l.state = .saved then l.saveIx else 0)) ∧
  ∀ (s : State), (∀ p ∈ s.parts, s.phaseNow p.1 = none) → (∀ p ∈ s.parts, p.2.job.running = false ∨ ∀ q ∈ p.2.queues, q = []) →
    (∀ p ∈ s.parts, p.2.job.again ≠ some s.cycle.toNat) → Happens .cycleCounterAdvance s fun u =>
    u.cycle = s.cycle + BitVec.ofInt 64 (1 + s.slew) ∧ u.slew = 0 ∧ u.scratch = s.scratch ∧ u.device = s.device ∧ u.istore = s.istore ∧
    (∀ k c, tfind s.ce k = some c → ∃ c', tfind u.ce k = some c' ∧ c'.regs = c.regs ∧ c'.fir = c.fir ∧
      c'.binds = (c.binds.map fun b => if b.state ≠ .sleeping then b else match b.wait with
        | .cycles n => { b with wait := .cycles (n - 1) }
        | .copy p n t => { b with wait := .copy p (n - 1) t }
        | _ => b) ∧
      c'.late = 0 ∧ c'.stat ||| c.late = c'.stat ∧
      let fires := c.fir.active = true ∧ (lget {} c.binds c.fir.bind).state = .firing
      (c.launch ≠ 0 → ¬ fires → (∃ e ∈ c.ins, s.filled e.ch ≠ []) → c'.waited = c.waited + 1) ∧
      (c.launch = 0 ∨ fires ∨ (∀ e ∈ c.ins, s.filled e.ch = []) → c'.waited = 0)) ∧
    (∀ (mn : Nat) (m : MatNode), tfind s.mns mn = some m → ∃ m' : MatNode, tfind u.mns mn = some m' ∧ m'.frags = m.frags ∧ m'.tiles = m.tiles ∧
      ∀ (c : Nat) (x : MnCtx), m.ctxs[c]? = some x → ∃ x' : MnCtx, m'.ctxs[c]? = some x' ∧ x'.reserved = x.reserved ∧ x'.waited =
        if s.filled x.ctl = [] ∧ s.filled x.rows = [] then 0 else x.waited + 1) ∧
    (∀ n p, tfind s.parts n = some p → tfind u.parts n = some { p with predOld := p.pred, predLate := [], counted := [] }) ∧
    (∀ mt m, tfind s.mts mt = some m → tfind u.mts mt = some { m with banks := m.banks.map fun b => match b.power with
      | .awake => { b with idle := b.idle + 1 }
      | .waking n => { b with power := .waking (n - 1) }
      | .powering n => { b with power := .powering (n - 1) }
      | _ => b }) ∧
    (∀ k o, tfind s.ops k = some o → ∃ o', tfind u.ops k = some o' ∧ o'.fired = false ∧ o'.instr = o.instr ∧ o'.faulted = o.faulted) ∧
    (∀ p g, tfind s.pages p = some g → ∃ g', tfind u.pages p = some g' ∧ g'.active = g.active ∧ g'.thermWait = g.thermWait - 1 ∧
      (∀ c, c < 4 → lget 0 g'.poolIdle c = if lget 0 g.resident c = 0 then lget 0 g.poolIdle c + 1 else 0) ∧
      (g.drain = false → s.slotLive p g.active = true → g'.used = g.used + 1 ∧
        g'.idle = if s.slotFireable p g.active then 0 else min 8 (g.idle + 1)) ∧
      (g.drain = true ∨ s.slotLive p g.active = false → g'.used = g.used ∧ g'.idle = g.idle)) ∧
    (∀ id l, tfind s.launches id = some l → ∃ l', tfind u.launches id = some l' ∧ l'.state = l.state ∧
      l'.waited = if (s.getPart l.part).queues.any (fun q => q.contains id) then min 0xFFFFFFFF (l.waited + 1) else l.waited) ∧
    (∀ ch c, s.chans = [(ch, c)] → (s.blockedOn ch = false → u.chanD ch = { c with blocked := 0, recorded := false }) ∧
      (s.blockedOn ch = true → u.chanD ch = { c with blocked := c.blocked + 1 } ∧
        (c.blocked = 0 → (u.getCe (s.producerKey ch)).stat.getLsbD 6 = true))))

/-! ## Events: the Drover, the Serai and the loader -/

/-- R351: entries that have waited DRV_AGE cycles move to the tail of the level above, which ageing fills to 8192 entries,
and their waits start again. R419, R420, R458: the oldest waiting record for which there is a place enters the trap queue
with the next RSEQ, and the supervisor gets its token, or the host MSI-X vector 1 when the queue was empty. R14, R415: a
saved launch that waits in no queue, or is the Drover's choice, resumes on its own pages while no checkpoint holds the job
and no move its pages, and its routes can be made; its contexts hold what they held. One whose save areas cannot be read
retires faulted. R362: it retires where its ingress can no longer be bound. R427: the loader keeps a wanted image whose
header and body pass its checks, refuses another, and what waited for it goes on; a full table drops the entry named least
recently that no launch holds. R356: a refusal names the first step of the rate check that fails and the first channel that
fails it. Where the rules leave a choice open or are read by inference, this states the model's reading, that of log entries
17, 74 and 122. -/
def Obligations.QueuesAge : Prop :=
  ((∀ (s : State) (part : Nat) (q0 q1 q2 q3 : List Nat),
    let p := s.getPart part
    let age := p.regs.drvAge.toNat
    let all := q0 ++ q1 ++ q2 ++ q3
    let rise (q : List Nat) (above : Nat) : List Nat := (q.filter fun id => age ≤ (s.launchD id).waited).take (8192 - above)
    let u1 := rise q1 q0.length
    let u2 := rise q2 (q1.length - u1.length)
    let u3 := rise q3 (q2.length - u2.length)
    (age = 0 → Idles (.launchAgeing part) s) ∧
    (age ≠ 0 → p.queues = [q0, q1, q2, q3] → all.Nodup → (∀ id ∈ all, (tfind s.launches id).isSome = true) →
      Happens (.launchAgeing part) s fun t =>
        (t.getPart part).queues = [q0 ++ u1, (q1.filter fun id => id ∉ u1) ++ u2, (q2.filter fun id => id ∉ u2) ++ u3,
          q3.filter fun id => id ∉ u3] ∧
        (∀ id, t.launchD id = if id ∈ u1 then { s.launchD id with level := 0, waited := 0 }
          else if id ∈ u2 then { s.launchD id with level := 1, waited := 0 }
          else if id ∈ u3 then { s.launchD id with level := 2, waited := 0 } else s.launchD id) ∧
        t = { s with parts := t.parts, launches := t.launches })) ∧
  ∀ (s : State) (part : Nat) (pre post : List (Bool × BitVec 512)) (own : Bool) (b : BitVec 512),
    let p := s.getPart part
    let room (own : Bool) : Prop := p.traps.countP (fun e => e.1 == own) < if own then 16 else 512
    let event := Instr.deferredRecordWrite part
    let token := own = false ∧ s.superUp part = true
    ((∀ e ∈ p.trapWait, ¬ room e.1) → Idles event s) ∧
    (p.trapWait = pre ++ (own, b) :: post → (∀ e ∈ pre, ¬ room e.1) → room own → Happens event s fun t =>
      (t.getPart part).traps = p.traps ++ [(own, b ||| p.rseq.setWidth 512)] ∧ (t.getPart part).trapWait = pre ++ post ∧
      (t.getPart part).rseq = p.rseq + 1 ∧
      (∀ ch c, token → s.trapChan part = some ch → tfind s.chans ch = some c →
        (t.chanD ch).startq = c.startq ++ [⟨0, p.rseq.setWidth 1024, 0⟩]) ∧
      (token → s.trapChan part = none → (t.getPart part).trapGive = p.trapGive ++ [⟨0, p.rseq.setWidth 1024, 0⟩]) ∧
      (¬ token → t.chans = s.chans ∧ t.dev.msix =
        if p.traps = [] then s.dev.msix ++ (s.dev.vfsOf part).map (fun v => (v + 1, 1)) else s.dev.msix))) ∧
  ((∀ (s : State) (id : Nat) (l : Launch) (b : ImageBody), tfind s.launches id = some l →
    let p := s.getPart l.part
    let leads (P : State → Prop) : Prop := ∃ u : State, exec (.launchResume id) s = .next u.settle ∧ P u
    let queued := ∃ q ∈ p.queues, id ∈ q
    let kept := l.state ≠ .saved ∨ p.held = true ∨ (∃ m ∈ p.moves, id ∈ m.launches) ∨
      (queued ∧ ∀ lv, s.firstEligible l.part ≠ some (lv, id))
    (kept → leads fun u => u = s) ∧
    (¬ kept → s.imageOf l = some b → s.fit l.part id b [] = none → leads fun u => u = s) ∧
    (∀ d lps slots, ¬ kept → s.imageOf l = some b → s.fit l.part id b [] = some (lps, slots) → s.noIngress l.part b lps = some d →
      s.isSuper id = false → leads fun u => (u.launchD id).state = .retired ∧
        Recorded s u l.part .config (let x := s.binderAt id d; urefWord 7 x.1 0 x.2.2 0 0) 0 0) ∧
    (∀ va d lps slots, ¬ kept → s.imageOf l = some b → s.fit l.part id b [] = some (lps, slots) → s.noIngress l.part b lps = none →
      s.saveLost id = some (va, d) → s.isSuper id = false → leads fun u => (u.launchD id).state = .retired ∧
        (∀ x, tfind u.launches id = some x → x.outcome = some .faulted ∧ x.counter = 0) ∧ Recorded s u l.part .memUe 0 va d) ∧
    (∀ lps slots, ¬ kept → s.imageOf l = some b → s.fit l.part id b [] = some (lps, slots) → s.noIngress l.part b lps = none →
      s.saveLost id = none → lps = l.pages ∧ slots.length = l.pages.length ∧ leads fun u =>
        (u.getPart l.part).queues = p.queues.map (fun q => q.filter (· != id)) ∧ (u.launchD id).slots = slots ∧
        (u.launchD id).pages = l.pages ∧ (u.launchD id).save = [] ∧ (l.parkedOn = [] → (u.launchD id).state = .resident) ∧
        (l.parkedOn ≠ [] → (u.launchD id).state = .resident ∨ (u.launchD id).state = .parked) ∧
        ((l.pages.map (s.phys l.part)).Nodup → l.save.length = l.pages.length →
          (∀ sv ∈ l.save, (sv.ces.map (·.1)).Nodup ∧ ∀ x ∈ sv.ces, x.1 < 12 ∧ x.2.pend = []) →
          ∀ (i : Nat) (sv : SavedPage) (lp pp c e : Nat) (x : CeCtx), l.save[i]? = some sv → l.pages[i]? = some lp → s.phys l.part lp = some pp → slots[i]? = some c →
            (e, x) ∈ sv.ces → let y := u.getCe (ceKey pp e c)
            y.regs = x.regs ∧ y.seed = x.seed ∧ y.stat = x.stat ∧ y.fir = x.fir ∧ y.winSize = x.winSize))) ∧
  ∀ (s : State) (part addr h : Nat) (bs : List Byte) (b : ImageBody),
    let p := s.getPart part
    let leads (P : State → Prop) : Prop := ∃ u : State,
      exec (.imageLoad part addr b) s = .next (if (u.getPart part).job.starting then u.startGoes part else u).settle ∧ P u
    let frame (u : State) : Prop := u = { s with parts := u.parts } ∧ (∀ k, k ≠ part → u.getPart k = s.getPart k) ∧
      (u.getPart part).wanted = p.wanted.filter (· != addr)
    let keeps (r : Option ImageBody) (why : Option (Nat × Nat)) : Prop := leads fun u => frame u ∧
      tfind (u.getPart part).images addr = some { body := r, lastNamed := s.cycle.toNat, why := why } ∧
      (p.images.length < 1024 → ∀ k, k ≠ addr → tfind (u.getPart part).images k = tfind p.images k) ∧
      (∀ v, 1024 ≤ p.images.length → s.imageVictim part = some v → ∀ k, k ≠ addr →
        tfind (u.getPart part).images k = if k = v then none else tfind p.images k)
    let sum := (words32 (bs.length / 4) bs).sum % 2 ^ 32
    let good := natBits h 1023 128 = 0 ∧ natBits h 31 10 = 0 ∧ sum = natBits h 95 64 ∧ natBits h 127 96 % 128 = 0 ∧
      1 ≤ natBits h 9 0 ∧ natBits h 9 0 ≤ 512
    let reads := addr ∈ p.wanted ∧ s.vaNat part addr 128 = some h ∧ s.vaBytes part (addr + 128) (natBits h 127 96 - 128) = some bs
    let agrees := b.pages = natBits h 9 0 ∧ b.chans.length = natBits h 63 48 ∧ imgEnds b = natBits h 47 32
    (addr ∉ p.wanted → leads fun u => u = s) ∧ (addr ∈ p.wanted → s.vaNat part addr 128 = none → keeps none none) ∧
    (addr ∈ p.wanted → s.vaNat part addr 128 = some h → s.vaBytes part (addr + 128) (natBits h 127 96 - 128) = none → keeps none none) ∧
    (reads → ¬ good → keeps none none) ∧ (reads → good → ¬ agrees → leads fun u => u = s) ∧
    (reads → good → agrees → bodyOk b = true → keeps (some b) none) ∧
    (reads → good → agrees → bodyOk b = false → keeps none (refusalOf b)) ∧ (∀ w, refusalOf b = some w → rateFault b = some w) ∧
    (∀ k i, rateFault b = some (k + 1, i) ↔ ∃ oks : List Bool, (rateSteps b)[k]? = some oks ∧ oks[i]? = some false ∧
      (∀ j, j < i → oks[j]? = some true) ∧ ∀ j (xs : List Bool), j < k → (rateSteps b)[j]? = some xs → ∀ x ∈ xs, x = true) ∧
    (∀ v, s.imageVictim part = some v → s.imageHeld part v = false ∧ ∃ x, (v, x) ∈ p.images ∧
      ∀ y ∈ p.images, s.imageHeld part y.1 = false → x.lastNamed ≤ y.2.lastNamed) ∧
    (bodyOk b = true → ∃ r : Nat → Nat, ∀ c ∈ b.chans, 1 ≤ c.depth ∧ c.depth ≤ 64 ∧ c.init ≤ c.depth ∧
      ∀ n m, c.rate = some (n, m) → 0 < r (actorOf c.src) ∧ 0 < r (actorOf c.dst) ∧
        r (actorOf c.src) * n = r (actorOf c.dst) * m ∧ n + m - Nat.gcd n m ≤ c.depth))

/-- R14, R33, R35, R42, R347, R352, R362, R374, R426, R428: a decision takes the first eligible launch of the highest level,
one that could not be placed before the others of its level. While the spill area has no room for its quotas and save areas,
its routes cannot be made or its ingress is another launch's, it waits as one without pages. A place that the growth rule
finds is taken: the launch is RESIDENT in the lowest free slot of each page, its contexts at their reset values but for
constants, bindings and handles, its channels with their first tokens, its result buffers RESERVED. A launch whose ingress
cannot be bound retires. R33, R34, R429: a launch without a place bars its level and those below until it is placed. With no
compaction of the partition under way, a queued launch first asks for a swap when compaction is enabled; otherwise the
fewest launches of lower levels that make room, the lowest level and the most recently placed first, are stopped with SAVE
and are to return to their queues. Where the rules leave a choice open or are read by inference, this states the model's
reading, that of log entries 18, 47, 86 and 106. -/
def Obligations.Placement : Prop :=
  (∀ (s : State) (part lv id : Nat) (pre post : List Nat) (b : ImageBody),
    let p := s.getPart part
    let l := s.launchD id
    let q (n : Nat) : List Nat := p.queues.getD n []
    let leads (P : State → Prop) : Prop := ∃ u : State, exec (.placementDecision part) s = .next u.settle ∧ P u
    let spill := b.pages * Config.saveAreaKib + imgQuota b
    let first := (id ∈ p.barred ∧ ∀ x ∈ pre, s.eligible x = true → x ∉ p.barred) ∨
      ((∀ x ∈ q lv, s.eligible x = true → x ∉ p.barred) ∧ ∀ x ∈ pre, s.eligible x = false)
    let chosen := p.held = false ∧ lv < 4 ∧ q lv = pre ++ id :: post ∧ s.eligible id = true ∧ first ∧
      (∀ n, n < lv → ∀ x ∈ q n, s.eligible x = false) ∧ s.imageOf l = some b ∧ l.part = part
    (p.held = true ∨ (∀ n, n < 4 → ∀ x ∈ q n, s.eligible x = false) → leads fun u => u = s) ∧
    (l.state = .queued → s.imageOf l = some b → (s.eligible id = true ↔
      ∀ e ∈ s.tbufUses l, s.tbuf l.part e.1 = if e.2 = .result then 0 else 2)) ∧
    (l.state = .queued → p.regs.panFree < spill → s.fit part id b [] = none) ∧
    (∀ lps slots, s.fit part id b [] = some (lps, slots) → s.imageOf l = some b →
      let x := s.planOf id { l with pages := lps, slots := slots } b
      (∀ c ∈ b.chans, x.reaches c = true) ∧ ∀ g ∈ convoyPages b,
        let y := (s.getIngress (convoyKey l.part (pageDie (x.page g)))).binder
        y = 0 ∨ y = id) ∧
    (chosen → s.fit part id b [] = none → leads fun u => u = (s.bar part id).findRoom part lv id b) ∧
    (∀ d lps slots, chosen → s.fit part id b [] = some (lps, slots) → s.noIngress part b lps = some d → s.isSuper id = false →
      leads fun u => (u.launchD id).state = .retired ∧
        Recorded s u part .config (let x := s.binderAt id d; urefWord 7 x.1 0 x.2.2 0 0) 0 0) ∧
    (∀ lps slots, chosen → l.state = .saved → s.fit part id b [] = some (lps, slots) → s.noIngress part b lps = none →
      leads fun u => u = (s.resumeLaunch id slots).unbar part id) ∧
    ∀ lps slots, chosen → l.state = .queued → s.fit part id b [] = some (lps, slots) → s.noIngress part b lps = none →
      (p.job.preload = none → p.job.preloadSlots = [] → s.growth part b [] = some lps ∧
        slots = lps.map fun lp => (s.freeSlotOf ((s.phys part lp).getD 0) []).getD 0) ∧
      (lps.length = b.pages → slots.length = b.pages → (∀ lp ∈ lps, (s.phys part lp).isSome = true) →
        (lps.map (s.phys part)).Nodup → (∀ c ∈ slots, c < 4) → (∀ g, (s.getPage g).resident.length = 4) → (∀ y ∈ s.chans, y.2.launch ≠ id) → leads fun u =>
          let x := u.launchD id
          x.state = .resident ∧ x.pages = lps ∧ x.slots = slots ∧ x.counter = imgEnds b ∧ x.args = l.args ∧
          x.placedAt = s.placements + 1 ∧ u.placements = s.placements + 1 ∧
          (u.stopping id = true ↔ s.stopping id = true ∨ imgEnds b = 0) ∧
          (u.getPart part).regs.panFree = p.regs.panFree - (imgQuota b + Config.saveAreaKib * b.pages) ∧
          (u.getPart part).queues = p.queues.map (fun y => y.filter (· != id)) ∧
          (∀ e ∈ s.tbufUses l, e.2 = .result → u.tbuf part e.1 = 1) ∧
          (∀ i lp pp c e, i < b.pages → lps[i]? = some lp → s.phys part lp = some pp → slots[i]? = some c → e < 12 →
            let y := u.getCe (ceKey pp e c)
            lget 0 (u.getPage pp).resident c = id ∧ y.launch = id ∧ y.part = part ∧ y.lpage = lp ∧ y.lhnd = handle 1 id ∧
            y.ghnd = handle 2 l.graph ∧ y.fir = {} ∧ y.pend = [] ∧ y.regs.s = ({} : RegFile).s ∧ y.regs.w = ({} : RegFile).w ∧
            y.regs.p = ({} : RegFile).p ∧
            (∀ t, b.tiles.find? (fun t => t.page == i && t.ce == e) = some t → y.winSize = 1024 * t.codeKib ∧
              (∀ j k, j < 4 → t.tasks[j]? = some k → let z := lget {} y.binds j
                z.bound = true ∧ z.pc = k.entry ∧ z.ends = k.ends ∧ z.trigger = k.trigger) ∧
              (∀ j n v, t.consts = [(j, v)] → n < 8 → y.regs.k[n]? = some (if n = j then
                  { l with pages := lps }.value v else 0)))) ∧
          ∀ n c, b.chans[n]? = some c → c.src ≠ .trapq → let y := u.chanD (chanKey id n)
            y.launch = id ∧ y.depth = c.depth ∧ y.endq = List.replicate c.init (initTok c.order) ∧ y.startq = [] ∧ y.ring = [])) ∧
  (∀ (s : State) (part lv id : Nat) (b : ImageBody),
    let p := s.getPart part
    let l := s.launchD id
    let event := Instr.placementDecision part
    let leads (P : State → Prop) : Prop := ∃ u : State, exec event s = .next u.settle ∧ P u
    let stuck := p.held = false ∧ s.firstEligible part = some (lv, id) ∧ s.imageOf l = some b ∧ s.fit part id b [] = none
    let s' := s.bar part id
    let swap := if l.state = .queued ∧ p.regs.drvCompact = true then s.nextSwap part b else none
    let vs := s.victims part lv
    let enough (ws : List Nat) : Prop := ws ≠ [] ∧ (s.fit part id b ws).isSome = true
    let quiet := (∀ m ∈ p.moves, m.asker ≠ .compact) ∧ swap = none
    let stops := ∃ x ∈ s.stops, x.requeue = true ∧ (s.launchD x.launch).part = part
    (s' = { s with parts := s'.parts } ∧ (∀ x, x ∈ (s'.getPart part).barred ↔ x ∈ p.barred ∨ x = id) ∧
      ∀ n, s'.getPart n = if n = part then { p with barred := (s'.getPart part).barred } else s.getPart n) ∧
    (stuck → (∃ m ∈ p.moves, m.asker = .compact) → leads fun u => u = s') ∧
    (∀ m, stuck → (∀ m ∈ p.moves, m.asker ≠ .compact) → swap = some m → leads fun u =>
      ∃ ids, (u.getPart part).moves = p.moves ++ [{ m with launches := ids }] ∧ m.asker = .compact ∧
        (∀ x, x ∈ ids ↔ x ∈ s.launchesOn m.src ∨ (m.swap.isSome = true ∧ x ∈ s.launchesOn m.dst)) ∧
        (∀ x ∈ ids, u.stopping x = true) ∧ (tget {} (u.getPart part).map m.lpage).mov = true ∧ id ∈ (u.getPart part).barred) ∧
    (stuck → quiet → stops → leads fun u => u = s') ∧
    (stuck → quiet → ¬ stops → (∀ ws, ws <+: vs → ¬ enough ws) → leads fun u => u = s') ∧
    (∀ ws, (s.launches.map (·.1)).Nodup → stuck → quiet → ¬ stops → ws <+: vs → enough ws → (∀ xs, xs <+: ws → xs ≠ ws → ¬ enough xs) → leads fun u =>
      u = { s' with stops := u.stops } ∧ u.stops.map (fun x => (x.launch, x.action, x.phase, x.requeue)) =
        s.stops.map (fun x => (x.launch, x.action, x.phase, x.requeue)) ++ ws.map (fun x => (x, StopAction.save, 1, true))) ∧
    ((s.launches.map (·.1)).Nodup →
      (∀ v, v ∈ vs ↔ ∃ x, tfind s.launches v = some x ∧ x.part = part ∧ lv < x.level ∧ x.level < 4 ∧ x.resident = true ∧
        x.super = false ∧ s.stopping v = false) ∧
      vs.Pairwise fun v w => (s.launchD w).level < (s.launchD v).level ∨
        ((s.launchD w).level = (s.launchD v).level ∧ (s.launchD w).placedAt ≤ (s.launchD v).placedAt)))

/-- R41, R437, R438: a phase that started empty is evaluated in a later cycle: its successor is that of the first valid
clause whose masked predicates hold the value, else DEFAULT; the next phase starts with its templates, 0xFF cancels the job,
and a bad entry is CONFIG with its address. R42: the first launch of the likely successor is preloaded where the growth rule
finds room. Where the rules leave a choice open or are read by inference, this states the model's reading, that of log
entries 1, 18, 35 and 87. -/
def Obligations.PhasesFollow : Prop :=
  ∀ (s : State) (part id : Nat) (ph : Phase) (v : Nat),
    let j := (s.getPart part).job
    let pred := (s.getPart part).pred.toNat
    let event := Instr.emptyPhaseEvaluate part
    let ready := s.phaseNow part = some (id, ph) ∧ ph.counter = 0 ∧ j.toStart = [] ∧ ph.startAt ≠ some s.cycle.toNat
    let hit (i : Nat) : Prop := clValid (phClause v i) = true ∧ pred &&& clMask (phClause v i) = clValue (phClause v i)
    let o := if ph.faulted ≠ 0 then Outcome.faulted else if ph.killed ≠ 0 then .killed else .completed
    let counted (x : Job) : Prop := x.completed = j.completed + (if o = .completed then 1 else 0) ∧
      x.killed = j.killed + (if o = .killed then 1 else 0) ∧ x.faulted = j.faulted + (if o = .faulted then 1 else 0) ∧ x.phase = none
    let goes (n : Nat) : Prop := ∃ u : State, counted (u.getPart part).job ∧ u = { s with parts := u.parts } ∧
      (n = 0xFF → exec event s = .next (u.cancelJob part)) ∧
      (n ≠ 0xFF → u.phaseEntry part n = none → ∃ w : State, exec event s = .next (w.cancelJob part) ∧
        Recorded u w part .config 0 (j.phTab + 128 * n) 0) ∧
      ∀ e, n ≠ 0xFF → u.phaseEntry part n = some e → ∃ (w : State) (ph' : Nat),
        exec event s = .next (State.startGraphs part ph' 9 w) ∧
        let ts := ((List.range 8).map (phTemplate e)).filter (· != 0)
        (w.getPart part).job.phase = some ph' ∧ (w.getPart part).job.toStart = ts.map (BitVec.ofNat 64) ∧
        tfind w.phases ph' = some { part := part, entry := n, counter := ts.length, completed := 0, killed := 0, faulted := 0, ending := false,
                                     startAt := some s.cycle.toNat } ∧
        w.launches = s.launches ∧ w.graphs = s.graphs ∧ (w.getPart part).queues = (s.getPart part).queues
    (s.phaseNow part = none ∨ (s.phaseNow part = some (id, ph) ∧ (ph.counter ≠ 0 ∨ j.toStart ≠ [] ∨ ph.startAt = some s.cycle.toNat)) → Idles event s) ∧
    (ready → s.phaseEntry part ph.entry = none → ∃ u : State, exec event s = .next (u.cancelJob part) ∧
      Recorded s u part .config 0 (j.phTab + 128 * ph.entry) 0) ∧
    (ready → s.phaseEntry part ph.entry = some v → (∀ i, i < 4 → hit i → (∀ k, k < i → ¬ hit k) → goes (clNext (phClause v i))) ∧
      ((∀ i, i < 4 → ¬ hit i) → goes (phDefault v))) ∧
    (s.phaseNow part = none ∨ j.preload ≠ none → Idles (.phasePreload part) s) ∧
    (s.phaseNow part = some (id, ph) → s.phaseEntry part ph.entry = some v → phLikely v = 0xFF → Idles (.phasePreload part) s) ∧
    ∀ w t r b, s.phaseNow part = some (id, ph) → s.phaseEntry part ph.entry = some v → j.preload = none → phLikely v ≠ 0xFF →
      s.phaseEntry part (phLikely v) = some w → (((List.range 8).map (phTemplate w)).filter (· != 0)).head? = some t →
      (s.template part t).head? = some (some r) → (tfind (s.getPart part).images r.image).bind (·.body) = some b →
      (s.growth part b [] = none → Idles (.phasePreload part) s) ∧
      ∀ lps, s.growth part b [] = some lps → Happens (.phasePreload part) s fun u => u = { s with parts := u.parts } ∧
        u.getPart part = { s.getPart part with job := { j with preload := some (phLikely v)
                                                               preloadSlots := lps.map fun lp =>
                                                                 (lp, (s.freeSlotOf ((s.phys part lp).getD 0) []).getD 0) } }

/-- R196, R347, R389, R408, R409, R410: a unit that has finished its granule acknowledges the stop that waits for it; a
context whose block waits for room is cut there, a matrix node sets the fragments it does not finish aside, and a refill
buffer goes back to the head of its ring. After the last unit the second phase is sent, or the action follows: SAVE keeps
every context and frees its slots, KILL counts what has not ended, and both KILL and RETIRE retire the launch. R34, R351: a
pre-empted victim returns to the head of its level, after the victims of its pre-emption that were placed earlier. Where the
rules leave a choice open or are read by inference, this states the model's reading, that of log entries 48, 75, 95, 96, 107
and 111. -/
def Obligations.StopsComplete : Prop :=
  ∀ (s : State) (launch unit : Nat) (st : Stop) (l : Launch),
    let leads (P : State → Prop) : Prop := ∃ u : State, exec (.stopAcknowledge launch unit) s = .next u.settle ∧ P u
    let kind := unitKind unit
    let k := unitId unit
    let rest := st.waiting.filter fun u => u != unit
    let found := s.stops.find? (fun x => x.launch == launch) = some st ∧ unit ∈ st.waiting
    let still := s.unitStill launch unit = true ∧ (kind = 4 → s.feedAll (k / 4) = s)
    let v := s.unitRest launch unit
    let finished := found ∧ still ∧ rest = [] ∧ (st.phase = 2 ∨ (st.phase = 1 ∧ v.phase2 launch = [])) ∧
      tfind s.launches launch = some l ∧ tfind v.launches launch = some l ∧ l.resident = true
    (s.stops.find? (fun x => x.launch == launch) = none → leads fun u => u = s) ∧
    (s.stops.find? (fun x => x.launch == launch) = some st → st.waiting ≠ [] → unit ∉ st.waiting → leads fun u => u = s) ∧
    (found → s.unitStill launch unit = false → kind ≠ 1 → kind ≠ 4 → leads fun u => u = s) ∧
    (found → kind = 1 → s.unitStill launch unit = false → s.blockRuns k = false ∨ s.heldForRoom k = false → leads fun u => u = s) ∧
    (found → kind = 1 → s.blockRuns k = true → s.heldForRoom k = true → (s.getCe k).binds.length = 4 → (s.getCe k).fir.bind < 4 →
      rest ≠ [] → leads fun u =>
        (lget {} (u.getCe k).binds (s.getCe k).fir.bind).state = .runnable ∧ (u.getCe k).fir.idx = (s.getCe k).fir.idx ∧
        (u.getCe k).fir.active = true ∧ (u.getCe k).regs = (s.getCe k).regs) ∧
    (kind ≠ 3 → kind ≠ 4 → kind ≠ 6 → v = s) ∧
    (∀ mt x, kind = 3 → s.unitCopy launch k = some (mt, x) → v = (s.releaseUse mt x).setCopy mt x.stopped) ∧
    (∀ m : MatNode, kind = 4 → tfind s.mns (k / 4) = some m → ∃ m' : MatNode, tfind v.mns (k / 4) = some m' ∧ v = { s with mns := v.mns } ∧
      m'.frags = m.frags.filter (fun f => f.ctx != k % 4) ∧ ∀ x : MnCtx, m.ctxs[k % 4]? = some x → ∃ x' : MnCtx, m'.ctxs[k % 4]? = some x' ∧
        x'.reserved = 0 ∧ x'.pend =
          ((m.frags.filter fun f => f.ctx == k % 4).map fun f => { f with started := false, due := 0 }) ++ x.pend) ∧
    (∀ c : Chan, kind = 6 → tfind s.chans k = some c → v = { s with chans := v.chans } ∧
      tfind v.chans k = some { c with ring := c.refill ++ c.ring, refill := [] }) ∧
    (found → still → rest ≠ [] → leads fun u => u = { v with stops := u.stops } ∧
      u.stops = v.stops.map fun x => if x.launch = launch then { x with waiting := x.waiting.filter fun u => u != unit } else x) ∧
    (found → still → rest = [] → st.phase = 1 → v.phase2 launch ≠ [] → leads fun u => u = { v with stops := u.stops } ∧
      u.stops = v.stops.map fun x => if x.launch = launch then { st with phase := 2, waiting := v.phase2 launch } else x) ∧
    (finished → st.action = .save → (∀ c ∈ l.slots, c < 4) → leads fun u => (u.launchD launch).state = .saved ∧ u.stopping launch = false ∧
      ∀ (i p c : Nat), (v.places l)[i]? = some (i, p, c) → u.slotLaunch p c = 0 ∧ ∃ sv : SavedPage, (u.launchD launch).save[i]? = some sv ∧
        sv.home = (p, c) ∧ ∀ e, e < 12 → (e, v.getCe (ceKey p e c)) ∈ sv.ces ∧ tfind u.ce (ceKey p e c) = none) ∧
    (finished → st.action = .save → st.requeue = true → l.level < (s.getPart l.part).queues.length → leads fun u => ∃ a z, (u.getPart l.part).queues[l.level]? = some (a ++ launch :: z) ∧
      ((s.getPart l.part).queues[l.level]? = some (a ++ z)) ∧
      let before (x : Nat) : Prop := (u.launchD x).state = .saved ∧ (u.launchD x).victimOf = st.mark ∧ (u.launchD x).firstAt < l.firstAt
      (∀ x ∈ a, before x) ∧ ∀ x, z.head? = some x → ¬ before x) ∧
    (finished → st.action = .kill → leads fun u => (u.launchD launch).state = .retired ∧ u.stopping launch = false ∧
      ∀ x, tfind u.launches launch = some x → x.counter = 0 ∧ (l.counter ≠ 0 →
        let n := v.pointsLeft launch
        let f := min n.1 l.counter
        x.faulted = l.faulted + f ∧ x.killed = l.killed + min n.2 (l.counter - f) ∧
        x.outcome = some (if l.anyFault = true ∨ v.faultStands launch = true then .faulted else .killed))) ∧
    (finished → st.action = .retire → leads fun u => (u.launchD launch).state = .retired ∧ u.stopping launch = false ∧
      ∀ x, tfind u.launches launch = some x → x.outcome = some (if l.anyFault then .faulted else if l.anyKill then .killed else .completed))

/-! ## Events: pages, power and the device -/

/-- R432, R433, R434, R435: a move whose launches have stopped copies its page's stores to the new one, both ways in a swap;
the switch then binds the logical page there, resumes the launches, and its MIGRATE record names the two pages. A source
that is mapped out meanwhile is replaced by zeroed stores, or leaves its logical page unbound. R422, R434: a page that is
mapped out stops its launches with SAVE and goes to the first spare page; without one, every launch that holds it is
cancelled. R380, R431: a temperature is read every 4,096 cycles, and one above its LIMIT asks for a move, to the coolest
page that may take the page's place. R463: one assigned in this very cycle is no page of the partition. R464: a page above
105 °C withholds half of the turns, and one above 115 °C cancels every job. Where the rules leave a choice open or are read
by inference, this states the model's reading, that of log entries 44, 47, 54 and 121. -/
def Obligations.PagesMove : Prop :=
  (∀ (s : State) (part : Nat) (m : Move),
    let p := s.getPart part
    let lost (g : Nat) : Prop := (s.getPage g).mapout = true
    let transfer := Instr.pageMoveTransfer part
    let commit := Instr.pageMoveCommit part
    let first (t : Bool) : Prop := p.moves.find? (fun m => if t then m.step == 1 && !(m.launches.any s.stopping) else m.step == 2) = some m
    let copied (now : Memory) (old : Memory) (n d a : Nat) : Prop := ∀ o, o < n → now.read (d * n + o) = old.read (a * n + o)
    let entry (u : State) (lp : Nat) : PageEntry := tget {} (u.getPart part).map lp
    ((∀ x ∈ p.moves, x.step ≠ 1 ∨ ∃ i ∈ x.launches, s.stopping i = true) → Idles transfer s) ∧
    (first true → MemoryOk s → m.src ≠ m.dst → ¬ lost m.src → ¬ lost m.dst → Happens transfer s fun u =>
      copied u.scratch s.scratch (2 ^ 21) m.dst m.src ∧ copied u.istore s.istore (2 ^ 20) m.dst m.src ∧
      copied u.wbuf s.wbuf (2 ^ 20) m.dst m.src ∧
      (m.swap = none → copied u.scratch s.scratch (2 ^ 21) m.src m.src) ∧
      (m.swap.isSome = true → copied u.scratch s.scratch (2 ^ 21) m.src m.dst ∧ copied u.istore s.istore (2 ^ 20) m.src m.dst) ∧
      (∀ y, y / 2 ^ 21 ≠ m.src → y / 2 ^ 21 ≠ m.dst → u.scratch.read y = s.scratch.read y) ∧ u.accs = s.accs ∧ u.device = s.device ∧
      u.ce = s.ce ∧ (u.getPage m.dst).quantum = (s.getPage m.src).quantum ∧
      (u.getPage m.dst).thermLimit = (s.getPage m.src).thermLimit ∧
      (∀ n, n < 2 → (u.getMt (m.dst * 2 + n)).steps = (s.getMt (m.src * 2 + n)).steps ∧ (u.getMt (m.dst * 2 + n)).dir = [] ∧
        (u.getMt (m.src * 2 + n)).dir = []) ∧
      (∀ k r, tfind s.sectorScope k = some r → tfind u.sectorScope k =
        some (r.moved (if m.swap = none then [(m.src, m.dst)] else [(m.src, m.dst), (m.dst, m.src)]))) ∧
      (u.getPart part).map = p.map ∧ (u.getPart part).moves = p.moves.map fun x => if x = m then { m with step := 2 } else x) ∧
    (first true → MemoryOk s → lost m.src → m.dst ≠ m.src → ¬ lost m.dst → m.swap = none → Happens transfer s fun u =>
      (∀ o, o < 2 ^ 21 → u.scratch.read (m.dst * 2 ^ 21 + o) = 0) ∧ (∀ y, y / 2 ^ 21 ≠ m.dst → u.scratch.read y = s.scratch.read y) ∧
      (u.getPart part).moves = p.moves.map fun x => if x = m then { m with swap := none, step := 2 } else x) ∧
    (first true → lost m.src → m.dst = m.src → m.swap = none → s.sparePages part = [] → ∃ u : State,
      exec transfer s = .next (u.resumeAll m.launches) ∧ (entry u m.lpage).v = false ∧
      ∀ i, (u.launchD i).part = part → m.lpage ∈ (u.launchD i).pages → (u.launchD i).state ≠ .saved) ∧
    (first true → ¬ lost m.src → m.dst ≠ m.src → lost m.dst → ∃ u w : State,
      exec transfer s = .next ((w.relocateSwap part m.swap).resumeAll m.launches) ∧
      entry w m.lpage = ⟨true, false, m.src⟩ ∧ (w.getPart part).moves = p.moves.erase m ∧ u = { s with parts := u.parts } ∧
      w.scratch = s.scratch ∧ Recorded u w part .migrate 0 m.lpage (m.src % 512 * 2)) ∧
    ((∀ x ∈ p.moves, x.step ≠ 2) → Idles commit s) ∧
    (first false → m.dst ≠ m.src → lost m.dst → Happens commit s fun u => u = { s with parts := u.parts } ∧
      (u.getPart part).moves = p.moves.map fun x => if x = m then { m with step := 1 } else x) ∧
    (first false → (m.dst ≠ m.src → ¬ lost m.dst) → m.swap ≠ some m.lpage → ∃ u w t : State, exec commit s = .next t ∧
      u = { s with parts := u.parts } ∧ w = (u.relocateSwap part m.swap).resumeAll m.launches ∧ entry u m.lpage = ⟨true, false, m.dst⟩ ∧
      (∀ q, m.swap = some q → entry u q = ⟨true, false, m.src⟩) ∧ (∀ lp, lp ≠ m.lpage → m.swap ≠ some lp → entry u lp = entry s lp) ∧
      (u.getPart part).moves = p.moves.erase m ∧ (m.asker = .mapout → t = w) ∧
      (m.asker ≠ .mapout → Recorded w t part .migrate 0 m.lpage (1 + m.src % 512 * 2 + m.dst % 512 * 2 ^ 10)) ∧
      (m.asker = .host → m.src ∉ (t.getPart part).pages ∧ (t.getPage m.src).owner = none))) ∧
  (∀ (s : State) (page : Nat) (temp : BitVec 12),
    let g := s.getPage page
    let leads (P : State → Prop) : Prop := ∃ u : State, exec (.pageMapout page) s = .next u.settle ∧ P u
    let warm (P : State → Prop) : Prop := ∃ u : State, exec (.pageThermRenewal page temp) s = .next u.throttle ∧ P u ∧
      (u.getPage page).therm = temp ∧ (u.getPage page).thermAt = some s.cycle.toNat ∧ u.scratch = s.scratch ∧ ∀ k, k ≠ page → u.getPage k = s.getPage k
    let early := ∃ n, g.thermAt = some n ∧ s.cycle.toNat < n + 4096
    let only (x : Page) (u : State) : Prop := u = { s with pages := u.pages } ∧ u.getPage page = x ∧ ∀ k, k ≠ page → u.getPage k = s.getPage k
    (g.mapout = true → leads fun u => u = s) ∧
    (g.mapout = false → g.owner = none ∨ (∃ p, g.owner = some p ∧ s.logical p page = none ∧ g.givenAt ≠ some s.cycle.toNat) → leads (only { g with mapout := true })) ∧
    (∀ p, g.mapout = false → g.owner = some p → s.logical p page = none → g.givenAt = some s.cycle.toNat → page ∈ (s.getPart p).pages → leads fun u =>
      (u.getPage page).mapout = true ∧ (u.getPage page).owner = none ∧ page ∉ (u.getPart p).pages ∧
      tget 0 u.dev.pgassign p = tget 0 s.dev.pgassign p - BitVec.twoPow 64 24) ∧
    (∀ p lp, g.mapout = false → g.owner = some p → s.logical p page = some lp →
      (s.movePending p lp = true → leads (only { g with mapout := true })) ∧
      (∀ d rest, s.movePending p lp = false → s.sparePages p = d :: rest → d ≠ page → leads fun u => (u.getPage page).mapout = true ∧
        ∃ ids, (u.getPart p).moves = (s.getPart p).moves ++
          [{ lpage := lp, src := page, dst := d, swap := none, step := 1, asker := .mapout, launches := ids }] ∧
        (∀ x, x ∈ ids ↔ x ≠ 0 ∧ x ∈ g.resident) ∧ ∀ x ∈ ids, u.stopping x = true) ∧
      (s.movePending p lp = false → s.sparePages p = [] → ∃ (u : State) (ids : List Nat),
        exec (.pageMapout page) s = .next (u.cancelList ids).settle ∧ u.launches = s.launches ∧ (u.getPage page).mapout = true ∧
        (∀ x, x ∈ ids ↔ ∃ l, (x, l) ∈ s.launches ∧ l.part = p ∧ lp ∈ l.pages ∧ l.state ≠ .retired ∧ l.state ≠ .queued) ∧
        (u.getPart p).moves = (s.getPart p).moves ++
          [{ lpage := lp, src := page, dst := page, swap := none, step := 1, asker := .mapout, launches := ids }])) ∧
    (early → Idles (.pageThermRenewal page temp) s) ∧
    (¬ early → g.owner = none ∨ (∃ p, g.owner = some p ∧ s.logical p page = none) ∨ g.thermLimit = 0 ∨ temp.toNat ≤ g.thermLimit ∨
      g.thermWait ≠ 0 → warm (only { g with therm := temp, thermAt := some s.cycle.toNat })) ∧
    (∀ p lp, ¬ early → g.owner = some p → s.logical p page = some lp → g.thermLimit ≠ 0 → g.thermLimit < temp.toNat → g.thermWait = 0 →
      s.movePending p lp = false → tget {} (s.getPart p).map lp = ⟨true, false, page⟩ → g.mapout = false →
      (∀ x ∈ s.launchesOn page, s.stopping x = false) →
      (∀ d, s.chooseTarget p page true = some d → d ≠ page → warm fun u => ∃ ids, (u.getPart p).moves = (s.getPart p).moves ++
        [{ lpage := lp, src := page, dst := d, swap := none, step := 1, asker := .thermal, launches := ids }] ∧
        (∀ x, x ∈ ids ↔ x ∈ s.launchesOn page) ∧ (tget {} (u.getPart p).map lp).mov = true) ∧
      ((∀ d ∈ (s.getPart p).pages, s.targetOk p page d = false) → warm fun u => (u.getPage page).thermWait = 2 ^ 20 ∧
        Recorded s u p .migrate 0 lp (page % 512 * 2))) ∧
    (∀ p d th, s.chooseTarget p page th = some d → d ∈ (s.getPart p).pages ∧ s.targetOk p page d = true ∧
      (th = true → (s.getPage d).therm.toNat + 40 ≤ g.thermLimit) ∧
      ∀ x ∈ (s.getPart p).pages, s.targetOk p page x = true → (th = true → (s.getPage x).therm.toNat + 40 ≤ g.thermLimit) →
        (s.getPage d).therm.toNat ≤ (s.getPage x).therm.toNat) ∧
    (let hot (n : Nat) : Prop := ∃ e ∈ s.pages, n < e.2.therm.toNat
     (¬ hot 920 → s.throttle = { s with dev := { s.dev with withheld := max s.dev.overPower (if hot 840 then 128 else 0) } }) ∧
     (hot 920 → ∀ p, (tfind s.parts p).isSome = true → (s.throttle.getPart p).job.running = false ∨ (s.throttle.getPart p).job.ending = true)))

/-- R463: a function's report sets its DEV_READY bit when its tests passed, once, and UP follows the last report. R464:
power above the cap withholds turns in proportion. R443: a sample sets the cycle counter forward before the first job and is
slewed out after it, one cycle in 256; the root is never corrected. Where the rules leave a choice open or are read by
inference, this states the model's reading, that of log entries 54, 55 and 73. -/
def Obligations.BringUpAndCycles : Prop :=
  (∀ (s : State) (fn : Nat) (ok : Bool),
    let d := s.dev
    let event := Instr.functionReady fn ok
    let set (n lo : Nat) (old new : BitVec n) : Prop := ∀ i, i < n → new.getLsbD i = (old.getLsbD i || (ok && i + lo == fn))
    (51 ≤ fn ∨ fn ∈ d.functions → Idles event s) ∧
    (fn < 51 → fn ∉ d.functions → Happens event s fun t => t = { s with dev := t.dev } ∧
      (∀ n, n ∈ t.dev.functions ↔ n = fn ∨ n ∈ d.functions) ∧ t.dev.functions.length = d.functions.length + 1 ∧
      t.dev.up = decide (d.functions.length = 50) ∧ set 8 0 d.dieReady t.dev.dieReady ∧ set 16 8 d.stackReady t.dev.stackReady ∧
      set 8 24 d.farReady t.dev.farReady ∧ set 18 32 d.linkReady t.dev.linkReady ∧ t.dev.hostl = (if fn = 50 then ok else d.hostl) ∧
      t.dev.own = d.own)) ∧
  (∀ (s : State) (watts : Nat),
    let over_ := if s.dev.pcap < watts then 256 * (watts - s.dev.pcap) / watts else 0
    ∃ u : State, exec (.powerWindow watts) s = .next u.throttle ∧ u = { s with dev := { s.dev with overPower := over_ } }) ∧
  ∀ (s : State) (link ahead behind : Nat),
    let d := s.dev
    let deaf := 18 ≤ link ∨ d.linkReady.getLsbD link = false ∨ d.root = true
    let sample := Instr.cycleSampleExchange link ahead behind
    let ready := d.root = false ∧ d.slewAt ≤ s.cycle.toNat
    (deaf → Idles sample s) ∧
    (¬ deaf → d.jobSeen = false → exec sample s = .next { s with cycle := s.cycle + BitVec.ofNat 64 (behind - ahead) }) ∧
    (¬ deaf → d.jobSeen = true → exec sample s =
      .next { s with dev := { d with slewAhead := ahead - behind, slewBehind := behind - ahead } }) ∧
    (¬ ready ∨ (d.slewAhead ≤ 8 ∧ d.slewBehind ≤ 8) → Idles .cycleSlew s) ∧
    (ready → 8 < d.slewAhead ∨ 8 < d.slewBehind → Happens .cycleSlew s fun t =>
      t.slew = (if 8 < d.slewAhead then -1 else 1) ∧ t.cycle = s.cycle ∧ t.dev.slewAt = s.cycle.toNat + 256 ∧
      t.dev.slewAhead = (if 8 < d.slewAhead then d.slewAhead - 1 else d.slewAhead) ∧
      t.dev.slewBehind = (if 8 < d.slewAhead then d.slewBehind else d.slewBehind - 1) ∧
      (∀ n, tget 0 t.dev.counters n = if n = 0x403 then min (2 ^ 48 - 1) (tget 0 d.counters n + 1) else tget 0 d.counters n))

/-- R453, R459, R460: a write of a device function's register by its owner stores what the register keeps, and one that
names an illegal value changes nothing; by the other side it is ignored and sets the host's AER bit. A bit of DEV_OWN
changes only when its owner writes it. R452: a VF map byte that names a partition above 23 is not valid. R445: HOST_CNTCLR
clears the counters. R424, R453: HOST_PGASSIGN gives the selected partition every page of its range that is on a ready die,
not mapped out and nobody else's, and counts the pages it changed; or takes them, a spare one at once and a bound one by a
move. R276: the banks of an assigned page power up in 600 cycles; those of a released one are off once they have served what
was queued there, and its scratchpad is then empty. Where the rules leave a choice open or are read by inference, this
states the model's reading, that of log entries 57, 58, 59 and 68. -/
def Obligations.DeviceRegisters : Prop :=
  (∀ (s : State) (v : Word) (host : Bool) (n : Nat),
    let d := s.dev
    let bits (hi lo : Nat) : Nat := v.toNat / 2 ^ lo % 2 ^ (hi + 1 - lo)
    let refused : State := { s with dev := { d with aerHost := true } }
    let by_ (fn : Nat) (e : Instr) (go : Host.Outcome State Fault Refusal → Prop) : Prop :=
      if d.own.getLsbD fn = host then exec e s = .next refused else go (exec e s)
    let is (x : Device) (o : Host.Outcome State Fault Refusal) : Prop := o = .next { s with dev := x }
    let pf (reg : Nat) := Instr.registerWrite .pf reg v host
    let part := d.psel
    let p := s.getPart part
    let busy := p.job.running = true ∨ p.job.starting = true
    let only (P : Partition → Prop) (o : Host.Outcome State Fault Refusal) : Prop :=
      ∃ t : State, o = .next t ∧ t = { s with parts := t.parts } ∧ P (t.getPart part) ∧ ∀ k, k ≠ part → t.getPart k = s.getPart k
    let w := max 1 (bits 23 16)
    by_ 2 (pf 0xC01) (is { d with root := v.getLsbD 16, pkg := v.extractLsb' 0 16 }) ∧
    by_ 1 (pf 0xC03) (is (if 1000 ≤ bits 12 0 ∧ bits 12 0 ≤ 4200 then { d with pcap := bits 12 0 } else d)) ∧
    by_ 2 (pf 0xC04) (is { d with lrtab := bits 41 16 * 2 ^ 16 }) ∧
    by_ 0 (pf 0xCC0) (is (if bits 4 0 ≤ 23 then { d with psel := bits 4 0 } else d)) ∧
    (n ∉ [0xC01, 0xC03, 0xC04, 0xCC0] → Idles (pf n) s) ∧
    (16 ≤ n → Idles (.hostVfmapWrite n v host) s) ∧
    (n < 16 → by_ 0 (.hostVfmapWrite n v host) fun o => ∃ t : State, o = .next t ∧ t = { s with dev := { d with vfmap := t.dev.vfmap } } ∧
      (∀ k, k ≠ n → tget 0 t.dev.vfmap k = tget 0 d.vfmap k) ∧ ∀ i, i < 8 →
        let b := bits (8 * i + 7) (8 * i)
        (tget 0 t.dev.vfmap n).toNat / 2 ^ (8 * i) % 256 = b % 32 + if 128 ≤ b ∧ b % 32 ≤ 23 then 128 else 0) ∧
    by_ 5 (.hostCntclr v host) (is (if v.getLsbD 0 then { d with counters := [] } else d)) ∧
    Happens (.devOwnWrite v host) s (fun t => t = { s with dev := { d with own := t.dev.own, aerHost := t.dev.aerHost } } ∧
      (∀ i, i < 6 → t.dev.own.getLsbD i = if d.own.getLsbD i = host then d.own.getLsbD i else v.getLsbD i) ∧
      (t.dev.aerHost = true ↔ d.aerHost = true ∨ ∃ i, i < 6 ∧ d.own.getLsbD i = host ∧ v.getLsbD i ≠ d.own.getLsbD i)) ∧
    Happens .hostlFall s (fun t => t = { s with dev := { d with hostl := false, own := 0b111111 } }) ∧
    Happens .deviceReset s (fun t => t = { State.reset with agenda := s.agenda, cur := s.cur, free := s.free, dev := t.dev } ∧
      t.dev = { State.reset.dev with
        fwVersion := d.fwStaged.getD d.fwVersion
        fwSlot := (if d.fwStaged = none then d.fwSlot else !d.fwSlot)
        answers := d.answers }) ∧
    by_ 0 (.hostPcfgWrite v host) (only fun q => q = { p with weight := w, nl := q.nl, map := q.map, moves := q.moves } ∧
      (p.pages.length < bits 9 0 ∨ busy → q.nl = p.nl ∧ q.map = p.map ∧ q.moves = p.moves) ∧
      (bits 9 0 ≤ p.pages.length → ¬ busy → q.nl = bits 9 0 ∧ q.moves = [] ∧ ∀ (i pp : Nat), i < bits 9 0 → p.pages[i]? = some pp →
        tget {} q.map i = { v := !(s.getPage pp).mapout, mov := false, ppage := pp })) ∧
    by_ 0 (.hostXareaWrite v host) fun o =>
      let log2 := bits 5 0
      let base := bits 41 16 * 2 ^ 16
      let bad := busy ∨ log2 < 17 ∨ 41 < log2 ∨ base % 2 ^ log2 ≠ 0
      (bad → o = .next s) ∧
      (¬ bad → ∃ t : State, o = .next t ∧ t.getPart part = { p with
          xareaBase := base, xareaLog2 := log2, ranges := (List.range 64).map fun n => s.devNat (base + 16 * n) 16 } ∧
        (∀ k x, tfind t.portCache k = some x → k % 32 ≠ part) ∧
        (∀ k, k ≠ part → t.getPart k = s.getPart k) ∧ t.device = s.device ∧
        ∀ k m, tfind t.mts k = some m → k / 2 ∈ p.pages → m.xcache = [])) ∧
  (∀ (s : State) (v : Word) (host : Bool),
    let d := s.dev
    let part := d.psel
    let bits (hi lo : Nat) : Nat := v.toNat / 2 ^ lo % 2 ^ (hi + 1 - lo)
    let first := bits 8 0
    let last := bits 17 9
    let rel := v.getLsbD 23 = true
    let mine := d.own.getLsbD 0 ≠ host
    let refused : State := { s with dev := { d with aerHost := true } }
    let owner (g : Nat) : Option Nat := (s.getPage g).owner
    let skipped (g : Nat) : Prop := d.dieReady.getLsbD (pageDie g) = false ∨ (s.getPage g).mapout = true ∨ ∃ q, owner g = some q ∧ q ≠ part
    let done (t : State) (n : Nat) : Prop := tget 0 t.dev.pgassign part =
      BitVec.ofNat 64 (n * 2 ^ 24 + (if rel then 2 ^ 23 else 0) + bits 17 0)
    let bank (s : State) (g m j : Nat) : Option Bank := (s.getMt (g * 2 + m)).banks[j]?
    let served (g : Nat) : Prop := ∀ m j, m < 2 → j < (s.getMt (g * 2 + m)).banks.length → (s.getMt (g * 2 + m)).bankEmpty j = true
    let releases (P : State → Prop) : Prop := ∃ u : State, exec (.pageRelease v host) s = .next u.settle ∧ P u
    (rel → Idles (.pageAssign v host) s) ∧ (¬ rel → Idles (.pageRelease v host) s) ∧
    (¬ rel → ¬ mine → exec (.pageAssign v host) s = .next refused) ∧ (rel → ¬ mine → releases fun u => u = refused) ∧
    (¬ rel → mine → Happens (.pageAssign v host) s fun t =>
      let given (g : Nat) : Prop := first ≤ g ∧ g ≤ last ∧ ¬ skipped g ∧ owner g = none
      (∀ g, (given g → (t.getPage g).owner = some part ∧ ∀ m j b, m < 2 → bank s g m j = some b →
          bank t g m j = some (if b.power = .gated then { b with power := .powering 600, idle := 0 } else b)) ∧
        (¬ given g → t.getPage g = s.getPage g ∧ ∀ m, m < 2 → t.getMt (g * 2 + m) = s.getMt (g * 2 + m))) ∧
      (∀ g, g ∈ (t.getPart part).pages ↔ g ∈ (s.getPart part).pages ∨ given g) ∧
      (∀ k, k ≠ part → t.getPart k = s.getPart k) ∧ t.scratch = s.scratch ∧
      ∃ gs : List Nat, gs.Nodup ∧ (∀ g, g ∈ gs ↔ given g) ∧ done t gs.length) ∧
    ∀ g, rel → mine → first = g → last = g →
      (skipped g ∨ owner g ≠ some part → releases fun u => u = { s with dev := u.dev } ∧ done u 0) ∧
      (¬ skipped g → owner g = some part → g ∈ s.sparePages part → releases fun u => done u 1 ∧ (u.getPage g).owner = none ∧
        (u.getPage g).clearing = true ∧ g ∉ (u.getPart part).pages ∧ (∀ k, k ≠ g → u.getPage k = s.getPage k) ∧
        (∀ m j b, m < 2 → bank s g m j = some b → (s.getMt (g * 2 + m)).bankEmpty j = true → ∃ b' : Bank, bank u g m j = some b' ∧ b'.power = .gated) ∧
        (served g → (u.getPage g).gating = false ∧ ∀ y, u.scratch.read y = if y / 2 ^ 21 = g then 0 else s.scratch.read y) ∧
        (∀ m j b, m < 2 → bank s g m j = some b → b.power = .awake → (s.getMt (g * 2 + m)).bankEmpty j = false →
          bank u g m j = some b ∧ (u.getPage g).gating = true)) ∧
      (¬ skipped g → owner g = some part → g ∉ s.sparePages part → s.logical part g = none → releases fun u =>
        u = { s with dev := u.dev } ∧ done u 0) ∧
      (∀ lp, ¬ skipped g → owner g = some part → g ∉ s.sparePages part → s.logical part g = some lp →
        (s.movePending part lp = true → releases fun u => u = { s with dev := u.dev } ∧ done u 0) ∧
        (s.movePending part lp = false → tget {} (s.getPart part).map lp = ⟨true, false, g⟩ → (∀ x ∈ s.launchesOn g, s.stopping x = false) →
          (∀ a, s.chooseTarget part g false = some a → releases fun u => done u 1 ∧ u.getPage g = s.getPage g ∧
            ∃ ids, (u.getPart part).moves = (s.getPart part).moves ++
              [{ lpage := lp, src := g, dst := a, swap := none, step := 1, asker := .host, launches := ids }] ∧
              (∀ x, x ∈ ids ↔ x ∈ s.launchesOn g) ∧ ∀ x ∈ ids, u.stopping x = true) ∧
          (s.chooseTarget part g false = none → releases fun u => done u 0 ∧ u.getPage g = s.getPage g ∧
            (u.getPart part).moves = (s.getPart part).moves ∧ Recorded s u part .migrate 0 lp (g % 512 * 2)))))

/-- R451, R452, R455: writes through an unbound VF are ignored and reads of it give zero; through a bound one they reach its
partition alone: a read of a register gives its value and of the trap window the oldest record, a POP drops that record, a
debug read answers with a status and the eight bytes, a BAR2 read gives the bytes that translate and ones for the others,
and BAR2 writes land piece by piece where they translate. R43, R465: a CANCEL of a running job cancels it, and during a
checkpoint waits for its end. R457: a START with a job running is ERR 4; a record off its alignment, or that breaks its
field map, ERR 1; one that does not translate ERR 2. A good start clears what a job begins with, applies the register list,
and the supervisor is queued before phase FIRST starts. Where the rules leave a choice open or are read by inference, this
states the model's reading, that of log entries 1, 69, 70, 71 and 80. -/
def Obligations.PartitionWindow : Prop :=
  (∀ (s : State) (vf part : Nat) (v : Word),
    let p := s.getPart part
    let j := p.job
    let bits (hi lo : Nat) : Nat := v.toNat / 2 ^ lo % 2 ^ (hi + 1 - lo)
    let bound := vf < 128 ∧ s.dev.vfPart vf = some part
    let frame (u : State) : Prop := u = { s with parts := u.parts } ∧ ∀ k, k ≠ part → u.getPart k = s.getPart k
    let job (e : Instr) (x : Job) : Prop := Happens e s fun u => frame u ∧ u.getPart part = { p with job := x }
    let reg (n : Nat) := Instr.registerWrite (.vf vf) n v true
    (vf < 128 → (s.dev.vfPart vf = some part ↔ (let b := (tget 0 s.dev.vfmap (vf / 8)).toNat / 2 ^ (8 * (vf % 8)) % 256
      128 ≤ b ∧ b % 32 = part))) ∧
    (128 ≤ vf ∨ s.dev.vfPart vf = none → ∀ n a bs, Idles (reg n) s ∧ Idles (.partTrappop vf v) s ∧ Idles (.partDbgAddrWrite vf v) s ∧
      Idles (.partJobStart vf v) s ∧ Idles (.partJobCancel vf v) s ∧ Idles (.partCkptGo vf v) s ∧ Idles (.vfBar2Write vf a bs) s) ∧
    (128 ≤ vf ∨ s.dev.vfPart vf = none → ∀ n, s.vfRead vf n = 0) ∧
    (bound →
      s.vfRead vf 0x000 = j.recAddr ∧ s.vfRead vf 0x010 = j.status ∧ s.vfRead vf 0x018 = BitVec.ofNat 64 (j.err * 256 + if j.running then 1 else 0) ∧
      (∀ n, n < 8 → s.vfRead vf (0x020 + 8 * n) = match p.traps with | [] => 0 | e :: _ => e.2.extractLsb' (64 * n) 64) ∧
      (∀ a n pa wr, a + n < 2 ^ 36 → s.translate part (a + n) = .ok (pa, wr) → (s.bar2Read vf a (n + 1)).getLast? = some (s.device.read (canonAddr pa))) ∧
      (∀ a n, (∀ r, s.translate part (a + n) ≠ .ok r) → (s.bar2Read vf a (n + 1)).getLast? = some 0xFF) ∧
      job (reg 0x000) { j with recAddr := BitVec.ofNat 64 (bits 55 0) } ∧
      job (reg 0x0C0) { j with ckptDst := BitVec.ofNat 64 (bits 63 48 * 2 ^ 48 + bits 41 0) } ∧
      job (reg 0x0D8) { j with ckptLim := v.extractLsb' 0 32 } ∧ (∀ n, n ∉ [0x000, 0x0C0, 0x0D8] → job (reg n) j) ∧
      (v.getLsbD 0 = false → Idles (.partTrappop vf v) s ∧ Idles (.partJobStart vf v) s) ∧
      (v.getLsbD 0 = true → Happens (.partTrappop vf v) s fun u => u = { s with parts := u.parts } ∧ u.getPart part = { p with traps := p.traps.drop 1, popAt := some s.cycle.toNat }) ∧
      (∀ lp e, lp = bits 29 21 → e = tget {} p.map lp →
        let mt := e.ppage * 2 + bits 20 20
        let off := bits 19 3 * 8
        let off_ := e.v = false ∨ (s.getPage e.ppage).mapout = true ∨ ∃ b ∈ (s.getMt mt).banks, b.power = .gated
        let reads (st : Nat) (x : Word) : Prop := Happens (.partDbgAddrWrite vf v) s fun u =>
          u.getPart part = { p with job := { j with dbgAddr := bits 29 3 * 8, dbgData := x, dbgStat := st } } ∧
          (∀ k, k ≠ part → u.getPart k = s.getPart k) ∧ u.scratch = s.scratch
        (p.nl ≤ lp → reads 3 0) ∧ (lp < p.nl → off_ → reads 1 0) ∧
        (lp < p.nl → ¬ off_ → s.scratchLost mt off 8 = true → reads 2 0) ∧
        (lp < p.nl → ¬ off_ → s.scratchLost mt off 8 = false → reads 0 (BitVec.ofNat 64 (memNat s.scratch (mt * 2 ^ 20 + off) 8)))) ∧
      (v.getLsbD 1 = false ∨ j.running = false → Idles (.partJobCancel vf v) s) ∧
      (v.getLsbD 1 = true → j.running = true → j.ckptRun = true → job (.partJobCancel vf v) { j with ckptCancel := true }) ∧
      (v.getLsbD 1 = true → j.running = true → j.ckptRun = false → j.ending = false → ∃ u w : State,
        exec (.partJobCancel vf v) s = .next w.settle ∧ frame u ∧ u.getPart part = { p with job := { j with ending := true } } ∧
        w = (u.cancelList ((s.launches.filter fun e => e.2.part == part).map (·.1))).jobSettle part) ∧
      (∀ a bs, (bs = [] → Idles (.vfBar2Write vf a bs) s) ∧
        (bs ≠ [] → a % 64 + bs.length ≤ 64 → 2 ^ 36 ≤ a ∨ (∀ pa, s.translate part a ≠ .ok (pa, true)) → Idles (.vfBar2Write vf a bs) s) ∧
        (∀ pa, MemoryOk s → bs ≠ [] → a % 64 + bs.length ≤ 64 → a < 2 ^ 36 → s.translate part a = .ok (pa, true) →
          Happens (.vfBar2Write vf a bs) s fun u => u.scratch = s.scratch ∧ (s.xareaOf pa = [] → u.parts = s.parts) ∧
            (∀ k, u.getPart k = { s.getPart k with ranges := (u.getPart k).ranges }) ∧
            (∀ k ∈ s.xareaOf pa, (s.getPart k).xareaLog2 ≠ 0 →
              (u.getPart k).ranges = (List.range 64).map fun n => u.devNat ((s.getPart k).xareaBase + 16 * n) 16) ∧
            Stored s.device u.device (canonAddr pa) bs.length (natOfBytes bs)) ∧
        (64 < a % 64 + bs.length → ∃ u : State, exec (.vfBar2Write vf a (bs.take (64 - a % 64))) s = .next u ∧
          exec (.vfBar2Write vf a bs) s = exec (.vfBar2Write vf (a + (64 - a % 64)) (bs.drop (64 - a % 64))) u)))) ∧
  (∀ (s : State) (vf part : Nat) (v : Word), vf < 128 → s.dev.vfPart vf = some part → v.getLsbD 0 = true →
    let p := s.getPart part
    let j := p.job
    let event := Instr.partJobStart vf v
    let job (x : Job) : Prop := Happens event s fun u => u = { s with parts := u.parts } ∧ u.getPart part = { p with job := x } ∧
      ∀ k, k ≠ part → u.getPart k = s.getPart k
    let fails (n : Nat) : Prop := job { j with err := n, starting := false }
    let free := j.running = false ∧ j.starting = false
    let aligned := j.recAddr.toNat % 128 = 0
    let good (r : JobRec) (groups : Tab GroupEntry) : Prop := free ∧ aligned ∧ (∃ h, s.vaNat part j.recAddr.toNat 128 = some h ∧ jobRec h = some r) ∧
      s.groupTable part r.cgtab = .ok groups
    let begun (groups : Tab GroupEntry) (u : State) : Prop :=
      let q := u.getPart part
      q.pred = 0 ∧ q.predOld = 0 ∧ q.predLate = [] ∧ q.barred = [] ∧ q.counters = [] ∧ q.traps = [] ∧ q.trapWait = [] ∧ q.rseq = 0 ∧ q.cseq = [] ∧ q.cgtab = groups ∧ q.collectives = [] ∧
      q.tbufs = [] ∧ q.job.status = 0
    (¬ free → job { j with err := 4, again := some s.cycle.toNat }) ∧
    (free → ¬ aligned → fails 1) ∧
    (free → aligned → s.vaNat part j.recAddr.toNat 128 = none → fails 2) ∧
    (∀ h, free → aligned → s.vaNat part j.recAddr.toNat 128 = some h → jobRec h = none → fails 1) ∧
    (∀ h r, free → aligned → s.vaNat part j.recAddr.toNat 128 = some h → jobRec h = some r →
      r.nPhase = natBits h 15 8 ∧ r.first = natBits h 23 16 ∧ r.phTab = natBits h 191 128 ∧ r.first < r.nPhase ∧ r.ninit ≤ 64 ∧
      r.init % 16 = 0 ∧ (∀ e, s.groupTable part r.cgtab = .error e → fails e)) ∧
    (∀ r groups, good r groups → r.ninit = 0 → r.super = 0 → ∃ u w : State, exec event s = .next (w.startPhase part r.first |>.phaseSettle part) ∧
      begun groups u ∧ begun groups w ∧ (u.getPart part).job.starting = true ∧
      let x := (w.getPart part).job
      x.running = true ∧ x.starting = false ∧ x.err = 0 ∧ x.phTab = r.phTab ∧ x.nPhase = r.nPhase ∧ x.superLaunch = 0 ∧ x.completed = 0 ∧
      x.killed = 0 ∧ x.faulted = 0 ∧ x.ending = false ∧ w.launches = s.launches ∧ w.dev.jobSeen = true ∧ w.scratch = s.scratch) ∧
    (∀ r groups h, good r groups → r.ninit = 0 → r.super ≠ 0 → s.vaNat part r.super 128 = some h → ∃ u : State,
      exec event s = .next (u.startGoes part) ∧ begun groups u ∧ (u.getPart part).job.superRec = some (BitVec.ofNat 1024 h) ∧
      (u.getPart part).job.starting = true ∧ u = { s with parts := u.parts }) ∧
    (∀ r groups, good r groups → r.ninit = 0 → r.super ≠ 0 → s.vaNat part r.super 128 = none → Happens event s fun u =>
      (u.getPart part).job.err = 2 ∧ (u.getPart part).job.running = false ∧ u.launches = s.launches) ∧
    (∀ r groups, good r groups → r.ninit ≠ 0 → (∀ n, s.vaItems part r.init 16 r.ninit ≠ some n) → Happens event s fun u =>
      (u.getPart part).job.err = 2 ∧ begun groups u) ∧
    (∀ r groups es, good r groups → s.vaItems part r.init 16 r.ninit = some es →
      (∃ e ∈ es, natBits e 63 12 ≠ 0 ∨ csrInit (natBits e 11 0) = false) → Happens event s fun u =>
        (u.getPart part).job.err = 1 ∧ begun groups u ∧ u = { s with parts := u.parts }))

/-- R465: a checkpoint stops every launch of the running job with SAVE. It ends once all are saved: its image of header and
sections is written at DST, or ERR says why not; the job goes on unless STAY is 1, and MSI-X vector 2 tells the host. R461:
the Mornos port answers every message; reads and writes of registers are those of the device functions, a write being one
from the port. A package reset and a firmware image take effect when the port owns the function; an image is staged only
when its signature holds. The bytes of most answers are not specified: they are free values (log entry 3). Where the rules
leave a choice open or are read by inference, this states the model's reading, that of log entries 8, 60, 72 and 73. -/
def Obligations.Checkpoints : Prop :=
  (∀ (s : State) (vf part : Nat) (v : Word) (down ue : Bool),
    let p := s.getPart part
    let j := p.job
    let go := Instr.partCkptGo vf v
    let event := Instr.ckptEnd part down ue
    let frame (u : State) : Prop := u.scratch = s.scratch ∧ u.launches = s.launches ∧ ∀ k, k ≠ part → u.getPart k = s.getPart k
    let bound := vf < 128 ∧ s.dev.vfPart vf = some part
    let waits := j.ckptRun = false ∨ ∃ x ∈ s.launches, x.2.part = part ∧ (x.2.resident = true ∨ s.stopping x.1 = true)
    let units := ckptUnits (s.sections part)
    let dst := natBits j.ckptDst.toNat 41 0
    let here := natBits j.ckptDst.toNat 63 48 = s.dev.pkg.toNat
    let link := (s.linkFor (natBits j.ckptDst.toNat 63 48)).2
    let room := units ≤ j.ckptLim.toNat ∧ 2 ^ 41 ≤ dst ∧ dst + units * 65536 ≤ 2 ^ 42
    let ended (err : Nat) : Prop := ∃ u w : State, exec event s = .next (if j.ckptCancel then w.cancelJob part else w).settle ∧
      u.scratch = s.scratch ∧ (err ≠ 0 → ¬ here ∨ ¬ room → u.device = s.device) ∧
      u.getPart part = { p with job := { j with ckptRun := false, ckptHeld := j.ckptStay, ckptSt := if err = 0 then 2 else 3
                                                ckptErr := err, ckptCancel := false }, ranges := (u.getPart part).ranges } ∧
      ∃ ids, (∀ x, x ∈ ids ↔ ∃ l, (x, l) ∈ s.launches ∧ l.part = part ∧ l.state = .saved ∧ ∀ q ∈ p.queues, x ∉ q) ∧
        w = (if j.ckptStay then u else u.resumeAll ids).msix part 2
    (bound → j.ckptRun = true → Idles go s) ∧
    (bound → j.ckptRun = false → v.getLsbD 0 = false → Happens go s fun u => frame u ∧
      u.getPart part = { p with job := { j with ckptStay := v.getLsbD 1 } }) ∧
    (bound → j.ckptRun = false → v.getLsbD 0 = true → j.running = false → Idles go s) ∧
    (bound → j.ckptRun = false → v.getLsbD 0 = true → j.running = true → Happens go s fun u => frame u ∧
      u.getPart part = { p with job := { j with ckptStay := v.getLsbD 1, ckptRun := true, ckptSt := 1, ckptErr := 0 } } ∧
      ∀ x l, (x, l) ∈ s.launches → l.part = part → l.resident = true → u.stopping x = true) ∧
    (waits → Idles event s) ∧
    (¬ waits → j.ckptLim.toNat < units → ended 3) ∧
    (¬ waits → units ≤ j.ckptLim.toNat → ¬ room → ended 4) ∧
    (¬ waits → room → here → ue = true ∨ s.ckptLost part (s.sections part) = true → ended 2) ∧
    (¬ waits → room → ¬ here → down = true ∨ link = false → ended 1) ∧
    (¬ waits → room → ¬ here → down = false → link = true → ue = true ∨ s.ckptLost part (s.sections part) = true → ended 2) ∧
    (¬ waits → room → ¬ here → down = false → link = true → ue = false → s.ckptLost part (s.sections part) = false → ended 0) ∧
    (¬ waits → room → here → ue = false → s.ckptLost part (s.sections part) = false → ended 0) ∧
    (∀ x ∈ s.sections part, x.kind = 0 ∨ x.kind = 1 ∨ x.kind = 2)) ∧
  (∀ (s : State) (bs : List (BitVec 8)) (reg : Nat) (v : Word),
    let d := s.dev
    let answered (u : State) : State :=
      { u with dev := { u.dev with answers := Config.mornosAnswer u.free :: u.dev.answers }, free := u.free + 1 }
    let answers (e : Instr) : Prop := exec e s = .next (answered s)
    let gives (e : Instr) (n x : Nat) : Prop := exec e s = .next { s with dev := { d with answers := bytesOfNat n x :: d.answers } }
    let like (r : Nat) (e : Instr) : Prop := ∀ u, exec e s = .next u → exec (.mgtRegisterWrite r v) s = .next (answered u)
    let refused : State := { s with dev := { d with aerHost := true } }
    let reset : State := { State.reset with
      agenda := s.agenda, cur := s.cur, free := s.free
      dev := { State.reset.dev with
        fwVersion := d.fwStaged.getD d.fwVersion, fwSlot := (if d.fwStaged = none then d.fwSlot else !d.fwSlot), answers := d.answers } }
    answers (.mctpControl bs) ∧ answers (.getVersion bs) ∧ answers (.getCapabilities bs) ∧ answers (.negotiateAlgorithms bs) ∧
    answers (.getDigests bs) ∧ answers (.getCertificate bs) ∧ answers (.getMeasurements bs) ∧ answers .mgtInventoryRead ∧
    answers .mgtErrlogRead ∧
    (∀ x, s.devReg d.psel reg = some x → gives (.mgtRegisterRead reg) 8 x.toNat) ∧
    (s.devReg d.psel reg = none → answers (.mgtRegisterRead reg)) ∧
    s.devReg d.psel 0xC02 = some (d.own.setWidth 64) ∧ s.devReg d.psel 0xD00 = some d.fwVersion ∧
    s.devReg d.psel 0xCC2 = some (BitVec.ofNat 64 ((s.getPart d.psel).weight * 2 ^ 16 + (s.getPart d.psel).nl)) ∧
    gives (.mgtSensorRead reg) 2 (s.getPage reg).therm.toNat ∧
    (reg < 16 → like (0xCD0 + reg) (.hostVfmapWrite reg v false)) ∧ like 0xC02 (.devOwnWrite v false) ∧
    (v.getLsbD 23 = false → like 0xCC1 (.pageAssign v false)) ∧ (v.getLsbD 23 = true → like 0xCC1 (.pageRelease v false)) ∧
    like 0xCC2 (.hostPcfgWrite v false) ∧ like 0xCC3 (.hostXareaWrite v false) ∧ like 0xCC4 (.hostCntclr v false) ∧
    (∀ r ∈ [0xC01, 0xC03, 0xC04, 0xCC0], like r (.registerWrite .pf r v false)) ∧
    (d.own.getLsbD 3 = true → exec .mgtPackageReset s = .next (answered reset)) ∧
    (d.own.getLsbD 3 = false → exec .mgtPackageReset s = .next (answered refused)) ∧
    (∀ signed, (d.own.getLsbD 4 = true → exec (.mgtFirmwareStage v signed) s =
        .next (answered { s with dev := { d with fwStaged := if signed then some v else none } })) ∧
      (d.own.getLsbD 4 = false → exec (.mgtFirmwareStage v signed) s = .next (answered refused))))

/-! ## Steps, words and the whole machine -/

/-- A step takes the next turn of the agenda. A context whose firing stands before a word runs the instruction that the word
decodes to; any other context runs a BLOCK_FIRING; an operator runs the action that R220 chooses; an event runs as it is; a
turn that names no instruction is the fault of its own name. An instruction placed by `withFetchWord` is the next one run.
The turns that are no step of the table run none: an error waits for the access that meets it, and a decoded block is
evicted (log entry 90). Where the rules leave a choice open or are read by inference, this states the model's reading, that
of log entries 1, 14 and 90. -/
def Obligations.StepRunsDecoded : Prop :=
  ∀ (s : State) (k : Nat) (rest : List Turn) (i : Instr) (f : FmtC),
    let c := s.getCe k
    let o := s.getOp k
    let at_ (t : Turn) : State := { s with agenda := rest, cur := t }
    let stands := c.fir.active = true ∧ (lget {} c.binds c.fir.bind).state = .firing ∧ c.fir.idx < c.fir.block.words.length
    (s.agenda = .ce k :: rest → stands → fmtOf c.fir.word ≠ .c → decode c.fir.word = .ok i → step s = exec i (at_ (.ce k))) ∧
    (∀ e, s.agenda = .ce k :: rest → stands → fmtOf c.fir.word = .c ∨ decode c.fir.word = .error e → step s = .fault .undecodedWord) ∧
    (s.agenda = .ce k :: rest → ¬ stands → step s = exec (.blockFiring k) (at_ (.ce k))) ∧
    (s.agenda = .op k :: rest → o.instr = some i → fmtCOf i = some f → step s = exec
      (if s.opConfig o f ≠ none then .configTokenTake k else if s.opMark o i f ≠ none then .controlMarkDiscard k else i) (at_ (.op k))) ∧
    (s.agenda = .event i :: rest → encode i = none → step s = exec i (at_ (.event i))) ∧
    (s.agenda = .event i :: rest → encode i ≠ none → step s = .fault .undecodedWord) ∧
    (∀ w lost, s.agenda = .wordError w lost :: rest →
      step s = .next { s with agenda := rest, wordErrs := tput s.wordErrs w lost }) ∧
    (∀ a e, s.agenda = .sectorError a e :: rest → step s = .next { s with agenda := rest, sectorErrs := tput s.sectorErrs a e }) ∧
    (∀ a, s.agenda = .evict k a :: rest → step s = .next
      (({ s with agenda := rest } : State).setCe k { c with dec := c.dec.filter fun d => d.address != a })) ∧
    (∀ acc link lost, s.agenda = .systemError k acc link lost :: rest →
      step s = .next (({ s with agenda := rest } : State).systemError k acc link lost)) ∧
    (s.agenda = [] → ∃ t : Turn, step s = step { s with agenda := [t], free := s.free + 1 }) ∧
    ∀ w, decodeTableWord 64 w = some i → ∃ t, step (State.reset.withFetchWord 64 w) = exec i t

/-- R78, R81, R82, R88 to R92, R98: words written out from the encodings, one of each format and family, decode to the
instructions they stand for; the bytes of a word are read lowest address first (R3). A sanity statement. -/
def Obligations.DecodeWords : Prop :=
  (∀ e ∈ ([
    (0x0242_92C2_B022_6000, .add ⟨.s32, 1, .s 2, .imm 5, .zero, .s 3, .none⟩),
    (0x0100_9160_3022_420D, .mov ⟨.s8, 0, .s 1, .zero, .zero, .s 2, .slot 3 .b⟩),
    (0x0A10_A161_B022_6000, .xorOp ⟨.z8, 0, .w 1, .ctxid, .zero, .s 3, .none⟩),
    (0xD000_6030_6220_0000, .csrrd ⟨0, .zero, .ones, .s 1, 0⟩)] : List (Word × Instr)),
    decode e.1 = .ok e.2) ∧
  ∀ w, decodeBytes (bytesOfWord w) = decode w

/-- R80, R98, R100: every well-formed instruction decodes from the word that encodes it, with every operand at every value
its fields allow; and a word that decodes is the one encoding of a well-formed instruction, so that no bit of it is dropped. -/
def Obligations.EncodeDecode : Prop :=
  (∀ (i : Instr) (w : Word), i.bad = none → encode i = some w → decode w = .ok i) ∧
  ∀ (i : Instr) (w : Word), decode w = .ok i → encode i = some w ∧ i.bad = none

/-- Every step keeps every memory in its canonical form, so that equal memories are equal data (the model's own
representation; log entry 6 says what an unlisted byte reads as). -/
def Obligations.MemoriesStayCanonical : Prop :=
  ∀ s t : State, MemoryOk s → step s = .next t → MemoryOk t

/-- R353, R375, R377, R380, R381, R459: what reset leaves, where the rules give it: the registers of a page, a context, a
partition and the device, with every memory in canonical form and nothing owned. -/
def Obligations.ResetState : Prop :=
  let s := State.reset
  MemoryOk s ∧ s.cycle = 0 ∧ s.dev.ready = 2 ^ 51 ∧ s.dev.root = false ∧ s.dev.pkg = 0 ∧ s.dev.own = 0b010000 ∧ s.dev.pcap = 4200 ∧
  s.dev.lrtab = 0 ∧
  (∀ k, (s.getCe k).stat = 0 ∧ (s.getCe k).seed = 1 ∧ (∀ b ∈ (s.getCe k).binds, b.state = .idle ∧ b.stack = [] ∧ b.wait = .none)) ∧
  (∀ g, (s.getPage g).quantum = 512 ∧ (s.getPage g).active = 0 ∧ (s.getPage g).used = 0 ∧ (s.getPage g).idle = 0 ∧ (s.getPage g).drain = false ∧
    (s.getPage g).thermLimit = 760 ∧ (s.getPage g).owner = none) ∧
  (∀ p, (s.getPart p).pred = 0 ∧ (s.getPart p).job.status = 0 ∧ (s.getPart p).traps = [] ∧ (s.getPart p).pages = [])
end

