-- ==== Sys2Proof/Laws/Tab.lean ====
section
/-!
SUPPORT. Sys2Proof/Laws/Tab.lean: the laws of tables and of memory: read after write, and the canonical form that every
memory operation keeps.
-/

namespace Sys2Proof.Machine

/-! ## Tables -/

section
variable {α : Type} (d : α)

theorem tget_eq_tfind (t : Tab α) (k : Nat) : tget d t k = (tfind t k).getD d := by
  induction t with
  | nil => rfl
  | cons e t ih => obtain ⟨j, v⟩ := e; simp only [tget, tfind]; split <;> simp [ih]

@[simp] theorem tget_tput_self (t : Tab α) (k : Nat) (x : α) : tget d (tput t k x) k = x := by
  induction t with
  | nil => simp [tput, tget]
  | cons e t ih =>
    obtain ⟨j, v⟩ := e
    simp only [tput]
    split
    · simp [tget]
    · split
      · simp [tget]
      · simp [tget, *]

theorem tget_tput_ne (t : Tab α) {k n : Nat} (x : α) (h : n ≠ k) : tget d (tput t k x) n = tget d t n := by
  induction t with
  | nil => simp [tput, tget, Ne.symm h]
  | cons e t ih =>
    obtain ⟨j, v⟩ := e
    simp only [tput]
    split
    · rename_i e; subst e; simp [tget, Ne.symm h]
    · split
      · simp [tget, Ne.symm h]
      · simp [tget, ih]

theorem tget_tput (t : Tab α) (k n : Nat) (x : α) : tget d (tput t k x) n = if n = k then x else tget d t n := by
  split
  · next h => subst h; exact tget_tput_self d t n x
  · next h => exact tget_tput_ne d t x h

@[simp] theorem tfind_tput_self (t : Tab α) (k : Nat) (x : α) : tfind (tput t k x) k = some x := by
  induction t with
  | nil => simp [tput, tfind]
  | cons e t ih =>
    obtain ⟨j, v⟩ := e
    simp only [tput]
    split
    · simp [tfind]
    · split
      · simp [tfind]
      · simp [tfind, *]

theorem tfind_tput_ne (t : Tab α) {k n : Nat} (x : α) (h : n ≠ k) : tfind (tput t k x) n = tfind t n := by
  induction t with
  | nil => simp [tput, tfind, Ne.symm h]
  | cons e t ih =>
    obtain ⟨j, v⟩ := e
    simp only [tput]
    split
    · rename_i e; subst e; simp [tfind, Ne.symm h]
    · split
      · simp [tfind, Ne.symm h]
      · simp [tfind, ih]

@[simp] theorem tget_nil (k : Nat) : tget d ([] : Tab α) k = d := rfl
@[simp] theorem tfind_nil (k : Nat) : tfind ([] : Tab α) k = none := rfl

@[simp] theorem tput_tput_self (t : Tab α) (k : Nat) (x y : α) : tput (tput t k x) k y = tput t k y := by
  induction t with
  | nil => simp [tput]
  | cons e t ih =>
    obtain ⟨j, v⟩ := e
    simp only [tput]
    split
    · simp [tput]
    · next h =>
      split
      · simp [tput]
      · next h' => simp [tput, h, h', ih]

end

/-! ## Units of the state -/

section
variable (s : State) (k : Nat)

@[simp] theorem State.getCe_setCe (c : CeCtx) : (s.setCe k c).getCe k = c := by simp [State.getCe, State.setCe]
@[simp] theorem State.getOp_setOp (o : OpSlot) : (s.setOp k o).getOp k = o := by simp [State.getOp, State.setOp]
@[simp] theorem State.getPage_setPage (p : Page) : (s.setPage k p).getPage k = p := by simp [State.getPage, State.setPage]
@[simp] theorem State.getMt_setMt (m : MemTile) : (s.setMt k m).getMt k = m := by simp [State.getMt, State.setMt]
@[simp] theorem State.getMn_setMn (m : MatNode) : (s.setMn k m).getMn k = m := by simp [State.getMn, State.setMn]
@[simp] theorem State.getPart_setPart (p : Partition) : (s.setPart k p).getPart k = p := by simp [State.getPart, State.setPart]
@[simp] theorem State.getDc_setDc (c : DevChan) : (s.setDc k c).getDc k = c := by simp [State.getDc, State.setDc]
@[simp] theorem State.getEgress_setEgress (e : Egress) : (s.setEgress k e).getEgress k = e := by
  simp [State.getEgress, State.setEgress]
@[simp] theorem State.getIngress_setIngress (e : Ingress) : (s.setIngress k e).getIngress k = e := by
  simp [State.getIngress, State.setIngress]

theorem State.getCe_setCe_ne (c : CeCtx) {n : Nat} (h : n ≠ k) : (s.setCe k c).getCe n = s.getCe n :=
  tget_tput_ne _ _ _ h
theorem State.getOp_setOp_ne (o : OpSlot) {n : Nat} (h : n ≠ k) : (s.setOp k o).getOp n = s.getOp n :=
  tget_tput_ne _ _ _ h
theorem State.getPart_setPart_ne (p : Partition) {n : Nat} (h : n ≠ k) : (s.setPart k p).getPart n = s.getPart n :=
  tget_tput_ne _ _ _ h
theorem State.getMt_setMt_ne (m : MemTile) {n : Nat} (h : n ≠ k) : (s.setMt k m).getMt n = s.getMt n :=
  tget_tput_ne _ _ _ h
theorem State.getPage_setPage_ne (p : Page) {n : Nat} (h : n ≠ k) : (s.setPage k p).getPage n = s.getPage n :=
  tget_tput_ne _ _ _ h

end

/-! ## Memory -/

/-- The canonical form, said of the whole list: addresses rise and no entry is blank. -/
theorem Memory.wf_iff (m : Memory) :
    Memory.wf m = true ↔ m.Pairwise (fun a b => a.1 < b.1) ∧ ∀ e ∈ m, e.2 ≠ Memory.blank := by
  induction m with
  | nil => simp [Memory.wf]
  | cons c m ih =>
    obtain ⟨a, b⟩ := c
    cases m with
    | nil => simp [Memory.wf]
    | cons e m =>
      obtain ⟨a', b'⟩ := e
      simp only [Memory.wf, Bool.and_eq_true, bne_iff_ne, ne_eq, decide_eq_true_eq] at ih ⊢
      rw [ih]
      simp only [List.pairwise_cons, List.mem_cons]
      constructor
      · rintro ⟨⟨hb, ha⟩, ⟨h1, h2⟩, h3⟩
        refine ⟨⟨?_, h1, h2⟩, ?_⟩
        · rintro x (rfl | hx)
          · exact ha
          · exact Nat.lt_trans ha (h1 x hx)
        · rintro x (rfl | hx)
          · exact hb
          · exact h3 x hx
      · rintro ⟨⟨h0, h1, h2⟩, h3⟩
        exact ⟨⟨h3 _ (.inl rfl), h0 _ (.inl rfl)⟩, ⟨h1, h2⟩, fun x hx => h3 x (.inr hx)⟩

theorem Memory.wf_tail {c : Host.Cell} {m : Memory} (h : Memory.wf (c :: m) = true) : Memory.wf m = true := by
  rw [Memory.wf_iff] at h ⊢
  exact ⟨(List.pairwise_cons.1 h.1).2, fun e he => h.2 e (List.mem_cons_of_mem _ he)⟩

/-- A byte not listed reads as blank. -/
theorem Memory.read_eq_blank (m : Memory) (k : Nat) (h : ∀ e ∈ m, e.1 ≠ k) : m.read k = Memory.blank := by
  induction m with
  | nil => rfl
  | cons c m ih =>
    obtain ⟨a, b⟩ := c
    simp [Memory.read, h (a, b) (by simp), ih fun e he => h e (List.mem_cons_of_mem _ he)]

/-- A listed byte reads as its entry. -/
theorem Memory.mem_write {m : Memory} {k : Nat} {x : Byte} {e : Host.Cell} (h : e ∈ m.write k x) :
    e = (k, x) ∨ e ∈ m := by
  induction m with
  | nil => simp only [Memory.write] at h; split at h <;> simp_all
  | cons c m ih =>
    obtain ⟨a, b⟩ := c
    simp only [Memory.write] at h
    split at h
    · split at h
      · exact .inr (List.mem_cons_of_mem _ h)
      · rcases List.mem_cons.1 h with h | h
        · exact .inl h
        · exact .inr (List.mem_cons_of_mem _ h)
    · split at h
      · split at h
        · exact .inr h
        · rcases List.mem_cons.1 h with h | h
          · exact .inl h
          · exact .inr h
      · rcases List.mem_cons.1 h with h | h
        · exact .inr (h ▸ List.mem_cons_self)
        · exact (ih h).imp id (List.mem_cons_of_mem _)

/-- Writing a byte keeps the canonical form. -/
theorem Memory.write_wf {m : Memory} (h : Memory.wf m = true) (k : Nat) (x : Byte) : Memory.wf (m.write k x) = true := by
  induction m with
  | nil => simp only [Memory.write]; split <;> simp_all [Memory.wf]
  | cons c m ih =>
    obtain ⟨a, b⟩ := c
    have ht := Memory.wf_tail h
    have ih := ih ht
    rw [Memory.wf_iff] at h ht ih ⊢
    obtain ⟨hp, hb⟩ := h
    have ⟨hlt, hp'⟩ := List.pairwise_cons.1 hp
    simp only [Memory.write]
    split
    · next e =>
      subst e
      split
      · exact ht
      · exact ⟨List.pairwise_cons.2 ⟨hlt, hp'⟩, by
          intro e he
          rcases List.mem_cons.1 he with rfl | he
          · assumption
          · exact ht.2 e he⟩
    · split
      · next hk =>
        split
        · exact ⟨hp, hb⟩
        · next hx =>
          refine ⟨List.pairwise_cons.2 ⟨?_, hp⟩, ?_⟩
          · intro e he
            rcases List.mem_cons.1 he with rfl | he
            · exact hk
            · exact Nat.lt_trans hk (hlt e he)
          · intro e he
            rcases List.mem_cons.1 he with rfl | he
            · exact hx
            · exact hb e he
      · next hk hk' =>
        refine ⟨List.pairwise_cons.2 ⟨?_, ih.1⟩, ?_⟩
        · intro e he
          rcases Memory.mem_write he with rfl | he
          · show a < k; omega
          · exact hlt e he
        · intro e he
          rcases List.mem_cons.1 he with rfl | he
          · exact hb _ (by simp)
          · exact ih.2 e he

/-- Read after write, to the same byte. -/
theorem Memory.read_write_self {m : Memory} (h : Memory.wf m = true) (k : Nat) (x : Byte) : (m.write k x).read k = x := by
  induction m with
  | nil => simp only [Memory.write]; split <;> simp_all [Memory.read]
  | cons c m ih =>
    obtain ⟨a, b⟩ := c
    have hp := ((Memory.wf_iff _).1 h).1
    have hlt := (List.pairwise_cons.1 hp).1
    simp only [Memory.write]
    split
    · next e =>
      subst e
      split
      · next hx => rw [hx]; exact Memory.read_eq_blank _ _ fun e he => Nat.ne_of_gt (hlt e he)
      · simp [Memory.read]
    · next hne =>
      split
      · next hk =>
        split
        · next hx =>
          rw [hx]
          refine Memory.read_eq_blank _ _ fun e he => ?_
          rcases List.mem_cons.1 he with rfl | he
          · exact hne
          · exact Nat.ne_of_gt (Nat.lt_trans hk (hlt e he))
        · simp [Memory.read]
      · simp [Memory.read, hne, ih (Memory.wf_tail h)]

/-- A write leaves every other byte alone. -/
theorem Memory.read_write_ne (m : Memory) {k n : Nat} (x : Byte) (h : n ≠ k) : (m.write k x).read n = m.read n := by
  induction m with
  | nil => simp only [Memory.write]; split <;> simp [Memory.read, Ne.symm h]
  | cons c m ih =>
    obtain ⟨a, b⟩ := c
    simp only [Memory.write]
    split
    · next e => subst e; split <;> simp [Memory.read, Ne.symm h]
    · split
      · split <;> simp [Memory.read, Ne.symm h]
      · simp [Memory.read, ih]

theorem Memory.writeBytes_wf {m : Memory} (h : Memory.wf m = true) (a : Nat) (bs : List Byte) :
    Memory.wf (m.writeBytes a bs) = true := by
  induction bs generalizing m a with
  | nil => exact h
  | cons b bs ih => exact ih (Memory.write_wf h a b) (a + 1)

/-- The bytes of a write elsewhere read as before. -/
theorem Memory.read_writeBytes_ne (m : Memory) (a : Nat) (bs : List Byte) {n : Nat} (h : n < a ∨ a + bs.length ≤ n) :
    (m.writeBytes a bs).read n = m.read n := by
  induction bs generalizing m a with
  | nil => rfl
  | cons b bs ih =>
    rw [List.length_cons] at h
    have h' : n < a + 1 ∨ a + 1 + bs.length ≤ n := by omega
    show ((m.write a b).writeBytes (a + 1) bs).read n = m.read n
    rw [ih _ _ h', Memory.read_write_ne _ _ (by omega)]

/-- Byte i of a write reads as the i-th byte written. -/
theorem Memory.read_writeBytes {m : Memory} (h : Memory.wf m = true) (a : Nat) (bs : List Byte) {i : Nat} (hi : i < bs.length) :
    (m.writeBytes a bs).read (a + i) = bs[i] := by
  induction bs generalizing m a i with
  | nil => simp at hi
  | cons b bs ih =>
    show ((m.write a b).writeBytes (a + 1) bs).read (a + i) = _
    cases i with
    | zero => rw [Memory.read_writeBytes_ne _ _ _ (by omega)]; exact Memory.read_write_self h a b
    | succ i =>
      have := ih (Memory.write_wf h a b) (a + 1) (i := i) (by simpa using hi)
      rw [show a + (i + 1) = a + 1 + i by omega, this]; rfl

/-- Clearing a range keeps the canonical form. -/
theorem Memory.clear_wf {m : Memory} (h : Memory.wf m = true) (a n : Nat) : Memory.wf (m.clear a n) = true := by
  rw [Memory.wf_iff] at h ⊢
  exact ⟨h.1.filter _, fun e he => h.2 e (List.mem_filter.1 he).1⟩

/-- A cleared byte reads blank, and every other byte reads as before. -/
theorem Memory.read_clear (m : Memory) (a n k : Nat) :
    (m.clear a n).read k = if a ≤ k ∧ k < a + n then Memory.blank else m.read k := by
  induction m with
  | nil => simp [Memory.clear, Memory.read]
  | cons c m ih =>
    obtain ⟨x, b⟩ := c
    simp only [Memory.clear, List.filter_cons] at ih ⊢
    split
    · next hx =>
      simp only [Memory.read]
      split
      · next e =>
        subst e
        rw [if_neg]
        simp at hx; omega
      · exact ih
    · next hx =>
      simp only [Memory.read]
      rw [ih]
      by_cases hk : a ≤ k ∧ k < a + n
      · simp [hk]
      · rw [if_neg hk, if_neg hk, if_neg]
        rintro rfl
        simp at hx; omega

theorem Memory.writeMask_wf {m : Memory} (h : Memory.wf m = true) (a : Nat) (mask : BitVec 128) (v : Vec) :
    Memory.wf (m.writeMask a mask v) = true := by
  unfold Memory.writeMask
  generalize List.range 128 = l
  induction l generalizing m with
  | nil => exact h
  | cons i l ih =>
    rw [List.foldl_cons]
    split
    · exact ih (Memory.write_wf h _ _)
    · exact ih h

end Sys2Proof.Machine
end

