-- ==== Sys2Proof/Laws/Cycle.lean ====
section
/-!
SUPPORT. Sys2Proof/Laws/Cycle.lean: what the rules that order the events of one cycle fix, whatever the agenda is: PSET writes (R181),
the numbers of records (R419), credits (R15, R345) and the launches that bar their level (R33).
-/

namespace Sys2Proof.Machine

/-! ## PSET writes (R181) -/

/-- A block without PSET writes leaves the partition as it is. -/
@[simp] theorem Partition.psets_nil (p : Partition) (k : Nat) : p.psets k [] = p := rfl

/-- A block without PSET writes never waits for a later cycle (R437). -/
@[simp] theorem State.psetLate_nil (s : State) (part : Nat) (f : Firing) (h : f.psets = []) : s.psetLate part f = false := by
  simp [State.psetLate, h]

/-- Two blocks of a cycle leave the same predicates whichever of them ends first (R181). -/
theorem Partition.psets_comm (p : Partition) (k k' : Nat) (ws ws' : List (Nat × Nat × Bool)) (h : p.predLate = [])
    (hk : psetKey k ≠ psetKey k') : (p.psets k ws).psets k' ws' = (p.psets k' ws').psets k ws := by
  cases ws with
  | nil => simp
  | cons w ws =>
    cases ws' with
    | nil => simp
    | cons w' ws' =>
      rcases Nat.lt_or_gt_of_ne hk with hlt | hlt
      · have h1 : ¬ psetKey k' ≤ psetKey k := by omega
        have h2 : psetKey k ≤ psetKey k' := by omega
        simp [Partition.psets, h, h1, h2]
      · have h1 : ¬ psetKey k ≤ psetKey k' := by omega
        have h2 : psetKey k' ≤ psetKey k := by omega
        simp [Partition.psets, h, h1, h2]

/-! ## Records (R417, R419) -/

/-- A record takes the RSEQ it is given. -/
@[simp] theorem recordRseq_withRseq (b : BitVec 512) (n : BitVec 16) : recordRseq (withRseq b n) = n := by
  have h : ∀ i, i < 16 → (b.extractLsb' 16 496 ++ n).getLsbD i = n.getLsbD i := fun i hi => by
    rw [BitVec.getLsbD_append]; simp [hi]
  unfold recordRseq withRseq
  apply BitVec.eq_of_getLsbD_eq
  intro i hi
  simp [h, hi]

/-- And keeps everything else. -/
theorem withRseq_getLsbD (b : BitVec 512) (n : BitVec 16) (i : Nat) (h : 16 ≤ i) (hi : i < 512) :
    (withRseq b n).getLsbD i = b.getLsbD i := by
  have h' : (b.extractLsb' 16 496 ++ n).getLsbD i = b.getLsbD i := by
    rw [BitVec.getLsbD_append]
    simp [show ¬ i < 16 by omega, show i - 16 < 496 by omega, show 16 + (i - 16) = i by omega]
  exact h'

/-! ## Credits (R15, R345) -/

/-- Credits taken back are those the producer holds and those it owes from then on. -/
theorem Chan.dropCredit_balance (c : Chan) (n : Nat) (h : c.credited = true) :
    (c.dropCredit n).credit + n + c.debt = c.credit + (c.dropCredit n).debt := by
  simp only [Chan.dropCredit, h, Bool.not_true, Bool.false_eq_true, if_false]
  omega

/-- Credits that come back pay what the producer owes before it gets any. -/
theorem Chan.addCredit_debt (c : Chan) (n : Nat) (h : c.credited = true) (hn : n ≤ c.debt) (hc : c.credit ≤ c.capacity) :
    c.addCredit n = { c with debt := c.debt - n } := by
  simp only [Chan.addCredit, h, Bool.not_true, Bool.false_eq_true, if_false]
  congr 1
  omega

/-! ## Launches that bar their level (R33) -/

/-- A launch that was placed bars nothing. -/
theorem State.unbar_barred (s : State) (part id : Nat) : id ∉ ((s.unbar part id).getPart part).barred := by
  unfold State.unbar State.mapPart
  rw [State.getPart_setPart]
  simp

/-- A launch that could not be placed bars its level. -/
theorem State.bar_barred (s : State) (part id : Nat) : id ∈ ((s.bar part id).getPart part).barred := by
  unfold State.bar State.mapPart
  rw [State.getPart_setPart]
  by_cases h : id ∈ (s.getPart part).barred <;> simp [h]

end Sys2Proof.Machine
end

