-- ==== Sys2Proof/Laws/Deliver.lean ====
section
/-!
SUPPORT. Sys2Proof/Laws/Deliver.lean: what delivering a result does (R28, R81, R82, R165), said once for each shared
operation.
-/

namespace Sys2Proof.Machine

@[simp] theorem lget_lmod_self {α : Type} (d : α) (l : List α) (n : Nat) (f : α → α) (h : n < l.length) :
    lget d (lmod l n f) n = f (lget d l n) := by
  simp [lget, lmod, List.getD_eq_getElem?_getD, List.getElem?_eq_getElem h]

theorem lget_lmod_ne {α : Type} (d : α) (l : List α) {n m : Nat} (f : α → α) (h : m ≠ n) :
    lget d (lmod l n f) m = lget d l m := by
  simp [lget, lmod, List.getD_eq_getElem?_getD, Ne.symm h]

theorem lget_lmod_ge {α : Type} (d : α) (l : List α) {n m : Nat} (f : α → α) (h : l.length ≤ n) :
    lget d (lmod l n f) m = lget d l m := by
  rw [lmod, List.modify_eq_self h]

theorem slotKey_inj {i i' : BitVec 7} {x x' : SlotName}
    (h : 3 * i.toNat + SlotName.no x = 3 * i'.toNat + SlotName.no x') : i = i' ∧ x = x' := by
  have h1 : i.toNat = i'.toNat := by cases x <;> cases x' <;> simp [SlotName.no] at h <;> omega
  refine ⟨BitVec.eq_of_toNat_eq h1, ?_⟩
  rw [h1] at h
  cases x <;> cases x' <;> simp [SlotName.no] at h ⊢

/-! ## One target -/

section
variable (c : CeCtx) (vec : Bool) (v : Vec) (g : Tgt)

theorem CeCtx.putTgt_sreg (n : Fin 8) : (c.putTgt vec v g).regs.s[n] = if g = .s ⟨n⟩ then v.toWord else c.regs.s[n] := by
  cases g with
  | s m =>
    simp only [CeCtx.putTgt, Tgt.s.injEq, Fin.getElem_fin, Vector.getElem_setIfInBounds]
    congr 1
    rw [eq_iff_iff]
    constructor
    · intro h; exact BitVec.eq_of_toNat_eq h
    · intro h; rw [h]; rfl
  | out j o => simp [CeCtx.putTgt, CeCtx.stageTok]; split <;> rfl
  | _ => simp [CeCtx.putTgt]

theorem CeCtx.putTgt_wreg (n : Fin 4) : (c.putTgt vec v g).regs.w[n] = if g = .w ⟨n⟩ then v else c.regs.w[n] := by
  cases g with
  | w m =>
    simp only [CeCtx.putTgt, Tgt.w.injEq, Fin.getElem_fin, Vector.getElem_setIfInBounds]
    congr 1
    rw [eq_iff_iff]
    constructor
    · intro h; exact BitVec.eq_of_toNat_eq h
    · intro h; rw [h]; rfl
  | out j o => simp [CeCtx.putTgt, CeCtx.stageTok]; split <;> rfl
  | _ => simp [CeCtx.putTgt]

theorem CeCtx.putTgt_preg (n : Fin 8) : (c.putTgt vec v g).regs.p[n] = if g = .p ⟨n⟩ then v.getLsbD 0 else c.regs.p[n] := by
  cases g with
  | p m =>
    simp only [CeCtx.putTgt, Tgt.p.injEq, Fin.getElem_fin, Vector.getElem_setIfInBounds]
    congr 1
    rw [eq_iff_iff]
    constructor
    · intro h; exact BitVec.eq_of_toNat_eq h
    · intro h; rw [h]; rfl
  | out j o => simp [CeCtx.putTgt, CeCtx.stageTok]; split <;> rfl
  | _ => simp [CeCtx.putTgt]

theorem CeCtx.putTgt_slot (i : BitVec 7) (x : SlotName) :
    tget 0 (c.putTgt vec v g).fir.slots (3 * i.toNat + SlotName.no x) =
      if g = .slot i x then v else tget 0 c.fir.slots (3 * i.toNat + SlotName.no x) := by
  cases g with
  | slot j y =>
    simp only [CeCtx.putTgt, Tgt.slot.injEq]
    rw [tget_tput]
    congr 1
    rw [eq_iff_iff]
    constructor
    · intro h; have := slotKey_inj h; exact ⟨this.1.symm, this.2.symm⟩
    · rintro ⟨rfl, rfl⟩; rfl
  | out j o => simp [CeCtx.putTgt, CeCtx.stageTok]; split <;> rfl
  | _ => simp [CeCtx.putTgt]

theorem CeCtx.putTgt_out (j : BitVec 3) (o : BitVec 4) (hp : c.fir.pub j.toNat ≤ o.toNat) (hj : j.toNat < c.outs.length) :
    tget default (lget {} (c.putTgt vec v g).outs j.toNat).stage (o.toNat - c.fir.pub j.toNat) =
      if g = .out j o then ⟨if vec then 1 else 0, v, 0⟩
      else tget default (lget {} c.outs j.toNat).stage (o.toNat - c.fir.pub j.toNat) := by
  cases g with
  | out j' o' =>
    simp only [CeCtx.putTgt, CeCtx.stageTok, Tgt.out.injEq]
    by_cases hjj : j' = j
    · subst hjj
      by_cases ho : o' = o
      · subst ho
        simp [Nat.not_lt.2 hp, hj]
      · have ho' : o'.toNat ≠ o.toNat := fun e => ho (BitVec.eq_of_toNat_eq e)
        simp only [ho, and_false, if_false]
        split
        · rfl
        · next h =>
          rw [lget_lmod_self _ _ _ _ hj]
          exact tget_tput_ne _ _ _ (by omega)
    · have hn : j.toNat ≠ j'.toNat := fun e => hjj (BitVec.eq_of_toNat_eq e.symm)
      simp only [hjj, false_and, if_false]
      split
      · rfl
      · rw [lget_lmod_ne _ _ _ hn]
  | _ => simp [CeCtx.putTgt]

theorem CeCtx.putTgt_outRest (j : Nat) :
    lget {} (c.putTgt vec v g).outs j = { lget {} c.outs j with stage := (lget {} (c.putTgt vec v g).outs j).stage } := by
  cases g with
  | out j' o' =>
    simp only [CeCtx.putTgt, CeCtx.stageTok]
    split
    · rfl
    · by_cases h : j = j'.toNat
      · subst h
        by_cases hl : j'.toNat < c.outs.length
        · simp [hl]
        · rw [lget_lmod_ge _ _ _ (Nat.not_lt.1 hl)]
      · rw [lget_lmod_ne _ _ _ h]
  | _ => rfl

/-- What a target can change: the s, w and p registers, the output slots and the slots of the firing. -/
theorem CeCtx.putTgt_frame : c.putTgt vec v g = { c with
    regs := { c.regs with s := (c.putTgt vec v g).regs.s, w := (c.putTgt vec v g).regs.w, p := (c.putTgt vec v g).regs.p }
    outs := (c.putTgt vec v g).outs
    fir := { c.fir with slots := (c.putTgt vec v g).fir.slots } } := by
  cases g with
  | out j o => simp only [CeCtx.putTgt, CeCtx.stageTok]; split <;> rfl
  | _ => rfl

@[simp] theorem CeCtx.putTgt_pub (j : Nat) : (c.putTgt vec v g).fir.pub j = c.fir.pub j := by
  rw [CeCtx.putTgt_frame]; rfl

@[simp] theorem CeCtx.putTgt_outs_length : (c.putTgt vec v g).outs.length = c.outs.length := by
  cases g with
  | out j o => simp only [CeCtx.putTgt, CeCtx.stageTok]; split <;> simp [lmod]
  | _ => rfl

end

/-! ## Both targets -/

/-- `deliver(v)`: everything `CeCtx.result` does. -/
theorem CeCtx.result_delivered (c : CeCtx) (ta tb : Tgt) (r : Res) : Delivered c (c.result ta tb r) ta tb r.vec r.val r.flags where
  frame := by
    simp only [CeCtx.result, CeCtx.bump, CeCtx.flag, CeCtx.put2]
    rw [CeCtx.putTgt_frame (c.putTgt r.vec r.val ta) r.vec r.val tb, CeCtx.putTgt_frame c r.vec r.val ta]
  sreg n := by
    show ((c.putTgt r.vec r.val ta).putTgt r.vec r.val tb).regs.s[n] = _
    rw [CeCtx.putTgt_sreg, CeCtx.putTgt_sreg]
    by_cases h1 : tb = .s ⟨n⟩ <;> by_cases h2 : ta = .s ⟨n⟩ <;> simp [h1, h2]
  wreg n := by
    show ((c.putTgt r.vec r.val ta).putTgt r.vec r.val tb).regs.w[n] = _
    rw [CeCtx.putTgt_wreg, CeCtx.putTgt_wreg]
    by_cases h1 : tb = .w ⟨n⟩ <;> by_cases h2 : ta = .w ⟨n⟩ <;> simp [h1, h2]
  preg n := by
    show ((c.putTgt r.vec r.val ta).putTgt r.vec r.val tb).regs.p[n] = _
    rw [CeCtx.putTgt_preg, CeCtx.putTgt_preg]
    by_cases h1 : tb = .p ⟨n⟩ <;> by_cases h2 : ta = .p ⟨n⟩ <;> simp [h1, h2]
  slot i x := by
    show tget 0 ((c.putTgt r.vec r.val ta).putTgt r.vec r.val tb).fir.slots _ = _
    rw [CeCtx.putTgt_slot, CeCtx.putTgt_slot]
    by_cases h1 : tb = .slot i x <;> by_cases h2 : ta = .slot i x <;> simp [h1, h2]
  out j o hp hj := by
    show tget default (lget {} ((c.putTgt r.vec r.val ta).putTgt r.vec r.val tb).outs j.toNat).stage _ = _
    have h := CeCtx.putTgt_out (c.putTgt r.vec r.val ta) r.vec r.val tb j o (by simpa using hp) (by simpa using hj)
    rw [CeCtx.putTgt_pub] at h
    rw [h, CeCtx.putTgt_out c r.vec r.val ta j o hp hj]
    by_cases h1 : tb = .out j o <;> by_cases h2 : ta = .out j o <;> simp [h1, h2]
  outRest j := by
    show lget {} ((c.putTgt r.vec r.val ta).putTgt r.vec r.val tb).outs j = _
    rw [CeCtx.putTgt_outRest (c.putTgt r.vec r.val ta) r.vec r.val tb j]
    rw [CeCtx.putTgt_outRest c r.vec r.val ta j]
    rfl

/-- One target and no flags: everything `CeCtx.give` does. -/
theorem CeCtx.give_delivered (c : CeCtx) (vec : Bool) (v : Vec) (ta : Tgt) :
    Delivered c (c.give vec v ta) ta .none vec v 0 := by
  have h : c.give vec v ta = c.result ta .none ⟨v, vec, 0⟩ := by
    simp [CeCtx.give, CeCtx.result, CeCtx.put2, CeCtx.flag, CeCtx.putTgt]
  rw [h]; exact c.result_delivered ta .none ⟨v, vec, 0⟩

/-! ## One context -/

/-- Changing the running context changes nothing else. -/
theorem State.mapCe_only (s : State) (f : CeCtx → CeCtx) : OnlyContext s (s.mapCe s.key f) where
  rest := rfl
  others _ h := State.getCe_setCe_ne s s.key _ h

@[simp] theorem State.getCe_mapCe (s : State) (k : Nat) (f : CeCtx → CeCtx) : (s.mapCe k f).getCe k = f (s.getCe k) := by
  simp [State.mapCe]

/-- A computing instruction of format T completes. -/
theorem gives_pureT {i : Instr} {s : State} {f : FmtT} {g : Rd → Res} (h : exec i s = .next (s.pureT f g)) {P : Vec → Prop}
    (hP : P (g (s.rdAt s.key)).val) : Gives i s f.ta f.tb (g (s.rdAt s.key)).vec (g (s.rdAt s.key)).flags P :=
  ⟨_, _, h, State.mapCe_only s _, by
    have := CeCtx.result_delivered (s.getCe s.key) f.ta f.tb (g (s.rdAt s.key))
    simpa [State.pureT, State.rdAt] using this, hP⟩

/-- A computing instruction of format I completes. -/
theorem gives_pureI {i : Instr} {s : State} {f : FmtI} {g : Rd → Res} (h : exec i s = .next (s.pureI f g)) {P : Vec → Prop}
    (hP : P (g (s.rdAt s.key)).val) : Gives i s f.ta f.tb (g (s.rdAt s.key)).vec (g (s.rdAt s.key)).flags P :=
  ⟨_, _, h, State.mapCe_only s _, by
    have := CeCtx.result_delivered (s.getCe s.key) f.ta f.tb (g (s.rdAt s.key))
    simpa [State.pureI, State.rdAt] using this, hP⟩

end Sys2Proof.Machine
end

