-- ==== Sys2Proof/Laws/Integers.lean ====
section
/-!
SUPPORT. Sys2Proof/Laws/Integers.lean: the integer helpers of R51, R52 and R111 meet their descriptions.
-/

namespace Sys2Proof.Machine

theorem width_pos (t : Ty) : 0 < t.width := by cases t <;> decide
theorem width_le (t : Ty) : t.width ≤ 64 := by cases t <;> decide

theorem lowBits_lt (v : Int) (n : Nat) : lowBits v n < 2 ^ n := by
  unfold lowBits
  have h : (0 : Int) < ((2 ^ n : Nat) : Int) := by exact_mod_cast Nat.two_pow_pos n
  have h1 := Int.emod_nonneg v (ne_of_gt h)
  have h2 := Int.emod_lt_of_pos v h
  omega

theorem lowBits_cast (v : Int) (n : Nat) : ((lowBits v n : Nat) : Int) = v % (2 ^ n : Int) := by
  unfold lowBits
  have h : (0 : Int) < ((2 ^ n : Nat) : Int) := by exact_mod_cast Nat.two_pow_pos n
  have h1 := Int.emod_nonneg v (ne_of_gt h)
  push_cast at *
  omega

theorem sextN_range (v n : Nat) (hn : 0 < n) : -(2 : Int) ^ (n - 1) ≤ sextN v n ∧ sextN v n < 2 ^ (n - 1) := by
  obtain ⟨m, rfl⟩ : ∃ m, n = m + 1 := ⟨n - 1, by omega⟩
  unfold sextN
  have hm : v % 2 ^ (m + 1) < 2 ^ (m + 1) := Nat.mod_lt _ (Nat.two_pow_pos _)
  generalize v % 2 ^ (m + 1) = u at *
  rw [Nat.add_sub_cancel]
  have h2 : (2 : Int) ^ (m + 1) = 2 * 2 ^ m := pow_succ' ..
  have h2' : (2 : Nat) ^ (m + 1) = 2 * 2 ^ m := pow_succ' ..
  have hc : ((2 ^ m : Nat) : Int) = (2 : Int) ^ m := by push_cast; rfl
  split <;> constructor <;> omega

theorem sextN_dvd (v n : Nat) : ((2 : Int) ^ n) ∣ (v : Int) - sextN v n := by
  unfold sextN
  have h : ((v % 2 ^ n : Nat) : Int) = (v : Int) - 2 ^ n * ((v / 2 ^ n : Nat) : Int) := by
    have := Nat.mod_add_div v (2 ^ n)
    have h' : ((v % 2 ^ n : Nat) : Int) + 2 ^ n * ((v / 2 ^ n : Nat) : Int) = v := by exact_mod_cast this
    omega
  generalize hq : ((v / 2 ^ n : Nat) : Int) = q at h
  split
  · rw [h]; exact ⟨q, by ring⟩
  · rw [h]; exact ⟨q + 1, by ring⟩

theorem extT_range (t : Ty) (v : Nat) : InRange t (extT t v) := by
  unfold InRange extT
  split
  · exact sextN_range v _ (width_pos t)
  · refine ⟨by positivity, ?_⟩
    exact_mod_cast Nat.mod_lt v (Nat.two_pow_pos _)

theorem extT_dvd (t : Ty) (v : Nat) : ((2 : Int) ^ t.width) ∣ (v : Int) - extT t v := by
  unfold extT
  split
  · exact sextN_dvd v _
  · push_cast
    exact Int.dvd_self_sub_emod

theorem wrapT_dvd (t : Ty) (v : Int) : ((2 : Int) ^ t.width) ∣ v - wrapT t v := by
  unfold wrapT
  have h := extT_dvd t (lowBits v t.width)
  rw [lowBits_cast] at h
  have h' : ((2 : Int) ^ t.width) ∣ v - v % 2 ^ t.width := Int.dvd_self_sub_emod
  have := dvd_add h' h
  simpa using this

/-- `wrap` meets its description. -/
theorem wrapT_fits (t : Ty) (v : Int) : Fits false t v (wrapT t v) := ⟨extT_range _ _, by simpa using wrapT_dvd t v⟩

theorem tyMin_le_tyMax (t : Ty) : tyMin t ≤ tyMax t := by cases t <;> decide

theorem inRange_iff (t : Ty) (x : Int) : InRange t x ↔ tyMin t ≤ x ∧ x ≤ tyMax t := by
  unfold InRange tyMin tyMax
  split
  · push_cast; constructor <;> rintro ⟨h1, h2⟩ <;> constructor <;> omega
  · push_cast; constructor <;> rintro ⟨h1, h2⟩ <;> constructor <;> omega

/-- `sat` meets its description. -/
theorem satT_fits (t : Ty) (v : Int) : Fits true t v (satT t v) := by
  have hm := tyMin_le_tyMax t
  unfold Fits satT
  simp only [if_true, inRange_iff]
  split
  · refine ⟨⟨le_refl _, hm⟩, fun h => by omega, fun y hy => ⟨fun _ => hy.1, fun h => by omega⟩⟩
  · split
    · refine ⟨⟨hm, le_refl _⟩, fun h => by omega, fun y hy => ⟨fun h => by omega, fun h => hy.2⟩⟩
    · refine ⟨⟨by omega, by omega⟩, fun _ => rfl, fun y _ => ⟨fun h => by omega, fun h => by omega⟩⟩

theorem fitT_fits (sat : Bool) (t : Ty) (v : Int) : Fits sat t v (fitT sat t v) := by
  cases sat
  · exact wrapT_fits t v
  · exact satT_fits t v

theorem fitT_range (sat : Bool) (t : Ty) (v : Int) : InRange t (fitT sat t v) := (fitT_fits sat t v).1

/-- An integer in the range of its type is delivered as its 64-bit pattern. -/
theorem scalarOf_eq {t : Ty} {x : Int} (h : InRange t x) : scalarOf t x = BitVec.ofInt 64 x := by
  unfold scalarOf
  split
  · rfl
  · next hs =>
    unfold InRange at h
    rw [if_neg hs] at h
    have hl : ((lowBits x t.width : Nat) : Int) = x := by
      rw [lowBits_cast]; exact Int.emod_eq_of_lt h.1 h.2
    conv => rhs; rw [← hl]
    exact (BitVec.ofInt_natCast _ _).symm

theorem Rd.int_range (r : Rd) (t : Ty) (sl : SlotName) (x : Src) : InRange t (r.int t sl x) := by
  cases x <;> exact extT_range _ _

/-- An integer result in the range of its type. -/
theorem Res.int_val {t : Ty} {x : Int} (h : InRange t x) (fl : Flags) :
    (Res.int t x fl).val = Word.toVec (BitVec.ofInt 64 x) := by
  simp [Res.int, scalarOf_eq h]

/-- An instruction of format T with an integer result in range completes with it. -/
theorem givesInt_T {i : Instr} {s : State} {f : FmtT} {g : Rd → Int} {fl : Flags} (h : exec i s = .next (s.pureT f fun r => .int f.ty (g r) fl))
    (hr : InRange f.ty (g (s.rdAt s.key))) {P : Int → Prop} (hP : P (g (s.rdAt s.key))) : GivesInt i s f.ta f.tb fl P :=
  gives_pureT (g := fun r => .int f.ty (g r) fl) h ⟨_, Res.int_val hr fl, hP⟩

/-- The same for format I. -/
theorem givesInt_I {i : Instr} {s : State} {f : FmtI} {g : Rd → Int} {fl : Flags} (h : exec i s = .next (s.pureI f fun r => .int f.ty (g r) fl))
    (hr : InRange f.ty (g (s.rdAt s.key))) {P : Int → Prop} (hP : P (g (s.rdAt s.key))) : GivesInt i s f.ta f.tb fl P :=
  gives_pureI (g := fun r => .int f.ty (g r) fl) h ⟨_, Res.int_val hr fl, hP⟩

end Sys2Proof.Machine
end

