-- ==== Sys2Proof/Laws/State.lean ====
section
/-!
SUPPORT. Sys2Proof/Laws/State.lean: the small lemmas of the state's updates: what each one-unit update leaves in each field.
-/

namespace Sys2Proof.Machine

variable (s : State) (k : Nat)


/-! ## setCe -/

@[simp] theorem State.setCe_ce (c : CeCtx) : (s.setCe k c).ce = tput s.ce k c := rfl
@[simp] theorem State.setCe_agenda (c : CeCtx) : (s.setCe k c).agenda = s.agenda := rfl
@[simp] theorem State.setCe_cur (c : CeCtx) : (s.setCe k c).cur = s.cur := rfl
@[simp] theorem State.setCe_free (c : CeCtx) : (s.setCe k c).free = s.free := rfl
@[simp] theorem State.setCe_cycle (c : CeCtx) : (s.setCe k c).cycle = s.cycle := rfl
@[simp] theorem State.setCe_slew (c : CeCtx) : (s.setCe k c).slew = s.slew := rfl
@[simp] theorem State.setCe_ops (c : CeCtx) : (s.setCe k c).ops = s.ops := rfl
@[simp] theorem State.setCe_chans (c : CeCtx) : (s.setCe k c).chans = s.chans := rfl
@[simp] theorem State.setCe_routes (c : CeCtx) : (s.setCe k c).routes = s.routes := rfl
@[simp] theorem State.setCe_starts (c : CeCtx) : (s.setCe k c).starts = s.starts := rfl
@[simp] theorem State.setCe_links (c : CeCtx) : (s.setCe k c).links = s.links := rfl
@[simp] theorem State.setCe_buses (c : CeCtx) : (s.setCe k c).buses = s.buses := rfl
@[simp] theorem State.setCe_pages (c : CeCtx) : (s.setCe k c).pages = s.pages := rfl
@[simp] theorem State.setCe_mts (c : CeCtx) : (s.setCe k c).mts = s.mts := rfl
@[simp] theorem State.setCe_mns (c : CeCtx) : (s.setCe k c).mns = s.mns := rfl
@[simp] theorem State.setCe_streams (c : CeCtx) : (s.setCe k c).streams = s.streams := rfl
@[simp] theorem State.setCe_ports (c : CeCtx) : (s.setCe k c).ports = s.ports := rfl
@[simp] theorem State.setCe_portCache (c : CeCtx) : (s.setCe k c).portCache = s.portCache := rfl
@[simp] theorem State.setCe_devChans (c : CeCtx) : (s.setCe k c).devChans = s.devChans := rfl
@[simp] theorem State.setCe_walks (c : CeCtx) : (s.setCe k c).walks = s.walks := rfl
@[simp] theorem State.setCe_wcache (c : CeCtx) : (s.setCe k c).wcache = s.wcache := rfl
@[simp] theorem State.setCe_egress (c : CeCtx) : (s.setCe k c).egress = s.egress := rfl
@[simp] theorem State.setCe_ingress (c : CeCtx) : (s.setCe k c).ingress = s.ingress := rfl
@[simp] theorem State.setCe_launches (c : CeCtx) : (s.setCe k c).launches = s.launches := rfl
@[simp] theorem State.setCe_graphs (c : CeCtx) : (s.setCe k c).graphs = s.graphs := rfl
@[simp] theorem State.setCe_phases (c : CeCtx) : (s.setCe k c).phases = s.phases := rfl
@[simp] theorem State.setCe_nextId (c : CeCtx) : (s.setCe k c).nextId = s.nextId := rfl
@[simp] theorem State.setCe_placements (c : CeCtx) : (s.setCe k c).placements = s.placements := rfl
@[simp] theorem State.setCe_parts (c : CeCtx) : (s.setCe k c).parts = s.parts := rfl
@[simp] theorem State.setCe_stops (c : CeCtx) : (s.setCe k c).stops = s.stops := rfl
@[simp] theorem State.setCe_dev (c : CeCtx) : (s.setCe k c).dev = s.dev := rfl
@[simp] theorem State.setCe_counters (c : CeCtx) : (s.setCe k c).counters = s.counters := rfl
@[simp] theorem State.setCe_counted (c : CeCtx) : (s.setCe k c).counted = s.counted := rfl
@[simp] theorem State.setCe_perfReads (c : CeCtx) : (s.setCe k c).perfReads = s.perfReads := rfl
@[simp] theorem State.setCe_scratch (c : CeCtx) : (s.setCe k c).scratch = s.scratch := rfl
@[simp] theorem State.setCe_istore (c : CeCtx) : (s.setCe k c).istore = s.istore := rfl
@[simp] theorem State.setCe_wbuf (c : CeCtx) : (s.setCe k c).wbuf = s.wbuf := rfl
@[simp] theorem State.setCe_accs (c : CeCtx) : (s.setCe k c).accs = s.accs := rfl
@[simp] theorem State.setCe_device (c : CeCtx) : (s.setCe k c).device = s.device := rfl
@[simp] theorem State.setCe_lineScope (c : CeCtx) : (s.setCe k c).lineScope = s.lineScope := rfl
@[simp] theorem State.setCe_sectorScope (c : CeCtx) : (s.setCe k c).sectorScope = s.sectorScope := rfl
@[simp] theorem State.setCe_sectorLost (c : CeCtx) : (s.setCe k c).sectorLost = s.sectorLost := rfl
@[simp] theorem State.setCe_wordErrs (c : CeCtx) : (s.setCe k c).wordErrs = s.wordErrs := rfl
@[simp] theorem State.setCe_sectorErrs (c : CeCtx) : (s.setCe k c).sectorErrs = s.sectorErrs := rfl

/-! ## setOp -/

@[simp] theorem State.setOp_ops (o : OpSlot) : (s.setOp k o).ops = tput s.ops k o := rfl
@[simp] theorem State.setOp_agenda (o : OpSlot) : (s.setOp k o).agenda = s.agenda := rfl
@[simp] theorem State.setOp_cur (o : OpSlot) : (s.setOp k o).cur = s.cur := rfl
@[simp] theorem State.setOp_free (o : OpSlot) : (s.setOp k o).free = s.free := rfl
@[simp] theorem State.setOp_cycle (o : OpSlot) : (s.setOp k o).cycle = s.cycle := rfl
@[simp] theorem State.setOp_slew (o : OpSlot) : (s.setOp k o).slew = s.slew := rfl
@[simp] theorem State.setOp_ce (o : OpSlot) : (s.setOp k o).ce = s.ce := rfl
@[simp] theorem State.setOp_chans (o : OpSlot) : (s.setOp k o).chans = s.chans := rfl
@[simp] theorem State.setOp_routes (o : OpSlot) : (s.setOp k o).routes = s.routes := rfl
@[simp] theorem State.setOp_starts (o : OpSlot) : (s.setOp k o).starts = s.starts := rfl
@[simp] theorem State.setOp_links (o : OpSlot) : (s.setOp k o).links = s.links := rfl
@[simp] theorem State.setOp_buses (o : OpSlot) : (s.setOp k o).buses = s.buses := rfl
@[simp] theorem State.setOp_pages (o : OpSlot) : (s.setOp k o).pages = s.pages := rfl
@[simp] theorem State.setOp_mts (o : OpSlot) : (s.setOp k o).mts = s.mts := rfl
@[simp] theorem State.setOp_mns (o : OpSlot) : (s.setOp k o).mns = s.mns := rfl
@[simp] theorem State.setOp_streams (o : OpSlot) : (s.setOp k o).streams = s.streams := rfl
@[simp] theorem State.setOp_ports (o : OpSlot) : (s.setOp k o).ports = s.ports := rfl
@[simp] theorem State.setOp_portCache (o : OpSlot) : (s.setOp k o).portCache = s.portCache := rfl
@[simp] theorem State.setOp_devChans (o : OpSlot) : (s.setOp k o).devChans = s.devChans := rfl
@[simp] theorem State.setOp_walks (o : OpSlot) : (s.setOp k o).walks = s.walks := rfl
@[simp] theorem State.setOp_wcache (o : OpSlot) : (s.setOp k o).wcache = s.wcache := rfl
@[simp] theorem State.setOp_egress (o : OpSlot) : (s.setOp k o).egress = s.egress := rfl
@[simp] theorem State.setOp_ingress (o : OpSlot) : (s.setOp k o).ingress = s.ingress := rfl
@[simp] theorem State.setOp_launches (o : OpSlot) : (s.setOp k o).launches = s.launches := rfl
@[simp] theorem State.setOp_graphs (o : OpSlot) : (s.setOp k o).graphs = s.graphs := rfl
@[simp] theorem State.setOp_phases (o : OpSlot) : (s.setOp k o).phases = s.phases := rfl
@[simp] theorem State.setOp_nextId (o : OpSlot) : (s.setOp k o).nextId = s.nextId := rfl
@[simp] theorem State.setOp_placements (o : OpSlot) : (s.setOp k o).placements = s.placements := rfl
@[simp] theorem State.setOp_parts (o : OpSlot) : (s.setOp k o).parts = s.parts := rfl
@[simp] theorem State.setOp_stops (o : OpSlot) : (s.setOp k o).stops = s.stops := rfl
@[simp] theorem State.setOp_dev (o : OpSlot) : (s.setOp k o).dev = s.dev := rfl
@[simp] theorem State.setOp_counters (o : OpSlot) : (s.setOp k o).counters = s.counters := rfl
@[simp] theorem State.setOp_counted (o : OpSlot) : (s.setOp k o).counted = s.counted := rfl
@[simp] theorem State.setOp_perfReads (o : OpSlot) : (s.setOp k o).perfReads = s.perfReads := rfl
@[simp] theorem State.setOp_scratch (o : OpSlot) : (s.setOp k o).scratch = s.scratch := rfl
@[simp] theorem State.setOp_istore (o : OpSlot) : (s.setOp k o).istore = s.istore := rfl
@[simp] theorem State.setOp_wbuf (o : OpSlot) : (s.setOp k o).wbuf = s.wbuf := rfl
@[simp] theorem State.setOp_accs (o : OpSlot) : (s.setOp k o).accs = s.accs := rfl
@[simp] theorem State.setOp_device (o : OpSlot) : (s.setOp k o).device = s.device := rfl
@[simp] theorem State.setOp_lineScope (o : OpSlot) : (s.setOp k o).lineScope = s.lineScope := rfl
@[simp] theorem State.setOp_sectorScope (o : OpSlot) : (s.setOp k o).sectorScope = s.sectorScope := rfl
@[simp] theorem State.setOp_sectorLost (o : OpSlot) : (s.setOp k o).sectorLost = s.sectorLost := rfl
@[simp] theorem State.setOp_wordErrs (o : OpSlot) : (s.setOp k o).wordErrs = s.wordErrs := rfl
@[simp] theorem State.setOp_sectorErrs (o : OpSlot) : (s.setOp k o).sectorErrs = s.sectorErrs := rfl

/-! ## setChan -/

@[simp] theorem State.setChan_chans (c : Chan) : (s.setChan k c).chans = tput s.chans k c := rfl
@[simp] theorem State.setChan_agenda (c : Chan) : (s.setChan k c).agenda = s.agenda := rfl
@[simp] theorem State.setChan_cur (c : Chan) : (s.setChan k c).cur = s.cur := rfl
@[simp] theorem State.setChan_free (c : Chan) : (s.setChan k c).free = s.free := rfl
@[simp] theorem State.setChan_cycle (c : Chan) : (s.setChan k c).cycle = s.cycle := rfl
@[simp] theorem State.setChan_slew (c : Chan) : (s.setChan k c).slew = s.slew := rfl
@[simp] theorem State.setChan_ce (c : Chan) : (s.setChan k c).ce = s.ce := rfl
@[simp] theorem State.setChan_ops (c : Chan) : (s.setChan k c).ops = s.ops := rfl
@[simp] theorem State.setChan_routes (c : Chan) : (s.setChan k c).routes = s.routes := rfl
@[simp] theorem State.setChan_starts (c : Chan) : (s.setChan k c).starts = s.starts := rfl
@[simp] theorem State.setChan_links (c : Chan) : (s.setChan k c).links = s.links := rfl
@[simp] theorem State.setChan_buses (c : Chan) : (s.setChan k c).buses = s.buses := rfl
@[simp] theorem State.setChan_pages (c : Chan) : (s.setChan k c).pages = s.pages := rfl
@[simp] theorem State.setChan_mts (c : Chan) : (s.setChan k c).mts = s.mts := rfl
@[simp] theorem State.setChan_mns (c : Chan) : (s.setChan k c).mns = s.mns := rfl
@[simp] theorem State.setChan_streams (c : Chan) : (s.setChan k c).streams = s.streams := rfl
@[simp] theorem State.setChan_ports (c : Chan) : (s.setChan k c).ports = s.ports := rfl
@[simp] theorem State.setChan_portCache (c : Chan) : (s.setChan k c).portCache = s.portCache := rfl
@[simp] theorem State.setChan_devChans (c : Chan) : (s.setChan k c).devChans = s.devChans := rfl
@[simp] theorem State.setChan_walks (c : Chan) : (s.setChan k c).walks = s.walks := rfl
@[simp] theorem State.setChan_wcache (c : Chan) : (s.setChan k c).wcache = s.wcache := rfl
@[simp] theorem State.setChan_egress (c : Chan) : (s.setChan k c).egress = s.egress := rfl
@[simp] theorem State.setChan_ingress (c : Chan) : (s.setChan k c).ingress = s.ingress := rfl
@[simp] theorem State.setChan_launches (c : Chan) : (s.setChan k c).launches = s.launches := rfl
@[simp] theorem State.setChan_graphs (c : Chan) : (s.setChan k c).graphs = s.graphs := rfl
@[simp] theorem State.setChan_phases (c : Chan) : (s.setChan k c).phases = s.phases := rfl
@[simp] theorem State.setChan_nextId (c : Chan) : (s.setChan k c).nextId = s.nextId := rfl
@[simp] theorem State.setChan_placements (c : Chan) : (s.setChan k c).placements = s.placements := rfl
@[simp] theorem State.setChan_parts (c : Chan) : (s.setChan k c).parts = s.parts := rfl
@[simp] theorem State.setChan_stops (c : Chan) : (s.setChan k c).stops = s.stops := rfl
@[simp] theorem State.setChan_dev (c : Chan) : (s.setChan k c).dev = s.dev := rfl
@[simp] theorem State.setChan_counters (c : Chan) : (s.setChan k c).counters = s.counters := rfl
@[simp] theorem State.setChan_counted (c : Chan) : (s.setChan k c).counted = s.counted := rfl
@[simp] theorem State.setChan_perfReads (c : Chan) : (s.setChan k c).perfReads = s.perfReads := rfl
@[simp] theorem State.setChan_scratch (c : Chan) : (s.setChan k c).scratch = s.scratch := rfl
@[simp] theorem State.setChan_istore (c : Chan) : (s.setChan k c).istore = s.istore := rfl
@[simp] theorem State.setChan_wbuf (c : Chan) : (s.setChan k c).wbuf = s.wbuf := rfl
@[simp] theorem State.setChan_accs (c : Chan) : (s.setChan k c).accs = s.accs := rfl
@[simp] theorem State.setChan_device (c : Chan) : (s.setChan k c).device = s.device := rfl
@[simp] theorem State.setChan_lineScope (c : Chan) : (s.setChan k c).lineScope = s.lineScope := rfl
@[simp] theorem State.setChan_sectorScope (c : Chan) : (s.setChan k c).sectorScope = s.sectorScope := rfl
@[simp] theorem State.setChan_sectorLost (c : Chan) : (s.setChan k c).sectorLost = s.sectorLost := rfl
@[simp] theorem State.setChan_wordErrs (c : Chan) : (s.setChan k c).wordErrs = s.wordErrs := rfl
@[simp] theorem State.setChan_sectorErrs (c : Chan) : (s.setChan k c).sectorErrs = s.sectorErrs := rfl

/-! ## setPage -/

@[simp] theorem State.setPage_pages (p : Page) : (s.setPage k p).pages = tput s.pages k p := rfl
@[simp] theorem State.setPage_agenda (p : Page) : (s.setPage k p).agenda = s.agenda := rfl
@[simp] theorem State.setPage_cur (p : Page) : (s.setPage k p).cur = s.cur := rfl
@[simp] theorem State.setPage_free (p : Page) : (s.setPage k p).free = s.free := rfl
@[simp] theorem State.setPage_cycle (p : Page) : (s.setPage k p).cycle = s.cycle := rfl
@[simp] theorem State.setPage_slew (p : Page) : (s.setPage k p).slew = s.slew := rfl
@[simp] theorem State.setPage_ce (p : Page) : (s.setPage k p).ce = s.ce := rfl
@[simp] theorem State.setPage_ops (p : Page) : (s.setPage k p).ops = s.ops := rfl
@[simp] theorem State.setPage_chans (p : Page) : (s.setPage k p).chans = s.chans := rfl
@[simp] theorem State.setPage_routes (p : Page) : (s.setPage k p).routes = s.routes := rfl
@[simp] theorem State.setPage_starts (p : Page) : (s.setPage k p).starts = s.starts := rfl
@[simp] theorem State.setPage_links (p : Page) : (s.setPage k p).links = s.links := rfl
@[simp] theorem State.setPage_buses (p : Page) : (s.setPage k p).buses = s.buses := rfl
@[simp] theorem State.setPage_mts (p : Page) : (s.setPage k p).mts = s.mts := rfl
@[simp] theorem State.setPage_mns (p : Page) : (s.setPage k p).mns = s.mns := rfl
@[simp] theorem State.setPage_streams (p : Page) : (s.setPage k p).streams = s.streams := rfl
@[simp] theorem State.setPage_ports (p : Page) : (s.setPage k p).ports = s.ports := rfl
@[simp] theorem State.setPage_portCache (p : Page) : (s.setPage k p).portCache = s.portCache := rfl
@[simp] theorem State.setPage_devChans (p : Page) : (s.setPage k p).devChans = s.devChans := rfl
@[simp] theorem State.setPage_walks (p : Page) : (s.setPage k p).walks = s.walks := rfl
@[simp] theorem State.setPage_wcache (p : Page) : (s.setPage k p).wcache = s.wcache := rfl
@[simp] theorem State.setPage_egress (p : Page) : (s.setPage k p).egress = s.egress := rfl
@[simp] theorem State.setPage_ingress (p : Page) : (s.setPage k p).ingress = s.ingress := rfl
@[simp] theorem State.setPage_launches (p : Page) : (s.setPage k p).launches = s.launches := rfl
@[simp] theorem State.setPage_graphs (p : Page) : (s.setPage k p).graphs = s.graphs := rfl
@[simp] theorem State.setPage_phases (p : Page) : (s.setPage k p).phases = s.phases := rfl
@[simp] theorem State.setPage_nextId (p : Page) : (s.setPage k p).nextId = s.nextId := rfl
@[simp] theorem State.setPage_placements (p : Page) : (s.setPage k p).placements = s.placements := rfl
@[simp] theorem State.setPage_parts (p : Page) : (s.setPage k p).parts = s.parts := rfl
@[simp] theorem State.setPage_stops (p : Page) : (s.setPage k p).stops = s.stops := rfl
@[simp] theorem State.setPage_dev (p : Page) : (s.setPage k p).dev = s.dev := rfl
@[simp] theorem State.setPage_counters (p : Page) : (s.setPage k p).counters = s.counters := rfl
@[simp] theorem State.setPage_counted (p : Page) : (s.setPage k p).counted = s.counted := rfl
@[simp] theorem State.setPage_perfReads (p : Page) : (s.setPage k p).perfReads = s.perfReads := rfl
@[simp] theorem State.setPage_scratch (p : Page) : (s.setPage k p).scratch = s.scratch := rfl
@[simp] theorem State.setPage_istore (p : Page) : (s.setPage k p).istore = s.istore := rfl
@[simp] theorem State.setPage_wbuf (p : Page) : (s.setPage k p).wbuf = s.wbuf := rfl
@[simp] theorem State.setPage_accs (p : Page) : (s.setPage k p).accs = s.accs := rfl
@[simp] theorem State.setPage_device (p : Page) : (s.setPage k p).device = s.device := rfl
@[simp] theorem State.setPage_lineScope (p : Page) : (s.setPage k p).lineScope = s.lineScope := rfl
@[simp] theorem State.setPage_sectorScope (p : Page) : (s.setPage k p).sectorScope = s.sectorScope := rfl
@[simp] theorem State.setPage_sectorLost (p : Page) : (s.setPage k p).sectorLost = s.sectorLost := rfl
@[simp] theorem State.setPage_wordErrs (p : Page) : (s.setPage k p).wordErrs = s.wordErrs := rfl
@[simp] theorem State.setPage_sectorErrs (p : Page) : (s.setPage k p).sectorErrs = s.sectorErrs := rfl

/-! ## setMt -/

@[simp] theorem State.setMt_mts (m : MemTile) : (s.setMt k m).mts = tput s.mts k m := rfl
@[simp] theorem State.setMt_agenda (m : MemTile) : (s.setMt k m).agenda = s.agenda := rfl
@[simp] theorem State.setMt_cur (m : MemTile) : (s.setMt k m).cur = s.cur := rfl
@[simp] theorem State.setMt_free (m : MemTile) : (s.setMt k m).free = s.free := rfl
@[simp] theorem State.setMt_cycle (m : MemTile) : (s.setMt k m).cycle = s.cycle := rfl
@[simp] theorem State.setMt_slew (m : MemTile) : (s.setMt k m).slew = s.slew := rfl
@[simp] theorem State.setMt_ce (m : MemTile) : (s.setMt k m).ce = s.ce := rfl
@[simp] theorem State.setMt_ops (m : MemTile) : (s.setMt k m).ops = s.ops := rfl
@[simp] theorem State.setMt_chans (m : MemTile) : (s.setMt k m).chans = s.chans := rfl
@[simp] theorem State.setMt_routes (m : MemTile) : (s.setMt k m).routes = s.routes := rfl
@[simp] theorem State.setMt_starts (m : MemTile) : (s.setMt k m).starts = s.starts := rfl
@[simp] theorem State.setMt_links (m : MemTile) : (s.setMt k m).links = s.links := rfl
@[simp] theorem State.setMt_buses (m : MemTile) : (s.setMt k m).buses = s.buses := rfl
@[simp] theorem State.setMt_pages (m : MemTile) : (s.setMt k m).pages = s.pages := rfl
@[simp] theorem State.setMt_mns (m : MemTile) : (s.setMt k m).mns = s.mns := rfl
@[simp] theorem State.setMt_streams (m : MemTile) : (s.setMt k m).streams = s.streams := rfl
@[simp] theorem State.setMt_ports (m : MemTile) : (s.setMt k m).ports = s.ports := rfl
@[simp] theorem State.setMt_portCache (m : MemTile) : (s.setMt k m).portCache = s.portCache := rfl
@[simp] theorem State.setMt_devChans (m : MemTile) : (s.setMt k m).devChans = s.devChans := rfl
@[simp] theorem State.setMt_walks (m : MemTile) : (s.setMt k m).walks = s.walks := rfl
@[simp] theorem State.setMt_wcache (m : MemTile) : (s.setMt k m).wcache = s.wcache := rfl
@[simp] theorem State.setMt_egress (m : MemTile) : (s.setMt k m).egress = s.egress := rfl
@[simp] theorem State.setMt_ingress (m : MemTile) : (s.setMt k m).ingress = s.ingress := rfl
@[simp] theorem State.setMt_launches (m : MemTile) : (s.setMt k m).launches = s.launches := rfl
@[simp] theorem State.setMt_graphs (m : MemTile) : (s.setMt k m).graphs = s.graphs := rfl
@[simp] theorem State.setMt_phases (m : MemTile) : (s.setMt k m).phases = s.phases := rfl
@[simp] theorem State.setMt_nextId (m : MemTile) : (s.setMt k m).nextId = s.nextId := rfl
@[simp] theorem State.setMt_placements (m : MemTile) : (s.setMt k m).placements = s.placements := rfl
@[simp] theorem State.setMt_parts (m : MemTile) : (s.setMt k m).parts = s.parts := rfl
@[simp] theorem State.setMt_stops (m : MemTile) : (s.setMt k m).stops = s.stops := rfl
@[simp] theorem State.setMt_dev (m : MemTile) : (s.setMt k m).dev = s.dev := rfl
@[simp] theorem State.setMt_counters (m : MemTile) : (s.setMt k m).counters = s.counters := rfl
@[simp] theorem State.setMt_counted (m : MemTile) : (s.setMt k m).counted = s.counted := rfl
@[simp] theorem State.setMt_perfReads (m : MemTile) : (s.setMt k m).perfReads = s.perfReads := rfl
@[simp] theorem State.setMt_scratch (m : MemTile) : (s.setMt k m).scratch = s.scratch := rfl
@[simp] theorem State.setMt_istore (m : MemTile) : (s.setMt k m).istore = s.istore := rfl
@[simp] theorem State.setMt_wbuf (m : MemTile) : (s.setMt k m).wbuf = s.wbuf := rfl
@[simp] theorem State.setMt_accs (m : MemTile) : (s.setMt k m).accs = s.accs := rfl
@[simp] theorem State.setMt_device (m : MemTile) : (s.setMt k m).device = s.device := rfl
@[simp] theorem State.setMt_lineScope (m : MemTile) : (s.setMt k m).lineScope = s.lineScope := rfl
@[simp] theorem State.setMt_sectorScope (m : MemTile) : (s.setMt k m).sectorScope = s.sectorScope := rfl
@[simp] theorem State.setMt_sectorLost (m : MemTile) : (s.setMt k m).sectorLost = s.sectorLost := rfl
@[simp] theorem State.setMt_wordErrs (m : MemTile) : (s.setMt k m).wordErrs = s.wordErrs := rfl
@[simp] theorem State.setMt_sectorErrs (m : MemTile) : (s.setMt k m).sectorErrs = s.sectorErrs := rfl

/-! ## setMn -/

@[simp] theorem State.setMn_mns (m : MatNode) : (s.setMn k m).mns = tput s.mns k m := rfl
@[simp] theorem State.setMn_agenda (m : MatNode) : (s.setMn k m).agenda = s.agenda := rfl
@[simp] theorem State.setMn_cur (m : MatNode) : (s.setMn k m).cur = s.cur := rfl
@[simp] theorem State.setMn_free (m : MatNode) : (s.setMn k m).free = s.free := rfl
@[simp] theorem State.setMn_cycle (m : MatNode) : (s.setMn k m).cycle = s.cycle := rfl
@[simp] theorem State.setMn_slew (m : MatNode) : (s.setMn k m).slew = s.slew := rfl
@[simp] theorem State.setMn_ce (m : MatNode) : (s.setMn k m).ce = s.ce := rfl
@[simp] theorem State.setMn_ops (m : MatNode) : (s.setMn k m).ops = s.ops := rfl
@[simp] theorem State.setMn_chans (m : MatNode) : (s.setMn k m).chans = s.chans := rfl
@[simp] theorem State.setMn_routes (m : MatNode) : (s.setMn k m).routes = s.routes := rfl
@[simp] theorem State.setMn_starts (m : MatNode) : (s.setMn k m).starts = s.starts := rfl
@[simp] theorem State.setMn_links (m : MatNode) : (s.setMn k m).links = s.links := rfl
@[simp] theorem State.setMn_buses (m : MatNode) : (s.setMn k m).buses = s.buses := rfl
@[simp] theorem State.setMn_pages (m : MatNode) : (s.setMn k m).pages = s.pages := rfl
@[simp] theorem State.setMn_mts (m : MatNode) : (s.setMn k m).mts = s.mts := rfl
@[simp] theorem State.setMn_streams (m : MatNode) : (s.setMn k m).streams = s.streams := rfl
@[simp] theorem State.setMn_ports (m : MatNode) : (s.setMn k m).ports = s.ports := rfl
@[simp] theorem State.setMn_portCache (m : MatNode) : (s.setMn k m).portCache = s.portCache := rfl
@[simp] theorem State.setMn_devChans (m : MatNode) : (s.setMn k m).devChans = s.devChans := rfl
@[simp] theorem State.setMn_walks (m : MatNode) : (s.setMn k m).walks = s.walks := rfl
@[simp] theorem State.setMn_wcache (m : MatNode) : (s.setMn k m).wcache = s.wcache := rfl
@[simp] theorem State.setMn_egress (m : MatNode) : (s.setMn k m).egress = s.egress := rfl
@[simp] theorem State.setMn_ingress (m : MatNode) : (s.setMn k m).ingress = s.ingress := rfl
@[simp] theorem State.setMn_launches (m : MatNode) : (s.setMn k m).launches = s.launches := rfl
@[simp] theorem State.setMn_graphs (m : MatNode) : (s.setMn k m).graphs = s.graphs := rfl
@[simp] theorem State.setMn_phases (m : MatNode) : (s.setMn k m).phases = s.phases := rfl
@[simp] theorem State.setMn_nextId (m : MatNode) : (s.setMn k m).nextId = s.nextId := rfl
@[simp] theorem State.setMn_placements (m : MatNode) : (s.setMn k m).placements = s.placements := rfl
@[simp] theorem State.setMn_parts (m : MatNode) : (s.setMn k m).parts = s.parts := rfl
@[simp] theorem State.setMn_stops (m : MatNode) : (s.setMn k m).stops = s.stops := rfl
@[simp] theorem State.setMn_dev (m : MatNode) : (s.setMn k m).dev = s.dev := rfl
@[simp] theorem State.setMn_counters (m : MatNode) : (s.setMn k m).counters = s.counters := rfl
@[simp] theorem State.setMn_counted (m : MatNode) : (s.setMn k m).counted = s.counted := rfl
@[simp] theorem State.setMn_perfReads (m : MatNode) : (s.setMn k m).perfReads = s.perfReads := rfl
@[simp] theorem State.setMn_scratch (m : MatNode) : (s.setMn k m).scratch = s.scratch := rfl
@[simp] theorem State.setMn_istore (m : MatNode) : (s.setMn k m).istore = s.istore := rfl
@[simp] theorem State.setMn_wbuf (m : MatNode) : (s.setMn k m).wbuf = s.wbuf := rfl
@[simp] theorem State.setMn_accs (m : MatNode) : (s.setMn k m).accs = s.accs := rfl
@[simp] theorem State.setMn_device (m : MatNode) : (s.setMn k m).device = s.device := rfl
@[simp] theorem State.setMn_lineScope (m : MatNode) : (s.setMn k m).lineScope = s.lineScope := rfl
@[simp] theorem State.setMn_sectorScope (m : MatNode) : (s.setMn k m).sectorScope = s.sectorScope := rfl
@[simp] theorem State.setMn_sectorLost (m : MatNode) : (s.setMn k m).sectorLost = s.sectorLost := rfl
@[simp] theorem State.setMn_wordErrs (m : MatNode) : (s.setMn k m).wordErrs = s.wordErrs := rfl
@[simp] theorem State.setMn_sectorErrs (m : MatNode) : (s.setMn k m).sectorErrs = s.sectorErrs := rfl

/-! ## setPart -/

@[simp] theorem State.setPart_parts (p : Partition) : (s.setPart k p).parts = tput s.parts k p := rfl
@[simp] theorem State.setPart_agenda (p : Partition) : (s.setPart k p).agenda = s.agenda := rfl
@[simp] theorem State.setPart_cur (p : Partition) : (s.setPart k p).cur = s.cur := rfl
@[simp] theorem State.setPart_free (p : Partition) : (s.setPart k p).free = s.free := rfl
@[simp] theorem State.setPart_cycle (p : Partition) : (s.setPart k p).cycle = s.cycle := rfl
@[simp] theorem State.setPart_slew (p : Partition) : (s.setPart k p).slew = s.slew := rfl
@[simp] theorem State.setPart_ce (p : Partition) : (s.setPart k p).ce = s.ce := rfl
@[simp] theorem State.setPart_ops (p : Partition) : (s.setPart k p).ops = s.ops := rfl
@[simp] theorem State.setPart_chans (p : Partition) : (s.setPart k p).chans = s.chans := rfl
@[simp] theorem State.setPart_routes (p : Partition) : (s.setPart k p).routes = s.routes := rfl
@[simp] theorem State.setPart_starts (p : Partition) : (s.setPart k p).starts = s.starts := rfl
@[simp] theorem State.setPart_links (p : Partition) : (s.setPart k p).links = s.links := rfl
@[simp] theorem State.setPart_buses (p : Partition) : (s.setPart k p).buses = s.buses := rfl
@[simp] theorem State.setPart_pages (p : Partition) : (s.setPart k p).pages = s.pages := rfl
@[simp] theorem State.setPart_mts (p : Partition) : (s.setPart k p).mts = s.mts := rfl
@[simp] theorem State.setPart_mns (p : Partition) : (s.setPart k p).mns = s.mns := rfl
@[simp] theorem State.setPart_streams (p : Partition) : (s.setPart k p).streams = s.streams := rfl
@[simp] theorem State.setPart_ports (p : Partition) : (s.setPart k p).ports = s.ports := rfl
@[simp] theorem State.setPart_portCache (p : Partition) : (s.setPart k p).portCache = s.portCache := rfl
@[simp] theorem State.setPart_devChans (p : Partition) : (s.setPart k p).devChans = s.devChans := rfl
@[simp] theorem State.setPart_walks (p : Partition) : (s.setPart k p).walks = s.walks := rfl
@[simp] theorem State.setPart_wcache (p : Partition) : (s.setPart k p).wcache = s.wcache := rfl
@[simp] theorem State.setPart_egress (p : Partition) : (s.setPart k p).egress = s.egress := rfl
@[simp] theorem State.setPart_ingress (p : Partition) : (s.setPart k p).ingress = s.ingress := rfl
@[simp] theorem State.setPart_launches (p : Partition) : (s.setPart k p).launches = s.launches := rfl
@[simp] theorem State.setPart_graphs (p : Partition) : (s.setPart k p).graphs = s.graphs := rfl
@[simp] theorem State.setPart_phases (p : Partition) : (s.setPart k p).phases = s.phases := rfl
@[simp] theorem State.setPart_nextId (p : Partition) : (s.setPart k p).nextId = s.nextId := rfl
@[simp] theorem State.setPart_placements (p : Partition) : (s.setPart k p).placements = s.placements := rfl
@[simp] theorem State.setPart_stops (p : Partition) : (s.setPart k p).stops = s.stops := rfl
@[simp] theorem State.setPart_dev (p : Partition) : (s.setPart k p).dev = s.dev := rfl
@[simp] theorem State.setPart_counters (p : Partition) : (s.setPart k p).counters = s.counters := rfl
@[simp] theorem State.setPart_counted (p : Partition) : (s.setPart k p).counted = s.counted := rfl
@[simp] theorem State.setPart_perfReads (p : Partition) : (s.setPart k p).perfReads = s.perfReads := rfl
@[simp] theorem State.setPart_scratch (p : Partition) : (s.setPart k p).scratch = s.scratch := rfl
@[simp] theorem State.setPart_istore (p : Partition) : (s.setPart k p).istore = s.istore := rfl
@[simp] theorem State.setPart_wbuf (p : Partition) : (s.setPart k p).wbuf = s.wbuf := rfl
@[simp] theorem State.setPart_accs (p : Partition) : (s.setPart k p).accs = s.accs := rfl
@[simp] theorem State.setPart_device (p : Partition) : (s.setPart k p).device = s.device := rfl
@[simp] theorem State.setPart_lineScope (p : Partition) : (s.setPart k p).lineScope = s.lineScope := rfl
@[simp] theorem State.setPart_sectorScope (p : Partition) : (s.setPart k p).sectorScope = s.sectorScope := rfl
@[simp] theorem State.setPart_sectorLost (p : Partition) : (s.setPart k p).sectorLost = s.sectorLost := rfl
@[simp] theorem State.setPart_wordErrs (p : Partition) : (s.setPart k p).wordErrs = s.wordErrs := rfl
@[simp] theorem State.setPart_sectorErrs (p : Partition) : (s.setPart k p).sectorErrs = s.sectorErrs := rfl

/-! ## setDc -/

@[simp] theorem State.setDc_devChans (c : DevChan) : (s.setDc k c).devChans = tput s.devChans k c := rfl
@[simp] theorem State.setDc_agenda (c : DevChan) : (s.setDc k c).agenda = s.agenda := rfl
@[simp] theorem State.setDc_cur (c : DevChan) : (s.setDc k c).cur = s.cur := rfl
@[simp] theorem State.setDc_free (c : DevChan) : (s.setDc k c).free = s.free := rfl
@[simp] theorem State.setDc_cycle (c : DevChan) : (s.setDc k c).cycle = s.cycle := rfl
@[simp] theorem State.setDc_slew (c : DevChan) : (s.setDc k c).slew = s.slew := rfl
@[simp] theorem State.setDc_ce (c : DevChan) : (s.setDc k c).ce = s.ce := rfl
@[simp] theorem State.setDc_ops (c : DevChan) : (s.setDc k c).ops = s.ops := rfl
@[simp] theorem State.setDc_chans (c : DevChan) : (s.setDc k c).chans = s.chans := rfl
@[simp] theorem State.setDc_routes (c : DevChan) : (s.setDc k c).routes = s.routes := rfl
@[simp] theorem State.setDc_starts (c : DevChan) : (s.setDc k c).starts = s.starts := rfl
@[simp] theorem State.setDc_links (c : DevChan) : (s.setDc k c).links = s.links := rfl
@[simp] theorem State.setDc_buses (c : DevChan) : (s.setDc k c).buses = s.buses := rfl
@[simp] theorem State.setDc_pages (c : DevChan) : (s.setDc k c).pages = s.pages := rfl
@[simp] theorem State.setDc_mts (c : DevChan) : (s.setDc k c).mts = s.mts := rfl
@[simp] theorem State.setDc_mns (c : DevChan) : (s.setDc k c).mns = s.mns := rfl
@[simp] theorem State.setDc_streams (c : DevChan) : (s.setDc k c).streams = s.streams := rfl
@[simp] theorem State.setDc_ports (c : DevChan) : (s.setDc k c).ports = s.ports := rfl
@[simp] theorem State.setDc_portCache (c : DevChan) : (s.setDc k c).portCache = s.portCache := rfl
@[simp] theorem State.setDc_walks (c : DevChan) : (s.setDc k c).walks = s.walks := rfl
@[simp] theorem State.setDc_wcache (c : DevChan) : (s.setDc k c).wcache = s.wcache := rfl
@[simp] theorem State.setDc_egress (c : DevChan) : (s.setDc k c).egress = s.egress := rfl
@[simp] theorem State.setDc_ingress (c : DevChan) : (s.setDc k c).ingress = s.ingress := rfl
@[simp] theorem State.setDc_launches (c : DevChan) : (s.setDc k c).launches = s.launches := rfl
@[simp] theorem State.setDc_graphs (c : DevChan) : (s.setDc k c).graphs = s.graphs := rfl
@[simp] theorem State.setDc_phases (c : DevChan) : (s.setDc k c).phases = s.phases := rfl
@[simp] theorem State.setDc_nextId (c : DevChan) : (s.setDc k c).nextId = s.nextId := rfl
@[simp] theorem State.setDc_placements (c : DevChan) : (s.setDc k c).placements = s.placements := rfl
@[simp] theorem State.setDc_parts (c : DevChan) : (s.setDc k c).parts = s.parts := rfl
@[simp] theorem State.setDc_stops (c : DevChan) : (s.setDc k c).stops = s.stops := rfl
@[simp] theorem State.setDc_dev (c : DevChan) : (s.setDc k c).dev = s.dev := rfl
@[simp] theorem State.setDc_counters (c : DevChan) : (s.setDc k c).counters = s.counters := rfl
@[simp] theorem State.setDc_counted (c : DevChan) : (s.setDc k c).counted = s.counted := rfl
@[simp] theorem State.setDc_perfReads (c : DevChan) : (s.setDc k c).perfReads = s.perfReads := rfl
@[simp] theorem State.setDc_scratch (c : DevChan) : (s.setDc k c).scratch = s.scratch := rfl
@[simp] theorem State.setDc_istore (c : DevChan) : (s.setDc k c).istore = s.istore := rfl
@[simp] theorem State.setDc_wbuf (c : DevChan) : (s.setDc k c).wbuf = s.wbuf := rfl
@[simp] theorem State.setDc_accs (c : DevChan) : (s.setDc k c).accs = s.accs := rfl
@[simp] theorem State.setDc_device (c : DevChan) : (s.setDc k c).device = s.device := rfl
@[simp] theorem State.setDc_lineScope (c : DevChan) : (s.setDc k c).lineScope = s.lineScope := rfl
@[simp] theorem State.setDc_sectorScope (c : DevChan) : (s.setDc k c).sectorScope = s.sectorScope := rfl
@[simp] theorem State.setDc_sectorLost (c : DevChan) : (s.setDc k c).sectorLost = s.sectorLost := rfl
@[simp] theorem State.setDc_wordErrs (c : DevChan) : (s.setDc k c).wordErrs = s.wordErrs := rfl
@[simp] theorem State.setDc_sectorErrs (c : DevChan) : (s.setDc k c).sectorErrs = s.sectorErrs := rfl

/-! ## setEgress -/

@[simp] theorem State.setEgress_egress (e : Egress) : (s.setEgress k e).egress = tput s.egress k e := rfl
@[simp] theorem State.setEgress_agenda (e : Egress) : (s.setEgress k e).agenda = s.agenda := rfl
@[simp] theorem State.setEgress_cur (e : Egress) : (s.setEgress k e).cur = s.cur := rfl
@[simp] theorem State.setEgress_free (e : Egress) : (s.setEgress k e).free = s.free := rfl
@[simp] theorem State.setEgress_cycle (e : Egress) : (s.setEgress k e).cycle = s.cycle := rfl
@[simp] theorem State.setEgress_slew (e : Egress) : (s.setEgress k e).slew = s.slew := rfl
@[simp] theorem State.setEgress_ce (e : Egress) : (s.setEgress k e).ce = s.ce := rfl
@[simp] theorem State.setEgress_ops (e : Egress) : (s.setEgress k e).ops = s.ops := rfl
@[simp] theorem State.setEgress_chans (e : Egress) : (s.setEgress k e).chans = s.chans := rfl
@[simp] theorem State.setEgress_routes (e : Egress) : (s.setEgress k e).routes = s.routes := rfl
@[simp] theorem State.setEgress_starts (e : Egress) : (s.setEgress k e).starts = s.starts := rfl
@[simp] theorem State.setEgress_links (e : Egress) : (s.setEgress k e).links = s.links := rfl
@[simp] theorem State.setEgress_buses (e : Egress) : (s.setEgress k e).buses = s.buses := rfl
@[simp] theorem State.setEgress_pages (e : Egress) : (s.setEgress k e).pages = s.pages := rfl
@[simp] theorem State.setEgress_mts (e : Egress) : (s.setEgress k e).mts = s.mts := rfl
@[simp] theorem State.setEgress_mns (e : Egress) : (s.setEgress k e).mns = s.mns := rfl
@[simp] theorem State.setEgress_streams (e : Egress) : (s.setEgress k e).streams = s.streams := rfl
@[simp] theorem State.setEgress_ports (e : Egress) : (s.setEgress k e).ports = s.ports := rfl
@[simp] theorem State.setEgress_portCache (e : Egress) : (s.setEgress k e).portCache = s.portCache := rfl
@[simp] theorem State.setEgress_devChans (e : Egress) : (s.setEgress k e).devChans = s.devChans := rfl
@[simp] theorem State.setEgress_walks (e : Egress) : (s.setEgress k e).walks = s.walks := rfl
@[simp] theorem State.setEgress_wcache (e : Egress) : (s.setEgress k e).wcache = s.wcache := rfl
@[simp] theorem State.setEgress_ingress (e : Egress) : (s.setEgress k e).ingress = s.ingress := rfl
@[simp] theorem State.setEgress_launches (e : Egress) : (s.setEgress k e).launches = s.launches := rfl
@[simp] theorem State.setEgress_graphs (e : Egress) : (s.setEgress k e).graphs = s.graphs := rfl
@[simp] theorem State.setEgress_phases (e : Egress) : (s.setEgress k e).phases = s.phases := rfl
@[simp] theorem State.setEgress_nextId (e : Egress) : (s.setEgress k e).nextId = s.nextId := rfl
@[simp] theorem State.setEgress_placements (e : Egress) : (s.setEgress k e).placements = s.placements := rfl
@[simp] theorem State.setEgress_parts (e : Egress) : (s.setEgress k e).parts = s.parts := rfl
@[simp] theorem State.setEgress_stops (e : Egress) : (s.setEgress k e).stops = s.stops := rfl
@[simp] theorem State.setEgress_dev (e : Egress) : (s.setEgress k e).dev = s.dev := rfl
@[simp] theorem State.setEgress_counters (e : Egress) : (s.setEgress k e).counters = s.counters := rfl
@[simp] theorem State.setEgress_counted (e : Egress) : (s.setEgress k e).counted = s.counted := rfl
@[simp] theorem State.setEgress_perfReads (e : Egress) : (s.setEgress k e).perfReads = s.perfReads := rfl
@[simp] theorem State.setEgress_scratch (e : Egress) : (s.setEgress k e).scratch = s.scratch := rfl
@[simp] theorem State.setEgress_istore (e : Egress) : (s.setEgress k e).istore = s.istore := rfl
@[simp] theorem State.setEgress_wbuf (e : Egress) : (s.setEgress k e).wbuf = s.wbuf := rfl
@[simp] theorem State.setEgress_accs (e : Egress) : (s.setEgress k e).accs = s.accs := rfl
@[simp] theorem State.setEgress_device (e : Egress) : (s.setEgress k e).device = s.device := rfl
@[simp] theorem State.setEgress_lineScope (e : Egress) : (s.setEgress k e).lineScope = s.lineScope := rfl
@[simp] theorem State.setEgress_sectorScope (e : Egress) : (s.setEgress k e).sectorScope = s.sectorScope := rfl
@[simp] theorem State.setEgress_sectorLost (e : Egress) : (s.setEgress k e).sectorLost = s.sectorLost := rfl
@[simp] theorem State.setEgress_wordErrs (e : Egress) : (s.setEgress k e).wordErrs = s.wordErrs := rfl
@[simp] theorem State.setEgress_sectorErrs (e : Egress) : (s.setEgress k e).sectorErrs = s.sectorErrs := rfl

/-! ## setIngress -/

@[simp] theorem State.setIngress_ingress (e : Ingress) : (s.setIngress k e).ingress = tput s.ingress k e := rfl
@[simp] theorem State.setIngress_agenda (e : Ingress) : (s.setIngress k e).agenda = s.agenda := rfl
@[simp] theorem State.setIngress_cur (e : Ingress) : (s.setIngress k e).cur = s.cur := rfl
@[simp] theorem State.setIngress_free (e : Ingress) : (s.setIngress k e).free = s.free := rfl
@[simp] theorem State.setIngress_cycle (e : Ingress) : (s.setIngress k e).cycle = s.cycle := rfl
@[simp] theorem State.setIngress_slew (e : Ingress) : (s.setIngress k e).slew = s.slew := rfl
@[simp] theorem State.setIngress_ce (e : Ingress) : (s.setIngress k e).ce = s.ce := rfl
@[simp] theorem State.setIngress_ops (e : Ingress) : (s.setIngress k e).ops = s.ops := rfl
@[simp] theorem State.setIngress_chans (e : Ingress) : (s.setIngress k e).chans = s.chans := rfl
@[simp] theorem State.setIngress_routes (e : Ingress) : (s.setIngress k e).routes = s.routes := rfl
@[simp] theorem State.setIngress_starts (e : Ingress) : (s.setIngress k e).starts = s.starts := rfl
@[simp] theorem State.setIngress_links (e : Ingress) : (s.setIngress k e).links = s.links := rfl
@[simp] theorem State.setIngress_buses (e : Ingress) : (s.setIngress k e).buses = s.buses := rfl
@[simp] theorem State.setIngress_pages (e : Ingress) : (s.setIngress k e).pages = s.pages := rfl
@[simp] theorem State.setIngress_mts (e : Ingress) : (s.setIngress k e).mts = s.mts := rfl
@[simp] theorem State.setIngress_mns (e : Ingress) : (s.setIngress k e).mns = s.mns := rfl
@[simp] theorem State.setIngress_streams (e : Ingress) : (s.setIngress k e).streams = s.streams := rfl
@[simp] theorem State.setIngress_ports (e : Ingress) : (s.setIngress k e).ports = s.ports := rfl
@[simp] theorem State.setIngress_portCache (e : Ingress) : (s.setIngress k e).portCache = s.portCache := rfl
@[simp] theorem State.setIngress_devChans (e : Ingress) : (s.setIngress k e).devChans = s.devChans := rfl
@[simp] theorem State.setIngress_walks (e : Ingress) : (s.setIngress k e).walks = s.walks := rfl
@[simp] theorem State.setIngress_wcache (e : Ingress) : (s.setIngress k e).wcache = s.wcache := rfl
@[simp] theorem State.setIngress_egress (e : Ingress) : (s.setIngress k e).egress = s.egress := rfl
@[simp] theorem State.setIngress_launches (e : Ingress) : (s.setIngress k e).launches = s.launches := rfl
@[simp] theorem State.setIngress_graphs (e : Ingress) : (s.setIngress k e).graphs = s.graphs := rfl
@[simp] theorem State.setIngress_phases (e : Ingress) : (s.setIngress k e).phases = s.phases := rfl
@[simp] theorem State.setIngress_nextId (e : Ingress) : (s.setIngress k e).nextId = s.nextId := rfl
@[simp] theorem State.setIngress_placements (e : Ingress) : (s.setIngress k e).placements = s.placements := rfl
@[simp] theorem State.setIngress_parts (e : Ingress) : (s.setIngress k e).parts = s.parts := rfl
@[simp] theorem State.setIngress_stops (e : Ingress) : (s.setIngress k e).stops = s.stops := rfl
@[simp] theorem State.setIngress_dev (e : Ingress) : (s.setIngress k e).dev = s.dev := rfl
@[simp] theorem State.setIngress_counters (e : Ingress) : (s.setIngress k e).counters = s.counters := rfl
@[simp] theorem State.setIngress_counted (e : Ingress) : (s.setIngress k e).counted = s.counted := rfl
@[simp] theorem State.setIngress_perfReads (e : Ingress) : (s.setIngress k e).perfReads = s.perfReads := rfl
@[simp] theorem State.setIngress_scratch (e : Ingress) : (s.setIngress k e).scratch = s.scratch := rfl
@[simp] theorem State.setIngress_istore (e : Ingress) : (s.setIngress k e).istore = s.istore := rfl
@[simp] theorem State.setIngress_wbuf (e : Ingress) : (s.setIngress k e).wbuf = s.wbuf := rfl
@[simp] theorem State.setIngress_accs (e : Ingress) : (s.setIngress k e).accs = s.accs := rfl
@[simp] theorem State.setIngress_device (e : Ingress) : (s.setIngress k e).device = s.device := rfl
@[simp] theorem State.setIngress_lineScope (e : Ingress) : (s.setIngress k e).lineScope = s.lineScope := rfl
@[simp] theorem State.setIngress_sectorScope (e : Ingress) : (s.setIngress k e).sectorScope = s.sectorScope := rfl
@[simp] theorem State.setIngress_sectorLost (e : Ingress) : (s.setIngress k e).sectorLost = s.sectorLost := rfl
@[simp] theorem State.setIngress_wordErrs (e : Ingress) : (s.setIngress k e).wordErrs = s.wordErrs := rfl
@[simp] theorem State.setIngress_sectorErrs (e : Ingress) : (s.setIngress k e).sectorErrs = s.sectorErrs := rfl

/-! ## setLaunch -/

@[simp] theorem State.setLaunch_launches (l : Launch) : (s.setLaunch k l).launches = tput s.launches k l := rfl
@[simp] theorem State.setLaunch_agenda (l : Launch) : (s.setLaunch k l).agenda = s.agenda := rfl
@[simp] theorem State.setLaunch_cur (l : Launch) : (s.setLaunch k l).cur = s.cur := rfl
@[simp] theorem State.setLaunch_free (l : Launch) : (s.setLaunch k l).free = s.free := rfl
@[simp] theorem State.setLaunch_cycle (l : Launch) : (s.setLaunch k l).cycle = s.cycle := rfl
@[simp] theorem State.setLaunch_slew (l : Launch) : (s.setLaunch k l).slew = s.slew := rfl
@[simp] theorem State.setLaunch_ce (l : Launch) : (s.setLaunch k l).ce = s.ce := rfl
@[simp] theorem State.setLaunch_ops (l : Launch) : (s.setLaunch k l).ops = s.ops := rfl
@[simp] theorem State.setLaunch_chans (l : Launch) : (s.setLaunch k l).chans = s.chans := rfl
@[simp] theorem State.setLaunch_routes (l : Launch) : (s.setLaunch k l).routes = s.routes := rfl
@[simp] theorem State.setLaunch_starts (l : Launch) : (s.setLaunch k l).starts = s.starts := rfl
@[simp] theorem State.setLaunch_links (l : Launch) : (s.setLaunch k l).links = s.links := rfl
@[simp] theorem State.setLaunch_buses (l : Launch) : (s.setLaunch k l).buses = s.buses := rfl
@[simp] theorem State.setLaunch_pages (l : Launch) : (s.setLaunch k l).pages = s.pages := rfl
@[simp] theorem State.setLaunch_mts (l : Launch) : (s.setLaunch k l).mts = s.mts := rfl
@[simp] theorem State.setLaunch_mns (l : Launch) : (s.setLaunch k l).mns = s.mns := rfl
@[simp] theorem State.setLaunch_streams (l : Launch) : (s.setLaunch k l).streams = s.streams := rfl
@[simp] theorem State.setLaunch_ports (l : Launch) : (s.setLaunch k l).ports = s.ports := rfl
@[simp] theorem State.setLaunch_portCache (l : Launch) : (s.setLaunch k l).portCache = s.portCache := rfl
@[simp] theorem State.setLaunch_devChans (l : Launch) : (s.setLaunch k l).devChans = s.devChans := rfl
@[simp] theorem State.setLaunch_walks (l : Launch) : (s.setLaunch k l).walks = s.walks := rfl
@[simp] theorem State.setLaunch_wcache (l : Launch) : (s.setLaunch k l).wcache = s.wcache := rfl
@[simp] theorem State.setLaunch_egress (l : Launch) : (s.setLaunch k l).egress = s.egress := rfl
@[simp] theorem State.setLaunch_ingress (l : Launch) : (s.setLaunch k l).ingress = s.ingress := rfl
@[simp] theorem State.setLaunch_graphs (l : Launch) : (s.setLaunch k l).graphs = s.graphs := rfl
@[simp] theorem State.setLaunch_phases (l : Launch) : (s.setLaunch k l).phases = s.phases := rfl
@[simp] theorem State.setLaunch_nextId (l : Launch) : (s.setLaunch k l).nextId = s.nextId := rfl
@[simp] theorem State.setLaunch_placements (l : Launch) : (s.setLaunch k l).placements = s.placements := rfl
@[simp] theorem State.setLaunch_parts (l : Launch) : (s.setLaunch k l).parts = s.parts := rfl
@[simp] theorem State.setLaunch_stops (l : Launch) : (s.setLaunch k l).stops = s.stops := rfl
@[simp] theorem State.setLaunch_dev (l : Launch) : (s.setLaunch k l).dev = s.dev := rfl
@[simp] theorem State.setLaunch_counters (l : Launch) : (s.setLaunch k l).counters = s.counters := rfl
@[simp] theorem State.setLaunch_counted (l : Launch) : (s.setLaunch k l).counted = s.counted := rfl
@[simp] theorem State.setLaunch_perfReads (l : Launch) : (s.setLaunch k l).perfReads = s.perfReads := rfl
@[simp] theorem State.setLaunch_scratch (l : Launch) : (s.setLaunch k l).scratch = s.scratch := rfl
@[simp] theorem State.setLaunch_istore (l : Launch) : (s.setLaunch k l).istore = s.istore := rfl
@[simp] theorem State.setLaunch_wbuf (l : Launch) : (s.setLaunch k l).wbuf = s.wbuf := rfl
@[simp] theorem State.setLaunch_accs (l : Launch) : (s.setLaunch k l).accs = s.accs := rfl
@[simp] theorem State.setLaunch_device (l : Launch) : (s.setLaunch k l).device = s.device := rfl
@[simp] theorem State.setLaunch_lineScope (l : Launch) : (s.setLaunch k l).lineScope = s.lineScope := rfl
@[simp] theorem State.setLaunch_sectorScope (l : Launch) : (s.setLaunch k l).sectorScope = s.sectorScope := rfl
@[simp] theorem State.setLaunch_sectorLost (l : Launch) : (s.setLaunch k l).sectorLost = s.sectorLost := rfl
@[simp] theorem State.setLaunch_wordErrs (l : Launch) : (s.setLaunch k l).wordErrs = s.wordErrs := rfl
@[simp] theorem State.setLaunch_sectorErrs (l : Launch) : (s.setLaunch k l).sectorErrs = s.sectorErrs := rfl

/-! ## setGraph -/

@[simp] theorem State.setGraph_graphs (g : Graph) : (s.setGraph k g).graphs = tput s.graphs k g := rfl
@[simp] theorem State.setGraph_agenda (g : Graph) : (s.setGraph k g).agenda = s.agenda := rfl
@[simp] theorem State.setGraph_cur (g : Graph) : (s.setGraph k g).cur = s.cur := rfl
@[simp] theorem State.setGraph_free (g : Graph) : (s.setGraph k g).free = s.free := rfl
@[simp] theorem State.setGraph_cycle (g : Graph) : (s.setGraph k g).cycle = s.cycle := rfl
@[simp] theorem State.setGraph_slew (g : Graph) : (s.setGraph k g).slew = s.slew := rfl
@[simp] theorem State.setGraph_ce (g : Graph) : (s.setGraph k g).ce = s.ce := rfl
@[simp] theorem State.setGraph_ops (g : Graph) : (s.setGraph k g).ops = s.ops := rfl
@[simp] theorem State.setGraph_chans (g : Graph) : (s.setGraph k g).chans = s.chans := rfl
@[simp] theorem State.setGraph_routes (g : Graph) : (s.setGraph k g).routes = s.routes := rfl
@[simp] theorem State.setGraph_starts (g : Graph) : (s.setGraph k g).starts = s.starts := rfl
@[simp] theorem State.setGraph_links (g : Graph) : (s.setGraph k g).links = s.links := rfl
@[simp] theorem State.setGraph_buses (g : Graph) : (s.setGraph k g).buses = s.buses := rfl
@[simp] theorem State.setGraph_pages (g : Graph) : (s.setGraph k g).pages = s.pages := rfl
@[simp] theorem State.setGraph_mts (g : Graph) : (s.setGraph k g).mts = s.mts := rfl
@[simp] theorem State.setGraph_mns (g : Graph) : (s.setGraph k g).mns = s.mns := rfl
@[simp] theorem State.setGraph_streams (g : Graph) : (s.setGraph k g).streams = s.streams := rfl
@[simp] theorem State.setGraph_ports (g : Graph) : (s.setGraph k g).ports = s.ports := rfl
@[simp] theorem State.setGraph_portCache (g : Graph) : (s.setGraph k g).portCache = s.portCache := rfl
@[simp] theorem State.setGraph_devChans (g : Graph) : (s.setGraph k g).devChans = s.devChans := rfl
@[simp] theorem State.setGraph_walks (g : Graph) : (s.setGraph k g).walks = s.walks := rfl
@[simp] theorem State.setGraph_wcache (g : Graph) : (s.setGraph k g).wcache = s.wcache := rfl
@[simp] theorem State.setGraph_egress (g : Graph) : (s.setGraph k g).egress = s.egress := rfl
@[simp] theorem State.setGraph_ingress (g : Graph) : (s.setGraph k g).ingress = s.ingress := rfl
@[simp] theorem State.setGraph_launches (g : Graph) : (s.setGraph k g).launches = s.launches := rfl
@[simp] theorem State.setGraph_phases (g : Graph) : (s.setGraph k g).phases = s.phases := rfl
@[simp] theorem State.setGraph_nextId (g : Graph) : (s.setGraph k g).nextId = s.nextId := rfl
@[simp] theorem State.setGraph_placements (g : Graph) : (s.setGraph k g).placements = s.placements := rfl
@[simp] theorem State.setGraph_parts (g : Graph) : (s.setGraph k g).parts = s.parts := rfl
@[simp] theorem State.setGraph_stops (g : Graph) : (s.setGraph k g).stops = s.stops := rfl
@[simp] theorem State.setGraph_dev (g : Graph) : (s.setGraph k g).dev = s.dev := rfl
@[simp] theorem State.setGraph_counters (g : Graph) : (s.setGraph k g).counters = s.counters := rfl
@[simp] theorem State.setGraph_counted (g : Graph) : (s.setGraph k g).counted = s.counted := rfl
@[simp] theorem State.setGraph_perfReads (g : Graph) : (s.setGraph k g).perfReads = s.perfReads := rfl
@[simp] theorem State.setGraph_scratch (g : Graph) : (s.setGraph k g).scratch = s.scratch := rfl
@[simp] theorem State.setGraph_istore (g : Graph) : (s.setGraph k g).istore = s.istore := rfl
@[simp] theorem State.setGraph_wbuf (g : Graph) : (s.setGraph k g).wbuf = s.wbuf := rfl
@[simp] theorem State.setGraph_accs (g : Graph) : (s.setGraph k g).accs = s.accs := rfl
@[simp] theorem State.setGraph_device (g : Graph) : (s.setGraph k g).device = s.device := rfl
@[simp] theorem State.setGraph_lineScope (g : Graph) : (s.setGraph k g).lineScope = s.lineScope := rfl
@[simp] theorem State.setGraph_sectorScope (g : Graph) : (s.setGraph k g).sectorScope = s.sectorScope := rfl
@[simp] theorem State.setGraph_sectorLost (g : Graph) : (s.setGraph k g).sectorLost = s.sectorLost := rfl
@[simp] theorem State.setGraph_wordErrs (g : Graph) : (s.setGraph k g).wordErrs = s.wordErrs := rfl
@[simp] theorem State.setGraph_sectorErrs (g : Graph) : (s.setGraph k g).sectorErrs = s.sectorErrs := rfl

/-! ## setPhase -/

@[simp] theorem State.setPhase_phases (p : Phase) : (s.setPhase k p).phases = tput s.phases k p := rfl
@[simp] theorem State.setPhase_agenda (p : Phase) : (s.setPhase k p).agenda = s.agenda := rfl
@[simp] theorem State.setPhase_cur (p : Phase) : (s.setPhase k p).cur = s.cur := rfl
@[simp] theorem State.setPhase_free (p : Phase) : (s.setPhase k p).free = s.free := rfl
@[simp] theorem State.setPhase_cycle (p : Phase) : (s.setPhase k p).cycle = s.cycle := rfl
@[simp] theorem State.setPhase_slew (p : Phase) : (s.setPhase k p).slew = s.slew := rfl
@[simp] theorem State.setPhase_ce (p : Phase) : (s.setPhase k p).ce = s.ce := rfl
@[simp] theorem State.setPhase_ops (p : Phase) : (s.setPhase k p).ops = s.ops := rfl
@[simp] theorem State.setPhase_chans (p : Phase) : (s.setPhase k p).chans = s.chans := rfl
@[simp] theorem State.setPhase_routes (p : Phase) : (s.setPhase k p).routes = s.routes := rfl
@[simp] theorem State.setPhase_starts (p : Phase) : (s.setPhase k p).starts = s.starts := rfl
@[simp] theorem State.setPhase_links (p : Phase) : (s.setPhase k p).links = s.links := rfl
@[simp] theorem State.setPhase_buses (p : Phase) : (s.setPhase k p).buses = s.buses := rfl
@[simp] theorem State.setPhase_pages (p : Phase) : (s.setPhase k p).pages = s.pages := rfl
@[simp] theorem State.setPhase_mts (p : Phase) : (s.setPhase k p).mts = s.mts := rfl
@[simp] theorem State.setPhase_mns (p : Phase) : (s.setPhase k p).mns = s.mns := rfl
@[simp] theorem State.setPhase_streams (p : Phase) : (s.setPhase k p).streams = s.streams := rfl
@[simp] theorem State.setPhase_ports (p : Phase) : (s.setPhase k p).ports = s.ports := rfl
@[simp] theorem State.setPhase_portCache (p : Phase) : (s.setPhase k p).portCache = s.portCache := rfl
@[simp] theorem State.setPhase_devChans (p : Phase) : (s.setPhase k p).devChans = s.devChans := rfl
@[simp] theorem State.setPhase_walks (p : Phase) : (s.setPhase k p).walks = s.walks := rfl
@[simp] theorem State.setPhase_wcache (p : Phase) : (s.setPhase k p).wcache = s.wcache := rfl
@[simp] theorem State.setPhase_egress (p : Phase) : (s.setPhase k p).egress = s.egress := rfl
@[simp] theorem State.setPhase_ingress (p : Phase) : (s.setPhase k p).ingress = s.ingress := rfl
@[simp] theorem State.setPhase_launches (p : Phase) : (s.setPhase k p).launches = s.launches := rfl
@[simp] theorem State.setPhase_graphs (p : Phase) : (s.setPhase k p).graphs = s.graphs := rfl
@[simp] theorem State.setPhase_nextId (p : Phase) : (s.setPhase k p).nextId = s.nextId := rfl
@[simp] theorem State.setPhase_placements (p : Phase) : (s.setPhase k p).placements = s.placements := rfl
@[simp] theorem State.setPhase_parts (p : Phase) : (s.setPhase k p).parts = s.parts := rfl
@[simp] theorem State.setPhase_stops (p : Phase) : (s.setPhase k p).stops = s.stops := rfl
@[simp] theorem State.setPhase_dev (p : Phase) : (s.setPhase k p).dev = s.dev := rfl
@[simp] theorem State.setPhase_counters (p : Phase) : (s.setPhase k p).counters = s.counters := rfl
@[simp] theorem State.setPhase_counted (p : Phase) : (s.setPhase k p).counted = s.counted := rfl
@[simp] theorem State.setPhase_perfReads (p : Phase) : (s.setPhase k p).perfReads = s.perfReads := rfl
@[simp] theorem State.setPhase_scratch (p : Phase) : (s.setPhase k p).scratch = s.scratch := rfl
@[simp] theorem State.setPhase_istore (p : Phase) : (s.setPhase k p).istore = s.istore := rfl
@[simp] theorem State.setPhase_wbuf (p : Phase) : (s.setPhase k p).wbuf = s.wbuf := rfl
@[simp] theorem State.setPhase_accs (p : Phase) : (s.setPhase k p).accs = s.accs := rfl
@[simp] theorem State.setPhase_device (p : Phase) : (s.setPhase k p).device = s.device := rfl
@[simp] theorem State.setPhase_lineScope (p : Phase) : (s.setPhase k p).lineScope = s.lineScope := rfl
@[simp] theorem State.setPhase_sectorScope (p : Phase) : (s.setPhase k p).sectorScope = s.sectorScope := rfl
@[simp] theorem State.setPhase_sectorLost (p : Phase) : (s.setPhase k p).sectorLost = s.sectorLost := rfl
@[simp] theorem State.setPhase_wordErrs (p : Phase) : (s.setPhase k p).wordErrs = s.wordErrs := rfl
@[simp] theorem State.setPhase_sectorErrs (p : Phase) : (s.setPhase k p).sectorErrs = s.sectorErrs := rfl

/-! ## setStream -/

@[simp] theorem State.setStream_streams (x : Stream) : (s.setStream k x).streams = tput s.streams k x := rfl
@[simp] theorem State.setStream_agenda (x : Stream) : (s.setStream k x).agenda = s.agenda := rfl
@[simp] theorem State.setStream_cur (x : Stream) : (s.setStream k x).cur = s.cur := rfl
@[simp] theorem State.setStream_free (x : Stream) : (s.setStream k x).free = s.free := rfl
@[simp] theorem State.setStream_cycle (x : Stream) : (s.setStream k x).cycle = s.cycle := rfl
@[simp] theorem State.setStream_slew (x : Stream) : (s.setStream k x).slew = s.slew := rfl
@[simp] theorem State.setStream_ce (x : Stream) : (s.setStream k x).ce = s.ce := rfl
@[simp] theorem State.setStream_ops (x : Stream) : (s.setStream k x).ops = s.ops := rfl
@[simp] theorem State.setStream_chans (x : Stream) : (s.setStream k x).chans = s.chans := rfl
@[simp] theorem State.setStream_routes (x : Stream) : (s.setStream k x).routes = s.routes := rfl
@[simp] theorem State.setStream_starts (x : Stream) : (s.setStream k x).starts = s.starts := rfl
@[simp] theorem State.setStream_links (x : Stream) : (s.setStream k x).links = s.links := rfl
@[simp] theorem State.setStream_buses (x : Stream) : (s.setStream k x).buses = s.buses := rfl
@[simp] theorem State.setStream_pages (x : Stream) : (s.setStream k x).pages = s.pages := rfl
@[simp] theorem State.setStream_mts (x : Stream) : (s.setStream k x).mts = s.mts := rfl
@[simp] theorem State.setStream_mns (x : Stream) : (s.setStream k x).mns = s.mns := rfl
@[simp] theorem State.setStream_ports (x : Stream) : (s.setStream k x).ports = s.ports := rfl
@[simp] theorem State.setStream_portCache (x : Stream) : (s.setStream k x).portCache = s.portCache := rfl
@[simp] theorem State.setStream_devChans (x : Stream) : (s.setStream k x).devChans = s.devChans := rfl
@[simp] theorem State.setStream_walks (x : Stream) : (s.setStream k x).walks = s.walks := rfl
@[simp] theorem State.setStream_wcache (x : Stream) : (s.setStream k x).wcache = s.wcache := rfl
@[simp] theorem State.setStream_egress (x : Stream) : (s.setStream k x).egress = s.egress := rfl
@[simp] theorem State.setStream_ingress (x : Stream) : (s.setStream k x).ingress = s.ingress := rfl
@[simp] theorem State.setStream_launches (x : Stream) : (s.setStream k x).launches = s.launches := rfl
@[simp] theorem State.setStream_graphs (x : Stream) : (s.setStream k x).graphs = s.graphs := rfl
@[simp] theorem State.setStream_phases (x : Stream) : (s.setStream k x).phases = s.phases := rfl
@[simp] theorem State.setStream_nextId (x : Stream) : (s.setStream k x).nextId = s.nextId := rfl
@[simp] theorem State.setStream_placements (x : Stream) : (s.setStream k x).placements = s.placements := rfl
@[simp] theorem State.setStream_parts (x : Stream) : (s.setStream k x).parts = s.parts := rfl
@[simp] theorem State.setStream_stops (x : Stream) : (s.setStream k x).stops = s.stops := rfl
@[simp] theorem State.setStream_dev (x : Stream) : (s.setStream k x).dev = s.dev := rfl
@[simp] theorem State.setStream_counters (x : Stream) : (s.setStream k x).counters = s.counters := rfl
@[simp] theorem State.setStream_counted (x : Stream) : (s.setStream k x).counted = s.counted := rfl
@[simp] theorem State.setStream_perfReads (x : Stream) : (s.setStream k x).perfReads = s.perfReads := rfl
@[simp] theorem State.setStream_scratch (x : Stream) : (s.setStream k x).scratch = s.scratch := rfl
@[simp] theorem State.setStream_istore (x : Stream) : (s.setStream k x).istore = s.istore := rfl
@[simp] theorem State.setStream_wbuf (x : Stream) : (s.setStream k x).wbuf = s.wbuf := rfl
@[simp] theorem State.setStream_accs (x : Stream) : (s.setStream k x).accs = s.accs := rfl
@[simp] theorem State.setStream_device (x : Stream) : (s.setStream k x).device = s.device := rfl
@[simp] theorem State.setStream_lineScope (x : Stream) : (s.setStream k x).lineScope = s.lineScope := rfl
@[simp] theorem State.setStream_sectorScope (x : Stream) : (s.setStream k x).sectorScope = s.sectorScope := rfl
@[simp] theorem State.setStream_sectorLost (x : Stream) : (s.setStream k x).sectorLost = s.sectorLost := rfl
@[simp] theorem State.setStream_wordErrs (x : Stream) : (s.setStream k x).wordErrs = s.wordErrs := rfl
@[simp] theorem State.setStream_sectorErrs (x : Stream) : (s.setStream k x).sectorErrs = s.sectorErrs := rfl

end Sys2Proof.Machine
end

