-- ==== Sys2Proof/Laws/Tokens.lean ====
section
/-!
SUPPORT. Sys2Proof/Laws/Tokens.lean: the envelope of a token (R16).
-/

namespace Sys2Proof.Machine

/-- A field inside the low part of a concatenation is that part's. -/
theorem extract_low {w v : Nat} (x : BitVec w) (y : BitVec v) (a n : Nat) (h : a + n ≤ v) :
    (x ++ y).extractLsb' a n = y.extractLsb' a n := by
  ext i hi
  have : a + i < v := by omega
  simp [BitVec.getLsbD_append, this]

/-- The fields of the low 24 bits of an envelope. -/
theorem badLow : ∀ (k : BitVec 3) (n : BitVec 4) (c : BitVec 2),
    let low : BitVec 24 := (0 : BitVec 13) ++ k ++ n ++ (0 : BitVec 2) ++ c
    (low.extractLsb' 12 12 != 0 || low.extractLsb' 2 2 != 0 || low.extractLsb' 8 3 == 7) = (k == 7) := by decide +kernel

/-- The reserved fields of an envelope that a router writes are zero: only a token of the reserved kind 7 is handled as an
uncorrectable error (R16), whatever code ECHK is. -/
theorem badEnvelope_envelope (t : Token) (n c : Nat) : badEnvelope (t.envelope n c) = (BitVec.ofNat 3 t.kind == 7) := by
  unfold badEnvelope Token.envelope
  rw [extract_low _ _ _ _ (show 12 + 12 ≤ 24 by decide), extract_low _ _ _ _ (show 2 + 2 ≤ 24 by decide),
    extract_low _ _ _ _ (show 8 + 3 ≤ 24 by decide)]
  exact badLow _ _ _

end Sys2Proof.Machine
end

