-- ==== Sys2Proof/Tests/Slice0.lean ====
section
/-!
SUPPORT. Sys2Proof/Tests/Slice0.lean: the model's own tests. Expected values are taken from the specification's worked
examples, or computed by hand from its tables.
-/

namespace Sys2Proof.Tests

open Sys2Proof Sys2Proof.Machine

-- each test waits for the kernel: one after the other
set_option Elab.async false

/-! ## Decoding: words written out from R77, R78, R81, R82, R88 to R92 and the map of R98

Each list holds one word for each opcode of a row of the map; words the specification prints itself are among them (R117,
R127, R129, R144, R154, R167, R171, R173, R192, R222, R230, R245, R246, R376 and others). -/

/-- Every word of the list decodes to its instruction, and the instruction encodes to the word. -/
def decodesTo (l : List (Word × Instr)) : Bool :=
  l.all fun e => decide (decode e.1 = .ok e.2) && decide (encode e.2 = some e.1)

theorem test_decode_00a : decodesTo [
    (0x0000_C060_3000_0000, .nop ⟨.s8, 0, .zero, .zero, .zero, .none, .none⟩),
    (0x0100_9160_3022_420D, .mov ⟨.s8, 0, .s 1, .zero, .zero, .s 2, .slot 3 .b⟩),
    (0x0242_92C2_B022_6000, .add ⟨.s32, 1, .s 2, .imm 5, .zero, .s 3, .none⟩),
    (0x0330_8799_3034_A000, .sub ⟨.z16, 0, .k 7, .chan 3 2, .zero, .out 2 5, .none⟩),
    (0x0462_004A_301F_F4C4, .mul ⟨.s64, 1, .slot, .s 4, .zero, .slot 127 .c, .p 1⟩),
    (0x0570_904B_B022_A000, .mulh ⟨.z64, 0, .s 0, .s 7, .zero, .s 5, .none⟩),
    (0x0620_9140_3022_C000, .div ⟨.s16, 0, .s 1, .k 0, .zero, .s 6, .none⟩),
    (0x0750_91FF_B022_C48C, .rem ⟨.z32, 0, .s 1, .imm 127, .zero, .s 6, .w 3⟩)] = true := by decide

theorem test_decode_00b : decodesTo [
    (0x0870_C149_B022_6000, .andOp ⟨.z64, 0, .ones, .s 3, .zero, .s 3, .none⟩),
    (0x0900_B449_B022_6000, .orOp ⟨.s8, 0, .p 4, .s 3, .zero, .s 3, .none⟩),
    (0x0A10_A161_B022_6000, .xorOp ⟨.z8, 0, .w 1, .ctxid, .zero, .s 3, .none⟩),
    (0x0B52_91CF_B022_4000, .shl ⟨.z32, 1, .s 1, .imm 31, .zero, .s 2, .none⟩),
    (0x0C40_9162_3022_4000, .shr ⟨.s32, 0, .s 1, .pageid, .zero, .s 2, .none⟩),
    (0x0D60_9162_B022_47FC, .minOp ⟨.s64, 0, .s 1, .tilexy, .zero, .s 2, .out 7 15⟩),
    (0x0E40_00C0_3030_0000, .maxOp ⟨.s32, 0, .slot, .imm 0, .zero, .out 0 0, .none⟩),
    (0x0F22_9160_3022_4000, .abs ⟨.s16, 1, .s 1, .zero, .zero, .s 2, .none⟩)] = true := by decide

theorem test_decode_10a : decodesTo [
    (0x107A_9149_3026_E000, .cmp ⟨.z64, 5, .s 1, .s 2, .zero, .p 7, .none⟩),
    (0x11C0_B048_A4A2_6000, .sel ⟨.fp32, 0, .p 0, .s 1, .s 2, .s 3, .none⟩),
    (0x1250_9160_3022_6000, .clz ⟨.z32, 0, .s 1, .zero, .zero, .s 3, .none⟩),
    (0x1310_9160_3022_6000, .popc ⟨.z8, 0, .s 1, .zero, .zero, .s 3, .none⟩),
    (0x1420_9141_B022_6000, .bfx ⟨.s16, 0, .s 1, .k 3, .zero, .s 3, .none⟩),
    (0x1570_9149_20E2_6000, .bfi ⟨.z64, 0, .s 1, .s 2, .k 3, .s 3, .none⟩)] = true := by decide

theorem test_decode_10b : decodesTo [
    (0x1662_91FF_FF22_6000, .addi ⟨.s64, 1, .s 1, 65535, .s 3, .none⟩),
    (0x1750_91FF_FF22_6000, .andi ⟨.z32, 0, .s 1, 65535, .s 3, .none⟩),
    (0x1874_94BE_EF22_8000, .ldi ⟨.z64, 2, .s 4, 48879, .s 4, .none⟩),
    (0x1923_00FE_D426_4000, .cmpi ⟨.s16, 1, .chan 0 0, 65236, .p 2, .none⟩),
    (0x1A70_8448_E0E2_6000, .addr ⟨.z64, 0, .k 4, .s 1, .imm 3, .s 3, .none⟩)] = true := by decide

theorem test_decode_20a : decodesTo [
    (0x20E0_A160_3024_4000, .vmov ⟨.b1, 0, .w 1, .zero, .zero, .w 2, .none⟩),
    (0x2122_A050_B024_4000, .vadd ⟨.s16, 1, .w 0, .w 1, .zero, .w 2, .none⟩),
    (0x2210_A0C0_B024_4000, .vsub ⟨.z8, 0, .w 0, .imm 1, .zero, .w 2, .none⟩),
    (0x2340_00CA_3010_8000, .vmul ⟨.s32, 0, .slot, .imm 20, .zero, .slot 4 .a, .none⟩),
    (0x2430_A350_B036_2000, .vmulh ⟨.z16, 0, .w 3, .w 1, .zero, .out 3 1, .none⟩),
    (0x2540_00C1_2851_7000, .vmac ⟨.s32, 0, .slot, .imm 2, .w 1, .slot 11 .c, .none⟩),
    (0x2612_A050_A8A4_6000, .vdot4 ⟨.z8, 1, .w 0, .w 1, .w 2, .w 3, .none⟩),
    (0x2720_A050_A8A4_6000, .vdot2 ⟨.s16, 0, .w 0, .w 1, .w 2, .w 3, .none⟩)] = true := by decide

theorem test_decode_20b : decodesTo [
    (0x2850_C250_B024_4000, .vmin ⟨.z32, 0, .laneidx, .w 1, .zero, .w 2, .none⟩),
    (0x2900_A060_B024_4000, .vmax ⟨.s8, 0, .w 0, .ones, .zero, .w 2, .none⟩),
    (0x2A42_A060_3024_4000, .vabs ⟨.s32, 1, .w 0, .zero, .zero, .w 2, .none⟩),
    (0x2BD0_A050_B024_4000, .vand ⟨.c4, 0, .w 0, .w 1, .zero, .w 2, .none⟩),
    (0x2C10_0000_3013_C000, .vor ⟨.z8, 0, .slot, .slot, .zero, .slot 30 .a, .none⟩),
    (0x2D90_A050_B024_4000, .vxor ⟨.e5m2, 0, .w 0, .w 1, .zero, .w 2, .none⟩),
    (0x2E32_A050_B024_4000, .vshl ⟨.z16, 1, .w 0, .w 1, .zero, .w 2, .none⟩),
    (0x2F20_A0C2_3024_4000, .vshr ⟨.s16, 0, .w 0, .imm 4, .zero, .w 2, .none⟩)] = true := by decide

theorem test_decode_30a : decodesTo [
    (0x3040_A0C4_3024_4000, .vrshr ⟨.s32, 0, .w 0, .imm 8, .zero, .w 2, .none⟩),
    (0x3144_A050_B024_4000, .vcmp ⟨.s32, 2, .w 0, .w 1, .zero, .w 2, .none⟩),
    (0x32B0_A050_A8A4_6000, .vsel ⟨.fp16, 0, .w 0, .w 1, .w 2, .w 3, .none⟩),
    (0x3322_0000_3030_0000, .vnarrow ⟨.s16, 1, .slot, .slot, .zero, .out 0 0, .none⟩),
    (0x3414_A060_3024_2000, .vwiden ⟨.z8, 2, .w 0, .zero, .zero, .w 1, .none⟩),
    (0x35A0_A050_A8A4_6000, .vshuf ⟨.bf16, 0, .w 0, .w 1, .w 2, .w 3, .none⟩),
    (0x3640_A350_E7D0_E000, .vslide ⟨.s32, 0, .w 3, .w 1, .imm 31, .slot 7 .a, .none⟩),
    (0x37C0_9160_3024_0000, .vbcast ⟨.fp32, 0, .s 1, .zero, .zero, .w 0, .none⟩)] = true := by decide

theorem test_decode_30b : decodesTo [
    (0x3850_A0C3_B022_2000, .vext ⟨.z32, 0, .w 0, .imm 7, .zero, .s 1, .none⟩),
    (0x3930_A0C3_A464_0000, .vins ⟨.z16, 0, .w 0, .imm 7, .s 1, .w 0, .none⟩),
    (0x3A42_A060_3022_2000, .vred ⟨.s32, 1, .w 0, .zero, .zero, .s 1, .none⟩),
    (0x3B58_A060_3024_2000, .vscan ⟨.z32, 4, .w 0, .zero, .zero, .w 1, .none⟩),
    (0x3C80_A060_3024_2000, .viota ⟨.e4m3, 0, .w 0, .zero, .zero, .w 1, .none⟩),
    (0x3D10_A060_3022_2000, .vpopc ⟨.z8, 0, .w 0, .zero, .zero, .s 1, .none⟩),
    (0x3E20_A050_B024_4000, .vcompress ⟨.s16, 0, .w 0, .w 1, .zero, .w 2, .none⟩)] = true := by decide

theorem test_decode_40a : decodesTo [
    (0x40C0_9149_3022_6000, .fadd ⟨.fp32, 0, .s 1, .s 2, .zero, .s 3, .none⟩),
    (0x41AA_A151_3024_6000, .fsub ⟨.bf16, 5, .w 1, .w 2, .zero, .w 3, .none⟩),
    (0x42B4_91C8_3022_6000, .fmul ⟨.fp16, 2, .s 1, .imm 16, .zero, .s 3, .none⟩),
    (0x43C0_9149_24E2_8000, .ffma ⟨.fp32, 0, .s 1, .s 2, .s 3, .s 4, .none⟩),
    (0x4488_A151_3024_6000, .fmin ⟨.e4m3, 4, .w 1, .w 2, .zero, .w 3, .none⟩),
    (0x4590_9149_3022_6000, .fmax ⟨.e5m2, 0, .s 1, .s 2, .zero, .s 3, .none⟩),
    (0x46C8_A160_3024_6000, .fabs ⟨.fp32, 4, .w 1, .zero, .zero, .w 3, .none⟩),
    (0x47C0_9160_3022_6000, .fneg ⟨.fp32, 0, .s 1, .zero, .zero, .s 3, .none⟩)] = true := by decide

theorem test_decode_40b : decodesTo [
    (0x48A6_9149_3026_0000, .fcmp ⟨.bf16, 3, .s 1, .s 2, .zero, .p 0, .none⟩),
    (0x49B0_9160_3022_6000, .fclass ⟨.fp16, 0, .s 1, .zero, .zero, .s 3, .none⟩),
    (0x4AC8_0060_3011_2800, .frcp ⟨.fp32, 4, .slot, .zero, .zero, .slot 9 .b, .none⟩),
    (0x4BA0_9160_3022_6000, .frsq ⟨.bf16, 0, .s 1, .zero, .zero, .s 3, .none⟩),
    (0x4CB8_A160_3024_6000, .fsqrt ⟨.fp16, 4, .w 1, .zero, .zero, .w 3, .none⟩),
    (0x4DC6_9149_3022_6000, .fdiv ⟨.fp32, 3, .s 1, .s 2, .zero, .s 3, .none⟩),
    (0x4EA0_9160_3022_6000, .fexp2 ⟨.bf16, 0, .s 1, .zero, .zero, .s 3, .none⟩),
    (0x4FC0_9160_3022_6000, .flog2 ⟨.fp32, 0, .s 1, .zero, .zero, .s 3, .none⟩)] = true := by decide

theorem test_decode_50a : decodesTo [
    (0x50C8_0060_3011_0000, .fsig ⟨.fp32, 4, .slot, .zero, .zero, .slot 8 .a, .none⟩),
    (0x51B8_A160_3024_6000, .ftanh ⟨.fp16, 4, .w 1, .zero, .zero, .w 3, .none⟩),
    (0x52C2_91FE_B022_6000, .fscale ⟨.fp32, 1, .s 1, .imm 125, .zero, .s 3, .none⟩),
    (0x53A4_9160_3022_6000, .fround ⟨.bf16, 2, .s 1, .zero, .zero, .s 3, .none⟩),
    (0x54C8_A160_3022_6000, .vfred ⟨.fp32, 4, .w 1, .zero, .zero, .s 3, .none⟩)] = true := by decide

theorem test_decode_50b : decodesTo [
    (0x55AA_A050_A8A4_6000, .vfdot2 ⟨.bf16, 5, .w 0, .w 1, .w 2, .w 3, .none⟩),
    (0x56A0_913F_C022_4000, .faddi ⟨.bf16, 0, .s 1, 16320, .s 2, .none⟩),
    (0x57C8_A140_0024_4000, .fmuli ⟨.fp32, 4, .w 1, 16384, .w 2, .none⟩),
    (0x58C0_9149_24E2_8000, .fclamp ⟨.fp32, 0, .s 1, .s 2, .s 3, .s 4, .none⟩)] = true := by decide

theorem test_decode_60a : decodesTo [
    (0x6088_A0C6_61A4_2000, .cvt ⟨.e4m3, 4, .w 0, .imm 12, .imm 6, .w 1, .none⟩),
    (0x6188_00D6_20D3_8000, .cvts ⟨.e4m3, 4, .slot, .imm 44, .k 3, .slot 28 .a, .none⟩),
    (0x6284_A0C0_B024_2000, .packf ⟨.e4m3, 2, .w 0, .imm 1, .zero, .w 1, .none⟩)] = true := by decide

theorem test_decode_60b : decodesTo [
    (0x6390_A0C0_3024_2000, .unpackf ⟨.e5m2, 0, .w 0, .imm 0, .zero, .w 1, .none⟩),
    (0x64C1_8F50_B022_6000, .cbexp ⟨.fp32, 0, .imm 15, .w 1, .zero, .s 3, .none⟩),
    (0x65A0_9150_A4A4_6000, .cbqnt ⟨.bf16, 0, .s 1, .w 1, .s 2, .w 3, .none⟩)] = true := by decide

theorem test_decode_70a : decodesTo [
    (0x7005_50AC_8000_0123, .send ⟨5, .w 1, .p 2, .none, 291⟩),
    (0x7100_6030_4000_0001, .adv ⟨0, .zero, .ones, .none, 1⟩),
    (0x7203_48AC_0000_003F, .padv ⟨3, .s 1, .p 0, .none, 63⟩),
    (0x7307_48B0_4000_0014, .mark ⟨7, .s 1, .ones, .none, 20⟩)] = true := by decide

theorem test_decode_70b : decodesTo [
    (0x7400_A1B0_6260_0000, .tkind ⟨0, .chan 4 3, .ones, .s 3, 0⟩),
    (0x7500_BFAC_7220_0000, .markarg ⟨0, .chan 7 15, .p 1, .out 1 1, 0⟩),
    (0x7600_6030_4000_0075, .osend ⟨0, .zero, .ones, .none, 117⟩),
    (0x7700_4130_4000_0010, .cfgsend ⟨0, .k 2, .ones, .none, 16⟩)] = true := by decide

theorem test_decode_80a : decodesTo [
    (0x8000_602C_0007_FFFE, .exit ⟨0, .zero, .p 0, .none, 524286⟩),
    (0x8100_6030_4000_0006, .call ⟨0, .zero, .ones, .none, 6⟩),
    (0x8200_602C_C000_0000, .ret ⟨0, .zero, .p 3, .none, 0⟩),
    (0x8300_602C_4000_0000, .tend ⟨0, .zero, .p 1, .none, 0⟩),
    (0x8400_6030_4000_0000, .yield ⟨0, .zero, .ones, .none, 0⟩),
    (0x8501_4A30_4000_0010, .sleep ⟨1, .s 4, .ones, .none, 16⟩),
    (0x8600_4030_4003_FFFF, .trap ⟨0, .k 0, .ones, .none, 262143⟩),
    (0x8713_58B0_4000_0000, .pset ⟨19, .p 1, .ones, .none, 0⟩)] = true := by decide

theorem test_decode_80b : decodesTo [
    (0x8800_48B0_62A0_0000, .launch ⟨0, .s 1, .ones, .s 5, 0⟩),
    (0x8900_40AC_0000_0000, .glaunch ⟨0, .k 1, .p 0, .none, 0⟩),
    (0x8A00_4930_6260_0000, .join ⟨0, .s 2, .ones, .s 3, 0⟩),
    (0x8B00_48B0_4000_0000, .cancel ⟨0, .s 1, .ones, .none, 0⟩),
    (0x8C02_40B0_4000_0000, .tbmark ⟨2, .k 1, .ones, .none, 0⟩),
    (0x8D01_40B0_62C0_0000, .tbwait ⟨1, .k 1, .ones, .s 6, 0⟩),
    (0x8E00_602C_0000_0000, .phend ⟨0, .zero, .p 0, .none, 0⟩)] = true := by decide

theorem test_decode_90a : decodesTo [
    (0x9040_0205_8180_8900, .ld ⟨.s32, 0, 0, 0, .k 1, .zero, .imm 0, .s 2, none⟩),
    (0x9140_0000_0180_0010, .st ⟨.s32, 0, 0, 0, .slot, .slot, .imm 0, .none, some 0⟩),
    (0x92E7_6A01_8121_9016, .ldv ⟨.b1, 7, 1, 5, .k 0, .zero, .chan 2 1, .w 0, some 3⟩),
    (0x9380_9800_00B1_0000, .stv ⟨.e4m3, 0, 2, 3, .slot, .slot, .p 1, .none, none⟩),
    (0x943F_0245_4580_0000, .stvm ⟨.z16, 15, 0, 0, .s 1, .w 2, .imm 0, .none, none⟩),
    (0x9560_E247_0380_8994, .aadd ⟨.s64, 0, 3, 4, .s 1, .imm 1, .imm 0, .s 3, some 2⟩),
    (0x9651_0245_2500_8980, .amin ⟨.z32, 1, 0, 0, .s 1, .s 2, .chan 0 0, .s 3, none⟩),
    (0x9742_0245_24B0_0000, .amax ⟨.s32, 2, 0, 0, .s 1, .s 2, .p 0, .none, none⟩)] = true := by decide

theorem test_decode_90b : decodesTo [
    (0x9873_4A45_2580_8980, .aand ⟨.z64, 3, 1, 1, .s 1, .s 2, .imm 0, .s 3, none⟩),
    (0x9964_9245_2580_4280, .aor ⟨.s64, 4, 2, 2, .s 1, .s 2, .imm 0, .slot 5 .a, none⟩),
    (0x9A75_EA45_2580_8980, .axor ⟨.z64, 5, 3, 5, .s 1, .s 2, .imm 0, .s 3, none⟩),
    (0x9BC6_0245_2580_8980, .axchg ⟨.fp32, 6, 0, 0, .s 1, .s 2, .imm 0, .s 3, none⟩),
    (0x9C50_0245_2580_8A80, .acas ⟨.z32, 0, 0, 0, .s 1, .s 2, .imm 0, .s 5, none⟩),
    (0x9DA0_0245_2580_8A9E, .afadd ⟨.bf16, 0, 0, 0, .s 1, .s 2, .imm 0, .s 5, some 7⟩),
    (0x9E10_0245_4380_0000, .bew ⟨.z8, 0, 0, 0, .s 1, .w 1, .imm 0, .none, none⟩),
    (0x9F40_0245_2580_8980, .bred ⟨.s32, 0, 0, 0, .s 1, .s 2, .imm 0, .s 3, none⟩)] = true := by decide

theorem test_decode_a0a : decodesTo [
    (0xA000_0B01_8180_0000, .fence ⟨.s8, 0, 0, 1, .zero, .zero, .imm 0, .none, none⟩),
    (0xA100_E245_8180_0000, .xfence ⟨.s8, 0, 3, 4, .s 1, .zero, .imm 0, .none, none⟩),
    (0xA251_0245_4380_9100, .gather ⟨.z32, 1, 0, 0, .s 1, .w 1, .imm 0, .w 2, none⟩),
    (0xA330_0245_4180_0018, .scatter ⟨.z16, 0, 0, 0, .s 1, .w 0, .imm 0, .none, some 4⟩),
    (0xA4C0_0245_44B5_0000, .scatadd ⟨.fp32, 0, 0, 0, .s 1, .w 2, .p 5, .none, none⟩),
    (0xA500_0001_8180_4100, .copy ⟨.s8, 0, 0, 0, .slot, .zero, .imm 0, .slot 2 .a, none⟩),
    (0xA600_4245_8180_8900, .cpstat ⟨.s8, 0, 1, 0, .s 1, .zero, .imm 0, .s 2, none⟩),
    (0xA703_0245_2580_0000, .sopen ⟨.s8, 3, 0, 0, .s 1, .s 2, .imm 0, .none, none⟩)] = true := by decide

theorem test_decode_a0b : decodesTo [
    (0xA803_0301_80B2_0000, .sclose ⟨.s8, 3, 0, 0, .zero, .zero, .p 2, .none, none⟩),
    (0xA90F_0301_4380_0000, .qpush ⟨.s8, 15, 0, 0, .zero, .w 1, .imm 0, .none, none⟩),
    (0xAA0E_020D_8180_0000, .qpop ⟨.s8, 14, 0, 0, .k 3, .zero, .imm 0, .none, none⟩),
    (0xAB01_0301_8180_001A, .sflush ⟨.s8, 1, 0, 0, .zero, .zero, .imm 0, .none, some 5⟩),
    (0xAC00_0245_2580_0000, .iflush ⟨.s8, 0, 0, 0, .s 1, .s 2, .imm 0, .none, none⟩),
    (0xAD70_0259_8180_8B80, .ldg ⟨.z64, 0, 0, 0, .s 6, .zero, .imm 0, .s 7, none⟩),
    (0xAE70_A259_2F80_0000, .stg ⟨.z64, 0, 2, 4, .s 6, .s 7, .imm 0, .none, none⟩),
    (0xAF60_EA5B_0380_8B80, .agadd ⟨.s64, 0, 3, 5, .s 6, .imm 1, .imm 0, .s 7, none⟩)] = true := by decide

theorem test_decode_b0a : decodesTo [
    (0xB084_9149_6222_6000, .mma ⟨.e4m3, 2, .s 1, .s 2, .imm 8, .s 3, .none⟩),
    (0xB100_9149_3024_0000, .accrd ⟨.s8, 0, .s 1, .s 2, .zero, .w 0, .none⟩),
    (0xB200_9149_2800_0000, .accwr ⟨.s8, 0, .s 1, .s 2, .w 0, .none, .none⟩),
    (0xB300_8160_3000_0000, .accz ⟨.s8, 0, .k 1, .zero, .zero, .none, .none⟩),
    (0xB400_8060_3022_8000, .accrel ⟨.s8, 0, .k 0, .zero, .zero, .s 4, .none⟩)] = true := by decide

theorem test_decode_b0b : decodesTo [
    (0xB500_C000_6010_2000, .wload ⟨.s8, 0, .zero, .slot, .imm 0, .slot 1 .a, .none⟩),
    (0xB602_8050_B022_8000, .wres ⟨.s8, 1, .k 0, .w 1, .zero, .s 4, .none⟩),
    (0xB700_9160_3022_4000, .tseal ⟨.s8, 0, .s 1, .zero, .zero, .s 2, .none⟩),
    (0xB800_9160_3022_4000, .tdrop ⟨.s8, 0, .s 1, .zero, .zero, .s 2, .none⟩),
    (0xB900_91C8_3022_4000, .tquery ⟨.s8, 0, .s 1, .imm 16, .zero, .s 2, .none⟩)] = true := by decide

theorem test_decode_c0a : decodesTo [
    (0xC000_9149_6022_6000, .spld ⟨.s8, 0, .s 1, .s 2, .imm 0, .s 3, .none⟩),
    (0xC106_A160_63E2_8000, .spmm ⟨.s8, 3, .w 1, .zero, .imm 15, .s 4, .none⟩),
    (0xC200_9140_B022_6000, .spinv ⟨.s8, 0, .s 1, .k 1, .zero, .s 3, .none⟩),
    (0xC300_9140_B022_6000, .spq ⟨.s8, 0, .s 1, .k 1, .zero, .s 3, .none⟩),
    (0xC400_A060_6022_6000, .sclook ⟨.s8, 0, .w 0, .zero, .imm 0, .s 3, .none⟩),
    (0xC500_A060_60A2_6000, .scfill ⟨.s8, 0, .w 0, .zero, .imm 2, .s 3, .none⟩),
    (0xC600_A060_6022_6450, .scstep ⟨.s8, 0, .w 0, .zero, .imm 0, .s 3, .s 4⟩)] = true := by decide

theorem test_decode_c0b : decodesTo [
    (0xC700_8160_3022_6000, .scinv ⟨.s8, 0, .k 1, .zero, .zero, .s 3, .none⟩),
    (0xC8C0_00C2_6051_E000, .xgate ⟨.fp32, 0, .slot, .imm 4, .imm 1, .slot 15 .a, .none⟩),
    (0xC900_A050_A480_0000, .xsend ⟨.s8, 0, .w 0, .w 1, .s 2, .none, .none⟩),
    (0xCA00_C060_3000_0000, .xflush ⟨.s8, 0, .zero, .zero, .zero, .none, .none⟩),
    (0xCB00_0060_3000_0000, .xclose ⟨.s8, 0, .slot, .zero, .zero, .none, .none⟩),
    (0xCC00_A060_6262_2000, .coll ⟨.s8, 0, .w 0, .zero, .imm 9, .s 1, .none⟩),
    (0xCD00_9160_3022_4000, .collwait ⟨.s8, 0, .s 1, .zero, .zero, .s 2, .none⟩)] = true := by decide

theorem test_decode_d0a : decodesTo [
    (0xD000_6030_6220_0401, .csrrd ⟨0, .zero, .ones, .s 1, 1025⟩),
    (0xD100_48AC_0000_0FFF, .csrwr ⟨0, .s 1, .p 0, .none, 4095⟩),
    (0xD200_6030_6220_0000, .cycle ⟨0, .zero, .ones, .s 1, 0⟩),
    (0xD300_6030_4000_007F, .statclr ⟨0, .zero, .ones, .none, 127⟩),
    (0xD400_40B0_4000_0000, .seed ⟨0, .k 1, .ones, .none, 0⟩),
    (0xD502_48AC_A260_0000, .tret ⟨2, .s 1, .p 2, .s 3, 0⟩)] = true := by decide

theorem test_decode_d0b : decodesTo [
    (0xD600_6030_6400_0000, .frec ⟨0, .zero, .ones, .w 0, 0⟩),
    (0xD700_48B0_6247_FFFF, .migr ⟨0, .s 1, .ones, .s 2, 524287⟩),
    (0xD800_48B0_6240_0003, .quota ⟨0, .s 1, .ones, .s 2, 3⟩),
    (0xD900_C1B0_4000_000B, .brk ⟨0, .imm 3, .ones, .none, 11⟩),
    (0xDA01_6030_6220_0101, .perf ⟨1, .zero, .ones, .s 1, 257⟩)] = true := by decide

theorem test_decode_e0a : decodesTo [
    (0xE060_0781_0440_0000, .steer ⟨⟨.w, 0⟩, ⟨.n, 1⟩, ⟨.none, 0⟩, ⟨.e, 0⟩, ⟨.s, 2⟩, 0⟩),
    (0xE106_512B_6E00_0001, .merge ⟨⟨.n, 3⟩, ⟨.e, 4⟩, ⟨.s, 5⟩, ⟨.w, 6⟩, ⟨.none, 0⟩, 1⟩),
    (0xE200_4103_0800_0000, .carry ⟨⟨.n, 0⟩, ⟨.e, 0⟩, ⟨.s, 0⟩, ⟨.w, 0⟩, ⟨.loc, 0⟩, 0⟩),
    (0xE3A3_C381_1E00_007F, .repeat ⟨⟨.rowbus, 1⟩, ⟨.none, 0⟩, ⟨.none, 0⟩, ⟨.e, 1⟩, ⟨.none, 0⟩, 127⟩),
    (0xE481_C381_1410_2003, .count ⟨⟨.loc, 0⟩, ⟨.none, 0⟩, ⟨.none, 0⟩, ⟨.e, 1⟩, ⟨.s, 0⟩, 1056771⟩),
    (0xE500_4382_3E00_0005, .switch ⟨⟨.n, 0⟩, ⟨.e, 0⟩, ⟨.none, 0⟩, ⟨.s, 3⟩, ⟨.none, 0⟩, 5⟩),
    (0xE6C5_C381_0E00_0000, .sploop ⟨⟨.colbus, 2⟩, ⟨.none, 0⟩, ⟨.none, 0⟩, ⟨.e, 0⟩, ⟨.none, 0⟩, 0⟩)] = true := by decide

theorem test_decode_e0b : decodesTo [
    (0xE763_C381_0E1F_FFFF, .seq ⟨⟨.w, 1⟩, ⟨.none, 0⟩, ⟨.none, 0⟩, ⟨.e, 0⟩, ⟨.none, 0⟩, 2097151⟩),
    (0xE862_0781_0E00_0003, .smerge ⟨⟨.w, 1⟩, ⟨.n, 1⟩, ⟨.none, 0⟩, ⟨.e, 0⟩, ⟨.none, 0⟩, 3⟩),
    (0xE97F_C381_0420_0000, .fork ⟨⟨.w, 15⟩, ⟨.none, 0⟩, ⟨.none, 0⟩, ⟨.e, 0⟩, ⟨.s, 1⟩, 0⟩),
    (0xEA01_C387_0E00_0000, .sink ⟨⟨.n, 0⟩, ⟨.none, 0⟩, ⟨.none, 0⟩, ⟨.none, 0⟩, ⟨.none, 0⟩, 0⟩),
    (0xEB00_CB81_3E00_0001, .filter ⟨⟨.n, 0⟩, ⟨.w, 2⟩, ⟨.none, 0⟩, ⟨.e, 3⟩, ⟨.none, 0⟩, 1⟩),
    (0xEC00_C909_3E00_0002, .sync ⟨⟨.n, 0⟩, ⟨.w, 2⟩, ⟨.s, 1⟩, ⟨.e, 3⟩, ⟨.none, 0⟩, 2⟩)] = true := by decide

/-! ## Well-formedness: a term for each check, which the check refuses with the row of R100's table -/

/-- Every term of the list is refused, with its row. -/
def refused (l : List (Instr × Nat)) : Bool := l.all fun e => decide (e.1.bad = some e.2) && !e.1.wf

/-- Types (row 5). -/
theorem test_illformed_types : refused [
    (.nop ⟨.z8, 0, .zero, .zero, .zero, .none, .none⟩, 5),
    (.mov ⟨.c4, 0, .s 1, .zero, .zero, .s 2, .none⟩, 5),
    (.add ⟨.e4m3, 0, .s 1, .s 2, .zero, .s 3, .none⟩, 5),
    (.addr ⟨.s16, 0, .s 1, .s 2, .zero, .s 3, .none⟩, 5),
    (.vmov ⟨.s64, 0, .w 1, .zero, .zero, .w 2, .none⟩, 5),
    (.vadd ⟨.z64, 0, .w 1, .w 2, .zero, .w 3, .none⟩, 5),
    (.vdot4 ⟨.s16, 0, .w 1, .w 2, .w 3, .w 0, .none⟩, 5),
    (.vdot2 ⟨.s8, 0, .w 1, .w 2, .w 3, .w 0, .none⟩, 5),
    (.vnarrow ⟨.s32, 0, .w 1, .w 2, .zero, .w 3, .none⟩, 5),
    (.vshuf ⟨.c4, 0, .w 1, .w 2, .w 3, .w 0, .none⟩, 5),
    (.fadd ⟨.s32, 0, .s 1, .s 2, .zero, .s 3, .none⟩, 5),
    (.frcp ⟨.e4m3, 0, .s 1, .zero, .zero, .s 3, .none⟩, 5),
    (.vfdot2 ⟨.fp32, 4, .w 1, .w 2, .w 3, .w 0, .none⟩, 5),
    (.packf ⟨.bf16, 0, .w 1, .imm 0, .zero, .w 2, .none⟩, 5),
    (.cbexp ⟨.fp16, 0, .s 1, .w 1, .zero, .s 3, .none⟩, 5),
    (.ld ⟨.c4, 0, 0, 0, .s 1, .zero, .imm 0, .s 2, none⟩, 5),
    (.ldv ⟨.s64, 0, 0, 0, .s 1, .zero, .imm 0, .w 2, none⟩, 5),
    (.stvm ⟨.c4, 0, 0, 0, .s 1, .w 0, .imm 0, .none, none⟩, 5),
    (.aadd ⟨.s16, 0, 0, 0, .s 1, .s 2, .imm 0, .s 3, none⟩, 5),
    (.axchg ⟨.bf16, 0, 0, 0, .s 1, .s 2, .imm 0, .s 3, none⟩, 5),
    (.afadd ⟨.s32, 0, 0, 0, .s 1, .s 2, .imm 0, .s 3, none⟩, 5),
    (.bred ⟨.e4m3, 0, 0, 0, .s 1, .s 2, .imm 0, .s 3, none⟩, 5),
    (.scatadd ⟨.fp16, 0, 0, 0, .s 1, .w 0, .imm 0, .none, none⟩, 5),
    (.fence ⟨.z8, 0, 0, 0, .zero, .zero, .imm 0, .none, none⟩, 5),
    (.mma ⟨.z8, 0, .s 1, .s 2, .imm 8, .s 3, .none⟩, 5),
    (.accrd ⟨.z8, 0, .s 1, .s 2, .zero, .w 0, .none⟩, 5),
    (.xgate ⟨.fp16, 0, .w 0, .imm 4, .imm 1, .s 1, .none⟩, 5)] = true := by decide

/-- Modifiers and sub-operations (row 6). -/
theorem test_illformed_modifiers : refused [
    (.mov ⟨.s8, 1, .s 1, .zero, .zero, .s 2, .none⟩, 6),
    (.add ⟨.s8, 2, .s 1, .s 2, .zero, .s 3, .none⟩, 6),
    (.cmp ⟨.s8, 6, .s 1, .s 2, .zero, .s 3, .none⟩, 6),
    (.ldi ⟨.s16, 1, .s 1, 5, .s 3, .none⟩, 6),
    (.vwiden ⟨.z8, 1, .w 0, .zero, .zero, .w 1, .none⟩, 6),
    (.vred ⟨.s32, 3, .w 0, .zero, .zero, .s 1, .none⟩, 6),
    (.fmin ⟨.fp32, 1, .s 1, .s 2, .zero, .s 3, .none⟩, 6),
    (.vfred ⟨.fp32, 0, .w 1, .zero, .zero, .s 3, .none⟩, 6),
    (.cvt ⟨.e4m3, 4, .w 0, .imm 13, .imm 0, .w 1, .none⟩, 6),
    (.cvt ⟨.fp32, 0, .w 0, .imm 12, .imm 4, .w 1, .none⟩, 6),
    (.cvts ⟨.e4m3, 4, .w 0, .imm 76, .k 3, .w 1, .none⟩, 6),
    (.packf ⟨.e4m3, 4, .w 0, .imm 1, .zero, .w 1, .none⟩, 6),
    (.wres ⟨.s8, 2, .k 0, .w 1, .zero, .s 4, .none⟩, 6),
    (.spmm ⟨.s8, 4, .w 1, .zero, .imm 0, .s 4, .none⟩, 6),
    (.mma ⟨.e4m3, 6, .s 1, .s 2, .imm 8, .s 3, .none⟩, 6),
    (.send ⟨2, .w 1, .ones, .none, 0⟩, 6),
    (.adv ⟨8, .zero, .ones, .none, 1⟩, 6),
    (.mark ⟨0, .s 1, .ones, .none, 0⟩, 6),
    (.sleep ⟨2, .s 1, .ones, .none, 0⟩, 6),
    (.pset ⟨48, .p 1, .ones, .none, 0⟩, 6),
    (.tbmark ⟨1, .k 1, .ones, .none, 0⟩, 6),
    (.tbwait ⟨3, .k 1, .ones, .s 1, 0⟩, 6),
    (.tret ⟨3, .s 1, .ones, .s 1, 0⟩, 6),
    (.perf ⟨2, .zero, .ones, .s 1, 0⟩, 6)] = true := by decide

/-- Unused sources, and source classes. -/
theorem test_illformed_sources : refused [
    (.nop ⟨.s8, 0, .s 1, .zero, .zero, .none, .none⟩, 6),
    (.mov ⟨.s8, 0, .s 1, .s 2, .zero, .s 3, .none⟩, 6),
    (.add ⟨.s8, 0, .s 1, .s 2, .s 3, .s 4, .none⟩, 6),
    (.packf ⟨.e4m3, 0, .w 0, .imm 2, .zero, .w 1, .none⟩, 6),
    (.unpackf ⟨.e4m3, 0, .imm 1, .imm 0, .zero, .w 1, .none⟩, 6),
    (.cbexp ⟨.fp32, 0, .imm 16, .w 1, .zero, .s 3, .none⟩, 6),
    (.mma ⟨.s8, 0, .s 1, .s 2, .imm 8, .s 3, .none⟩, 6),
    (.wload ⟨.s8, 0, .zero, .imm 0, .imm 0, .s 1, .none⟩, 6),
    (.wload ⟨.s8, 0, .zero, .s 1, .imm 16, .s 1, .none⟩, 6),
    (.tquery ⟨.s8, 0, .imm 1, .imm 0, .zero, .s 1, .none⟩, 6),
    (.send ⟨0, .imm 1, .ones, .none, 0⟩, 6),
    (.tkind ⟨0, .s 1, .ones, .s 3, 0⟩, 6),
    (.exit ⟨0, .s 1, .ones, .none, 0⟩, 6),
    (.launch ⟨0, .imm 1, .ones, .s 5, 0⟩, 6),
    (.stvm ⟨.s8, 0, 0, 0, .s 1, .w 1, .imm 0, .none, none⟩, 6),
    (.ld ⟨.s8, 0, 0, 0, .s 1, .s 2, .imm 0, .s 2, none⟩, 6)] = true := by decide

/-- Targets. -/
theorem test_illformed_targets : refused [
    (.nop ⟨.s8, 0, .zero, .zero, .zero, .s 1, .none⟩, 6),
    (.accwr ⟨.s8, 0, .s 1, .s 2, .w 0, .s 1, .none⟩, 6),
    (.tkind ⟨0, .chan 0 0, .ones, .none, 0⟩, 6),
    (.join ⟨0, .s 2, .ones, .w 3, 0⟩, 6),
    (.frec ⟨0, .zero, .ones, .s 0, 0⟩, 6),
    (.collwait ⟨.s8, 0, .s 1, .zero, .zero, .s 2, .s 3⟩, 6),
    (.st ⟨.s8, 0, 0, 0, .s 1, .s 2, .imm 0, .s 3, none⟩, 6),
    (.trap ⟨0, .s 1, .ones, .s 1, 0⟩, 6)] = true := by decide

/-- Immediates and reserved bits. -/
theorem test_illformed_immediates : refused [
    (.send ⟨0, .s 1, .ones, .none, 128⟩, 6),
    (.send ⟨0, .s 1, .ones, .none, 256⟩, 6),
    (.adv ⟨0, .zero, .ones, .none, 64⟩, 6),
    (.ret ⟨0, .zero, .ones, .none, 1⟩, 6),
    (.sleep ⟨0, .s 1, .ones, .none, 1⟩, 6),
    (.sleep ⟨1, .s 1, .ones, .none, 0⟩, 6),
    (.trap ⟨0, .s 1, .ones, .none, 262144⟩, 6),
    (.csrrd ⟨0, .zero, .ones, .s 1, 4096⟩, 6),
    (.statclr ⟨0, .zero, .ones, .none, 128⟩, 6),
    (.migr ⟨0, .s 1, .ones, .s 2, 512⟩, 6),
    (.quota ⟨0, .s 1, .ones, .s 2, 0⟩, 6)] = true := by decide

/-- Memory: semantics, scope, guard. -/
theorem test_illformed_memory : refused [
    (.ld ⟨.s8, 0, 2, 0, .s 1, .zero, .imm 0, .s 2, none⟩, 6),
    (.st ⟨.s8, 0, 1, 0, .s 1, .s 2, .imm 0, .none, none⟩, 6),
    (.ld ⟨.s8, 0, 0, 1, .s 1, .zero, .imm 0, .s 2, none⟩, 6),
    (.ld ⟨.s8, 0, 1, 6, .s 1, .zero, .imm 0, .s 2, none⟩, 6),
    (.ld ⟨.s8, 0, 0, 0, .s 1, .zero, .imm 1, .s 2, none⟩, 6),
    (.gather ⟨.s8, 0, 1, 0, .s 1, .w 1, .imm 0, .w 2, none⟩, 6),
    (.fence ⟨.s8, 1, 0, 0, .zero, .zero, .imm 0, .none, none⟩, 6)] = true := by decide

/-- Operators. -/
theorem test_illformed_operators : refused [
    (.steer ⟨⟨.w, 0⟩, ⟨.n, 1⟩, ⟨.e, 0⟩, ⟨.e, 0⟩, ⟨.s, 2⟩, 0⟩, 6),
    (.steer ⟨⟨.w, 0⟩, ⟨.none, 0⟩, ⟨.none, 0⟩, ⟨.e, 0⟩, ⟨.s, 2⟩, 0⟩, 6),
    (.steer ⟨⟨.w, 0⟩, ⟨.n, 1⟩, ⟨.none, 0⟩, ⟨.e, 0⟩, ⟨.s, 2⟩, 2⟩, 6),
    (.merge ⟨⟨.n, 3⟩, ⟨.e, 4⟩, ⟨.s, 5⟩, ⟨.w, 6⟩, ⟨.s, 0⟩, 1⟩, 6),
    (.repeat ⟨⟨.n, 0⟩, ⟨.none, 0⟩, ⟨.none, 0⟩, ⟨.e, 1⟩, ⟨.none, 0⟩, 0⟩, 6),
    (.repeat ⟨⟨.n, 0⟩, ⟨.e, 0⟩, ⟨.none, 0⟩, ⟨.e, 1⟩, ⟨.none, 0⟩, 2⟩, 6),
    (.switch ⟨⟨.n, 0⟩, ⟨.e, 0⟩, ⟨.none, 0⟩, ⟨.s, 15⟩, ⟨.none, 0⟩, 1⟩, 6),
    (.sploop ⟨⟨.n, 0⟩, ⟨.none, 0⟩, ⟨.none, 0⟩, ⟨.e, 0⟩, ⟨.none, 0⟩, 524288⟩, 6),
    (.fork ⟨⟨.n, 0⟩, ⟨.none, 0⟩, ⟨.none, 0⟩, ⟨.e, 0⟩, ⟨.s, 1⟩, 1⟩, 6),
    (.sink ⟨⟨.n, 0⟩, ⟨.none, 0⟩, ⟨.none, 0⟩, ⟨.e, 0⟩, ⟨.none, 0⟩, 0⟩, 6),
    (.sync ⟨⟨.n, 0⟩, ⟨.w, 2⟩, ⟨.none, 0⟩, ⟨.e, 3⟩, ⟨.none, 0⟩, 2⟩, 6),
    (.carry ⟨⟨.n, 0⟩, ⟨.e, 0⟩, ⟨.none, 0⟩, ⟨.w, 0⟩, ⟨.none, 0⟩, 0⟩, 6),
    (.count ⟨⟨.n, 0⟩, ⟨.none, 0⟩, ⟨.none, 0⟩, ⟨.none, 0⟩, ⟨.none, 0⟩, 0⟩, 6),
    (.seq ⟨⟨.n, 0⟩, ⟨.none, 0⟩, ⟨.none, 0⟩, ⟨.e, 0⟩, ⟨.s, 1⟩, 0⟩, 6),
    (.smerge ⟨⟨.n, 0⟩, ⟨.none, 0⟩, ⟨.none, 0⟩, ⟨.e, 0⟩, ⟨.none, 0⟩, 0⟩, 6),
    (.filter ⟨⟨.n, 0⟩, ⟨.w, 2⟩, ⟨.none, 0⟩, ⟨.e, 3⟩, ⟨.s, 0⟩, 0⟩, 6)] = true := by decide

/-- A NONE port with a channel is refused (R92). -/
theorem test_illformed_port : refused [(.sink ⟨⟨.n, 0⟩, ⟨.none, 1⟩, ⟨.none, 0⟩, ⟨.none, 0⟩, ⟨.none, 0⟩, 0⟩, 6)] = true := by decide

/-! ## One step each: worked examples of the specification -/

/-- Compute element 0 of page 0, slot 0, about to run one instruction in a firing of binding 0. -/
def firing (c : CeCtx) : State :=
  { State.reset with
    cur := .ce 0
    launches := [(1, loadedLaunch)]
    ce := [(0, { c with launch := 1, fir := { c.fir with active := true, block := ⟨0, 0, [0]⟩ } })] }

/-- Compute element 0 with values in s and w registers. -/
def withRegs (s : List Word) (w : List Vec) : CeCtx :=
  let c : CeCtx := {}
  let c := (List.range s.length).foldl (fun c i => c.putTgt false (Word.toVec (lget 0 s i)) (.s (BitVec.ofNat 3 i))) c
  (List.range w.length).foldl (fun c i => c.putTgt true (lget 0 w i) (.w (BitVec.ofNat 2 i))) c

/-- A value of the context after one instruction. -/
def after {α : Type} (d : α) (i : Instr) (c : CeCtx) (g : CeCtx → α) : α :=
  match exec i (firing c) with
  | .next t => g (t.getCe 0)
  | _ => d

/-- The s register n after one instruction on given registers. -/
def sAfter (i : Instr) (s : List Word) (w : List Vec) (n : Nat) : Word := after 0 i (withRegs s w) fun c => c.regs.s[n]!

/-- The w register n after one instruction on given registers. -/
def wAfter (i : Instr) (s : List Word) (w : List Vec) (n : Nat) : Vec := after 0 i (withRegs s w) fun c => c.regs.w[n]!

-- R116: MOV.s8 s1 => s2 with s1 = 0xF0
theorem test_mov : sAfter (.mov ⟨.s8, 0, .s 1, .zero, .zero, .s 2, .none⟩) [0, 0xF0] [] 2 = 0xFFFFFFFFFFFFFFF0 := by decide +kernel
-- R117: ADD.s32.sat s2, 5 => s3 with s2 = 0x7FFFFFFD
theorem test_add_sat : sAfter (.add ⟨.s32, 1, .s 2, .imm 5, .zero, .s 3, .none⟩) [0, 0, 0x7FFFFFFD] [] 3 = 0x7FFFFFFF := by decide +kernel
-- R118: 7 by 0: DIV.z16 gives 0 and DZ, REM.z16 gives 7
theorem test_div_zero : after ((0 : Word), (0 : Flags)) (.div ⟨.z16, 0, .s 1, .s 2, .zero, .s 3, .none⟩) (withRegs [0, 7, 0] [])
    (fun c => (c.regs.s[3], c.stat)) = (0, flagDZ) := by decide +kernel
theorem test_rem_zero : sAfter (.rem ⟨.z16, 0, .s 1, .s 2, .zero, .s 3, .none⟩) [0, 7, 0] [] 3 = 7 := by decide +kernel
-- R123: SEL.fp32 p1, s2, s3 with p1 = 0 delivers the low 32 bits of s3
theorem test_sel : sAfter (.sel ⟨.fp32, 0, .p 1, .s 2, .s 3, .s 4, .none⟩) [0, 0, 5, 0x123456789] [] 4 = 0x23456789 := by decide +kernel
-- R127: LDI.z64.l2 s4, 0xBEEF => s4 with s4 = 0x10
theorem test_ldi : sAfter (.ldi ⟨.z64, 2, .s 4, 0xBEEF, .s 4, .none⟩) [0, 0, 0, 0, 0x10] [] 4 = 0x0000BEEF00000010 := by decide +kernel
-- R128: ADDR.z32 s1, s2, 7 with s1 = 0x42000 and s2 = 3
theorem test_addr : sAfter (.addr ⟨.z32, 0, .s 1, .s 2, .imm 7, .s 3, .none⟩) [0, 0x42000, 3] [] 3 = 0x42180 := by decide +kernel
-- R131: VDOT4.s8 w0, w1, 0: 1, 2, 3, 4 by -1, 1, -1, 1
theorem test_vdot4 : after (0 : Vec) (.vdot4 ⟨.s8, 0, .w 0, .w 1, .zero, .w 2, .none⟩) (withRegs [] [0x04030201, 0x01FF01FF])
    (fun c => c.regs.w[2]) = 2 := by decide +kernel
-- R132: VCMP.s16.lt w0, 0 with lanes 5, -3
theorem test_vcmp : wAfter (.vcmp ⟨.s16, 1, .w 0, .imm 0, .zero, .w 1, .none⟩) [] [0xFFFD0005] 1 = 0xFFFF0000 := by decide +kernel
-- R133: VSEL.s16 w3, w0, 0 with w3 from the example of VCMP, by the effect as written (log entry 23)
theorem test_vsel : wAfter (.vsel ⟨.s16, 0, .w 3, .w 0, .imm 0, .w 1, .none⟩) [] [0xFFFD0005, 0, 0, 0xFFFF0000] 1 = 0xFFFD0000 := by decide +kernel
-- R135: VSHUF.z32 w0, w1, w2 with lane 0 of w1 = 33 gives lane 1 of w2
theorem test_vshuf : wAfter (.vshuf ⟨.z32, 0, .w 0, .w 1, .w 2, .w 3, .none⟩) [] [0, 33, 0x0000000900000007] 3 % 2 ^ 32 = 9 := by decide +kernel
-- R138: VRED.z8.add over 128 lanes of 255
theorem test_vred : sAfter (.vred ⟨.z8, 0, .ones, .zero, .zero, .s 1, .none⟩) [] [] 1 = 0x80 := by decide +kernel
-- R144: FMA 2 by 3 and 1 at fp32
theorem test_ffma : sAfter (.ffma ⟨.fp32, 0, .s 1, .s 2, .s 3, .s 4, .none⟩) [0, 0x40000000, 0x40400000, 0x3F800000] [] 4 =
    0x40E00000 := by decide +kernel
-- R145: FSCALE.fp16 s1, -20 with 1.0 gives 2^-20 and no flag
theorem test_fscale : after ((0 : Word), (0 : Flags)) (.fscale ⟨.fp16, 0, .s 1, .imm (-20), .zero, .s 2, .none⟩) (withRegs [0, 0x3C00] [])
    (fun c => (c.regs.s[2], c.stat)) = (0x0010, 0) := by decide +kernel
-- R146: FROUND.fp32 of -2.5 gives -2.0 with NX, and -3.0 with .rdn
theorem test_fround : after ((0 : Word), (0 : Flags)) (.fround ⟨.fp32, 0, .s 1, .zero, .zero, .s 2, .none⟩) (withRegs [0, 0xC0200000] [])
    (fun c => (c.regs.s[2], c.stat)) = (0xC0000000, flagNX) := by decide +kernel
theorem test_fround_rdn : sAfter (.fround ⟨.fp32, 2, .s 1, .zero, .zero, .s 2, .none⟩) [0, 0xC0200000] [] 2 = 0xC0400000 := by decide +kernel
-- R149: FCMP.fp32.lt of 1.0 and a quiet NaN gives 0
theorem test_fcmp_nan : sAfter (.fcmp ⟨.fp32, 1, .s 1, .s 2, .zero, .s 3, .none⟩) [0, 0x3F800000, 0x7FC00000, 7] [] 3 = 0 := by decide +kernel
-- R150: FCLASS.fp32 of 1 gives 5; FCLASS.e4m3 of 0xFF gives 9
theorem test_fclass : sAfter (.fclass ⟨.fp32, 0, .s 1, .zero, .zero, .s 2, .none⟩) [0, 1] [] 2 = 5 := by decide +kernel
theorem test_fclass_e4m3 : sAfter (.fclass ⟨.e4m3, 0, .s 1, .zero, .zero, .s 2, .none⟩) [0, 0xFF] [] 2 = 9 := by decide +kernel
-- R156: CVTS.e4m3.fp32 s1, -4 with 3,000.0 gives 0x74 and NX
theorem test_cvts : after ((0 : Word), (0 : Flags)) (.cvts ⟨.e4m3, 0, .s 1, .imm 12, .imm (-4), .s 2, .none⟩) (withRegs [0, 0x453B8000] [])
    (fun c => (c.regs.s[2], c.stat)) = (0x74, flagNX) := by decide +kernel
-- R251: XGATE.fp32 w0, 4, 2 with lanes 0.5, 2.0, 2.0 and -1.0
theorem test_xgate : sAfter (.xgate ⟨.fp32, 0, .w 0, .imm 4, .imm 2, .s 1, .none⟩) []
    [0xBF80000040000000400000003F000000] 1 = 0xFFFFFFFFFFFF0201 := by decide +kernel
-- R245: MMA.e4m3.e4m3.done s1, s2 => s3
theorem test_mma : sAfter (.mma ⟨.e4m3, 2, .s 1, .s 2, .imm 8, .s 3, .none⟩) [0, 0x00FFFFF000000000, 7] [] 3 =
    0x10FFFFF880000007 := by decide +kernel

/-! ## Witnesses: states and operands that meet the hypotheses of the statements, clause by clause (`witness_<statement>`) -/

/-- A memory tile whose banks are awake, with one translation cached. -/
def awakeMt : MemTile := { banks := List.replicate 16 { power := .awake }, xcache := [⟨0, 2 ^ 25, 0, true⟩] }

/-- A firing of one word on page 0, which partition 0 owns as its logical page 0, with its banks awake. -/
def home (word : Word) (c : CeCtx) : State :=
  let s := firing { c with binds := { bound := true, state := .firing } :: List.replicate 3 {}, fir := { c.fir with toks := List.replicate 8 [⟨2, 0, 0⟩] } }
  { s with
    ce := [(0, let c := s.getCe 0; { c with fir := { c.fir with block := ⟨0, 0, [word]⟩ } })]
    parts := [(0, { pages := [0], nl := 1, map := [(0, ⟨true, false, 0⟩)], regs := { panBase := 0x100000000, panSize := 100000, panFree := 1000 }, images := [(0, { body := some ⟨1, [], [], [], [], []⟩, lastNamed := 0 })] })]
    pages := [(0, { owner := some 0, resident := [1, 0, 0, 0] })]
    mts := [(0, awakeMt), (1, awakeMt)] }

/-- `home` with the partition changed. -/
def homeP (c : CeCtx) (g : Partition → Partition) : State :=
  let s := home 0 c
  { s with parts := [(0, g (s.getPart 0))] }

/-- `home` with its launch a supervisor's. -/
def homeSuper (c : CeCtx) : State := { home 0 c with launches := [(1, { loadedLaunch with super := true })] }

/-- Format X with the guard ONES. -/
def xF (sub : BitVec 8) (imm : BitVec 19) : FmtX := ⟨sub, .s 1, .ones, .s 2, imm⟩

/-- A check's answer. -/
def isOk {α : Type} [DecidableEq α] (e : Try α) (a : α) : Bool := match e with | .ok b => decide (b = a) | .error _ => false

/-- A check's fault. -/
def isErr {α : Type} (e : Try α) (cls : FaultClass) (addr : Nat) : Bool :=
  match e with | .error (some x) => decide (x.cls = cls) && x.addr == addr | _ => false

/-- A finite value. -/
def finite : FVal → Bool
  | .fin _ _ _ => true
  | _ => false

/-- Format M with its word: s1 the address, s2 or w1 the data. -/
def fLd : FmtM := ⟨.s32, 0, 0, 0, .k 1, .zero, .imm 0, .s 2, none⟩
def fStvm : FmtM := ⟨.z16, 15, 0, 0, .s 1, .w 2, .imm 0, .none, none⟩
def fAtom : FmtM := ⟨.s64, 0, 3, 4, .s 1, .imm 1, .imm 0, .s 3, some 2⟩
def fBew : FmtM := ⟨.z8, 0, 0, 0, .s 1, .w 1, .imm 0, .none, none⟩
def fBred : FmtM := ⟨.s32, 0, 0, 0, .s 1, .s 2, .imm 0, .s 3, none⟩
def fGather : FmtM := ⟨.z32, 1, 0, 0, .s 1, .w 1, .imm 0, .w 2, none⟩
def fCopy : FmtM := ⟨.s8, 0, 0, 0, .slot, .zero, .imm 0, .slot 2 .a, none⟩
def fIflush : FmtM := ⟨.s8, 0, 0, 0, .s 1, .s 2, .imm 0, .none, none⟩
def fSopen : FmtM := ⟨.s8, 3, 0, 0, .s 1, .s 2, .imm 0, .none, none⟩

/-- `home` with the word of an instruction, an address in s1 and k1, and s2 and w1. -/
def mem (word a b : Word) (w1 : Vec) : State :=
  let c := withRegs [0, a, b] [0, w1]
  home word { c with regs := { c.regs with k := c.regs.k.set 1 a } }

theorem issues (s : State) (f : FmtM)
    (h : decM (s.getCe s.key).fir.word = .ok f ∧ (s.getCe s.key).fir.hold = .none ∧ (s.rdAt s.key).guardM f = true ∧ (s.getCe s.key).pend = [])
    (hc : ∀ i o, f.sc ≠ .chan i o) : Issues s f :=
  ⟨h.1, h.2.1, fun i o e => absurd e (hc i o), h.2.2.1, h.2.2.2⟩

/-- A channel from one endpoint to another, with nothing in it. -/
def aChan (src dst : EndRef) : Chan :=
  { launch := 1, num := 0, part := 0, ctx := 0, src := src, dst := dst, depth := 4, order := false, spill := false, quota := 0, segs := 0,
    startq := [], hops := [⟨0, 0, []⟩], endq := [], ring := [], refill := [], credit := 4, freed := 0, blocked := 0, recorded := false,
    arrived := [], lost := 0 }
/-- A read that is outstanding at bank 0 of memory tile 0. -/
def waiting : Acc := ⟨0, 0, 0, 0, 3, .s32, .bank 0 ⟨0, 0, 0, .read, 0, 0, .ce 0 0⟩, true, true, none⟩

/-- A stream of a mode of the context's stream 3. -/
def aStream (m : StreamMode) (credit : Nat) : Stream := ⟨m, 0, 1, 3, 0, 0, 65536, 0, 0, 0, 0, 0, false, false, credit, [], false, none, 0, [], false, [], 0, 0⟩

/-- A bank is free for a request. -/
def bankIsFree (s : State) (mt b : Nat) : Bool :=
  let x := lget {} (s.getMt mt).banks b
  let g := s.getPage (mt / 2)
  x.power == .awake && x.queue.isEmpty && (s.getMt mt).input.isEmpty && ((s.getMt mt).gatherHead b).isNone &&
    x.served.all (fun e => e.2 < s.cycle.toNat) && !g.clearing && !g.gating

theorem bankIsFree_free (s : State) (mt b : Nat) (h : bankIsFree s mt b = true) : BankFree s mt b := by
  simp only [bankIsFree, Bool.and_eq_true, beq_iff_eq, List.isEmpty_iff, Option.isNone_iff_eq_none, List.all_eq_true,
    decide_eq_true_eq, Bool.not_eq_true'] at h
  exact ⟨h.1.1.1.1.1.1, h.1.1.1.1.1.2, h.1.1.1.1.2, h.1.1.1.2, h.1.1.2, h.1.2, h.2⟩

/-- `home` with s1 to s3 and w0 to w2, and one live tensor in record 0. -/
def eng (a b c : Word) (ws : List Vec) (rec_ : Vec) : State :=
  let s := home 0 (withRegs [0, a, b, c] ws)
  { s with parts := [(0, { s.getPart 0 with tensors := [(0, { live := true, gen := 0, record := rec_ })] })] }

/-- The handle of record 0. -/
def h0 : Word := 0x8000000000000000

/-- A record of 64 × 64 elements of z8 in bitmap form at 0, and one of 128 elements of z8. -/
def aSparse : Vec := 64 <<< 288 ||| 64 <<< 256 ||| 1 <<< 138 ||| 2 <<< 132 ||| 1 <<< 128
def aDense : Vec := 1 <<< 384 ||| 128 <<< 256 ||| 1 <<< 132 ||| 1 <<< 128

/-- The context is neither held nor skipped. -/
def open_ (s : State) : Bool := decide ((s.getCe s.key).fir.hold = .none) && !(s.getCe s.key).fir.skip

/-- `eng` with memory tile 0 changed. -/
def engMt (s : State) (g : MemTile → MemTile) : State := { s with mts := [(0, g awakeMt), (1, awakeMt)] }

/-- A channel of number n of launch 1 with tokens at its endpoint. -/
def opIn (n : Nat) (q : List Token) : Nat × Chan := (65536 + n, { aChan (.mtOut 0 0 0) (.op 0 n) with endq := q })

/-- Operator slot 0 of page 0's first router, about to act on three inputs, with its outputs empty. -/
def opAt (i : Instr) (q0 q1 q2 : List Token) (g : OpSlot → OpSlot) : State :=
  { home 0 {} with
    cur := .op 0
    ops := [(0, g { placed := fmtCOf i, instr := some i, launch := 1, ins := [some 65536, some 65537, some 65538], out0 := [65539], out1 := some 65540 })]
    chans := [opIn 0 q0, opIn 1 q1, opIn 2 q2, (65539, aChan (.op 0 3) (.ceIn 0 0)), (65540, aChan (.op 0 4) (.ceIn 0 1))] }

/-- Format C with three inputs and two outputs. -/
def fC (param : BitVec 21) : FmtC := ⟨⟨.n, 0⟩, ⟨.e, 0⟩, ⟨.s, 0⟩, ⟨.w, 0⟩, ⟨.loc, 0⟩, param⟩

/-- The turn of an operator's own rule, as a test. -/
def turns (i : Instr) (s : State) (f : FmtC) : Bool :=
  s.opMay s.key && (s.opConfig (s.getOp s.key) f).isNone && (s.opMark (s.getOp s.key) i f).isNone

theorem turns_opTurn (i : Instr) (s : State) (f : FmtC) (h : turns i s f = true) : OpTurn i s f := by
  simp only [turns, Bool.and_eq_true, Option.isNone_iff_eq_none] at h
  exact ⟨h.1.1, h.1.2, h.2⟩

/-- Tokens: scalars 0, 1 and 9, a MARK with code 2, a LAST, an ARG and a ROW of sequence number 4. -/
def t0 : Token := ⟨0, 0, 0⟩
def t1 : Token := ⟨0, 1, 0⟩
def t9 : Token := ⟨0, 9, 0⟩
def tM : Token := ⟨3, 2, 0⟩
def tL : Token := ⟨3, 5, 0⟩
def tA : Token := ⟨3, 0x700000004, 0⟩
def tR (n : Word) : Token := ⟨5, 1, n⟩

/-- It is the operator's turn with each of the queues, and its heads are the first tokens. -/
def allTurn (i : Instr) (g : OpSlot → OpSlot) (qs : List (List Token × List Token × List Token)) : Bool :=
  match fmtCOf i with
  | some f => qs.all fun q =>
      let s := opAt i q.1 q.2.1 q.2.2 g
      turns i s f && (s.filled ((s.getOp 0).inCh f 0)).head? == q.1.head? && (s.filled ((s.getOp 0).inCh f 1)).head? == q.2.1.head? &&
        (s.filled ((s.getOp 0).inCh f 2)).head? == q.2.2.head?
  | none => false

/-- Partition 0's copies of its range table map the first 64 KiB to themselves, for writes too. -/
def ranged (s : State) : State :=
  { s with parts := [(0, { s.getPart 0 with xareaBase := 2 ^ 20, xareaLog2 := 17, ranges := [2 ^ 63 + 2 ^ 62 + 2 ^ 96] })] }

/-- `home` whose launch 1 binds the ingress of partition 0 on die 0: entry 0 of the group table names the die, in a group of
four, and the pool is one page of each memory tile of page 0. -/
def convoy (nsrc cap : Nat) (g : Ingress) (e : Egress) : State :=
  let s := home 0 {}
  { s with cycle := 1, ingress := [(0, { g with binder := 1 })], egress := [(0, e)]
           parts := [(0, { s.getPart 0 with regs := { (s.getPart 0).regs with cvyGent := [(0, 0x30001)], cvyPool := 2 ^ 27 + 2 ^ 9, cvyNsrc := nsrc, cvyCap := cap } })] }

/-- A row whose score for expert 1 is 1.0 and for the others 0, and batches of rows for a package and a group, with flags. -/
def aRow (step : BitVec 32) : Row := ⟨7, 0x3F800000 <<< 32, 3, step⟩
def batchOf (pkg group flags : Nat) (step : Nat) (rows : List Row) : Batch :=
  ⟨BitVec.ofNat 512 (step * 2 ^ 160 + group * 2 ^ 84 + flags * 2 ^ 80 + pkg * 2 ^ 48), rows, 0, 0, 1, 0⟩

/-- `home` with compute element 0's context changed. -/
def homeCe (g : CeCtx → CeCtx) : State :=
  let s := home 0 {}
  { s with ce := [(0, g (s.getCe 0))] }
/-- `home` with binding 0 of compute element 0 asleep. -/
def asleep (w : Wait) : State := homeCe fun c => { c with binds := c.binds.set 0 { bound := true, state := .sleeping, wait := w } }

/-- `home` with launch 2 in the queue of level 1, of an image body at address 64, and partition 0 changed. -/
def queued (b : ImageBody) (st : LaunchState) (g : Partition → Partition) : State :=
  let s := home 0 {}
  { s with
    launches := [(1, loadedLaunch), (2, { loadedLaunch with image := 64, state := st, slots := [1], level := 1 })]
    parts := [(0, g { s.getPart 0 with queues := [[], [2], [], []], images := (s.getPart 0).images ++ [(64, { body := some b, lastNamed := 0 })],
                                       regs := { (s.getPart 0).regs with panFree := 100000 } })] }

/-- Image bodies: of one page, of two pages, and of a page with a convoy's channels. -/
def body1 : ImageBody := ⟨1, [], [], [], [], []⟩
def body2 : ImageBody := ⟨2, [], [], [], [], []⟩
def bodyCvy : ImageBody :=
  let ch (s d : ImgEnd) : ImgChan := ⟨s, d, 4, none, 0, false, 0⟩
  ⟨1, [], [], [ch (.convoyOut 0 0) (.ceIn 0 0 0), ch (.convoyOut 0 1) (.ceIn 0 0 1), ch (.convoyOut 0 2) (.ceIn 0 0 2), ch (.ceOut 0 0 0) (.convoyIn 0)], [], []⟩

/-- `home` with a stop of launch 1, and a unit's number. -/
def stopping (action : StopAction) (phase : Nat) (waiting : List Nat) (requeue : Bool) (g : CeCtx → CeCtx) : State :=
  { homeCe g with stops := [{ launch := 1, action := action, phase := phase, waiting := waiting, requeue := requeue }] }

/-- `home` whose partition also owns pages 1 and 2, with a move of logical page 0. -/
def moving (m : Move) (g : State → State) : State :=
  let s := home 0 {}
  g { s with parts := [(0, { s.getPart 0 with pages := [0, 1, 2], moves := [m], map := [(0, ⟨true, true, 0⟩)] })] }

/-! ## Witnesses: concrete states and operands that meet the hypotheses of the obligations, all together

Each is named after the obligation, or the part of one, whose hypotheses it meets, clause by clause. -/

/-- Scalar operands in s1 to s3 (format T). -/
def tS (ty : Ty) (md : BitVec 3) : FmtT := ⟨ty, md, .s 1, .s 2, .s 3, .s 4, .none⟩

/-- Vector operands in w0 to w2 (format T). -/
def tW (ty : Ty) (md : BitVec 3) : FmtT := ⟨ty, md, .w 0, .w 1, .w 2, .w 3, .none⟩

/-- Format I on s1. -/
def tI (ty : Ty) (md : BitVec 3) : FmtI := ⟨ty, md, .s 1, 5, .s 4, .none⟩

theorem witness_scalar_types : (tS .s32 1).ty.isInt = true ∧ (tI .z16 0).ty.isInt = true ∧ (tS .z64 0).ty.isInt = true ∧
    16 * (tI .s8 0).md.toNat < (tI .s8 0).ty.width ∧ 16 * (tI .z64 3).md.toNat < (tI .z64 3).ty.width := by decide

theorem witness_ScalarDivision :
    ((firing (withRegs [0, 7, 0] [])).rdAt 0).int .z16 .b (.s 2) = 0 ∧
    ((firing (withRegs [0, 7, 2] [])).rdAt 0).int .z16 .b (.s 2) ≠ 0 := by decide +kernel

theorem witness_vector_types : (tW .z32 0).ty.code ≤ 5 ∧ (tW .s8 1).ty.code ≤ 5 ∧ (tW .s8 0).ty.code ≤ 3 ∧ (tW .s8 0).ty.width = 8 ∧
    (tW .z16 0).ty.code ≤ 3 ∧ (tW .z16 0).ty.width = 16 ∧ (tW .s32 2).md = 2 ∧ (tW .s32 4).md = 4 ∧ (tW .s32 1).md.toNat ≤ 1 ∧
    (tW .fp32 0).ty.code ≤ 0xC := by decide

theorem witness_VectorWidths : (tW .s8 0).ty.code ≤ 3 ∧ Ty.s16.width = 2 * (tW .s8 0).ty.width ∧ Ty.s16.signed = (tW .s8 0).ty.signed ∧
    Ty.s16.isInt = true := by decide

theorem witness_float_types : (tS .fp32 0).ty.isFloat = true ∧ (tS .e4m3 3).ty.isFloat = true ∧ (tI .bf16 2).ty.isFloat = true ∧
    0xA ≤ (tS .fp32 0).ty.code ∧ (tS .fp32 0).ty.code ≤ 0xC ∧ (tS .fp32 0).md.toNat % 4 = 0 ∧ (tW .fp16 5).ty ≠ .fp32 ∧
    0xA ≤ (tW .fp16 5).ty.code ∧ (3 : Nat) < 4 ∧ (0 : Nat) < 1 := by decide

theorem witness_Conversions : (Instr.cvt ⟨.e4m3, 4, .w 0, .imm 12, .imm 6, .w 1, .none⟩).bad = none ∧ Ty.ofCode 12 = some .fp32 ∧
    (Instr.cvt ⟨.e5m2, 0, .s 0, .imm 12, .imm 1, .s 1, .none⟩).bad = none := by decide

theorem witness_ScaledConversions : (Instr.cvts ⟨.e4m3, 4, .slot, .imm 44, .k 3, .slot 28 .a, .none⟩).bad = none ∧
    Ty.ofCode ((44#7).toNat % 16) = some .fp32 := by decide

theorem witness_BlockScales : (⟨.e4m3, 2, .w 0, .imm 1, .zero, .w 1, .none⟩ : FmtT).ty = .e4m3 ∧ (1#7).toNat ≤ 1 ∧
    (⟨.e5m2, 0, .w 0, .imm 0, .zero, .w 1, .none⟩ : FmtT).ty = .e5m2 ∧ (0#7).toNat ≤ 1 := by decide

/-- A firing whose partition holds one live tensor record in slot 0. -/
def withTensor (c : CeCtx) (rec_ : Vec) : State :=
  { firing c with parts := [(0, { tensors := [(0, { live := true, gen := 0, record := rec_ })] })] }

/-- A record with a codebook whose sixteen entries are 0, 1, 2 and zeros (bf16). -/
def aBook : Vec := 0x4000_3F80_0000 <<< 640 ||| 0xD <<< 128

theorem witness_Codebooks :
    let s := withTensor (withRegs [0, 0, 0x8000000000000000, 0] []) aBook
    let gone := withTensor (withRegs [0, 0, 0x8000100000000000, 0] []) aBook
    (s.getCe s.key).fir.hold = .none ∧ (s.getCe s.key).fir.skip = false ∧
    s.tensor (s.getCe s.key).part ((s.rdAt s.key).w64 .b (.s 2)) = some aBook ∧ aBook.extractLsb' 128 4 = 0xD#4 ∧
    (∀ c, c < 16 → finite (fDecode .bf16 (aBook.extractLsb' (640 + 16 * c) 16).toNat) = true) ∧
    ((s.rdAt s.key).w64 .c (.s 3)).toNat < 256 / Ty.fp32.lanes ∧ 256 / Ty.fp32.lanes ≤ ((s.rdAt s.key).w64 .c .ones).toNat ∧
    gone.tensor (gone.getCe gone.key).part ((gone.rdAt gone.key).w64 .b (.s 2)) = none := by decide +kernel

theorem witness_FalseGuards :
    let s := home 0 (withRegs [0, 7] [])
    let k := home 0 { withRegs [0, 7] [] with fir := { skip := true } }
    (s.getCe s.key).fir.hold = .none ∧ ((s.rdAt s.key).raw 0 .b (.p 0)).getLsbD 0 = false ∧
    (k.getCe k.key).fir.hold = .none ∧ (k.getCe k.key).fir.skip = true := by decide +kernel

theorem witness_TokenWrites : (∀ n ∈ [0, 1, 5, 6], Ready (home 0 (withRegs [0, 7] [])) (xF n 0x7F)) := by unfold Ready; decide +kernel

/-- A context whose firing sees a mark, and then a row, at its channel 0. -/
def withTokens : CeCtx := { fir := { toks := [[⟨3, 0x700000005, 0⟩, ⟨5, 1, 9⟩]] } }

theorem witness_TokenReads :
    let s := firing withTokens
    let f : FmtX := ⟨0, .chan 0 1, .ones, .s 2, 0⟩
    Ready s f ∧ Ready s { f with sa := .chan 0 0 } ∧ ((s.rdAt s.key).tok 0 1).kind = 5 ∧ ((s.rdAt s.key).tok 0 0).kind = 3 := by
  unfold Ready; decide +kernel

/-- A firing of a block whose header gives WAIT 3 and FREE 2 for channel 0. -/
def withWindow (c : CeCtx) : State :=
  { home 0 c with ce := [(0, let c := (home 0 c).getCe 0; { c with fir := { c.fir with block := ⟨0, 3 <<< 64 ||| 2 <<< 16, [0]⟩ } })] }

theorem witness_PointerMoves :
    let s := withWindow (withRegs [0, 1] [])
    let n (f : FmtX) := ((s.rdAt s.key).w64 .a f.sa).toNat + f.imm.toNat
    Ready s (xF 0 2) ∧ Ready s (xF 0 3) ∧ (xF 0 2).sub.toNat < 8 ∧
    tget 0 (s.getCe s.key).fir.advUsed 0 + n (xF 0 2) = ((s.getCe s.key).fir.block.header.extractLsb' 64 6).toNat ∧
    ((s.getCe s.key).fir.block.header.extractLsb' 64 6).toNat < n (xF 0 3) ∧
    tget 0 (s.getCe s.key).fir.padvUsed 0 + n (xF 0 1) = ((s.getCe s.key).fir.block.header.extractLsb' 16 6).toNat ∧
    ((s.getCe s.key).fir.block.header.extractLsb' 16 6).toNat < n (xF 0 2) := by
  unfold Ready; decide +kernel

/-- A context whose binding has n return addresses. -/
def withStack (n : Nat) (c : CeCtx) : State :=
  let s := home 0 c
  { s with ce := [(0, let c := s.getCe 0; { c with binds := lmod c.binds 0 fun b => { b with stack := List.replicate n 0x40 } })] }

theorem witness_NextBlock :
    let stack (s : State) := (lget {} (s.getCe s.key).binds (s.getCe s.key).fir.bind).stack
    let s := withStack 7 {}
    let full := withStack 8 {}
    let twice := withStack 1 { fir := { called := true, ret := true } }
    Ready s (xF 0 1) ∧ Ready full (xF 0 1) ∧ Ready twice (xF 0 1) ∧ Ready (withStack 0 {}) (xF 0 1) ∧
    (stack s).length < 8 ∧ (s.getCe s.key).fir.called = false ∧ 8 ≤ (stack full).length ∧ (twice.getCe twice.key).fir.called = true ∧
    stack s ≠ [] ∧ (s.getCe s.key).fir.ret = false ∧ stack (withStack 0 {}) = [] ∧ (twice.getCe twice.key).fir.ret = true := by
  unfold Ready; decide +kernel

theorem witness_Waits :
    let s := home 0 (withRegs [0, handle 1 1] [])
    let own := home 0 { withRegs [0, handle 1 1] [] with lhnd := handle 1 1 }
    let no := home 0 (withRegs [0, handle 1 9] [])
    let set := home 0 { withRegs [0, 7] [] with fir := { waitSet := true } }
    let big := home 0 (withRegs [0, 4096] [])
    let last := home 0 (withRegs [0, 4095] [])
    let a (s : State) := (s.rdAt s.key).w64 .a (.s 1)
    Ready s (xF 0 0) ∧ Ready own (xF 0 0) ∧ Ready no (xF 0 0) ∧ Ready set (xF 0 0) ∧ Ready s (xF 1 0) ∧ Ready big (xF 3 0) ∧ Ready last (xF 3 0) ∧
    (xF 0 0).ta = .s 2 ∧ (s.getCe s.key).fir.waitSet = false ∧ (set.getCe set.key).fir.waitSet = true ∧
    s.knownHandle 0 (a s) = true ∧ (s.getCe s.key).ownCounter (a s) = false ∧ no.knownHandle 0 (a no) = false ∧
    own.knownHandle 0 (a own) = true ∧ (own.getCe own.key).ownCounter (a own) = true ∧ (xF 3 0).sub.toNat < 4 ∧
    (a last).toNat < Config.tileBuffers ∧ Config.tileBuffers ≤ (a big).toNat := by
  unfold Ready; decide +kernel

theorem witness_TrapsAndTileBuffers :
    let s := home 0 (withRegs [0, 4095] [])
    let big := home 0 (withRegs [0, 4096] [])
    let res := homeP (withRegs [0, 4095] []) fun p => { p with tbufs := [(4095, 1)] }
    Ready s (xF 3 0) ∧ Ready big (xF 3 0) ∧ Ready res (xF 3 0) ∧ (s.getCe s.key).allPerformed = true ∧ s.tbuf 0 4095 ≠ 1 ∧ res.tbuf 0 4095 = 1 ∧
    ((s.rdAt s.key).w64 .a (.s 1)).toNat < Config.tileBuffers ∧ Config.tileBuffers ≤ ((big.rdAt big.key).w64 .a (.s 1)).toNat := by
  unfold Ready; decide +kernel

theorem witness_Registers :
    let s := home 0 (withRegs [0, 7] [])
    let u := homeSuper (withRegs [0, 7] [])
    let num (f : FmtX) := (f.imm.extractLsb' 0 12).toNat
    let moved := s.countPage 0 0 0x101 1
    let read : State := { s with perfReads := [(0x101, 15)] }
    Ready moved (xF 1 0x101) ∧ moved.perfWaits 0 0x101 = true ∧ Ready read (xF 0 0x101) ∧ read.perfWaits 0 0x101 = true ∧ s.perfWaits 0 0x101 = false ∧
    (s.countPart 0 0x300 1).perfWaits 0 0x300 = true ∧ (s.countDev 0x400 1).perfWaits 0 0x400 = true ∧
    Ready s (xF 0 0) ∧ Ready s (xF 1 0x101) ∧ Ready u (xF 0 0x400) ∧ Ready s (xF 0 0xFFF) ∧ s.csr 0 (num (xF 0 0xFFF)) = none ∧
    s.csr 0 (num (xF 0 0x400)) = some 512 ∧ s.csr 0 0xC00 ≠ none ∧ s.isSuper (s.getCe 0).launch = false ∧ u.isSuper (u.getCe 0).launch = true ∧
    u.csr 0 0x811 = some 0 ∧ num (xF 1 0x101) / 256 = 1 ∧ num (xF 0 0x8000F) = 15 := by
  unfold Ready; decide +kernel

theorem witness_PartitionRegisters :
    let run := homeP {} fun p => { p with job := { p.job with running := true } }
    (run.getPart (run.getCe 0).part).job.running = true ∧ (home 0 {}).workPlaced 0 = true := by decide +kernel

theorem witness_SupervisorWork :
    let s := home 0 (withRegs [0, 1] [])
    let u := homeSuper (withRegs [0, 0] [])
    let full : State := { u with parts := [(0, { u.getPart 0 with traps := [(false, 5)] })] }
    let popped : State := { u with parts := [(0, { u.getPart 0 with popAt := some 0 })] }
    let q := homeSuper (withRegs [0, 0x1000000000000000] [])
    let no := homeSuper (withRegs [0, 0x1000600000000000] [])
    let moving := homeP (withRegs [0, 0] []) fun p => { p with moves := [⟨0, 0, 1, none, 1, .thermal, []⟩] }
    let a (s : State) := (s.rdAt s.key).w64 .a (.s 1)
    Ready s (xF 0 0) ∧ Ready u (xF 0 0) ∧ Ready full (xF 0 0) ∧ Ready q (xF 0 1000) ∧ Ready q (xF 0 1001) ∧ Ready no (xF 0 1) ∧ Ready moving (xF 0 0) ∧
    s.isSuper (s.getCe s.key).launch = false ∧ u.isSuper (u.getCe u.key).launch = true ∧ (u.getPart 0).traps = [] ∧
    (full.getPart 0).traps = [(false, 5)] ∧ q.areaWrites 0 = false ∧ 0 < urKind (a q) ∧ q.quotaOf 0 (a q) = some (1, 0) ∧ no.quotaOf 0 (a no) = none ∧
    (q.getPart 0).regs.panFree < (1001#19).toNat ∧ (1000#19).toNat ≤ (q.getPart 0).regs.panFree ∧
    (s.getPart 0).nl ≤ ((a s).extractLsb' 0 9).toNat ∧ ((a u).extractLsb' 0 9).toNat < (u.getPart 0).nl ∧
    moving.movePending 0 0 = true ∧ u.movePending 0 0 = false ∧ Ready popped (xF 0 0) ∧ popped.isSuper (popped.getCe popped.key).launch = true ∧
    (popped.getPart 0).popAt = some popped.cycle.toNat ∧ (u.getPart 0).popAt = none ∧ (full.getPart 0).popAt = none := by
  unfold Ready; decide +kernel

/-- A supervisor's context, and in slot 1 of the same element a task whose binding 0 is FAULTED. -/
def withFaulted (mode : BitVec 8) : State × FmtX :=
  let s := homeSuper (withRegs [0, 0x1000200000000000] [])
  ({ s with
      ce := s.ce ++ [(1, { launch := 2, binds := { bound := true, state := .faulted } :: List.replicate 3 {} })]
      launches := s.launches ++ [(2, { loadedLaunch with slots := [1] })]
      pages := [(0, { owner := some 0, resident := [1, 2, 0, 0] })] }, xF mode 0)

theorem witness_ReturnFromFault :
    let s := (withFaulted 0).1
    let u := (s.rdAt s.key).w64 .a (.s 1)
    let none_ := homeSuper (withRegs [0, 0] [])
    (∀ m ∈ [0, 1, 2], Ready (withFaulted m).1 (withFaulted m).2) ∧ Ready none_ (xF 0 0) ∧ none_.tret 0 ((none_.rdAt 0).w64 .a (.s 1)) 0 = none ∧
    s.isSuper (s.getCe s.key).launch = true ∧ s.areaWrites s.key = false ∧ s.unitRecordWaits 0 u = false ∧ urKind u = 1 ∧
    tileCe (urTile u) = some 0 ∧ s.phys 0 (urPage u) = some 0 ∧ ceKey 0 0 (urCtx u) = 1 ∧
    (s.getCe 1).launch ≠ 0 ∧ (s.getCe 1).part = (s.getCe 0).part ∧ (lget {} (s.getCe 1).binds (urSlot u)).bound = true ∧
    (lget {} (s.getCe 1).binds (urSlot u)).state = .faulted ∧ (s.getCe 1).atFetch (urSlot u) = true ∧
    ({ s.getCe 1 with binds := { bound := true, state := .faulted, retry := true } :: List.replicate 3 {} } : CeCtx).atFetch (urSlot u) = false ∧ s.stopping (s.getCe 1).launch = false := by
  unfold Ready; decide +kernel

/-- A running job with a graph and a phase that have work left, and a graph that has none, and a handle in s1. -/
def withWork (h : Word) : State :=
  { homeP (withRegs [0, h] []) fun p => { p with job := { p.job with running := true, id := 5, phase := some 4 } } with
    graphs := [(3, ⟨0, 1, 0, 0, 0, none⟩), (6, ⟨0, 0, 0, 0, 0, none⟩)], phases := [(4, ⟨0, 0, 1, 0, 0, 0, false, none⟩)] }

/-- The handle in s1 is known, and its counter is not zero. -/
def counts (h : Word) : Bool × Bool :=
  let a := ((withWork h).rdAt 0).w64 .a (.s 1)
  ((withWork h).knownHandle 0 a, (withWork h).counterUp 0 a)

theorem witness_Cancelling : Ready (withWork 0) (xF 0 0) ∧ counts (handle 1 1) = (true, true) ∧ counts (handle 2 3) = (true, true) ∧
    counts (handle 3 4) = (true, true) ∧ counts (handle 4 5) = (true, true) ∧ counts (handle 2 6) = (true, false) ∧ (counts 0).1 = false := by
  unfold Ready; decide +kernel

theorem witness_Cancelling_phase : (withWork 0).phaseNow 0 = some (4, ⟨0, 0, 1, 0, 0, 0, false, none⟩) ∧
    (home 0 {}).phaseNow 0 = none ∧ Ready (home 0 {}) (xF 0 0) := by
  unfold Ready; decide +kernel

theorem witness_QueuesWork :
    let s := home 0 (withRegs [0, 0] [])
    let odd := home 0 (withRegs [0, 64] [])
    Ready s (xF 0 0) ∧ Ready odd (xF 0 0) ∧ (s.getCe 0).allPerformed = true ∧
    isErr (odd.scratchAt 0 64 128) .align 64 = true ∧ isOk (s.scratchAt 0 0 128) (0, 0) = true ∧ s.banksAwake 0 0 128 = (true, s) ∧
    s.scratchLost 0 0 128 = false ∧ (launchRec (2 ^ 75)).isNone = true ∧
    (match launchRec (natOfBytes (s.scratchRead 0 0 128)) with
      | none => false
      | some r => match s.nameImage 0 r.image with
        | (.body b, s') => s'.nextId == s.nextId && !(s'.getPart 0).queueFull [r.level] && !(s'.getPart 0).noFit b
        | _ => false) = true := by
  unfold Ready; decide +kernel

theorem witness_QueuesWork_graph :
    let s := home 0 (withRegs [0, 0] [])
    let one : State := { s with device := [(0, 1)] }
    let reads (s : State) (a x : Nat) : Bool := match State.readRecords 0 1 a [] s with | (.ok l, t) => l == [x] && t == s | _ => false
    reads s 0 0 = true ∧ templateCount 0 = none ∧ reads one 0 1 = true ∧ templateCount 1 = some 1 ∧ reads one 128 0 = true ∧
    (match one.admission 0 0 [launchRec 0] none false with | (.taken _ _, _) => true | _ => false) = true := by decide +kernel

theorem witness_MemoryGuards :
    let s := home 0 {}
    (s.getCe s.key).fir.hold = .none ∧ (s.rdAt s.key).guardM { fLd with sc := .p 1 } = false ∧ (s.getCe s.key).fir.skip = false ∧
    ((s.rdAt s.key).tok 0 1).kind ≠ 2 ∧ ((s.rdAt s.key).tok 0 0).kind = 2 := by decide +kernel

theorem witness_ScratchAddresses :
    let s := home 0 {}
    let map (e : PageEntry) : Partition → Partition := fun p => { p with map := [(0, e)] }
    let gated : State := { s with mts := [] }
    (s.getPart 0).nl ≤ 2 ^ 21 / 2 ^ 21 % 512 ∧ (2 ^ 21 - 4) / 2 ^ 21 % 512 < (s.getPart 0).nl ∧
    (tget {} (s.getPart 0).map 0).mov = false ∧ (tget {} (s.getPart 0).map 0).v = true ∧ (s.getPage 0).mapout = false ∧
    (∀ b ∈ (s.getMt 1).banks, b.power ≠ .gated) ∧ (2 ^ 21 - 4) % 4 = 0 ∧ (2 ^ 21 - 2) % 4 ≠ 0 ∧
    (tget {} ((homeP {} (map ⟨false, false, 0⟩)).getPart 0).map 0).v = false ∧
    (∃ b ∈ (gated.getMt 1).banks, b.power = .gated) := by decide +kernel

theorem witness_ScratchFaults :
    Issues (mem 0x9040_0205_8180_8900 (2 ^ 21 - 2) 0 0) fLd ∧
    isErr ((mem 0x9040_0205_8180_8900 (2 ^ 21 - 2) 0 0).scratchAt 0 (2 ^ 21 - 2) (fLd.ty.width / 8)) .align (2 ^ 21 - 2) = true ∧
    isErr ((mem 0x9040_0205_8180_8900 (2 ^ 21 - 2) 0 0).scratchAt 0 (2 ^ 21 - 2) 128) .align (2 ^ 21 - 2) = true :=
  ⟨issues _ _ (by decide +kernel) (by simp [fLd]), by decide +kernel, by decide +kernel⟩

theorem witness_ScratchLoads :
    Issues (mem 0x9040_0205_8180_8900 (2 ^ 21 - 128) 0 0) fLd ∧ Issues (mem 0x9240_0205_8180_8900 0 0 0) fLd ∧
    (let s := mem 0x9040_0205_8180_8900 (2 ^ 21 - 128) 0 0;
      bankIsFree s 1 15 = true ∧ isOk (s.scratchAt 0 (2 ^ 21 - 128) (fLd.ty.width / 8)) (1, 2 ^ 20 - 128) = true ∧ 8 ≤ fLd.ty.width ∧
      isOk (s.scratchAt 0 (2 ^ 21 - 128) 128) (1, 2 ^ 20 - 128) = true ∧ s.scratchLost 1 (2 ^ 20 - 128) 128 = false ∧
      (match ceWord (s.getCe 0).fir.word with | .ok i => i == .ld fLd | .error _ => false) = true ∧
      (match ceWord 0x9240_0205_8180_8900 with | .ok i => i == .ldv fLd | .error _ => false) = true) :=
  ⟨issues _ _ (by decide +kernel) (by simp [fLd]), issues _ _ (by decide +kernel) (by simp [fLd]), by decide +kernel⟩

theorem witness_ScratchStores :
    Issues (mem 0x943F_0245_4580_0000 (2 ^ 20 - 128) 0 0) fStvm ∧ MemoryOk (mem 0x943F_0245_4580_0000 (2 ^ 20 - 128) 0 0) ∧
    (let s := mem 0x943F_0245_4580_0000 (2 ^ 20 - 128) 0 0;
      bankIsFree s 0 15 = true ∧ 8 ≤ fStvm.ty.width ∧ fStvm.sb = .w 2 ∧ isOk (s.scratchAt 0 (2 ^ 20 - 128) (fStvm.ty.width / 8)) (0, 2 ^ 20 - 128) = true ∧
      isOk (s.scratchAt 0 (2 ^ 20 - 128) 128) (0, 2 ^ 20 - 128) = true) :=
  ⟨issues _ _ (by decide +kernel) (by simp [fStvm]), ⟨rfl, rfl, rfl, rfl, rfl⟩, by decide +kernel⟩

theorem witness_BankAtomics :
    Issues (mem 0x9560_E247_0380_8994 (2 ^ 20 - 8) 0 0) fAtom ∧ MemoryOk (mem 0x9560_E247_0380_8994 (2 ^ 20 - 8) 0 0) ∧
    (let s := mem 0x9560_E247_0380_8994 (2 ^ 20 - 8) 0 0;
      bankIsFree s 0 15 = true ∧ 8 ≤ fAtom.ty.width ∧ isOk (s.scratchAt 0 (2 ^ 20 - 8) (fAtom.ty.width / 8)) (0, 2 ^ 20 - 8) = true ∧
      s.scratchLost 0 (2 ^ 20 - 8) (fAtom.ty.width / 8) = false) :=
  ⟨issues _ _ (by decide +kernel) (by simp [fAtom]), ⟨rfl, rfl, rfl, rfl, rfl⟩, by decide +kernel⟩

theorem witness_BankRanges :
    Issues (mem 0x9E10_0245_4380_0000 5 0 0) fBew ∧ Issues (mem 0x9E10_0245_4380_0000 8 0 0) fBew ∧
    Issues (mem 0x9F40_0245_2580_8980 (2 ^ 20 - 8) 2 0) fBred ∧ MemoryOk (mem 0x9F40_0245_2580_8980 (2 ^ 20 - 8) 2 0) ∧
    (let s := mem 0x9F40_0245_2580_8980 (2 ^ 20 - 8) 2 0;
      let ctl (op count : Nat) : Nat := op * 2 ^ 20 + count
      (∀ b, b < 16 → bankIsFree s 0 b = true) ∧ fBew.ty.isFloat = false ∧ 5 % 8 ≤ 5 ∧ 5 / 8 % 16 = 0 ∧ 8 / 8 % 16 ≠ 0 ∧ 5 < 6 % 8 ∧
      isOk (s.scratchAt 0 (5 - 5 % 8) 128) (0, 0) = true ∧ isOk (s.scratchAt 0 (2 ^ 20 - 8) 4) (0, 2 ^ 20 - 8) = true ∧
      2 ^ 20 - 8 + 2 * 4 ≤ 2 ^ 20 ∧ s.cycle.toNat + 2 ^ 14 < 2 ^ 64 ∧ 2 ^ 20 < 2 ^ 20 - 8 + 3 * 4 ∧ ctl 2 3 < 2 ^ 23 ∧ ctl 3 0 / 2 ^ 20 % 8 = 3 ∧
      s.scratchLost 0 (2 ^ 20 - 8) 8 = false) :=
  ⟨issues _ _ (by decide +kernel) (by simp [fBew]), issues _ _ (by decide +kernel) (by simp [fBew]),
    issues _ _ (by decide +kernel) (by simp [fBred]), ⟨rfl, rfl, rfl, rfl, rfl⟩, by decide +kernel⟩

theorem witness_Fences :
    let s := home 0 {}
    let busy := home 0 { pend := [waiting] }
    let f : FmtM := ⟨.s8, 0, 0, 1, .zero, .zero, .imm 0, .none, none⟩
    (s.getCe s.key).fir.hold = .none ∧ (s.rdAt s.key).guardM f = true ∧ (s.getCe 0).pend = [] ∧ (s.getCe 0).fenceRel.length = 64 ∧
    (s.getCe 0).fir.bind < 4 ∧ (busy.getCe busy.key).fir.hold = .none ∧ (busy.rdAt busy.key).guardM f = true ∧ (busy.getCe 0).pend = [waiting] ∧
    waiting.sent = true ∧ waiting.bind = (busy.getCe 0).fir.bind ∧ waiting.str < 16 := by decide +kernel

/-- The checks of a gather's first lanes. -/
def lanesOk (s : State) (base n : Nat) (w1 : Vec) (off : Nat → Nat) : Bool :=
  (List.range n).all fun i =>
    let ea := (((base : Int) + (w1.extractLsb' (32 * i) 32).toInt * 4) % 2 ^ 64).toNat
    isOk (s.scratchAt 0 ea 4) (0, off i) && ea / 2 ^ 20 == base / 2 ^ 20

theorem witness_Gathers :
    Issues (mem 0xA251_0245_4380_9100 64 0 0xFFFFFFF0) fGather ∧ Issues (mem 0xA251_0245_4380_9100 0 0 (0x80000 <<< 32)) fGather ∧
    Issues (mem 0xA251_0245_4380_9100 0 0 (0x40000 <<< 32)) fGather ∧ Issues (mem 0xA251_0245_4380_9100 0x8000000000000000 0 0) fGather ∧
    (let s := mem 0xA251_0245_4380_9100 64 0 0xFFFFFFF0;
      place 64 = some (0, 64) ∧ lanesOk s 64 32 0xFFFFFFF0 (fun i => if i = 0 then 0 else 64) = true ∧
      lanesOk s 0 1 (0x80000 <<< 32) (fun _ => 0) = true ∧ isErr (s.scratchAt 0 (4 * 0x80000) 4) .protect (4 * 0x80000) = true ∧
      isOk (s.scratchAt 0 (4 * 0x40000) 4) (1, 0) = true ∧ 4 * 0x40000 / 2 ^ 20 ≠ 0 / 2 ^ 20 ∧
      (0x8000000000000000 : Word).toNat / 2 ^ 62 = 2 ∧ place 0xC000000000000000 = none) :=
  ⟨issues _ _ (by decide +kernel) (by simp [fGather]), issues _ _ (by decide +kernel) (by simp [fGather]),
    issues _ _ (by decide +kernel) (by simp [fGather]), issues _ _ (by decide +kernel) (by simp [fGather]), by decide +kernel⟩

theorem witness_DeviceRequests :
    Issues (mem 0xA251_0245_4380_9100 0x4000000000000000 0 0) fGather ∧ Issues (mem 0xA251_0245_4380_9100 0x1FC 0 0) fGather ∧
    Issues (mem 0xA251_0245_4380_9100 0x1FE 0 0) fGather ∧
    (let s := mem 0xA251_0245_4380_9100 0x1FC 0 0;
      place 0x4000000000000000 = some (1, 0) ∧ s.sectorsTaken (homeMt 0) < 256 ∧
      (∀ wr ∈ [true, false], isOk (s.devAt 0 0x1FC 4 wr).1 0x1FC = true ∧ (s.devAt 0 0x1FC 4 wr).2 = s ∧ isOk (s.devAt 0 0 4 wr).1 0 = true ∧
        (s.devAt 0 0 4 wr).2 = s ∧ isErr (s.devAt 0 0x1FE 4 wr).1 .align 0x1FE = true ∧ (s.devAt 0 0x1FE 4 wr).2 = s)) :=
  ⟨issues _ _ (by decide +kernel) (by simp [fGather]), issues _ _ (by decide +kernel) (by simp [fGather]),
    issues _ _ (by decide +kernel) (by simp [fGather]), by decide +kernel⟩

theorem witness_DeviceAddresses :
    let s : State := { homeP {} fun p => { p with xareaLog2 := 17, ranges := [2 ^ 63 + 2 ^ 96] } with device := [(7, 0x80), (12, 1)] }
    s.inSpill 0 (2 ^ 16 - 4) 4 = false ∧ (2 ^ 16 - 4) % 4 = 0 ∧ s.rangeFind 0 (2 ^ 16 - 4) = some (2 ^ 16 - 4, false) ∧
    s.inSpill 0 (2 ^ 16 - 2) 4 = false ∧ (2 ^ 16 - 2) % 4 ≠ 0 := by decide +kernel

/-- A copy of 4,104 bytes within the page, from 0 to 2^20. -/
def aCopy : Vec := 0x1008 <<< 128 ||| 0x100000 <<< 64

/-- `mem` with a vector in slot a of the instruction. -/
def memSlot (d : Vec) (c : CeCtx) : State :=
  let c := { c with fir := { c.fir with slots := [(0, d)] } }
  home 0xA500_0001_8180_4100 c

theorem witness_CopyCommands :
    Issues (memSlot aCopy {}) fCopy ∧ Issues (memSlot (1 <<< 160) {}) fCopy ∧ Issues (memSlot (3 <<< 62) {}) fCopy ∧
    Issues (memSlot 0 {}) fCopy ∧ Issues (mem 0xAC00_0245_2580_0000 0xFFF0 16 0) fIflush ∧ Issues (mem 0xAC00_0245_2580_0000 8 16 0) fIflush ∧
    (let s := memSlot aCopy {};
      ((s.rdAt 0).raw 0 .a fCopy.sa) = aCopy ∧ isOk (s.copyCheck (s.getCe 0) aCopy) () = true ∧ (s.getMt 0).pendingCopies (ceCtxOf 0) < 32 ∧
      (1 <<< 160 : Vec).toNat ≥ 2 ^ 160 ∧ isErr (s.copyCheck (s.getCe 0) (3 <<< 62)) .protect (3 * 2 ^ 62) = true ∧
      s.findCopy 0 0 = none ∧ (0xFFF0 : Nat) % 16 = 0 ∧ (8 : Nat) % 16 ≠ 0) :=
  ⟨issues _ _ (by decide +kernel) (by simp [fCopy]), issues _ _ (by decide +kernel) (by simp [fCopy]),
    issues _ _ (by decide +kernel) (by simp [fCopy]), issues _ _ (by decide +kernel) (by simp [fCopy]),
    issues _ _ (by decide +kernel) (by simp [fIflush]), issues _ _ (by decide +kernel) (by simp [fIflush]), by decide +kernel⟩

/-- SOPEN with channels at its ports of memory tile 0, a live tensor in record 0, and streams. -/
def opening (a ctl : Word) (streams : Tab Stream) : State :=
  let s := mem 0xA703_0245_2580_0000 a ctl 0
  { s with streams := streams, chans := [(65536, aChan (.mtOut 0 0 0) (.ceIn 0 0)), (65537, aChan (.ceOut 0 0) (.mtIn 0 0 0))]
           parts := [(0, { s.getPart 0 with tensors := [(0, { live := true, gen := 0, record := 5 })] })] }

theorem witness_StreamOpens :
    Issues (opening 0x8000000000000000 0x700000800 []) fSopen ∧ Issues (opening 64 3 []) fSopen ∧ Issues (opening 63 2 []) fSopen ∧
    Issues (opening 0 0 []) fSopen ∧ Issues (opening 0 0x1000 []) fSopen ∧ Issues (opening 0 0x100 []) fSopen ∧
    (let s := opening 0x8000000000000000 0x700000800 [];
      let ctl : Word := 0x700000800
      s.mtChan 0 0 0 true = some 65536 ∧ s.mtChan 0 0 0 false = some 65537 ∧ s.mtChan 0 0 1 true = none ∧ s.tensor 0 0x8000000000000000 = some 5 ∧
      s.tensor 0 0 = none ∧ ctl.extractLsb' 12 20 = 0#20 ∧ ctl.extractLsb' 2 5 = 0#5 ∧ (ctl.extractLsb' 0 2).toNat = 0 ∧
      (0x1000 : Word).extractLsb' 12 20 ≠ 0#20 ∧ s.streams.length < 64 ∧ (64 : Word).toNat % 64 = 0 ∧ (63 : Word).toNat % 64 ≠ 0) :=
  ⟨issues _ _ (by decide +kernel) (by simp [fSopen]), issues _ _ (by decide +kernel) (by simp [fSopen]),
    issues _ _ (by decide +kernel) (by simp [fSopen]), issues _ _ (by decide +kernel) (by simp [fSopen]),
    issues _ _ (by decide +kernel) (by simp [fSopen]), issues _ _ (by decide +kernel) (by simp [fSopen]), by decide +kernel⟩

theorem witness_StreamCommands :
    Issues (opening 64 0 [(3, aStream .readQueue 65471)]) fSopen ∧ Issues (opening 65 0 [(3, aStream .readQueue 65471)]) fSopen ∧
    Issues (opening 0 0 [(3, aStream .writeQueue 0)]) fSopen ∧
    (let s := opening 64 0 [(3, aStream .readQueue 65471)];
      tfind s.streams (0 * 16 + fSopen.str.toNat) = some (aStream .readQueue 65471) ∧ 65471 + 64 ≤ 65535 ∧ 64 < 65 ∧
      (aStream .readQueue 0).mode ≠ .writeQueue ∧ (aStream .writeQueue 0).mode = .writeQueue) :=
  ⟨issues _ _ (by decide +kernel) (by simp [fSopen]), issues _ _ (by decide +kernel) (by simp [fSopen]),
    issues _ _ (by decide +kernel) (by simp [fSopen]), by decide +kernel⟩

/-- Node 0 with its tile 0 in a state. -/
def withTile (n : Word) (t : AccTile) : State :=
  { eng n 0 0 [] 0 with mns := [(0, { tiles := t :: List.replicate 7 {}, frags := [⟨0, 5, [], 7, false, 0⟩] })] }

theorem witness_TileAccesses :
    let idle := withTile 0 {}
    let ready := withTile 0 { state := .ready, owner := 0, owned := true }
    let other := withTile 0 { state := .ready, owner := 5, owned := true }
    let busy := withTile 0 { state := .busy, owner := 0, owned := true }
    let gone : State := { idle with parts := [(0, { idle.getPart 0 with map := [] })] }
    (∀ s ∈ [idle, ready, other, busy, gone, withTile (2 ^ 13) {}, withTile 16 {}, withTile (2 ^ 13 - 1) {}], open_ s = true) ∧
    MemoryOk (withTile 0 {}) ∧ (idle.getPart 0).nl = 1 ∧ (tget {} (idle.getPart 0).map 0) = ⟨true, false, 0⟩ ∧ (idle.getPage 0).mapout = false ∧
    (tget {} (gone.getPart 0).map 0).v = false ∧ (2 ^ 13 - 1) / 16 % 512 = 511 ∧ 0 = 0 * 2 + 0 / 8 % 2 ∧
    ((idle.getMn 0).tile 0).state = .idle ∧ ((ready.getMn 0).tile 0).state = .ready ∧ ((ready.getMn 0).tile 0).owner = cePage 0 * 4 + ceSlot 0 ∧
    ((other.getMn 0).tile 0).owner ≠ cePage 0 * 4 + ceSlot 0 ∧ ((busy.getMn 0).tile 0).state = .busy ∧
    (((busy.getMn 0).onTile 0)[0]?).isSome = true ∧ (∀ s ∈ [idle, ready, other, busy], (s.getMn 0).tileWait 0 s.cycle.toNat = false) ∧ (idle.getMn 0).tiles.length = 8 := by
  refine ⟨by decide +kernel, ⟨rfl, rfl, rfl, rfl, rfl⟩, by decide +kernel⟩

/-- A WLOAD descriptor: SRC, WOFF 8191, NU 1, TAG 7, and ENT with a handle. -/
def wdesc (src : Vec) (ent : Bool) : Vec := src ||| 8191 <<< 64 ||| 7 <<< 96 ||| (if ent then 1 <<< 94 ||| 1 <<< 191 else 0)

theorem witness_WeightLoads :
    let s := eng 0 0 0 [0, wdesc 0 false] 0
    let ent := eng 0 0 0 [0, wdesc 0 true] (1 <<< 142)
    let region : State := { s with mns := [(0, { regions := [⟨8191, 1, 7, true, 1, (0, 0, 0)⟩] })] }
    let over_ : Vec := wdesc 0 false ||| 1 <<< 80
    (∀ x ∈ [s, ent, region, eng 0 0 0 [0, over_] 0, eng 0 0 0 [0, wdesc (1 <<< 63) false] 0, eng 0 0 0 [0, wdesc 4 false] 0], open_ x = true) ∧
    (s.rdAt 0).raw 0 .b (.w 1) = wdesc 0 false ∧ isOk (s.nodeAt 0 0) (0, 0) = true ∧ 8191 + 1 ≤ 8192 ∧ 8192 < 8191 + 2 ∧
    (wdesc 0 false).toNat / 2 ^ 192 = 0 ∧ (wdesc 0 false).getLsbD 95 = false ∧ (wdesc 0 false).getLsbD 93 = false ∧
    (wdesc 0 false).extractLsb' 77 3 = 0#3 ∧ (wdesc 0 true).getLsbD 94 = true ∧ ent.tensor 0 ((wdesc 0 true).extractLsb' 128 64) = some (1 <<< 142) ∧
    place 0 = some (0, 0) ∧ place 4 = some (0, 4) ∧ 2 ≤ ((wdesc (1 <<< 63) false).extractLsb' 62 2).toNat ∧ (s.getMt 1).pendingCopies (ceCtxOf 0) < 32 ∧
    s.tensor 0 ((wdesc 0 true).extractLsb' 128 64) ≠ none ∧ (home 0 {}).tensor 0 h0 = none ∧ (region.getMn 0).regions.length < 16 := by
  decide +kernel

theorem witness_TensorRecords :
    let s := eng 0 0 0 [aDense] aDense
    let live := eng h0 16 0 [] aDense
    let bad := eng 0 0 0 [1 <<< 200] aDense
    open_ s = true ∧ open_ live = true ∧ open_ bad = true ∧ (s.rdAt 0).raw 0 .a (.w 0) = aDense ∧ (sealError aDense).isNone = true ∧
    (tget {} (s.getPart 0).tensors 1).live = false ∧ sealError (1 <<< 200) = some 1 ∧ (1 <<< 200 : Vec).extractLsb' 192 64 ≠ 0#64 ∧
    live.tensor 0 h0 = some aDense ∧ (s.tensor 0 0).isNone = true := by decide +kernel

/-- Whether a tile check answers a tile of memory tile 0. -/
def tileOk (s : State) (h w : Word) : Bool := match s.tileAt 0 h w true with | .ok x => x.mt == 0 | .error _ => false

/-- A tile's record in the directory with a state. -/
def dirWith (st : Nat) : State := engMt (eng h0 0 0 [] aSparse) fun m => { m with dir := [(3, { valid := true, st := st, nnz := 5, uops := 5 })] }

theorem witness_PatternCommands :
    let s := eng h0 0 0 [] aSparse
    let out := eng h0 1 0 [] aSparse
    let desc : Vec := 0x4000 <<< 192 ||| 0x2000 <<< 128 ||| 1 <<< 63
    let y := eng 0 0 0 [desc] aSparse
    (∀ x ∈ [s, out, y, dirWith 0, dirWith 1, dirWith 2, dirWith 3], open_ x = true) ∧ tileOk s h0 0 = true ∧
    isErr (out.tileAt 0 h0 1 true) .protect 1 = true ∧ isErr (s.tileAt 0 0 0 true) .handle 0 = true ∧
    ((s.getMt 0).pattern ⟨0, aSparse, 0, 0, 0, 0, 0⟩).isNone = true ∧ (s.getMt 0).compiles.length < 16 ∧ (tget {} (s.getMt 0).dir 0).valid = false ∧
    (∀ st ∈ [0, 1, 2, 3], (((dirWith st).getMt 0).pattern ⟨0, aSparse, 0, 0, 0, 0, 0⟩).map (·.1) = some 3) ∧
    desc.toNat < 2 ^ 256 ∧ tileOk y (spHandle desc) (spTile desc) = true ∧ isOk (rowsCheck (spTile desc) (spX desc)) () = true ∧
    isOk (rowsCheck (spTile desc) (spY desc)) () = true ∧ (y.getMt 0).pendingCopies (ceCtxOf 0) < 32 ∧ 2 ^ 256 ≤ (1 <<< 256 : Vec).toNat := by
  decide +kernel

/-- Descriptors of SCLOOK, SCSTEP and SCFILL with key 5 and step 9. -/
def scLook : Vec := 4 <<< 192 ||| 0xC <<< 212 ||| 9 <<< 32 ||| 5
def scBare : Vec := 9 <<< 32 ||| 5
def scFill : Vec := 1 <<< 224 ||| 8 <<< 192 ||| 9 <<< 32 ||| 5

/-- A context with a descriptor in w0, and the checks of the three instructions on it. -/
def scAt (d : Vec) : State := eng 0 0 0 [d] 0
def scOk (d : Vec) : Bool × Bool × Bool :=
  let c := (scAt d).getCe 0
  (isOk ((scAt d).sclookCheck c d) (), isOk ((scAt d).scstepCheck c d) (), isOk ((scAt d).scfillCheck c d) ())

theorem witness_StepCache :
    let held := engMt (scAt scFill) fun m => { m with pending := [(0, ⟨5, 9, []⟩)] }
    open_ (scAt scLook) = true ∧ open_ (scAt scBare) = true ∧ open_ (scAt scFill) = true ∧ open_ held = true ∧
    scOk scLook = (true, false, false) ∧ scOk scBare = (false, true, false) ∧ scOk scFill = (false, false, true) ∧
    ((scAt scFill).getCe 0).pend = [] ∧ tfind (held.getMt (homeMt 0)).pending (ceSlot 0) = some ⟨scKey scFill, scStep scFill, []⟩ ∧
    tfind ((scAt scFill).getMt (homeMt 0)).pending (ceSlot 0) = none := by decide +kernel

/-- A lookup that waits at memory tile 0 for its decision, beside an entry. -/
def deciding (bare : Bool) (e : StepEntry) : State :=
  let s := home 0xC600_A060_6022_6450 { fir := { hold := .value 0 } }
  engMt s fun m => { m with lookups := [⟨0, 0, if bare then scBare else scLook, bare, [], 0⟩], steps := [(0, e)] }

theorem witness_StepCacheDecision :
    let e : StepEntry := { valid := true, key := 5, step := 8, age := 3, limit := 4, sig := List.replicate 32 0 }
    let s := deciding true e
    let r := deciding false e
    (s.getMt 0).lookups = [⟨0, 0, scBare, true, [], 0⟩] ∧ s.handed 0 [] = true ∧ (match decT (s.getCe 0).fir.word with | .ok _ => true | .error _ => false) = true ∧
    place (scSrc scLook) = some (0, 0) ∧ scTy scLook = some .fp32 ∧
    (match r.readAt 0 0 0 (scNin scLook * (Ty.fp32.width / 8)) (tileEngine 0 3) with | (.ok bs, _) => bs.length == 16 | _ => false) = true ∧
    (s.getMt 0).stepEntry (scKey scBare) = some (0, e) ∧ e.step + 1 = scStep scBare ∧ e.age < e.limit ∧ { e with age := 4 }.limit ≤ 4 ∧
    sigMatch 0 (signature .fp32 [0, 0, 0, 0]) e.sig = true ∧ sigMatch 0 (signature .fp32 [0x3F800000, 0, 0, 0]) e.sig = false ∧
    { e with step := 7 }.step + 1 ≠ scStep scBare ∧ (s.getMt 0).pendingCopies (ceCtxOf 0) < 32 := by decide +kernel

theorem witness_GroupRanking : (⟨.fp32, 0, .w 0, .imm 4, .imm 2, .s 1, .none⟩ : FmtT).ty.isFloat = true := by decide

/-- XSEND to destination 2, whose entry is valid, with a number of rows already in its list. -/
def sending (n : Nat) : State :=
  let s := eng 0 0 0x2_0000_0007 [5, 0] 0
  { s with parts := [(0, { s.getPart 0 with regs := { (s.getPart 0).regs with cvyGent := [(2, 0x1)], cvyBatch := 32 } })]
           egress := [(0, { lists := [⟨1, 0, 2, List.replicate n ⟨1, 2, 3, 0⟩⟩] })] }

theorem witness_ConvoySends :
    let s := sending 30
    let w (s : State) := (s.rdAt 0).w64 .c (.s 3)
    (∀ n ∈ [0, 30, 31], open_ (sending n) = true) ∧ open_ (eng 0 0 (2 ^ 38) [] 0) = true ∧ (w s).extractLsb' 38 26 = 0#26 ∧
    ((w s).extractLsb' 32 6).toNat = 2 ∧ s.groupEntry 0 2 = some 1 ∧ s.groupEntry 0 3 = none ∧ ((s.getEgress 0).listOf 0 2).length = 30 ∧
    30 + 1 < (s.getPart 0).regs.cvyBatch ∧ (s.getPart 0).regs.cvyBatch ≤ 31 + 1 ∧ s.egressRows 0 < 1024 ∧
    (w (eng 0 0 (2 ^ 38) [] 0)).extractLsb' 38 26 ≠ 0#26 := by decide +kernel

/-- A context of a group of one member, and a collective of the group that it has joined. -/
def joined (a : Word) (d : Vec) (waits : Bool) : State :=
  let s := eng a 0 0 [d] 0
  { s with ce := [(0, { s.getCe 0 with fir := { (s.getCe 0).fir with waitSet := waits } })]
           parts := [(0, { s.getPart 0 with cgtab := [(4, ⟨[s.memberWord 0]⟩), (5, ⟨[7]⟩)], collectives := [⟨4, 0, [⟨0, 0, 1, 0x204, [], true, false, none⟩], []⟩] })] }

theorem witness_Collectives :
    let d : Vec := 128 <<< 32 ||| 0x204
    let s := joined 0x9100000000000000 d false
    open_ s = true ∧ open_ (joined 0x9100000000000000 d true) = true ∧ open_ (joined 0 (d + 1) false) = true ∧ open_ (joined 0 (1 <<< 192) false) = true ∧
    collGroup d = 4 ∧ collBad d (s.groupMembers 0 4).length = false ∧ (s.groupMembers 0 4)[0]? = some (s.memberWord 0) ∧
    collBad (d + 1) (s.groupMembers 0 5).length = false ∧ s.memberWord 0 ∉ s.groupMembers 0 5 ∧ collBad (1 <<< 192) 1 = true ∧
    isOk (s.placesCheck (s.getCe 0) (some (collSrc d, collLen d)) (some (collDst d, collOut d 1))) () = true ∧
    (0x9100000000000000 : Word).extractLsb' 32 22 = 0#22 ∧ (s.memberOf 0 0x9100000000000000).isSome = true ∧ s.memberOf 0 0 = none ∧
    (s.getCe 0).fir.waitSet = false ∧ ((joined 0 0 true).getCe 0).fir.waitSet = true := by decide +kernel

/-- Every clause's heads, with the operator free to act (`turns_opTurn`): a control that is no scalar, a LAST, a true and a
false control, and the state a clause asks for. -/
theorem witness_TokenRouting :
    allTurn (.steer (fC 0)) id [([t9], [tR 1], []), ([tL], [t1], []), ([tL], [], []), ([t9], [t1], []), ([t9], [t0], [])] = true ∧
    allTurn (.merge (fC 0)) id [([t9], [t1], [tR 1]), ([tL], [tL], [t1]), ([t9], [t1], [t0]), ([tL], [t1], [t0])] = true ∧
    allTurn (.carry (fC 0)) id [([t9], [], [tR 1]), ([t9], [], []), ([tM], [], [t1])] = true ∧
    allTurn (.carry (fC 0)) (fun o => { o with loop := true }) [([], [t9], [t1]), ([], [t9], [t0])] = true := by decide +kernel

theorem witness_TokenRouting_more :
    allTurn (.switch (fC 1)) id [([t9], [tR 1], []), ([tL], [t1], []), ([t9], [t1], []), ([t9], [t9], [])] = true ∧
    allTurn (.switch (fC 1)) (fun o => { o with lb := 1 }) [([tL], [t1], [])] = true ∧
    allTurn (.fork (fC 0)) id [([t9], [], [])] = true ∧ allTurn (.sink (fC 0)) (fun o => { o with ends := 1 }) [([tL], [], []), ([t9], [], [])] = true ∧
    allTurn (.filter (fC 0)) id [([t9], [tR 1], []), ([tM], [], []), ([t9], [t1], []), ([t9], [t0], [])] = true ∧
    allTurn (.sync (fC 2)) id [([t9], [], [t1]), ([t9], [t0], [t1])] = true ∧
    tL.is 5 = true ∧ t9.is 5 = false ∧ (fC 0).out0.dir ≠ .none ∧ ((opAt (.fork (fC 0)) [] [] [] id).chanD 65539).startq = [] := by decide +kernel

theorem witness_TokenStreams :
    allTurn (.repeat (fC 0)) id [([t9], [tR 1], []), ([tA], [], []), ([tM], [], []), ([t9], [t1], [])] = true ∧
    allTurn (.repeat (fC 0x6)) id [([tA], [], []), ([t9], [tR 1], [])] = true ∧ (fC 0x6).param.extractLsb' 1 12 ≠ 0#12 ∧ tA.is 4 = true ∧
    allTurn (.repeat (fC 0x6)) (fun o => { o with held := some t9, left := 1 }) [([], [], [])] = true ∧
    allTurn (.repeat (fC 0)) (fun o => { o with held := some t9 }) [([], [t1], []), ([], [t0], [])] = true ∧
    allTurn (.count (fC 0)) id [([tA], [], []), ([tM], [], []), ([tR 1], [], []), ([t9], [], [])] = true ∧
    allTurn (.count (fC 0)) (fun o => { o with run := true, i := 3, n := 4 }) [([], [], []), ([t9], [], [])] = true ∧
    allTurn (.count (fC 0)) (fun o => { o with run := true, i := 4, n := 4 }) [([], [], [])] = true := by decide +kernel

theorem witness_TokenStreams_sets :
    allTurn (.sploop (fC 1)) id [([tM], [], []), ([tR 1], [], []), ([t0], [], []), ([t9], [], [])] = true ∧
    allTurn (.sploop (fC 1)) (fun o => { o with run := true, mask := 0 }) [([], [], [])] = true ∧
    allTurn (.sploop (fC 1)) (fun o => { o with run := true, mask := 1 <<< 63 }) [([], [], [])] = true ∧
    allTurn (.sploop (fC 0)) (fun o => { o with run := true, next := 3, stop := 4 }) [([], [], [])] = true ∧
    allTurn (.seq (fC 0x100000)) id [([tL], [], []), ([⟨2, 0, 0⟩], [], []), ([tR 4], [], []), ([t9], [], [])] = true := by decide +kernel

theorem witness_TokenStreams_merges :
    allTurn (.smerge (fC 0)) (fun o => { o with seq := 4 }) [([t9], [], []), ([], [t9], []), ([tR 3], [], []), ([tR 4], [tR 3], []),
      ([tR 4], [tR 4], []), ([tR 4], [tR 5], []), ([tR 5], [tR 4], []), ([tM], [tR 5], []), ([tR 5], [tM], []), ([tL], [tL], [])] = true ∧
    allTurn (.smerge (fC 0x100000)) (fun o => { o with prev := some 3 }) [([tM], [tR 4], []), ([tR 4], [tM], []), ([tR 3], [tR 4], []),
      ([tR 4], [tR 3], []), ([tR 4], [tR 4], []), ([tR 4], [tR 5], []), ([tR 5], [tR 4], []), ([tR 4], [tL], []), ([tL], [tR 4], []),
      ([tL], [tL], [])] = true := by decide +kernel

/-- `home` with one channel, which crosses link 0 and ends at input 0 of compute element 0. -/
def chanState (g : Chan → Chan) : State :=
  let s := home 0 { ins := { ch := some 65536 } :: List.replicate 7 {} }
  { s with chans := [(65536, g (aChan (.ceOut 4 0) (.ceIn 0 0)))] }

/-- A channel with a second hop, and one whose ring holds a token. -/
def twoHops : State := chanState fun c => { c with startq := [t9], hops := [⟨0, 2, []⟩, ⟨9, 0, []⟩] }
def ringState (g : Chan → Chan) : State :=
  chanState fun c => g { c with startq := [t9], ring := [t1], spill := true, quota := 1, segs := 1, held := [0], entries := [0] }

theorem witness_LinksAndBuses :
    let s := chanState fun c => { c with startq := [t9, t1] }
    let bad : Token := ⟨7, 0, 0⟩
    let r := ringState id
    let c := r.chanD 65536
    s.linkReady 1 = [] ∧ s.linkReady 0 = [(0, 65536, 0)] ∧ (s.chanD 65536).before 0 = [t9, t1] ∧ 0 + 1 = (s.chanD 65536).hops.length ∧
    badEnvelope (t9.envelope ((s.chanD 65536).hopNum 0).1 ((s.chanD 65536).hopNum 0).2) = false ∧ badEnvelope (bad.envelope 0 0) = true ∧
    (chanState fun c => { c with startq := [bad] }).linkReady 0 = [(0, 65536, 0)] ∧ (s.chanD 65536).direct = true ∧
    s.isSuper (s.chanD 65536).launch = false ∧ (tget {} s.links 0).lostAt = none ∧
    twoHops.linkReady 0 = [(0, 65536, 0)] ∧ 0 + 1 < (twoHops.chanD 65536).hops.length ∧ r.linkReady 0 = [(0, 65536, 0)] ∧ c.direct = false ∧
    (match State.entryTurn 0 (r.entryVa 0 c.freeEntry) true 4 { r with links := [(0, { last := 0 })] } [] with
      | (.ok ps, _) => ps == [none, none, none, none] | _ => false) = true := by
  refine ⟨?_, ?_, ?_, ?_, ?_, ?_, ?_, ?_, ?_, ?_, ?_, ?_, ?_, ?_, ?_⟩ <;> try decide +kernel
  · rw [badEnvelope_envelope]; decide +kernel
  · rw [badEnvelope_envelope]; decide +kernel

theorem witness_LinksAndBuses_buses :
    let x : BusXfer := ⟨2, 5, 1, 0, none⟩
    let b (b : Bus) : State := { home 0 {} with buses := [(0, b)] }
    ((b { held := some x }).bus 0).held = some x ∧ ((b { waiting := [x], last := 2 }).bus 0).held = none ∧ busDriver 0 1 = 2 ∧
    [x].find? (fun y => y.driver == 2) = some x ∧ (∀ m, m < 8 → (3 : Nat) ≠ busDriver 0 m) ∧
    ((b {}).bus 0).waiting = [] ∧ x.fill = none ∧ x.ctx < 4 ∧ (((b {}).getMn (busNode 0 0)).ctxs.length = 4) ∧
    (((b {}).getMn (busNode 0 0)).ctx 0).bus.length < Config.busOperands ∧ ((List.range 8).filter fun i => x.mask.getLsbD i) = [0] ∧
    ({ x with fill := some (0, 128) } : BusXfer).fill = some (0, 128) ∧ MemoryOk (home 0 {}) := by
  refine ⟨?_, ?_, ?_, ?_, ?_, ?_, ?_, ?_, ?_, ?_, ?_, ?_, ⟨rfl, rfl, rfl, rfl, rfl⟩⟩ <;> decide +kernel

theorem witness_CreditAndRings :
    let free := chanState fun c => { c with freed := 1 }
    let full := chanState fun c => { c with ring := [t9, t9, t9, t9], spill := true, quota := 1, segs := 1 }
    let more : State := { full with launches := [(1, { loadedLaunch with extFree := [(0, 1)] })] }
    let stuck := chanState fun c => { c with blocked := 2 ^ 16 }
    (tfind free.chans 65536).isSome = true ∧ (free.chanD 65536).freed = 1 ∧ (stuck.chanD 65536).freed = 0 ∧
    (full.chanD 65536).quota ≠ 0 ∧ (full.chanD 65536).room = 0 ∧ more.extFree 65536 ≠ 0 ∧ full.extFree 65536 = 0 ∧
    2 ^ 16 ≤ (stuck.chanD 65536).blocked ∧ (stuck.chanD 65536).recorded = false ∧ (free.chanD 65536).blocked < 2 ^ 16 := by decide +kernel

theorem witness_CreditAndRings_refills :
    let r := ringState id
    let buffered := ringState fun c => { c with ring := [], refill := [t1], held := [0, 5], segs := 2, entries := [20] }
    let c := buffered.chanD 65536
    let held : State := { r with
      devChans := (List.range 16).map fun i => (i, { refresh := true })
      parts := [(0, { r.getPart 0 with xareaBase := 2 ^ 20, xareaLog2 := 17, ranges := [2 ^ 63 + 2 ^ 96], regs := { (r.getPart 0).regs with panBase := 0 } })] }
    let read (s : State) : Nat × Bool := match State.readEntries 0 (s.chanD 65536).heads s 0 with
      | (n, .ok _, _) => (n, true) | (n, .error e, _) => (n, e.isSome)
    (∀ s ∈ [r, buffered, held], (s.chanD 65536).lost ≠ 1 ∧ (s.launchD 1).resident = true ∧ s.unitStopped 1 (unitNo 6 65536) = false ∧ s.isSuper 1 = false) ∧
    (r.chanD 65536).refill = [] ∧ (r.chanD 65536).ring ≠ [] ∧ read r = (1, true) ∧ read held = (0, false) ∧
    c.refill = [t1] ∧ c.endq.length < c.depth ∧ c.entries.headD 0 / 4 ∈ c.held.drop c.quota ∧
    ((ringState fun c => { c with ring := [], refill := [t1] }).chanD 65536).entries.headD 0 / 4 ∉ [0].drop 1 ∧
    ((ringState fun c => { c with lost := 1 }).chanD 65536).lost = 1 := by decide +kernel

/-- A context with an ORDER token reserved at its output 0, and whether its access is performed. -/
def reserved (done : Bool) : State :=
  let s := home 0 { outs := { ch := some 65536, orders := [⟨7, done⟩] } :: List.replicate 7 {} }
  { s with chans := [(65536, aChan (.ceOut 0 0) (.ceIn 4 0))] }

theorem witness_CreditAndRings_orders :
    (∀ d ∈ [true, false], (lget {} ((reserved d).getCe 0).outs 0).orders = [⟨7, d⟩]) ∧
    (lget {} ((reserved true).getCe 0).outs 0).ch = some 65536 ∧ 0 < ((reserved true).getCe 0).outs.length := by decide +kernel

theorem witness_Watchdogs :
    let s := chanState fun c => { c with endq := [t9], arrived := [5] }
    let w : State := { s with ce := [(0, { s.getCe 0 with waited := 2 ^ 24 })] }
    let o := opAt (.fork (fC 0)) [t9] [] [] fun o => { o with waited := 2 ^ 24 }
    let a : State := { o with chans := o.chans.map fun e => (e.1, { e.2 with arrived := [4] }) }
    (s.getCe 0).waited < 2 ^ 24 ∧ (w.getCe 0).watched = false ∧ 2 ^ 24 ≤ (w.getCe 0).waited ∧ w.oldestInput (w.getCe 0).inputs = some (5, 0) ∧
    w.isSuper (w.getCe 0).launch = false ∧ a.ops = [(0, a.getOp 0)] ∧ (a.getOp 0).watched = false ∧ 2 ^ 24 ≤ (a.getOp 0).waited ∧
    a.oldestInput (a.getOp 0).inputs = some (4, 0) ∧ (a.getOp 0).instr.bind fmtCOf = some (fC 0) ∧ a.isSuper (a.getOp 0).launch = false := by
  decide +kernel

theorem witness_Watchdogs_node :
    let s := chanState fun c => { c with endq := [t9], arrived := [5] }
    let w : State := { s with mns := [(0, { ctxs := { waited := 2 ^ 24, ctl := some 65536 } :: List.replicate 3 {} })] }
    let x := (w.getMn (0 / 4)).ctx (0 % 4)
    x.watched = false ∧ 2 ^ 24 ≤ x.waited ∧ ((s.getMn 0).ctx 0).waited < 2 ^ 24 ∧ (w.getMn (0 / 4)).ctxs.length = 4 ∧
    w.oldestInput ((x.ctl.map fun ch => (0, ch)).toList ++ (x.rows.map fun ch => (1, ch)).toList) = some (5, 0) ∧
    w.isSuper (w.slotLaunch (0 / 4 / 2) (0 % 4)) = false := by decide +kernel

theorem witness_Configuration :
    let s := opAt (.steer (fC 0)) [t9] [⟨4, 0xE060_0781_0440_0000, 0⟩] [] id
    let m := opAt (.steer (fC 0)) [t9] [tM] [] id
    let d (n : Nat) : State := { home 0 {} with dev := { (home 0 {}).dev with linkReady := 1, lanes := [(0, n)] } }
    (s.getOp 0).placed = some (fC 0) ∧ (s.getOp 0).instr = some (.steer (fC 0)) ∧ s.opConfig (s.getOp 0) (fC 0) = some 1 ∧ s.opMay 0 = true ∧
    (s.filled ((s.getOp 0).inCh (fC 0) 1)).head? = some ⟨4, 0xE060_0781_0440_0000, 0⟩ ∧
    (configWord 0 (fC 0) (.steer (fC 0)) 0xE060_0781_0440_0000).isSome = true ∧ configWord 0 (fC 0) (.steer (fC 0)) 0 = none ∧
    m.opConfig (m.getOp 0) (fC 0) = none ∧ m.opMark (m.getOp 0) (.steer (fC 0)) (fC 0) = some 1 ∧ m.opMay 0 = true ∧
    s.dev.linkReady.getLsbD 0 = false ∧ (d 2).dev.linkReady.getLsbD 0 = true ∧ 1 < tget 0 (d 2).dev.lanes 0 ∧ tget 0 (d 1).dev.lanes 0 ≤ 1 := by
  decide +kernel

/-- `home` with one bank of memory tile 0 changed. -/
def bankState (g : Bank → Bank) : State :=
  { home 0 {} with mts := [(0, { awakeMt with banks := lmod awakeMt.banks 15 g })] }

theorem witness_BanksAndPower :
    let req : BankReq := ⟨0, 0, 15, .read, 0, 0, .ce 0 0⟩
    let b (s : State) := lget {} (s.getMt 0).banks 15
    let drowsy := bankState fun b => { b with power := .drowsy, queue := [req] }
    let wb := bankState fun b => { b with writeback := [9] }
    let idle := bankState fun b => { b with idle := 4096 }
    let wake := bankState fun b => { b with power := .waking 0 }
    let off : State := { home 0 {} with mts := [(0, { banks := List.replicate 16 { power := .powering 0 } })] }
    let left : State := { home 0 {} with pages := [(0, { clearing := true })] }
    (∀ s ∈ [drowsy, wb, idle, wake, off], (s.getMt 0).banks.length = 16) ∧ (b drowsy).power = .drowsy ∧ (b drowsy).queue ≠ [] ∧
    (b wb).power = .awake ∧ (b wb).queue = [] ∧ (wb.getMt 0).gatherHead 15 = none ∧ (b wb).writeback ≠ [] ∧
    (b idle).power = .awake ∧ (idle.getMt 0).gatherHead 15 = none ∧ 0 < (idle.getPart (idle.mtPart 0)).regs.drowsyIdle.toNat ∧
    (idle.getPart (idle.mtPart 0)).regs.drowsyIdle.toNat ≤ (b idle).idle ∧ (b wake).power = .waking 0 ∧
    (∀ x ∈ (off.getMt 0).banks, x.power = .powering 0) ∧ (left.getPage 0).clearing = true ∧ (∀ id ∈ (left.getPage 0).resident, id = 0) ∧
    (∀ n, n < 2 → (left.getMn (0 * 2 + n)).clearing = false) := by decide +kernel

/-- A gather of two lanes at the last line of memory tile 0, and memory tile 0 with gather slots. -/
def aReq (kind : GatherKind) (left : List Nat) (bad : Option Nat) : GatherReq :=
  ⟨0, 0, kind, .z32, false, [0xFFF80, 0xFFF84], [0xFFF80, 0xFFF84], 7, left, [], 0, 0, bad, 0, 0⟩
def gathering (ins : List GatherReq) (slot : GatherSlot) : State :=
  let s := home 0xA251_0245_4380_9100 { pend := [{ waiting with value := true }], fir := { hold := .value 0 } }
  { s with mts := [(0, { awakeMt with gatherIn := ins, gather := slot :: List.replicate 63 .free, order := [(0, [0])] }), (1, awakeMt)] }

theorem witness_GatherEngine :
    let q := aReq .scatter [0, 1] none
    let new := gathering [q] .free
    let some_ := gathering [] (.accepted (aReq .gather [0, 1] none))
    let done := gathering [] (.done (aReq .gather [] none))
    let bad := gathering [] (.done (aReq .gather [] (some 1)))
    (some_.getMt 0).gatherIn.find? (fun x => (some_.getMt 0).slotsOf (elemOf x.ce) < 16) = none ∧
    (new.getMt 0).gatherIn.find? (fun x => (new.getMt 0).slotsOf (elemOf x.ce) < 16) = some q ∧
    (new.getMt 0).gather.findIdx? (· == .free) = some 0 ∧ q.dev = false ∧
    (lget {} (some_.getMt 0).banks 15).power = .awake ∧ (lget {} (some_.getMt 0).banks 15).queue = [] ∧
    (some_.getMt 0).gatherHead 15 = some (0, aReq .gather [0, 1] none, 0xFFF80 / 128) ∧ (some_.getMt 0).gather.length = 64 ∧ (some_.getMt 0).lost = [] ∧
    (∀ e, e < 2 → lget 0 q.eas e % (Ty.z32.width / 8) = 0) ∧ (∀ e ∈ q.left, e < q.eas.length) ∧ q.left.Nodup ∧
    ((done.getMt 0).order.find? (·.1 == 0)).map (·.2) = some [0] ∧ lget .free (done.getMt 0).gather 0 = .done (aReq .gather [] none) ∧
    ((done.getCe 0).pend.map (·.id)) = [0] ∧ (match decM (done.getCe 0).fir.word with | .ok _ => true | .error _ => false) = true ∧
    lget .free (bad.getMt 0).gather 0 = .done (aReq .gather [] (some 1)) ∧ bad.isSuper (bad.getCe 0).launch = false ∧
    (bad.getCe 0).fir.bind < (bad.getCe 0).binds.length ∧ MemoryOk (home 0 {}) := by
  refine ⟨?_, ?_, ?_, ?_, ?_, ?_, ?_, ?_, ?_, ?_, ?_, ?_, ?_, ?_, ?_, ?_, ?_, ?_, ?_, ⟨rfl, rfl, rfl, rfl, rfl⟩⟩ <;> decide +kernel

/-- A copy of 8 bytes that stands first at memory tile 0. -/
def copying (src dst : Word) : State :=
  { home 0 {} with mts := [(0, { awakeMt with copies := [⟨0, 0, 0, 1, 0, .copy, src, dst, 8, 0, 0, .pending, 0, [], 0, [], 0, 0, 0, none, none, 0⟩] }), (1, awakeMt)] }

theorem witness_CopyChunks :
    let s := copying 0 0x1FFFF8
    let out := copying 0x200000 0
    let x := (s.getMt 0).copyHeads.find? fun h => s.copyGoes 0 h.2
    x.map (·.2.len) = some 8 ∧ x.map (·.2.kind) = some .copy ∧ x.map (·.2.chunk) = some 0 ∧ place 0 = some (0, 0) ∧
    place 0x1FFFF8 = some (0, 0x1FFFF8) ∧ isOk (s.scratchAt 0 0 1) (0, 0) = true ∧ isOk (s.scratchAt 0 0x1FFFF8 1) (1, 0xFFFF8) = true ∧
    0xFFFF8 + 8 ≤ 2 ^ 20 ∧ (∀ y, y < 16 → (lget {} (s.getMt 0).banks y).power = .awake ∧ (lget {} (s.getMt 1).banks y).power = .awake) ∧
    s.scratchLost 0 0 8 = false ∧ isErr (out.scratchAt 0 0x200000 1) .protect 0x200000 = true ∧ out.isSuper 1 = false ∧ MemoryOk (copying 0 0) := by
  refine ⟨?_, ?_, ?_, ?_, ?_, ?_, ?_, ?_, ?_, ?_, ?_, ?_, ⟨rfl, rfl, rfl, rfl, rfl⟩⟩ <;> decide +kernel

/-- A read that compute element 0 has outstanding at controller channel 0, and a controller with a request of it. -/
def devAcc : Acc := { waiting with kind := .dev 0 ⟨0, .read 4, 0, 0, 0, 0, 0, .ce 0 0, 0, false⟩ }
def devReq (op : DevOp) : DevReq := ⟨0, op, 0, 0, 0, 0, 0, .ce 0 0, 0, false⟩
def dram (pend : List Acc) (d : DevChan) : State :=
  { home 0xAD70_0259_8180_8B80 { pend := pend, fir := { hold := .value 0 } } with devChans := [(0, d)], mts := [(0, {})] }

theorem witness_DeviceMemoryChannels :
    let rd := devReq (.read 4)
    let wr := devReq (.write (List.replicate 64 1))
    let add := devReq (.atom .add .z32 1)
    let s := dram [devAcc] { queue := [rd] }
    let area : State := { dram [devAcc] { queue := [wr] } with parts := [(0, { xareaLog2 := 17 })] }
    ((dram [] { refresh := true }).getDc 0).refresh = true ∧ ((dram [] {}).getDc 0).eligible = [] ∧ (s.getDc 0).refresh = false ∧
    (s.devChoice 0).1 = some rd ∧ ((dram [devAcc] { queue := [wr] }).devChoice 0).1 = some wr ∧
    ((dram [devAcc] { queue := [add] }).devChoice 0).1 = some add ∧ s.xareaOf 0 = [] ∧ (s.getDc 0).mapout = false ∧ 0 / 64 ∉ s.sectorLost ∧ rd.sem = 0 ∧
    canonAddr rd.addr = rd.addr ∧ rd.owner = .ce 0 devAcc.id ∧ (s.getCe 0).pend = [devAcc] ∧ s.ce = [(0, s.getCe 0)] ∧ devAcc.bind = (s.getCe 0).fir.bind ∧
    (List.replicate 64 (1 : Byte)).length ≤ 64 - wr.addr % 64 ∧ 8 ≤ Ty.z32.width ∧ wr.op.writes = true ∧ area.xareaOf 0 = [0] ∧ (area.devChoice 0).1 = some wr ∧
    ((dram [] { replies := [(rd, 5, false)] }).getDc 0).replies = [(rd, 5, false)] ∧ ((dram [] {}).getCe 0).pend = [] ∧
    ((dram [] {}).getCe 0).fir.hold = .value devAcc.id ∧ (match decM ((dram [] {}).getCe 0).fir.word with | .ok _ => true | .error _ => false) = true ∧
    (dram [] {}).mts = [(rd.tile, {})] ∧ s.isSuper (s.getCe 0).launch = false ∧ (s.getCe 0).fir.bind < (s.getCe 0).binds.length ∧ MemoryOk (dram [] {}) := by
  refine ⟨?_, ?_, ?_, ?_, ?_, ?_, ?_, ?_, ?_, ?_, ?_, ?_, ?_, ?_, ?_, ?_, ?_, ?_, ?_, ?_, ?_, ?_, ?_, ?_, ?_, ?_, ?_, ⟨rfl, rfl, rfl, rfl, rfl⟩⟩ <;> decide +kernel

theorem witness_DeviceMemoryChannels_groups :
    let q (addr group arrive : Nat) (held : Bool) : DevReq := ⟨addr, .read 4, 0, group, arrive, 0, 0, .ce 0 0, 0, held⟩
    let here := dram [] { queue := [q 0 7 0 false, q 64 8 1 false, q 128 7 2 false] }
    let held := dram [] { queue := [q 0 7 0 true, q 64 8 1 false] }
    let old : State := { here with cycle := 512 }
    (∀ r ∈ (here.getDc 0).queue, r.part = 0) ∧ (here.devChoice 0).1 = some (q 0 7 0 false) ∧ (old.devChoice 0).1 = some (q 0 7 0 false) ∧
    (∀ r ∈ (here.getDc 0).eligible, here.cycle.toNat < r.arrive + 512) ∧ (∀ r ∈ (here.getDc 0).queue, r ≠ q 0 7 0 false → 0 < r.arrive) ∧
    (∃ r ∈ (here.getDc 0).eligible, r.group = 7) ∧ (held.devChoice 0).1 = some (q 64 8 1 false) ∧ (∀ r ∈ (held.getDc 0).eligible, r.group ≠ 7) ∧
    (old.getDc 0).eligible.any (fun r => r.arrive + 512 ≤ old.cycle.toNat) = true := by decide +kernel

/-- A walk of partition 0 at die 0 for compute element 0, whose translation area starts at 0. -/
def walking (w : Walk) (dev : Memory) : State :=
  let s := home 0 { fir := { hold := .xlate 5 } }
  { s with walks := [(0, [w])], device := dev, parts := [(0, { s.getPart 0 with xareaLog2 := 17, invalidate := true })] }
def aWalk (level : Nat) (run : Bool) : Walk := ⟨0, 0, level, 0, run, [(0, 0)], none, none, false⟩

theorem witness_PageWalks :
    let s := walking (aWalk 0 false) [(1031, 0x80)]
    let leaf := walking (aWalk 3 true) [(7, 0xE0)]
    let found := walking { aWalk 3 true with found := some ⟨0, 65536, 0, true⟩ } []
    let failed := walking { aWalk 3 true with failed := some (3, false, 5) } []
    (tget [] s.walks 0)[0]? = some (aWalk 0 false) ∧ ((tget [] s.walks 0).filter (·.running)).length < 32 ∧ s.rootTable 0 = some 0 ∧
    leaf.rootTable 0 = none ∧ tget [] s.wcache 0 = [] ∧ s.devLost 0 = false ∧ leaf.devNat 0 8 / 2 ^ 63 % 2 = 1 ∧ leaf.devNat 0 8 / 2 ^ 61 % 2 = 1 ∧
    leaf.devNat 0 8 / 2 ^ 42 % 2 ^ 19 = 0 ∧ leaf.devNat 0 8 % 2 ^ 12 = 0 ∧ leavesWindows 0 (2 ^ 16) = false ∧
    (found.getCe 0).fir.hold = .xlate 5 ∧ 5 / 2 ^ 16 * 2 ^ 16 = (aWalk 3 true).vpage ∧
    ((tget [] found.walks 0)[0]?.bind (·.found)).isSome = true ∧ (tget [] failed.walks 0)[0]?.bind (·.failed) = some (3, false, 5) ∧
    (s.getPart 0).invalidate = true ∧ (home 0 {}).devChans = [] ∧ ((home 0 {}).getPart 0).invalidate = false := by decide +kernel

theorem witness_PageWalks_turns :
    let s := walking (aWalk 0 false) [(1031, 0x80)]
    let held (d : DevChan) : State := { s with devChans := [(0, d)] }
    let engine : Walk := { aWalk 3 true with failed := some (3, false, 5), served := [(0, engineMiss)] }
    let e := walking engine []
    devChannel (canonAddr (0 + 8 * walkIndex 0 0)) = 0 ∧ (s.getDc 0).queue = [] ∧ (s.getDc 0).replies = [] ∧ (s.getDc 0).replay = [] ∧ s.sectorErrs = [] ∧
    ((held { refresh := true }).getDc 0).refresh = true ∧ ((held { refresh := true }).getDc 0).mapout = false ∧
    (held { mapout := true }).devLost 0 = true ∧ (aWalk 0 false).closed = false ∧ (tget [] e.walks 0)[0]? = some engine ∧ engine.closed = false ∧
    (e.getCe engineMiss).fir.hold = .none ∧ (∀ x ∈ s.devChans, ∀ q ∈ x.2.queue, q.held = false) ∧
    (∀ x ∈ (tget [] s.walks 0).take 0, x.running = true) := by decide +kernel

/-- A stream at port 0 with a channel, over device memory with the header of a queue of 4 entries at 0. -/
def streaming (x : Stream) (c : Chan) (dev : Memory) : State :=
  ranged { home 0 { pend := [{ waiting with id := 6 }] } with streams := [(3, x)], chans := [(65536, c)], device := dev }
def denseStream (m : StreamMode) (pos : Nat) : Stream := { aStream m 1 with ch := 65536, tensor := aDense, pos := pos, ready := 128, checked := true }
def queueAt (head tail : Byte) : Memory := (if head = 0 then [] else [(16, head)]) ++ if tail = 0 then [] else [(20, tail)]

/-- Bytes that the engine of port 0 reads, with no channel changed, and what a state becomes. -/
def reads (s : State) (ap a n : Nat) : Bool :=
  match s.readAt 0 ap a n (portEngine 0) with | (.ok bs, t) => bs.length == n && t.chans == s.chans | _ => false
def afterRead (s : State) (ap a n : Nat) : State := (s.readAt 0 ap a n (portEngine 0)).2
def writes (s : State) (ap a : Nat) (bs : List Byte) : Bool :=
  match State.writeAt s 0 1 ap a bs (portEngine 0) with | (.ok _, t) => t.chans == s.chans && t.streams == s.streams | _ => false
def afterWrite (s : State) (ap a : Nat) (bs : List Byte) : State := (State.writeAt s 0 1 ap a bs (portEngine 0)).2

theorem witness_StreamPorts :
    let free := aChan (.mtOut 0 0 0) (.ceIn 0 0)
    let data := { aChan (.ceOut 0 0) (.mtIn 0 0 0) with endq := [⟨1, 7, 0⟩] }
    let x := denseStream .readTensor 0
    let s := streaming x free []
    let s1 : State := { s with ports := tput s.ports 0 3 }
    let w := streaming (denseStream .writeTensor 0) data []
    let new := streaming { denseStream .writeTensor 0 with checked := false } data []
    let two : State := { s with streams := [(3, x), (4, x)] }
    tfind s.streams 3 = some x ∧ s.streamGoes 3 x = true ∧ new.streamGoes 3 { denseStream .writeTensor 0 with checked := false } = true ∧
    recEnt aDense = false ∧ recForm aDense = 0 ∧ recForm aSparse ≠ 0 ∧ s.isSuper 1 = false ∧ x.closing = false ∧ s.streamReady 3 x = true ∧
    (streaming (denseStream .readTensor 128) free []).streamReady 3 (denseStream .readTensor 128) = true ∧
    w.streamReady 3 (denseStream .writeTensor 0) = true ∧ (tfind s.chans 65536).isSome = true ∧ recTotal aDense ≤ 128 ∧
    two.streamReady 4 x = true ∧ elemBit aDense 8 0 % 8 = 0 ∧ 0 < min (1024 / 8) (rowLeft aDense 0) ∧
    (x.pieces 0 128 = [(0, 128)] ∧ x.dead 0 = false ∧ x.fetchStop = 128) ∧ { x with ahead := [7] }.ahead ≠ [] ∧ reads s1 0 0 128 = true ∧
    (match State.fetchTokens 0 x x.fetchStop (x.fetchStop + 1 - x.pos) s1 x.pos [] with
      | (.ok (_ :: vs), t) => vs.isEmpty && t.streams == s1.streams && t.chans == s1.chans | _ => false) = true ∧
    writes { w with ports := tput w.ports 0 3 } 0 0 (bytesOfNat 128 7) = true ∧ (⟨1, 7, 0⟩ : Token).isData = true := by decide +kernel

theorem witness_StreamPorts_queues :
    let free := aChan (.mtOut 0 0 0) (.ceIn 0 0)
    let hdr (head tail : Byte) : Memory := [(1, 1), (8, 4)] ++ queueAt head tail
    let rd := streaming (denseStream .readQueue 0) free (hdr 0 1)
    let wr := streaming { denseStream .writeQueue 0 with held := [(9, 6)] } free (hdr 0 3)
    let r1 : State := { rd with ports := [(0, 3)] }
    let r2 := afterRead r1 1 0 64
    let w2 := afterRead wr 1 0 64
    let w3 := afterWrite w2 1 (256 + 128 * 3) (bytesOfNat 128 9)
    let end_ := { denseStream .writeQueue 0 with held := [(9, 6)], closing := true }
    rd.streamReady 3 (denseStream .readQueue 0) = true ∧ wr.streamReady 3 { denseStream .writeQueue 0 with held := [(9, 6)] } = true ∧
    reads r1 1 0 64 = true ∧ reads r2 1 256 128 = true ∧ writes (afterRead r2 1 256 128) 1 16 (bytesOfNat 4 1) = true ∧
    reads wr 1 0 64 = true ∧ writes w2 1 (256 + 128 * 3) (bytesOfNat 128 9) = true ∧ writes w3 1 20 (bytesOfNat 4 4) = true ∧
    (3 + 2 ^ 32 - 0) % 2 ^ 32 < 4 ∧ ((afterWrite w3 1 20 (bytesOfNat 4 4)).getCe 0).pend.map (·.id) = [6] ∧ ((home 0 {}).streams) = [] ∧
    (streaming end_ free (hdr 0 3)).streamReady 3 end_ = true := by decide +kernel

/-- A MATCTL of 1 × 64 × 1 at bf16 for tile 0 with a MOP, and node 0 with contexts fed by channels. -/
def aCtl (mop : Nat) (accum : Bool) : Token := ⟨6, BitVec.ofNat 1024 (mop * 2 ^ 60 + b2n accum * 2 ^ 56 + 63 * 2 ^ 43 + 0xA * 2 ^ 32 + 0xA * 2 ^ 28), 0⟩
def node (t : AccTile) (q : List Token) (frags : List Fragment) (x : MnCtx) : State :=
  { home 0 {} with
    mns := [(0, { tiles := t :: List.replicate 7 {}, frags := frags, ctxs := { x with ctl := some 65536, out := some 65538 } :: List.replicate 3 {} })]
    chans := [(65536, { aChan (.ceOut 0 0) (.mnIn 0 0 0) with endq := q, arrived := [5] }), (65538, aChan (.mnOut 0 0) (.ceIn 0 0))] }
def aFrag (mop : Nat) (started : Bool) : Fragment := ⟨0, (aCtl mop false).data.toWord, [0], 0, started, 0⟩

theorem witness_FragmentsAccepted :
    let w := (aCtl 0 false).data.toWord
    let s := node {} [aCtl 0 false] [] {}
    let done := node {} [aCtl 2 false] [] {}
    let acc := node { state := .ready, owned := true } [aCtl 0 true] [] {}
    let rel := node { state := .ready, owned := true } [aCtl 0 false] [] {}
    let other := node { state := .busy, owner := 2, owned := true } [aCtl 0 false] [] {}
    let full := node {} [aCtl 0 false] (List.replicate 16 (aFrag 0 false)) {}
    (s.getMn 0).tiles.length = 8 ∧ ((s.getMn 0).ctx 0).ctl = some 65536 ∧ (tfind s.chans 65536).isSome = true ∧ s.mnTakes 0 0 = true ∧
    s.matctlBad 0 w = false ∧ done.matctlBad 0 (aCtl 2 false).data.toWord = false ∧ mcMop w = 0 ∧ mcMop (aCtl 2 false).data.toWord = 2 ∧
    done.doneRoom ((done.getMn 0).ctx 0) = true ∧ s.isSuper (s.slotLaunch 0 0) = false ∧ matPair (mcAfmt w) (mcBfmt w) = true ∧ matPair 0xC 0 = false ∧
    ((node {} [] [] { dead := true }).getMn 0).ctxs.length = 4 ∧ 16 ≤ ((full.getMn 0).frags.filter Fragment.real).length ∧
    ((s.getMn 0).frags.filter Fragment.real).length < 16 ∧ ((acc.getMn 0).tile 0).state = .ready ∧ ((acc.getMn 0).tile 0).owner = 0 / 2 * 4 + 0 ∧
    mcAccum (aCtl 0 true).data.toWord = true ∧ mcAccum w = false ∧ ((rel.getMn 0).tile 0).owner = 0 ∧ ((other.getMn 0).tile 0).owner ≠ 0 ∧
    ((s.getMn 0).tile 0).state = .idle ∧ (s.tileWaiters 0 0).map (fun y => (y.1, y.2.1)) = [(5, 0)] := by decide +kernel

theorem witness_FragmentsRun :
    let s := node { state := .busy, owned := true } [] [aFrag 1 false] {}
    let due := node { state := .busy, owned := true } [] [aFrag 1 true] { reserved := 1 }
    let fence := node {} [] [aFrag 2 false] {}
    let waits := node { state := .busy, owned := true } [] [aFrag 0 false, aFrag 2 false] {}
    let w := (aFrag 1 false).word
    s.feedAll 0 = s ∧ due.feedAll 0 = due ∧ (s.getMn 0).nextStart ≤ s.cycle.toNat ∧ (s.getMn 0).frags[0]? = some (aFrag 1 false) ∧
    (aFrag 1 false).real = true ∧ (aFrag 2 false).real = false ∧ 0 = ((s.getMn 0).last + 1 + 3) % 4 ∧
    (∀ k, k < 3 → (s.startable 0 (((s.getMn 0).last + 1 + k) % 4)).isNone = true) ∧ s.startable 0 0 = some 0 ∧ s.mnStopped 0 0 = false ∧
    s.mnTakes 0 0 = true ∧ rowTokens w ≤ 1 ∧ mcMop w = 1 ∧ s.doneRoom ((s.getMn 0).ctx 0) = true ∧ s.fillConflict 0 w = false ∧
    (aFrag 1 true).need ≤ 1 ∧ (aFrag 1 true).due ≤ due.cycle.toNat ∧ ((fence.getMn 0).frags.take 0) = [] ∧
    (waits.getMn 0).frags.take 1 = [aFrag 0 false] ∧ MemoryOk s := by
  refine ⟨?_, ?_, ?_, ?_, ?_, ?_, ?_, ?_, ?_, ?_, ?_, ?_, ?_, ?_, ?_, ?_, ?_, ?_, ?_, ⟨rfl, rfl, rfl, rfl, rfl⟩⟩ <;> decide +kernel

theorem witness_TileHandovers :
    let r : TileEntry := ⟨0, 0, 0, true, [(32767, 1)], 3⟩
    let s := node {} [aCtl 0 false] [] {}
    let back : State := { home 0 {} with mns := [(0, { restores := [r] })] }
    let left : State := { State.reset with mns := [(0, { clearing := true })] }
    ((s.getMn 0).tile 0).state = .idle ∧ (match firstWaiter (s.tileWaiters 0 0) with | some (.token 0) => true | _ => false) = true ∧
    (match firstWaiter (back.tileWaiters 0 0) with | some (.restore x) => x == r | _ => false) = true ∧ r.tile < (back.getMn 0).tiles.length ∧
    (back.getMn 0).ctxs.length = 4 ∧ Memory.wf r.contents = true ∧ (∀ e ∈ r.contents, e.1 < 32768) ∧ ((home 0 {}).tileWaiters 0 0).isEmpty = true ∧
    (left.getMn 0).clearing = true ∧ (∀ l ∈ (left.getPage 0).resident, l = 0) := by decide +kernel

/-- Groups of products: with a NaN, with one infinity, of zeros, and of one finite value. -/
theorem witness_NodeSums : [FVal.nan true].any FVal.isNan = true ∧ [FVal.inf true].any FVal.isNan = false ∧ FVal.inf true ∈ [FVal.inf true] ∧
    FVal.inf false ∉ [FVal.inf true] ∧ finite (FVal.fin false 0 0) = true ∧ (List.replicate 16 (FVal.fin false 1 0)).length = 16 := by decide

theorem witness_NodeSums_scale : ∃ p ∈ [FVal.fin false 1 0], FVal.real p ≠ 0 ∧ Int.log 2 |FVal.real p| = 0 := by
  refine ⟨_, List.mem_singleton.2 rfl, ?_, ?_⟩ <;> simp [FVal.real]

/-- A compile of the tile at 0 of a bitmap record, over a block of one element 5 at row 0, column 0. -/
def aCompile (running : Bool) : Compile := ⟨0, 0, 1, h0, 0, aSparse, [], running, 0, false, 1, 0, false⟩
def block1 : Memory := [(0, 1), (8, 1), (16, 1), (32, 5)]
def compiling (running : Bool) (st : Nat) (mem_ : Memory) (dir : Tab PatRec) : State :=
  { engMt (home 0 {}) (fun m => { m with compiles := [aCompile running], dir := (0, { valid := true, st := st }) :: dir }) with scratch := mem_ }

theorem witness_PatternCompiles :
    let s := compiling false 1 block1 []
    let run := compiling true 1 block1 []
    let h := natOfBytes (s.scratchRead 0 (aCompile false).off 16)
    let moved := compiling false 1 [] [(3, { valid := true, st := 2, uops := 4 })]
    (aCompile false).off = 0 ∧ (s.getMt 0).compiles = [aCompile false] ∧ s.handed 0 [] = true ∧ (∀ n, n < 16 → (lget {} (s.getMt 0).banks n).power = .awake) ∧
    s.isSuper 1 = false ∧ s.scratchLost 0 0 16 = false ∧ (blockHead aSparse 0 h).isSome = true ∧ 0xFFFF * 2 ^ 112 / 2 ^ 112 ≠ 0 ∧
    (aCompile true).due ≤ run.cycle.toNat ∧ (tget {} (run.getMt 0).dir 0).ver = (aCompile true).ver ∧ (tget {} (run.getMt 0).dir 0).st = 1 ∧
    (aCompile true).big = false ∧ (run.getMt 0).lost = [] ∧
    ((blockHead aSparse 0 h).bind fun b => blockProg aSparse 0 b fun a n => memNat run.scratch (scratchAddr 0 a) n) = some [0x80005] ∧
    (run.getMt 0).storeUsed + 1 ≤ 8192 ∧ (tget {} (moved.getMt 0).dir 3).words = 4 ∧ 8188 + 4 ≤ 8192 ∧ (s.getMt 0).sweep + 2 ^ 30 > s.cycle.toNat := by
  decide +kernel

theorem witness_PatternPrograms :
    let rd (a n : Nat) : Nat := memNat block1 (0 + a) n
    recForm aSparse = 1 ∧ ((blockHead aSparse 0 (rd 0 16)).bind fun b => blockProg aSparse 0 b rd) = some [0x80005] ∧
    ((blockHead aSparse 0 (rd 0 16)).map (·.nnz)) = some 1 := by decide +kernel

/-- An SPMM that stands first at memory tile 0, and the tile's record with a state. -/
def spmmDesc : Vec := 0x4000 <<< 192 ||| 0x2000 <<< 128 ||| 1 <<< 63
def spmming (path : Nat) (st : Option Nat) : State :=
  { engMt (home 0 {}) (fun m => { m with
      copies := [⟨0, 0, 0, 1, 0, .spmm spmmDesc aSparse false false, 0, 0, 8192, 0, 0, .pending, 0, [], path, [], 0, 0, 0, none, none, 0⟩]
      dir := match st with | some n => [(0, { valid := true, st := n, ostr := 0 })] | none => [] }) with scratch := block1 }

theorem witness_SpmmRuns :
    let a := spTileAt 0 spmmDesc aSparse
    let rd (n : Nat) : Nat := memNat block1 (scratchAddr 0 a.off) n
    ((spmming 0 none).getMt 0).spmmHeads.length = 1 ∧ (∀ x ∈ ((spmming 0 none).getMt 0).spmmHeads, (spmming 0 none).copyGoes 0 x = true) ∧
    ((home 0 {}).getMt 0).spmmHeads = [] ∧ (((spmming 0 (some 2)).getMt 0).pattern a).map (·.2.st) = some 2 ∧
    (((spmming 0 (some 1)).getMt 0).pattern a).map (·.2.st) = some 1 ∧ (((spmming 0 none).getMt 0).pattern a).isNone = true ∧
    ((spmming 0 none).getMt 0).lost = [] ∧ (∀ n, n < 16 → (lget {} ((spmming 0 none).getMt 0).banks n).power = .awake) ∧
    ((blockHead aSparse a.off (rd 16)).bind fun b => blockProg aSparse a.off b fun o n => memNat block1 (scratchAddr 0 o) n).isSome = true ∧
    (spmming 0 none).isSuper 1 = false ∧ spX spmmDesc % 128 = 0 ∧ spY spmmDesc % 128 = 0 ∧ spY spmmDesc % 2 ^ 20 + 8192 ≤ 2 ^ 20 ∧
    scratchAddr 0 (spX spmmDesc % 2 ^ 20) + 8192 ≤ scratchAddr 0 (spY spmmDesc % 2 ^ 20) ∧ Memory.wf block1 = true := by decide +kernel

theorem witness_ConvoyBatches :
    let two := batchOf 1 0 0 0 [aRow 0, aRow 0]
    let one := batchOf 1 0 0 0 [aRow 0]
    let mine := batchOf 0 0 0 0 [aRow 0]
    let s := convoy 1 32 {} { formed := [mine, two] }
    let up : State := { s with dev := { s.dev with linkReady := 1 } }
    let g (g : Ingress) := (convoy 1 32 g {}).getIngress 0
    let back : State := { convoy 1 32 { ret := some 65536, pool := [(0, .running 1 5)] } {} with chans := [(65536, { aChan (.ceOut 0 0) (.ceIn 4 0) with endq := [⟨0, 0, 0⟩] })] }
    let due : State := { convoy 1 32 { give := [[t1]], out := some 65536 :: List.replicate 4 none } {} with chans := [(65536, aChan (.ceOut 0 0) (.ceIn 4 0))] }
    let full : State := { due with chans := [(65536, { aChan (.ceOut 0 0) (.ceIn 4 0) with credit := 0 })] }
    (home 0 {}).getEgress 0 = {} ∧ (s.getEgress 0).formed.find? (fun x => natBits x.header.toNat 63 48 == 1) = some two ∧ 0 ≤ (s.getEgress 0).last ∧
    two.sent + 1 < two.rows.length ∧ one.rows.length ≤ one.sent + 1 ∧ natBits one.header.toNat 63 48 ≠ s.dev.pkg.toNat ∧
    natBits mine.header.toNat 63 48 = s.dev.pkg.toNat ∧ (s.linkFor 1).2 = false ∧ (up.linkFor 1).2 = true ∧ s.isSuper one.launch = false ∧
    (home 0 {}).ingressGoes 0 0 = false ∧ s.ingressGoes 0 0 = true ∧ (g { arrived := [mine] }).batch = none ∧ (g {}).arrived = [] ∧ s.ownEntry 0 0 = some (0, 4) ∧
    natBits (batchOf 0 1 0 0 [aRow 0]).header.toNat 89 84 = 1 ∧ natBits mine.header.toNat 116 112 = 0 ∧ natBits mine.header.toNat 42 40 = 0 ∧ mine.rows ≠ [] ∧
    natBits two.header.toNat 63 48 ≠ s.dev.pkg.toNat ∧ (due.getIngress 0).give = [[t1]] ∧ (due.getIngress 0).out.take 1 = [some 65536] ∧
    (due.chanD 65536).credit ≠ 0 ∧ (due.chanD 65536).startq.length < (due.chanD 65536).depth ∧ (full.chanD 65536).credit = 0 ∧
    ({ due with ingress := due.ingress.map fun e => (e.1, { e.2 with batch := some mine }) } : State).getIngress 0 ≠ due.getIngress 0 ∧
    (g {}).ret = none ∧ (due.chanD 65536).endq = [] ∧ (back.getIngress 0).ret = some 65536 ∧ (back.chanD 65536).endq = [⟨0, 0, 0⟩] ∧
    poolAddr (back.getPart 0).regs.cvyPool 0 = 0 ∧ (∀ e ∈ (back.getIngress 0).pool, e.1 = 0) ∧ (g {}).pool = [] := by decide +kernel

theorem witness_ConvoyBatches_arrivals :
    let one := batchOf 0 0 0 0 [aRow 0]
    let src (x : BitVec 512) : Nat := natBits x.toNat 31 16 * 8 + natBits x.toNat 10 8
    let from_ (pkg : Nat) : Batch := { one with header := one.header ||| BitVec.ofNat 512 (pkg * 2 ^ 16) }
    let s := convoy 1 32 {} { formed := [one, one] }
    let full := convoy 1 32 { arrived := [from_ 0] } { formed := [one] }
    let g : Ingress := { arrived := [from_ 0, from_ 3] }
    let lb : LinkBatch := ⟨(from_ 2).header, []⟩
    let later := convoy 1 32 { arrived := [one] } {}
    let v : Token := ⟨0, BitVec.ofNat 1024 (3 * 2 ^ 32), 0⟩
    let due : State := { convoy 1 32 { give := [[v]], batch := some one, out := some 65536 :: List.replicate 4 none } {} with
                           chans := [(65536, aChan (.ceOut 0 0) (.ceIn 4 0))] }
    natBits one.header.toNat 63 48 = s.dev.pkg.toNat ∧ (s.getIngress 0).arrived = [] ∧ (∃ y ∈ (full.getIngress 0).arrived, src y.header = src one.header) ∧
    (s.getEgress 0).formed.find? (fun y => natBits y.header.toNat 63 48 == 0) = some one ∧ src lb.header = 16 ∧ lb.rows.length ≤ 64 ∧
    (∀ y ∈ g.arrived, src y.header ≠ src lb.header) ∧ natBits lb.header.toNat 116 112 = 0 ∧ natBits lb.header.toNat 63 48 = 0 ∧
    (∀ x, (later.getIngress 0).arrived.head? = some x → x.arrive < later.cycle.toNat) ∧ (∃ y ∈ g.arrived, src y.header = src (from_ 3).header) ∧
    (s.ingressGoes 0 0 = true ∧ (home 0 {}).ingressGoes 0 0 = false) ∧ (due.getIngress 0).give = [[v]] ∧ (due.getIngress 0).batch ≠ none ∧
    due.ingressGoes 0 0 = true ∧ (due.chanD 65536).startq.length < (due.chanD 65536).depth ∧ v.kind = 0 ∧ v.data.toNat / 2 ^ 32 % 128 = 3 ∧
    isOk (due.scratchAt 0 (64 * 11) 1) (0, 704) = true ∧ 11 < (0 + 256 * 3 + 63) / 64 := by decide +kernel

/-- The order of the scores of `aRow` in a group of four: expert 1 first, the others in index order. -/
theorem witness_RowsPlaced_order :
    let v (i : Nat) : FVal := fDecode .fp32 (lane (aRow 0).scores 32 i)
    let less (i j : Nat) : Prop := ((v i).isNan ∧ ¬ (v j).isNan) ∨ FBelow (v i) (v j)
    [1, 0, 2, 3].Perm (List.range 4) ∧ [1, 0, 2, 3].Pairwise (fun i j => less j i ∨ (¬ less i j ∧ i < j)) := by
  intro v less
  have h0 : v 0 = .fin false 0 (-149) := by decide +kernel
  have h1 : v 1 = .fin false 0x800000 (-23) := by decide +kernel
  have h2 : v 2 = .fin false 0 (-149) := by decide +kernel
  have h3 : v 3 = .fin false 0 (-149) := by decide +kernel
  clear_value v
  exact ⟨by decide, by simp [less, h0, h1, h2, h3, FBelow, FVal.real, FVal.neg, FVal.isNan]⟩

theorem witness_RowsPlaced :
    let b := batchOf 0 0 0 5 [aRow 5, aRow 5]
    let s (r : BitVec 32) (cap : Nat) (g : Ingress) := convoy 1 cap { g with batch := some (batchOf 0 0 0 5 [aRow r, aRow r]), step := 5 } {}
    let open_ := s 5 32 { experts := [(1, { openBuf := some 0, count := 3 })], pool := [(0, .filling 1 0)] }
    let last := s 5 4 { experts := [(1, { openBuf := some 0, count := 3 })], pool := [(0, .filling 1 0)] }
    let shut := s 5 32 { experts := [(1, { closed := true })] }
    let late := s 4 32 {}
    let runs := s 4 32 { pool := [(0, .running 2 4)] }
    let final := s 5 32 { final := true }
    let none_ := s 5 32 { pool := [(0, .running 2 4), (1, .filling 3 0)] }
    let force := s 5 32 { experts := [(2, { openBuf := some 0, count := 3 })], pool := [(0, .filling 2 1), (1, .filling 3 4)] }
    let far : State := { open_ with parts := [(0, { open_.getPart 0 with regs := { (open_.getPart 0).regs with cvyPool := 2 ^ 27 + 2 ^ 9 + 5 } })] }
    let x (s : State) := (s.getIngress 0).expert 1
    (∀ s ∈ [open_, last, shut, late, runs, final, none_, force, far], s.ingressGoes 0 0 = true ∧ (s.getIngress 0).faultRow = false ∧ s.ownEntry 0 0 = some (0, 4) ∧
      (s.getIngress 0).place = 0 ∧ ((s.getIngress 0).batch.map fun b => b.rows.length) = some 2) ∧ b.rows[0]? = some (aRow 5) ∧
    (open_.getIngress 0).place + 1 ≠ b.rows.length ∧ (x open_).openBuf = some 0 ∧ 3 = (x open_).count ∧ (x open_).closed = false ∧ (x open_).count + 1 < 32 ∧ 4 ≤ (x last).count + 1 ∧
    (x shut).closed = true ∧ ([1, 0, 2, 3].find? fun k => !((shut.getIngress 0).expert k).closed) = some 0 ∧ ((shut.getIngress 0).expert 0).openBuf = none ∧
    shut.poolPages 0 0 = [0, 1] ∧ (shut.getIngress 0).page 0 = .free ∧ (4 : BitVec 32) < (late.getIngress 0).step ∧ (late.getIngress 0).pool = [] ∧
    (0, PoolState.running 2 4) ∈ (runs.getIngress 0).pool ∧ (runs.getIngress 0).page 1 = .free ∧ (final.getIngress 0).final = true ∧ (x final).openBuf = none ∧
    (∀ j ∈ none_.poolPages 0 0, (none_.getIngress 0).page j ≠ .free) ∧ (none_.getIngress 0).page 0 = .running 2 4 ∧ (x none_).openBuf = none ∧
    (∀ j ∈ force.poolPages 0 0, (force.getIngress 0).page j ≠ .free) ∧ (force.getIngress 0).page 0 = .filling 2 1 ∧ (force.getIngress 0).page 1 = .filling 3 4 ∧
    ((force.getIngress 0).expert 2).openBuf = some 0 ∧ isOk (open_.scratchAt 0 (poolAddr (open_.getPart 0).regs.cvyPool 0 + 256 * 3) 1) (0, 768) = true ∧
    (∀ n, n < 16 → (lget {} (open_.getMt 0).banks n).power = .awake) ∧ (open_.scratch = [] ∧ open_.device = []) ∧ far.isSuper 1 = false ∧
    (∀ n, n < 16 → open_.bankFree 0 n = true) ∧ open_.wordErrs = [] ∧ ((96, true) ∈ ({ open_ with wordErrs := [(96, true)] } : State).wordErrs ∧
      0 * 2 ^ 17 + 768 / 8 ≤ 96 ∧ 96 < 0 * 2 ^ 17 + 768 / 8 + 32) ∧
    isErr (far.scratchAt 0 (poolAddr (far.getPart 0).regs.cvyPool 0 + 256 * 3) 1) .protect (poolAddr (far.getPart 0).regs.cvyPool 0 + 256 * 3) = true := by decide +kernel

theorem witness_ConvoySteps :
    let close (flags step : Nat) := batchOf 0 0 flags step []
    let s (nsrc : Nat) (b : Batch) (g : Ingress) := convoy nsrc 32 { g with arrived := [b], step := 5 } {}
    let mid := s 2 (close 4 5) {}
    let ahead := s 1 (close 4 20) {}
    let far := s 1 (close 4 21) {}
    let end_ := s 1 (close 4 5) { experts := [(1, { openBuf := some 0, count := 3 })], pool := [(0, .filling 1 0)] }
    let fin := s 1 (close 12 5) { experts := [(1, { openBuf := some 0, count := 3 })], pool := [(0, .filling 1 0)] }
    let done := s 1 (close 4 5) { final := true }
    let dist (b : Batch) : Nat := (b.header.extractLsb' 160 32 - 5).toNat
    (∀ s ∈ [mid, ahead, far, end_, fin, done], s.ingressGoes 0 0 = true ∧ (s.getIngress 0).batch = none ∧ s.ownEntry 0 0 = some (0, 4) ∧ (s.getIngress 0).arrived.length = 1 ∧
      (s.getIngress 0).arrived.all fun b => decide (b.arrive < s.cycle.toNat) && b.rows.isEmpty && bitN b.header.toNat 82 && natBits b.header.toNat 89 84 == 0) ∧
    (done.getIngress 0).final = true ∧ dist (close 4 21) = 16 ∧ far.isSuper 1 = false ∧ dist (close 4 20) = 15 ∧ dist (close 4 5) = 0 ∧
    tget 0 (mid.getIngress 0).closes 0 + 1 < (mid.getPart 0).regs.cvyNsrc ∧ tget 0 (ahead.getIngress 0).closes 0 < (ahead.getPart 0).regs.cvyNsrc ∧
    tget 0 (end_.getIngress 0).closes 0 + 1 = (end_.getPart 0).regs.cvyNsrc ∧ (end_.getIngress 0).final = false ∧ (end_.getIngress 0).finalStep = [] ∧
    (∀ e, e < 4 → ((end_.getIngress 0).expert e).openBuf.isSome = true → e = 1) ∧ tget 0 (end_.getIngress 0).closes 1 < (end_.getPart 0).regs.cvyNsrc ∧
    bitN (close 4 5).header.toNat 83 = false ∧ bitN (close 12 5).header.toNat 83 = true := by decide +kernel

/-- `home` with a collective 0 of group 0 of partition 0, whose members are compute element 0 of page 0 and others. -/
def collOf (others : List Word) (ms : List Member) (data : List (Nat × Vec × List Byte)) : State :=
  let s := home 0 {}
  { s with parts := [(0, { s.getPart 0 with cgtab := [(0, ⟨s.memberWord 0 :: others⟩)], collectives := [⟨0, 0, ms, data⟩] })] }
def aMember (d : Vec) : Member := ⟨0, 0, 1, d, [], false, false, none⟩
/-- A descriptor: DST at 2^20 (memory tile 1), SRC at 0, a LEN, and OP. -/
def collDesc (op len : Nat) : Vec := BitVec.ofNat 1024 (2 ^ 20 * 2 ^ 128 + len * 2 ^ 32 + op * 2 ^ 8)

theorem witness_CollectiveEvents :
    let d := collDesc 2 128
    let zeros := List.replicate 128 (0 : Byte)
    let s := collOf [] [aMember d] []
    let away := collOf [2 ^ 16] [aMember d] []
    let up : State := { away with dev := { away.dev with linkReady := 1 } }
    let held := collOf [] [{ aMember d with faulted := true }] [(0, d, zeros)]
    let full := collOf [] [aMember d] [(0, d, zeros)]
    let found (s : State) : Option Collective := (s.getPart 0).collective 0 0
    let goes (s : State) : Bool := match found s with | some c => c.members.all fun m => s.memberGoes c m | none => false
    found (home 0 {}) = none ∧ (found full).isSome = true ∧ (found full).map (·.data) = some [(0, d, zeros)] ∧ (found s).map (·.data) = some [] ∧ goes s = true ∧
    goes held = false ∧ goes away = true ∧ away.dev.pkg.toNat = 0 ∧ (away.linkFor 1).2 = false ∧
    away.groupMembers 0 0 = [0, 2 ^ 16] ∧ away.isSuper 1 = false ∧ s.groupMembers 0 0 = [0] ∧ (up.linkFor 1).2 = true := by decide +kernel

theorem witness_CollectiveEvents_ends :
    let d := collDesc 2 128
    let zeros := List.replicate 128 (0 : Byte)
    let s := collOf [] [aMember d] []
    let away := collOf [2 ^ 16] [aMember d] []
    let full := collOf [] [aMember d] [(0, d, zeros)]
    let two := collOf [2 ^ 16] [aMember (collDesc 2 256)] [(0, collDesc 2 256, List.replicate 256 0), (1, collDesc 3 256, List.replicate 256 0)]
    let desc1 := bytesOfNat 128 (collDesc 2 128).toNat
    place (collSrc d) = some (0, 0) ∧ (match s.readAt 0 0 0 (collLen d) (aMember d).engine with
      | (.ok bs, t) => bs == zeros && decide ((t.getPart 0).collective 0 0 = (s.getPart 0).collective 0 0) | _ => false) = true ∧
    (∀ y ∈ [aMember d], y.rank ≠ 1) ∧ 1 < (away.groupMembers 0 0).length ∧ (s.groupMembers 0 0).length = 1 ∧
    (desc1 ++ zeros).length = 128 + collLen (BitVec.ofNat 1024 (natOfBytes ((desc1 ++ zeros).take 128))) ∧ (aMember d).status = none ∧
    (full.groupMembers 0 0).length = 1 ∧ zeros.length = collLen d ∧ (two.groupMembers 0 0).length = 2 ∧
    (collDesc 3 256).extractLsb' 8 56 ≠ (collDesc 2 256).extractLsb' 8 56 ∧ (aMember d).rank < 1 ∧ place (collDst d) = some (0, 2 ^ 20) ∧
    (match full.writeAt 0 1 0 (2 ^ 20) zeros (aMember d).engine with | (.ok _, _) => true | _ => false) = true ∧ collOp d = 2 ∧ zeros = ((List.range 1).map fun _ => zeros).flatten ∧
    collOp (collDesc 3 128) = 3 ∧ collRoot (collDesc 3 128) = 0 ∧ collOp (collDesc 4 128) = 4 ∧ collOp (collDesc 0 128) = 0 ∧ collOp (collDesc 1 128) = 1 ∧
    collRed (collDesc 0 256) ≤ 2 ∧ collLen (collDesc 0 256) % (128 * 2) = 0 := by decide +kernel

/-- A reduction of two ranks of zeros at s32 is zeros. -/
theorem witness_CollectiveEvents_sum : ∃ t, collTy (collDesc 0 256 ||| 4 <<< 16) = some t ∧ ElemTo 0 t 0 0 0 := by
  have h : ∃ t, collTy (collDesc 0 256 ||| 4 <<< 16) = some t ∧ t.isFloat = false := by
    refine ⟨.s32, ?_, rfl⟩; decide +kernel
  obtain ⟨t, h, hf⟩ := h
  exact ⟨t, h, by simp [ElemTo, hf]⟩

/-- Binding 0 RUNNABLE at an address, the last one fired being 2, with a decoded block at 0; and a block that has run. -/
def idleCe (pc : Nat) : State :=
  homeCe fun c => { c with fir := {}, next := 3, dec := [⟨0, 0, [0]⟩], binds := c.binds.set 0 { bound := true, state := .runnable, pc := pc } }
def endCe (g : Firing → Firing) : State := homeCe fun c => { c with fir := g { c.fir with idx := 1 } }

def bindAs (st : BindState) : State := homeCe fun c => { c with binds := c.binds.set 0 { bound := true, state := st } }
def unbound : State := homeCe fun c => { c with fir := {}, binds := List.replicate 4 {} }

def mayChoose (s : State) : Bool :=
  let c := s.getCe 0
  !c.fir.active && s.mayFire (cePage 0) (ceSlot 0) c.launch && (c.next + 1) % 4 == 0 && !(lget {} c.binds 3).bound && (lget {} c.binds 0).bound &&
    (lget {} c.binds 0).state == .runnable && !s.codeHold 0
/-- Whether the block at an address is fetched, and is ready; none where it is rejected. -/
def fetched (s : State) (a : Nat) : Option Bool := match s.blockOf 0 a with | .ok x => some (s.blockReady 0 x.header) | .error _ => none

theorem witness_BlockFirings :
    let b (s : State) := lget {} (s.getCe 0).binds (s.getCe 0).fir.bind
    ((home 0 {}).getCe 0).fir.active = true ∧ (b (home 0 {})).state = .firing ∧
    ((home 0 {}).getCe 0).fir.idx < ((home 0 {}).getCe 0).fir.block.words.length ∧
    (b (bindAs .faulted)).state = .faulted ∧ ((bindAs .faulted).getCe 0).fir.active = true ∧ (b (bindAs .runnable)).state = .runnable ∧
    (bindAs .runnable).mayFire (cePage 0) (ceSlot 0) ((bindAs .runnable).getCe 0).launch = true ∧
    (unbound.getCe 0).fir.active = false ∧ (unbound.getCe 0).binds = List.replicate 4 {} ∧
    mayChoose (idleCe 0) = true ∧ mayChoose (idleCe 48) = true ∧ fetched (idleCe 0) 0 = some true ∧ fetched (idleCe 48) 48 = none ∧
    (idleCe 48).isSuper 1 = false := by decide +kernel

def advancing : State :=
  let s := endCe fun f => { f with advMoves := [(0, 2)], padvMoves := [(1, 1)] }
  { s with
    chans := [(65536, aChan (.ceOut 4 0) (.ceIn 0 0)), (65537, aChan (.ceOut 0 1) (.ceIn 4 0))]
    ce := s.ce.map fun e => (e.1, { e.2 with ins := e.2.ins.set 0 { ch := some 65536 }, outs := e.2.outs.set 1 { ch := some 65537 } }) }
def tending (n : Nat) : State := { endCe (fun f => { f with tend := true }) with launches := [(1, { loadedLaunch with counter := n })] }
def waitSetCe : State := endCe fun f => { f with waitSet := true, wait := .cycles 3 }
def psetting : State := endCe fun f => { f with psets := [(5, 1, true)] }
def ended (s : State) : Bool :=
  let c := s.getCe 0
  c.fir.active && (lget {} c.binds c.fir.bind).state == .firing && decide (c.fir.block.words.length ≤ c.fir.idx) && c.fir.park.isEmpty &&
    c.binds.all fun x => !x.bound || (s.filled (c.inCh x.trigger)).isEmpty

theorem witness_BlockFirings_ends :
    let adv := advancing
    (∀ s ∈ [endCe id, tending 1, tending 2, waitSetCe, psetting, adv], ended s = true) ∧
    ((endCe id).getCe 0).fir.waitSet = false ∧ (waitSetCe.getCe 0).fir.wait = .cycles 3 ∧ ((endCe id).getCe 0).fir.advMoves = [] ∧
    ((endCe id).getCe 0).fir.padvMoves = [] ∧ ((endCe id).getCe 0).fir.psets = [] ∧ ((tending 1).getCe 0).fir.tend = true ∧
    (∀ n ∈ [1, 2], (tfind (tending n).launches 1).map (·.counter) = some n) ∧ (tending 2).stopping 1 = false ∧
    (tfind (tending 2).launches 1).map (·.state) = some .resident ∧ (psetting.getCe 0).fir.psets = [(5, 1, true)] ∧ (adv.getCe 0).fir.advMoves = [(0, 2)] ∧
    (adv.getCe 0).fir.padvMoves = [(1, 1)] ∧ (adv.getCe 0).inCh 0 = some 65536 ∧ (adv.getCe 0).outCh 1 = some 65537 ∧
    (tfind adv.chans 65536).isSome = true ∧ (tfind adv.chans 65537).isSome = true := by decide +kernel

theorem witness_BlockFirings_predicates :
    let s (page : Nat) : State := { psetting with parts := [(0, { psetting.getPart 0 with predLate := [(64 * page, [(5, 0, false)])] })] }
    let evaluated : State := { psetting with parts := [(0, { psetting.getPart 0 with evalAt := some 0 })] }
    let join : State := endCe fun f => { f with waitSet := true, wait := .join (handle 1 1) 3 }
    ended psetting = true ∧ (psetting.getPart 0).predLate = [] ∧ (∀ page ∈ [0, 1], ended (s page) = true ∧ ((s page).getCe 0).fir.psets ≠ []) ∧
    0 * 64 ≤ cePage 0 * 64 + ceTile (ceElem 0) * 4 + ceSlot 0 ∧ ¬ 1 * 64 ≤ cePage 0 * 64 + ceTile (ceElem 0) * 4 + ceSlot 0 ∧
    ended join = true ∧ join.joinStatus (handle 1 1) = none ∧ (psetting.getPart 0).evalAt = none ∧ (∀ page ∈ [0, 1], ((s page).getPart 0).evalAt = none) ∧
    (evaluated.getCe 0).fir.active = true ∧ ended evaluated = true ∧ (evaluated.getCe 0).fir.psets ≠ [] ∧
    (evaluated.getPart 0).evalAt = some evaluated.cycle.toNat := by decide +kernel

theorem witness_WaitsEnd :
    let p : Word := 0x6000_0001_0000_0000
    let copy (st : CopyState) (n : Nat) : State := { asleep (.copy p n 5) with mts := (copying 0 0x1FFFF8).mts.map fun e => (e.1, { e.2 with copies := e.2.copies.map fun x => { x with state := st } }) }
    let graph (n : Nat) : State := { asleep (.join (handle 2 7) 3) with graphs := [(7, ⟨0, n, 1, 0, 0, none⟩)] }
    let launch (n : Nat) : State := { asleep (.join (handle 1 1) 3) with launches := [(1, { loadedLaunch with counter := n })] }
    let tb (n : Nat) (seen : Bool) : State := { asleep (.tbuf 5 2 3 seen) with parts := [(0, { (home 0 {}).getPart 0 with tbufs := [(5, n)] })] }
    let coll (v : Option Nat) : State := { asleep (.coll (collHandle 0 0) 3) with parts := (collOf [] [{ aMember (collDesc 2 128) with status := v }] []).parts }
    let b (s : State) := lget {} (s.getCe 0).binds 0
    (∀ s ∈ [asleep (.cycles 0), asleep (.cycles 1), copy .pending 4, copy .pending 0, copy .complete 4, graph 0, graph 1, launch 0, launch 1, tb 2 false, tb 1 true, tb 1 false, coll none,
      coll (some 0)], (b s).bound = true ∧ (b s).state = .sleeping) ∧
    (copy .pending 0).findCopy 0 p ≠ none ∧ (copy .pending 0).copyOver 0 p = false ∧ (copy .complete 4).copyOver 0 p = true ∧ (copy .pending 0).isSuper 1 = false ∧
    handleKind (handle 2 7) = 2 ∧ handleId (handle 2 7) = 7 ∧ (tfind (graph 0).graphs 7).map (·.counter) = some 0 ∧ (tfind (graph 1).graphs 7).map (·.counter) = some 1 ∧
    handleKind (handle 1 1) = 1 ∧ handleId (handle 1 1) = 1 ∧ (tfind (launch 0).launches 1).map (·.state) = some .resident ∧ (tb 2 false).tbuf 0 5 = 2 ∧ (tb 1 false).tbuf 0 5 = 1 ∧
    ((coll none).memberOf 0 (collHandle 0 0)).map (·.status) = some none ∧ ((coll (some 0)).memberOf 0 (collHandle 0 0)).map (·.status) = some (some 0) := by decide +kernel

/-- `home` with page 0 changed, and context 1 of its slots with a launch 2 whose element 0 may run. -/
def pageState (g : Page → Page) (fires : Bool) : State :=
  let s := home 0 {}
  { s with
    pages := [(0, g { s.getPage 0 with used := 512 })]
    launches := [(1, loadedLaunch), (2, { loadedLaunch with slots := [1] })]
    ce := s.ce ++ if fires then [(1, { s.getCe 0 with launch := 2 })] else [] }

theorem witness_TurnsAndCycles :
    let ran := pageState id
    let two := pageState (fun g => { g with resident := [1, 2, 0, 0] })
    let gone := pageState (fun g => { g with resident := [0, 2, 0, 0] })
    let empty := pageState (fun g => { g with resident := [0, 0, 0, 0] })
    let drain (n : Nat) := pageState (fun g => { g with drain := true, drainFrom := n }) false
    ((home 0 {}).getPage 0).used < ((home 0 {}).getPage 0).turn ∧ ((home 0 {}).getPage 0).idle < 8 ∧ ((home 0 {}).getPage 0).yielded = false ∧ (home 0 {}).slotLive 0 0 = true ∧
    (∀ s ∈ [ran true, two true, gone false, empty false], (s.getPage 0).drain = false ∧ (s.getPage 0).turn ≤ (s.getPage 0).used) ∧
    (two true).slotFireable 0 1 = true ∧ (∀ c ∈ [1, 2, 3], (ran false).slotFireable 0 c = false) ∧ (ran false).slotLive 0 0 = true ∧
    (∀ c ∈ [1, 2, 3], (gone false).slotFireable 0 c = false) ∧ (gone false).slotLive 0 0 = false ∧ (gone false).slotLive 0 1 = true ∧
    (∀ c ∈ [0, 1, 2, 3], (empty false).slotLive 0 c = false) ∧ (drain 0).slotRuns 0 0 = true ∧ (drain 1).slotRuns 0 1 = false ∧ ((drain 1).getPage 0).drain = true := by
  decide +kernel

/-- `home` whose job's only entry is that of launch 1, in the queue of level 0 at `DRV_QBASE`. -/
def queueing (st : LaunchState) : State :=
  let s := ranged (home 0 {})
  { s with launches := [(1, { loadedLaunch with state := st })]
           parts := [(0, { s.getPart 0 with job := { running := true }, queues := (List.replicate 4 []).set 0 [1]
                                            regs := { (s.getPart 0).regs with drvQbase := 0x8000 } })] }

theorem witness_TurnsAndCycles_queues : ∀ st ∈ [LaunchState.queued, .saved],
    let s := queueing st
    let p := s.getPart 0
    let l := s.launchD 1
    s.phaseNow 0 = none ∧ s.parts = [(0, p)] ∧ p.job.running = true ∧ p.queues = (List.replicate 4 []).set 0 [1] ∧ s.launches = [(1, l)] ∧ l.level < 4 ∧
    l.blevel < 4 ∧ l.image < 2 ^ 56 ∧ l.graph < 2 ^ 32 ∧ l.saveIx < 2 ^ 32 ∧ s.chans = [] ∧
    (match s.translate 0 (p.regs.drvQbase.toNat + 0 * 10240 * 32) with | .ok r => r == (0x8000, true) | .error _ => false) = true := by decide +kernel

theorem witness_TurnsAndCycles_cycle :
    let s := chanState id
    let full := chanState fun c => { c with ring := [t9, t9, t9, t9], spill := true, quota := 1, segs := 1, src := .op 3 0 }
    let blocked : State := { full with ops := [(3, { instr := some (.fork (fC 0)), launch := 1, out0 := [65536] })] }
    (∀ p ∈ s.parts, s.phaseNow p.1 = none) ∧ (∀ p ∈ s.parts, p.2.job.running = false) ∧ (∀ p ∈ s.parts, p.2.job.again ≠ some s.cycle.toNat) ∧ (tfind s.ce 0).isSome = true ∧ (tfind s.mts 0).isSome = true ∧ (tfind s.pages 0).isSome = true ∧ (tfind s.launches 1).isSome = true ∧
    s.chans = [(65536, s.chanD 65536)] ∧ s.blockedOn 65536 = false ∧ (tfind blocked.ops 3).isSome = true ∧ (s.getPage 0).drain = false ∧ s.slotLive 0 0 = true := by decide +kernel

theorem witness_QueuesAge :
    let q := queued body1 .queued id
    let l (n : Nat) : Launch := { loadedLaunch with state := .queued, waited := n }
    let s : State := { q with launches := [(2, l 9), (3, l 0x100000), (4, l 3), (5, l 0x100000)], parts := [(0, { q.getPart 0 with queues := [[2], [3], [4], [5]] })] }
    let t (own up : Bool) (n : Nat) : State := { q with parts := [(0, { q.getPart 0 with traps := List.replicate n (own, 0), trapWait := [(own, 7), (false, 8)], job := { superTrapq := up } })] }
    let chan : State := { t false true 0 with chans := [(9, aChan (.trapq 0) (.ceIn 4 0))] }
    (s.getPart 0).regs.drvAge.toNat = 0x100000 ∧ (s.getPart 0).queues = [[2], [3], [4], [5]] ∧ [2, 3, 4, 5].Nodup ∧
    (∀ id ∈ [2, 3, 4, 5], (tfind s.launches id).isSome = true) ∧ ((queued body1 .queued fun p => { p with regs := { p.regs with drvAge := 0 } }).getPart 0).regs.drvAge = 0 ∧
    ((t true false 16).getPart 0).traps.countP (fun e => e.1 == true) = 16 ∧ ((t true false 16).getPart 0).traps.countP (fun e => e.1 == false) < 512 ∧
    ((t true false 16).getPart 0).trapWait = [(true, 7)] ++ (false, 8) :: [] ∧ ((t false false 0).getPart 0).trapWait = (false, 7) :: [(false, 8)] ∧
    (t false true 0).superUp 0 = true ∧ (t false true 0).trapChan 0 = none ∧ chan.superUp 0 = true ∧ chan.trapChan 0 = some 9 ∧ (t false false 0).superUp 0 = false ∧
    ((home 0 {}).getPart 0).trapWait = [] := by decide +kernel

/-- `queued` with no room in the spill area; with no group entry for its convoy; and with one, the ingress bound or not. -/
def poor : State := queued body1 .queued fun p => { p with regs := { p.regs with panFree := 0 } }
def bindsCvy (binder : Nat) : State :=
  let s := queued bodyCvy .queued fun p => { p with regs := { p.regs with cvyGent := [(0, 0x30001)], cvyPool := 2 ^ 27 + 2 ^ 9 } }
  { s with ingress := [(0, { binder := binder })] }
/-- Launch 2 is the first eligible launch, at level 1. -/
def chosen (s : State) : Bool :=
  !(s.getPart 0).held && (s.getPart 0).queues.getD 1 [] == [2] && s.eligible 2 && (s.getPart 0).queues.getD 0 [] == [] && (s.launchD 2).part == 0 &&
    (s.imageOf (s.launchD 2)).isSome

theorem witness_Placement :
    let s := queued body1 .queued id
    let saved := queued body1 .saved id
    let no := queued bodyCvy .queued id
    (∀ x ∈ [s, poor, saved, no, bindsCvy 0, bindsCvy 9], chosen x = true) ∧ ((home 0 {}).getPart 0).queues = [[], [], [], []] ∧ (s.launchD 2).state = .queued ∧
    s.imageOf (s.launchD 2) = some body1 ∧ (poor.getPart 0).regs.panFree < 1 * Config.saveAreaKib + imgQuota body1 ∧ (saved.launchD 2).state = .saved ∧
    poor.fit 0 2 body1 [] = none ∧ saved.fit 0 2 body1 [] = some ([0], [1]) ∧ s.fit 0 2 body1 [] = some ([0], [1]) ∧ s.noIngress 0 body1 [0] = none ∧
    saved.noIngress 0 body1 [0] = none ∧ (bindsCvy 0).fit 0 2 bodyCvy [] = some ([0], [1]) ∧ (bindsCvy 0).noIngress 0 bodyCvy [0] = none ∧
    (bindsCvy 9).fit 0 2 bodyCvy [] = none ∧ no.fit 0 2 bodyCvy [] = some ([0], [1]) ∧ no.noIngress 0 bodyCvy [0] = some 0 ∧
    no.isSuper 2 = false ∧ s.chans = [] ∧ (s.phys 0 0).isSome = true ∧ (s.getPart 0).job.preload = none ∧ (s.getPart 0).job.preloadSlots = [] := by decide +kernel

/-- Launch 3 stands before launch 2 in the queue of level 1, and one of the two is barred. -/
def barring (ids : List Nat) : State :=
  let s := queued body1 .queued fun p => { p with barred := ids }
  { s with launches := s.launches ++ [(3, s.launchD 2)], parts := s.parts.map fun e => (e.1, { e.2 with queues := [[], [3, 2], [], []] }) }

theorem witness_Placement_barred :
    2 ∈ ((barring [2]).getPart 0).barred ∧ (∀ x ∈ [3], (barring [2]).eligible x = true → x ∉ ((barring [2]).getPart 0).barred) ∧
    (barring [2]).firstEligible 0 = some (1, 2) ∧ (∀ x ∈ [3, 2], x ∉ ((barring []).getPart 0).barred) ∧ (barring []).firstEligible 0 = some (1, 3) ∧
    (barring [2]).eligible 2 = true ∧ (barring [2]).eligible 3 = true := by decide +kernel

/-- Launch 2 finds no place: launches 3 to 5 hold the other slots of page 0, at levels of their own. -/
def crowded (lvs : List Nat) (b : ImageBody) (g : Partition → Partition) : State :=
  let s := queued b .queued g
  { s with
    launches := s.launches ++ (List.range 3).map fun i => (i + 3, { loadedLaunch with slots := [i + 1], level := lget 0 lvs i, placedAt := i })
    pages := [(0, { s.getPage 0 with resident := [1, 3, 4, 5] })] }

/-- Launch 2 wants two pages: page 0 is logical page 0, page 5 is logical page 1, and page 1 is spare. -/
def apart : State :=
  queued body2 .queued fun p => { p with pages := [0, 1, 5], nl := 2, map := [(0, ⟨true, false, 0⟩), (1, ⟨true, false, 5⟩)], regs := { p.regs with drvCompact := true } }

def compacting : State := crowded [2, 3, 3] body1 fun p => { p with moves := [⟨0, 0, 1, none, 1, .compact, []⟩] }
def preempting : State := { crowded [2, 3, 3] body1 id with stops := [⟨3, .save, 1, [1], true, 0⟩] }
def stuck (s : State) : Bool :=
  !(s.getPart 0).held && s.firstEligible 0 == some (1, 2) && s.fit 0 2 body1 [] == none && s.imageOf (s.launchD 2) == some body1 &&
    (s.getPart 0).barred == []

theorem witness_Preemption :
    let s := crowded [2, 3, 3] body1 id
    let low := crowded [0, 1, 1] body1 id
    (∀ x ∈ [s, low, compacting, preempting], stuck x = true) ∧ (s.getPart 0).moves = [] ∧ (s.getPart 0).regs.drvCompact = false ∧
    (compacting.getPart 0).moves.map (·.asker) = [.compact] ∧ s.victims 0 1 = [5, 4, 3] ∧ (s.fit 0 2 body1 [5]).isSome = true ∧ low.victims 0 1 = [] ∧
    (s.launches.map (·.1)).Nodup ∧ s.stops = [] ∧ (preempting.launchD 3).part = 0 := by decide +kernel

theorem witness_Preemption_swap :
    apart.firstEligible 0 = some (1, 2) ∧ apart.fit 0 2 body2 [] = none ∧ apart.imageOf (apart.launchD 2) = some body2 ∧ (apart.getPart 0).regs.drvCompact = true ∧
    apart.nextSwap 0 body2 = some ⟨1, 5, 1, none, 1, .compact, []⟩ ∧ (apart.getPart 0).moves = [] := by decide +kernel

theorem witness_ResumesAndLoads :
    let c : CeCtx := {}
    let sv : SavedPage := ⟨(0, 0), [(0, c)], [], [], [], [], [], [], [], [], [], [], none, []⟩
    let saved (st : LaunchState) (slots : List Nat) : State := { queued body1 .saved (fun p => { p with queues := [[], [], [], []] }) with
      launches := [(1, loadedLaunch), (2, { loadedLaunch with image := 64, state := st, save := [sv] })], pages := [(0, { (home 0 {}).getPage 0 with resident := slots })] }
    let s := saved .saved [1, 0, 0, 0]
    let full := saved .saved [1, 1, 1, 1]
    (saved .resident [1, 0, 0, 0]).launches.map (·.2.state) = [.resident, .resident] ∧
    (∀ x ∈ [s, full], (x.launchD 2).state = .saved ∧ (x.getPart 0).held = false ∧ (x.getPart 0).moves = [] ∧ (x.getPart 0).queues = [[], [], [], []] ∧
      x.imageOf (x.launchD 2) = some body1) ∧
    full.fit 0 2 body1 [] = none ∧ s.fit 0 2 body1 [] = some ([0], [1]) ∧ (s.launchD 2).parkedOn = [] ∧ s.noIngress 0 body1 [0] = none ∧ (s.launchD 2).pages = [0] ∧ (s.launchD 2).save.length = 1 ∧
    (sv.ces.map (·.1)).Nodup ∧ c.pend = [] ∧ s.saveLost 2 = none := by decide +kernel

/-- A saved launch whose save area lies in mapped memory; its first sector has a lasting error. -/
def unreadable : State :=
  let c : CeCtx := {}
  let sv : SavedPage := ⟨(0, 0), [(0, c)], [], [], [], [], [], [], [], [], [], [], none, []⟩
  let s : State := ranged (queued body1 .saved id)
  { s with launches := [(1, loadedLaunch), (2, { loadedLaunch with image := 64, state := .saved, save := [sv] })]
           pages := [(0, { (home 0 {}).getPage 0 with resident := [1, 0, 0, 0] })]
           parts := s.parts.map fun e => (e.1, { e.2 with queues := [[], [], [], []], regs := { e.2.regs with panBase := 0, panSize := Config.saveAreaKib } })
           sectorErrs := [(0, .lasting)] }

theorem witness_ResumesAndLoads_unreadable :
    let s := unreadable
    (s.launchD 2).state = .saved ∧ (s.getPart 0).held = false ∧ (s.getPart 0).moves = [] ∧ (s.getPart 0).queues = [[], [], [], []] ∧ (s.launchD 2).part = 0 ∧
    s.imageOf (s.launchD 2) = some body1 ∧ s.fit 0 2 body1 [] = some ([0], [1]) ∧ s.noIngress 0 body1 [0] = none ∧
    s.saveLost 2 = some (0, 1) ∧ s.isSuper 2 = false := by decide +kernel

/-- A wanted image at an address, whose header in device memory has NPAGES and the length of its file; one byte a field. -/
def loading (addr : Nat) (pages length chans : Byte) (images : Tab Image) : State :=
  let put (a : Nat) (b : Byte) : Memory := if b = 0 then [] else [(a, b)]
  let s := home 0 {}
  ranged { s with device := put addr pages ++ put (addr + 6) chans ++ put (addr + 12) length ++ (if length = 0 then [(addr + 13, 1)] else [])
                  parts := [(0, { s.getPart 0 with wanted := [addr], images := images })] }

theorem witness_ResumesAndLoads_images :
    let s := loading 0 1 128 0 []
    let bad := loading 0 0 128 0 []
    let cut := loading (65536 - 128) 1 0 0 []
    let out := loading 65536 0 128 0 []
    let one := loading 0 1 128 1 []
    let h (s : State) (a : Nat) : Option Nat := s.vaNat 0 a 128
    let noDepth : ImageBody := ⟨1, [], [], [⟨.mtOut 0 0 0, .mtIn 0 0 0, 0, some (1, 1), 0, false, 0⟩], [], []⟩
    (s.getPart 0).wanted = [0] ∧ ((home 0 {}).getPart 0).wanted = [] ∧ h s 0 = some (1 + 128 * 2 ^ 96) ∧ s.vaBytes 0 128 0 = some [] ∧
    natBits (1 + 128 * 2 ^ 96) 95 64 = 0 ∧ natBits (1 + 128 * 2 ^ 96) 127 96 = 128 ∧ natBits (1 + 128 * 2 ^ 96) 9 0 = 1 ∧ h bad 0 = some (128 * 2 ^ 96) ∧
    h out 65536 = none ∧ (h cut (65536 - 128)).isSome = true ∧ cut.vaBytes 0 65536 128 = none ∧ imgEnds body1 = 0 ∧ bodyOk body1 = true ∧
    refusalOf noDepth = some (1, 0) ∧ body2.pages ≠ 1 ∧ (h one 0).map (fun h => natBits h 63 48) = some 1 ∧ noDepth.chans.length = 1 ∧ noDepth.pages = 1 ∧ bodyOk noDepth = false := by decide +kernel

/-- A full table of images, none of them held by a launch. -/
def fullTable : Tab Image := (List.range 1024).map fun n => (128 * (n + 1), ⟨none, n, none⟩)

theorem loading_images (im : Tab Image) : ((loading 0 1 128 0 im).getPart 0).images = im := rfl
theorem loading_launches (im : Tab Image) : (loading 0 1 128 0 im).launches = [(1, loadedLaunch)] := rfl
theorem fullTable_length : fullTable.length = 1024 := by rw [fullTable, List.length_map, List.length_range]

theorem fullTable_free (n : Nat) : (loading 0 1 128 0 fullTable).imageHeld 0 (128 * (n + 1)) = false := by
  unfold State.imageHeld
  rw [loading_launches]
  simp [loadedLaunch]

theorem witness_ResumesAndLoads_full :
    1024 ≤ ((loading 0 1 128 0 fullTable).getPart 0).images.length ∧ ∃ v, (loading 0 1 128 0 fullTable).imageVictim 0 = some v := by
  refine ⟨by rw [loading_images, fullTable_length], ?_⟩
  have hf : fullTable.filter (fun e => !(loading 0 1 128 0 fullTable).imageHeld 0 e.1) = fullTable := by
    rw [List.filter_eq_self]
    intro e he
    rw [fullTable] at he
    obtain ⟨n, -, rfl⟩ := List.mem_map.1 he
    rw [fullTable_free]; rfl
  unfold State.imageVictim
  rw [loading_images, hf]
  cases hc : fullTable with
  | nil => exact absurd (hc ▸ fullTable_length) (by decide)
  | cons e es => exact ⟨_, rfl⟩

/-- Partition 0 runs a job in phase instance 7, of entry 0 of the phase table of n entries at 1024. -/
def phasing (n counter : Nat) (slots : List Nat) (entries : Memory) : State :=
  let s := home 0 {}
  ranged { s with
    device := entries
    phases := [(7, ⟨0, 0, counter, 1, 0, 0, false, none⟩)]
    pages := [(0, { s.getPage 0 with resident := slots })]
    parts := [(0, { s.getPart 0 with job := { running := true, phTab := 1024, nPhase := n, phase := some 7 } })] }
/-- A template of one launch record at 512; entry 0 with its LIKELY, and its clause 0, which chooses entry 1, valid or not;
entry 1 with its DEFAULT and that template. -/
def phaseTable (likely valid default_ : Byte) : Memory :=
  [(512, 1), (1028, 0xFF), (1029, likely), (1060, 1)] ++ (if valid = 0 then [] else [(1063, valid)]) ++ [(1156, default_), (1157, 0xFF), (1217, 2)]

theorem witness_PhasesFollow :
    let s := phasing 2 0 [1, 0, 0, 0] (phaseTable 1 0x80 0xFF)
    let runs := phasing 2 1 [1, 0, 0, 0] (phaseTable 1 0x80 0xFF)
    let miss := phasing 2 0 [1, 0, 0, 0] (phaseTable 0xFF 0 0xFF)
    let bad := phasing 2 0 [1, 0, 0, 0] (phaseTable 1 0x80 5)
    let full := phasing 2 0 [1, 1, 1, 1] (phaseTable 1 0x80 0xFF)
    let v := (s.phaseEntry 0 0).getD 0
    let w := (s.phaseEntry 0 1).getD 0
    (s.phaseNow 0).map (fun x => (x.1, x.2.counter, x.2.entry)) = some (7, 0, 0) ∧ (s.getPart 0).job.toStart = [] ∧ (home 0 {}).phaseNow 0 = none ∧
    (runs.phaseNow 0).map (fun x => x.2.counter) = some 1 ∧ (phasing 1 0 [1, 0, 0, 0] (phaseTable 1 0x80 0xFF)).phaseEntry 0 0 = none ∧
    (s.phaseEntry 0 0).isSome = true ∧ clValid (phClause v 0) = true ∧ (s.getPart 0).pred.toNat &&& clMask (phClause v 0) = clValue (phClause v 0) ∧
    clNext (phClause v 0) = 1 ∧ phDefault v = 0xFF ∧ (s.phaseEntry 0 1).isSome = true ∧ (bad.phaseEntry 0 0).isSome = true ∧ bad.phaseEntry 0 1 = none ∧
    (∀ i, i < 4 → clValid (phClause ((miss.phaseEntry 0 0).getD 0) i) = false) ∧ phLikely ((miss.phaseEntry 0 0).getD 0) = 0xFF ∧
    (s.getPart 0).job.preload = none ∧ phLikely v = 1 ∧ (((List.range 8).map (phTemplate w)).filter (· != 0)).head? = some 512 ∧
    ((s.template 0 512).head?.map fun x => x.map (·.image)) = some (some 0) ∧ ((tfind (s.getPart 0).images 0).bind (·.body)).isSome = true ∧
    s.growth 0 body1 [] = some [0] ∧ full.growth 0 body1 [] = none ∧ (s.phaseNow 0).map (fun x => x.2.startAt) = some none ∧
    (let started : State := { s with phases := [(7, ⟨0, 0, 0, 1, 0, 0, false, some 0⟩)] }
     (started.phaseNow 0).map (fun x => (x.2.counter, x.2.startAt)) = some (0, some started.cycle.toNat)) := by decide +kernel

/-- A record that waits for a place in the trap queue and names operator 0. -/
def opWaits : State :=
  let s := { stopping .kill 1 [unitNo 2 0] false id with ops := [(0, { launch := 1 })] }
  { s with parts := [(0, { s.getPart 0 with trapWait := [(false, BitVec.ofNat 512 ((s.opUref 0).toNat * 2 ^ 64))] })] }
def held16 : GatherReq := ⟨0, 0, .gather, .z32, false, [], [], 0, [], [], 0, 0, none, 0, 0⟩
def aBlock (n : Nat) (g : CeCtx → CeCtx) : State := stopping .save 1 (unitNo 1 0 :: List.replicate n (unitNo 2 0)) false g
def stopped (a : StopAction) (phase : Nat) (requeue : Bool) : State := stopping a phase [unitNo 1 0] requeue fun c => { c with fir := {} }

theorem witness_StopsComplete :
    let u := unitNo 1 0
    let busy := aBlock 0 fun c => { c with fir := {}, pend := [waiting] }
    let room : State := { aBlock 1 fun c => { c with fir := { c.fir with hold := .gather }, pend := [{ waiting with kind := .gather 0 held16 }] } with
      mts := [(0, { awakeMt with gatherIn := [held16], gather := List.replicate 16 (.accepted held16) ++ List.replicate 48 .free })] }
    let one := aBlock 1 fun c => { c with fir := {} }
    let two : State := { stopped .kill 1 false with streams := [(3, aStream .readTensor 1)] }
    (home 0 {}).stops.find? (fun x => x.launch == 1) = none ∧ unitNo 2 9 ∉ [u] ∧ (opWaits.stops.find? (fun x => x.launch == 1)).map (·.waiting) = some [unitNo 2 0] ∧
    opWaits.unitStill 1 (unitNo 2 0) = false ∧ unitKind (unitNo 2 0) = 2 ∧ unitKind u = 1 ∧ busy.unitStill 1 u = false ∧ busy.blockRuns 0 = false ∧
    room.blockRuns 0 = true ∧ room.heldForRoom 0 = true ∧ (room.getCe 0).binds.length = 4 ∧ (room.getCe 0).fir.bind < 4 ∧
    (room.stops.map (·.waiting)) = [[u, unitNo 2 0]] ∧ one.unitStill 1 u = true ∧ (one.stops.map (·.waiting)) = [[u, unitNo 2 0]] ∧
    two.unitStill 1 u = true ∧ two.phase2 1 ≠ [] ∧ (two.stops.map (·.phase)) = [1] ∧
    (∀ s ∈ [stopped .save 1 true, stopped .kill 1 false, stopped .retire 2 false], s.unitStill 1 u = true ∧ s.phase2 1 = [] ∧
      tfind s.launches 1 = some loadedLaunch) ∧ (stopped .save 1 true).unitRest 1 u = stopped .save 1 true ∧ loadedLaunch.resident = true ∧
    (∀ c ∈ loadedLaunch.slots, c < 4) ∧ loadedLaunch.level < ((home 0 {}).getPart 0).queues.length := by decide +kernel

theorem witness_StopsComplete_units :
    let copy : State := { copying 0 0x1FFFF8 with stops := [⟨1, .save, 1, [unitNo 3 0], false, 0⟩] }
    let mn : State := { node {} [] [aFrag 0 false] {} with stops := [⟨1, .save, 1, [unitNo 4 0], false, 0⟩] }
    let ring : State := { ringState (fun c => { c with refill := [t9] }) with stops := [⟨1, .save, 1, [unitNo 6 65536], false, 0⟩] }
    let mate : Launch := { loadedLaunch with state := .saved, victimOf := 7, firstAt := 1 }
    let victim : State := { stopping .save 1 [unitNo 1 0] true fun c => { c with fir := {} } with
      launches := [(1, { loadedLaunch with firstAt := 2 }), (2, mate)]
      stops := [⟨1, .save, 1, [unitNo 1 0], true, 7⟩] }
    let fault : State := { stopping .kill 1 [unitNo 5 3] false (fun c => { c with fir := {} }) with
      streams := [(3, { aStream .readTensor 1 with faulted := some 0x11 })] }
    (copy.unitCopy 1 0).isSome = true ∧ unitKind (unitNo 3 0) = 3 ∧ copy.unitStill 1 (unitNo 3 0) = true ∧ (tfind mn.mns 0).isSome = true ∧
    unitKind (unitNo 4 0) = 4 ∧ mn.feedAll 0 = mn ∧ (mn.getMn 0).ctxs[0]?.isSome = true ∧ (tfind ring.chans 65536).isSome = true ∧ unitKind (unitNo 6 65536) = 6 ∧
    victim.unitStill 1 (unitNo 1 0) = true ∧ victim.phase2 1 = [] ∧ mate.state = .saved ∧ mate.victimOf = 7 ∧ mate.firstAt < 2 ∧
    fault.faultStands 1 = true ∧ fault.unitStill 1 (unitNo 5 3) = true := by decide +kernel

/-- A move of logical page 0 from page 0, at a step; and a page of a state mapped out. -/
def aMove (dst step : Nat) (swap : Option Nat) (by_ : MoveBy) : Move := ⟨0, 0, dst, swap, step, by_, [1]⟩
def lose (n : Nat) (s : State) : State := { s with pages := tput s.pages n { (s.getPage n) with mapout := true } }

theorem witness_PagesMove :
    let go := moving (aMove 1 1 none .thermal) id
    let swap := moving (aMove 1 1 (some 1) .compact) id
    let held := moving (aMove 1 1 none .thermal) fun s => { s with stops := [⟨1, .save, 1, [unitNo 1 0], false, 0⟩] }
    let alone := moving (aMove 0 1 none .mapout) fun s => lose 0 { s with parts := s.parts.map fun e => (e.1, { e.2 with pages := [0] }) }
    let lost := moving (aMove 1 1 none .mapout) (lose 0)
    let back := moving (aMove 1 1 none .thermal) (lose 1)
    let end_ := moving (aMove 1 2 none .host) id
    let again := moving (aMove 1 2 none .thermal) (lose 1)
    (∀ s ∈ [go, swap, alone, lost, back], ((s.getPart 0).moves.find? fun m => m.step == 1 && !(m.launches.any s.stopping)).isSome = true) ∧
    (∀ s ∈ [end_, again], ((s.getPart 0).moves.find? fun m => m.step == 2).isSome = true) ∧ held.stopping 1 = true ∧
    (∀ x ∈ (go.getPart 0).moves, x.step ≠ 2) ∧ (go.getPage 0).mapout = false ∧ (go.getPage 1).mapout = false ∧ (lost.getPage 0).mapout = true ∧
    (lost.getPage 1).mapout = false ∧ (alone.getPage 0).mapout = true ∧ alone.sparePages 0 = [] ∧ (back.getPage 0).mapout = false ∧
    (back.getPage 1).mapout = true ∧ (again.getPage 1).mapout = true ∧ (end_.getPage 1).mapout = false ∧ (aMove 1 2 none .host).swap ≠ some 0 ∧
    (aMove 1 1 (some 1) .compact).swap.isSome = true ∧ MemoryOk go := by
  refine ⟨?_, ?_, ?_, ?_, ?_, ?_, ?_, ?_, ?_, ?_, ?_, ?_, ?_, ?_, ?_, ?_, ⟨rfl, rfl, rfl, rfl, rfl⟩⟩ <;> decide +kernel

theorem witness_PagesMove_swap :
    let half := moving (aMove 1 1 (some 1) .compact) (lose 1)
    half.stopping 1 = false ∧ ((half.getPart 0).moves.find? fun m => m.step == 1 && !(m.launches.any half.stopping)).isSome = true ∧
    (half.getPage 0).mapout = false ∧ (half.getPage 1).mapout = true ∧ (aMove 1 1 (some 1) .compact).swap = some 1 := by decide +kernel

theorem witness_PagesMove_idle : ∀ x ∈ ((moving (aMove 1 2 none .host) id).getPart 0).moves, x.step ≠ 1 := by decide +kernel

/-- `home` whose partition also owns page 1, which is spare, with a page's temperature and a move already under way or not. -/
def spare (ms : List Move) (g : Page → Page) : State :=
  let s := home 0 {}
  { s with
    parts := [(0, { s.getPart 0 with pages := [0, 1], moves := ms })]
    pages := [(0, g (s.getPage 0)), (1, { owner := some 0 })] }

/-- `spare` with page 1 assigned in this very cycle. -/
def spareAt : State :=
  let s := spare [] id
  { s with pages := [(0, s.getPage 0), (1, { owner := some 0, givenAt := some 0 })] }

theorem witness_PagesLost :
    let s := spare [] id
    let out := spare [] fun g => { g with mapout := true }
    let free := spare [] fun g => { g with owner := none }
    let move := spare [⟨0, 0, 1, none, 1, .thermal, []⟩] id
    let one := home 0 {}
    let hot (n : BitVec 12) := spare [] fun g => { g with therm := n }
    (out.getPage 0).mapout = true ∧ (free.getPage 0).owner = none ∧ (s.getPage 0).mapout = false ∧ (s.getPage 0).owner = some 0 ∧ s.logical 0 0 = some 0 ∧
    s.logical 0 1 = none ∧ (s.getPage 1).givenAt = none ∧ (s.getPage 1).owner = some 0 ∧ move.movePending 0 0 = true ∧ s.movePending 0 0 = false ∧ s.sparePages 0 = [1] ∧
    one.sparePages 0 = [] ∧ one.logical 0 0 = some 0 ∧ one.movePending 0 0 = false ∧ (s.getPage 0).thermLimit ≠ 0 ∧ (s.getPage 0).thermLimit < 4095 ∧
    (s.getPage 0).thermWait = 0 ∧ tget {} (s.getPart 0).map 0 = ⟨true, false, 0⟩ ∧ (∀ x ∈ s.launchesOn 0, s.stopping x = false) ∧
    s.chooseTarget 0 0 true = some 1 ∧ s.chooseTarget 0 0 false = some 1 ∧ (∀ d ∈ (one.getPart 0).pages, one.targetOk 0 0 d = false) ∧
    (∃ n, ((spare [] fun g => { g with thermAt := some 0 }).getPage 0).thermAt = some n ∧ (spare [] fun g => { g with thermAt := some 0 }).cycle.toNat < n + 4096) ∧
    (s.getPage 0).thermAt = none ∧ ((hot 921).pages.any fun e => decide (920 < e.2.therm.toNat)) = true ∧ ((hot 920).pages.any fun e => decide (920 < e.2.therm.toNat)) = false ∧
    (tfind (hot 921).parts 0).isSome = true ∧
    (let given := spareAt
     (given.getPage 1).mapout = false ∧ (given.getPage 1).owner = some 0 ∧ given.logical 0 1 = none ∧ 1 ∈ (given.getPart 0).pages ∧
     (given.getPage 1).givenAt = some given.cycle.toNat) := by
  refine ⟨?_, ?_, ?_, ?_, ?_, ?_, ?_, ?_, ?_, ?_, ?_, ?_, ?_, ?_, ?_, ?_, ?_, ?_, ?_, ?_, ?_, ?_, ⟨0, ?_⟩, ?_, ?_, ?_, ?_, ?_⟩ <;> decide +kernel

theorem witness_BringUpAndCycles :
    let s := State.reset
    let d (g : Device → Device) : State := { State.reset with dev := g State.reset.dev }
    50 < 51 ∧ 50 ∉ s.dev.functions ∧ 3 ∈ (d fun x => { x with functions := [3] }).dev.functions ∧ s.dev.pcap < 5000 ∧ s.dev.linkReady.getLsbD 0 = false ∧
    (d fun x => { x with linkReady := 1 }).dev.linkReady.getLsbD 0 = true ∧ s.dev.root = false ∧ s.dev.jobSeen = false ∧
    (d fun x => { x with jobSeen := true }).dev.jobSeen = true ∧ s.dev.slewAt ≤ s.cycle.toNat ∧ s.dev.slewAhead ≤ 8 ∧ s.dev.slewBehind ≤ 8 ∧
    8 < (d fun x => { x with slewAhead := 9 }).dev.slewAhead ∧ 8 < (d fun x => { x with slewBehind := 9 }).dev.slewBehind ∧
    s.cycle.toNat < (d fun x => { x with slewAt := 1 }).dev.slewAt := by decide +kernel

/-- A state whose die 0 is ready and whose VF 0 is bound to partition 0. -/
def ready (s : State) : State := { s with dev := { s.dev with dieReady := 1, vfmap := [(0, 0x80)] } }

theorem witness_DeviceRegisters :
    let busy := homeP {} fun p => { p with job := { running := true } }
    0xC02 ∉ [0xC01, 0xC03, 0xC04, 0xCC0] ∧ 16 ≤ 16 ∧ 15 < 16 ∧ (home 0 {}).dev.own.getLsbD 0 ≠ true ∧ (home 0 {}).dev.own.getLsbD 0 = false ∧
    (home 0 {}).dev.psel = 0 ∧ (busy.getPart 0).job.running = true ∧ ((home 0 {}).getPart 0).job.running = false ∧ ((home 0 {}).getPart 0).job.starting = false ∧
    ((home 0 {}).getPart 0).pages.length < 2 ∧ 1 ≤ ((home 0 {}).getPart 0).pages.length := by decide +kernel

theorem witness_PageOwnership :
    let s := ready (spare [] id)
    let one := ready (home 0 {})
    let move := ready (spare [⟨0, 0, 1, none, 1, .thermal, []⟩] id)
    let v : Word := 2 ^ 9
    let r (g : Nat) : Word := BitVec.ofNat 64 (2 ^ 23 + g * 2 ^ 9 + g)
    v.getLsbD 23 = false ∧ (r 1).getLsbD 23 = true ∧ s.dev.own.getLsbD 0 ≠ true ∧ s.dev.own.getLsbD 0 = false ∧ natBits (r 1).toNat 8 0 = 1 ∧ natBits (r 1).toNat 17 9 = 1 ∧
    (one.getPage 1).owner = none ∧ one.dev.dieReady.getLsbD (pageDie 1) = true ∧ (home 0 {}).dev.dieReady.getLsbD (pageDie 0) = false ∧
    (s.getPage 1).owner = some s.dev.psel ∧ 1 ∈ s.sparePages 0 ∧ (move.getPage 1).owner = some 0 ∧ 1 ∉ move.sparePages 0 ∧ move.logical 0 1 = none ∧
    (move.getPage 1).mapout = false ∧ 0 ∉ s.sparePages 0 ∧ s.logical 0 0 = some 0 ∧ move.movePending 0 0 = true ∧ s.movePending 0 0 = false ∧
    tget {} (s.getPart 0).map 0 = ⟨true, false, 0⟩ ∧ (∀ x ∈ s.launchesOn 0, s.stopping x = false) ∧ s.chooseTarget 0 0 false = some 1 ∧
    one.chooseTarget 0 0 false = none ∧ tget {} (one.getPart 0).map 0 = ⟨true, false, 0⟩ := by decide +kernel

theorem witness_PageOwnership_banks :
    let s := ready (spare [] id)
    let off : State := { s with pages := [(0, s.getPage 0)], parts := (home 0 {}).parts }
    let served : State := { s with mts := [(2, awakeMt), (3, awakeMt)] }
    let asked : State := { s with mts := [(2, { awakeMt with banks := awakeMt.banks.set 5 { power := .awake, queue := [⟨0, 0, 0, .read, 0, 0, .ce 0 0⟩] } }), (3, awakeMt)] }
    (off.getPage 1).owner = none ∧ ((off.getMt 2).banks[5]?).map (·.power) = some .gated ∧ 1 ∈ s.sparePages 0 ∧ (s.getPage 1).owner = some s.dev.psel ∧
    (∀ j, j < 16 → (served.getMt 2).bankEmpty j = true ∧ (served.getMt 3).bankEmpty j = true) ∧ (asked.getMt 2).bankEmpty 5 = false ∧
    (asked.getMt 2).bankEmpty 4 = true ∧ ((asked.getMt 2).banks[5]?).map (·.power) = some .awake := by decide +kernel

/-- Partition 0 with its job changed, and with VF 0 bound to it. -/
def jobState (j : Job) : State := ready (homeP {} fun p => { p with job := j })
def gatedMt : State := { ready (home 0 {}) with mts := [] }
def lostMt : State := { ready (home 0 {}) with mts := [(0, { awakeMt with lost := [0] })] }

theorem witness_PartitionWindow :
    let s := ready (home 0 {})
    let run := jobState { running := true }
    let ckpt := jobState { running := true, ckptRun := true }
    let map := ready (ranged (home 0 {}))
    s.dev.vfPart 0 = some 0 ∧ s.dev.vfPart 127 = none ∧ 0x008 ∉ [0x000, 0x0C0, 0x0D8] ∧ (s.getPart 0).nl ≤ natBits (2 ^ 21) 29 21 ∧ 0 < (s.getPart 0).nl ∧
    ((gatedMt.getMt 0).banks.map (·.power)).contains .gated = true ∧ (tget {} (s.getPart 0).map 0).v = true ∧ (s.getPage 0).mapout = false ∧
    (∀ b ∈ (s.getMt 0).banks, b.power = .awake) ∧ s.scratchLost 0 0 8 = false ∧ lostMt.scratchLost 0 0 8 = true ∧ (∀ b ∈ (lostMt.getMt 0).banks, b.power = .awake) ∧
    (s.getPart 0).job.running = false ∧ (run.getPart 0).job.running = true ∧ (run.getPart 0).job.ckptRun = false ∧ (run.getPart 0).job.ending = false ∧
    (ckpt.getPart 0).job.running = true ∧ (ckpt.getPart 0).job.ckptRun = true ∧ (match s.translate 0 0 with | .ok _ => false | .error _ => true) = true ∧
    (match map.translate 0 0 with | .ok x => x == (0, true) | .error _ => false) = true ∧ 0 % 64 + [(1 : Byte)].length ≤ 64 ∧ 64 < 60 % 64 + 8 ∧ Memory.wf map.device = true ∧
    (map.bar2Read 0 0 1).length = 1 ∧ (s.bar2Read 0 0 1).length = 1 ∧ map.xareaOf 0 = [] ∧ map.xareaOf (2 ^ 20) = [0] ∧ (map.getPart 0).xareaLog2 ≠ 0 := by
  decide +kernel

/-- Partition 0 is about to start the job whose record is at 0 in device memory. -/
def starting (j : Job) (dev : Memory) : State :=
  let s := ready (homeP {} fun p => { p with job := j })
  ranged { s with device := dev }
/-- A record of one phase, and one more byte of it. -/
def jobBytes (a : Nat) (b : Byte) (more : Memory) : Memory := [(1, 1)] ++ more ++ [(a, b)]
/-- What the start of a job reads: the record and its group table. -/
def jobReads (s : State) : Option (JobRec × Option (Tab GroupEntry)) :=
  ((s.vaNat 0 0 128).bind jobRec).map fun r => (r, match s.groupTable 0 r.cgtab with | .ok g => some g | .error _ => none)

theorem witness_JobsStart :
    let s := starting {} [(1, 1)]
    let far := starting { recAddr := 2 ^ 17 } [(1, 1)]
    let sup := starting {} (jobBytes 25 4 [])
    let lost := starting {} (jobBytes 26 2 [])
    let groups := starting {} (jobBytes 34 2 [])
    let init := starting {} (jobBytes 48 1 [(41, 4)])
    let init2 := starting {} (jobBytes 48 1 [(42, 2)])
    let r (x : State) := (jobReads x).map (·.1)
    s.dev.vfPart 0 = some 0 ∧ (jobState { running := true }).dev.vfPart 0 = some 0 ∧ (s.getPart 0).job.running = false ∧ (s.getPart 0).job.starting = false ∧
    (s.getPart 0).job.recAddr.toNat % 128 = 0 ∧ ((starting { recAddr := 8 } []).getPart 0).job.recAddr.toNat % 128 ≠ 0 ∧ far.vaNat 0 (2 ^ 17) 128 = none ∧
    ((starting {} []).vaNat 0 0 128).isSome = true ∧ jobReads (starting {} []) = none ∧ (r s).map (·.ninit) = some 0 ∧ (r s).map (·.super) = some 0 ∧
    (r sup).map (·.super) = some 1024 ∧ (sup.vaNat 0 1024 128).isSome = true ∧ (r lost).map (·.super) = some (2 ^ 17) ∧ lost.vaNat 0 (2 ^ 17) 128 = none ∧
    (jobReads groups).map (·.2) = some none ∧ (jobReads s).map (·.2) = some (some []) ∧ (r init).map (·.ninit) = some 1 ∧ (r init).map (·.init) = some 1024 ∧
    init.vaItems 0 1024 16 1 = some [0] ∧ csrInit (natBits 0 11 0) = false ∧ (r init2).map (·.init) = some (2 ^ 17) ∧ init2.vaItems 0 (2 ^ 17) 16 1 = none := by
  decide +kernel

/-- A checkpoint of partition 0's job with every launch saved, at a destination and with a limit. -/
def ckpting (dst : Word) (lim : BitVec 32) : State :=
  let s := jobState { running := true, ckptRun := true, ckptDst := dst, ckptLim := lim }
  { s with launches := [(1, { loadedLaunch with state := .saved })] }

theorem witness_Checkpoints :
    let s := ckpting (2 ^ 41) (2 ^ 20)
    let n := ckptUnits (s.sections 0)
    let lost : State := { s with sectorLost := [2 ^ 30] }
    s.dev.vfPart 0 = some 0 ∧ (s.getPart 0).job.ckptRun = true ∧ ((jobState {}).getPart 0).job.running = false ∧
    ((jobState { running := true }).getPart 0).job.running = true ∧ loadedLaunch.resident = true ∧ (s.launches.all fun x => !x.2.resident && !s.stopping x.1) = true ∧
    n ≤ (s.getPart 0).job.ckptLim.toNat ∧ 2 ^ 41 + n * 65536 ≤ 2 ^ 42 ∧ ((ckpting 0 0).getPart 0).job.ckptLim.toNat < ckptUnits ((ckpting 0 0).sections 0) ∧
    natBits ((ckpting 0 (2 ^ 20)).getPart 0).job.ckptDst.toNat 41 0 < 2 ^ 41 ∧ natBits (s.getPart 0).job.ckptDst.toNat 63 48 = s.dev.pkg.toNat ∧
    natBits ((ckpting (2 ^ 48 + 2 ^ 41) (2 ^ 20)).getPart 0).job.ckptDst.toNat 63 48 ≠ s.dev.pkg.toNat ∧ s.ckptLost 0 (s.sections 0) = false ∧
    ((ckpting (2 ^ 48 + 2 ^ 41) (2 ^ 20)).linkFor 1).2 = false ∧
    (({ ckpting (2 ^ 48 + 2 ^ 41) (2 ^ 20) with dev := { s.dev with linkReady := 1 } } : State).linkFor 1).2 = true ∧ lost.sectorLost ≠ [] := by decide +kernel

theorem witness_ManagementPort :
    let s := State.reset
    (s.devReg s.dev.psel 0xC00).isSome = true ∧ s.devReg s.dev.psel 0xFFF = none ∧ 15 < 16 ∧ s.dev.own.getLsbD 4 = true ∧ s.dev.own.getLsbD 3 = false ∧
    ({ s.dev with own := 0b001000 } : Device).own.getLsbD 3 = true ∧ ({ s.dev with own := 0b001000 } : Device).own.getLsbD 4 = false := by decide +kernel

theorem witness_TakingFaults :
    let s := advancing
    let t := homeCe fun c => { c with binds := c.binds.set 1 { bound := true, state := .faulted, retry := true, wait := .copy 0 0 0 } }
    ((homeSuper {}).isSuper ((homeSuper {}).getCe 0).launch = true) ∧ ((homeSuper {}).getPart 0).traps.countP (fun e => e.1) < 16 ∧
    (s.getCe 0).fir.bind < (s.getCe 0).binds.length ∧ (endCe fun f => { f with advMoves := [(0, 2)] }).chans = [] ∧ (s.getCe 0).inCh 0 = some 65536 ∧
    (tfind s.chans 65536).isSome = true ∧ 1 < (t.getCe 0).binds.length ∧ (t.getCe 0).fir.bind ≠ 1 ∧ (lget {} (t.getCe 0).binds 1).retry = true := by decide +kernel

theorem witness_StepRunsDecoded :
    let s : State := { home 0x0242_92C2_B022_6000 {} with agenda := [.ce 0] }
    let bad : State := { home 0xFF00_0000_0000_0000 {} with agenda := [.ce 0] }
    let o : State := { opAt (.fork (fC 0)) [t9] [] [] id with agenda := [.op 0] }
    let conf := opAt (.steer (fC 0)) [t9] [⟨4, 0xE060_0781_0440_0000, 0⟩] [] id
    let mark := opAt (.steer (fC 0)) [t9] [tM] [] id
    s.agenda = .ce 0 :: [] ∧ (s.getCe 0).fir.active = true ∧ (lget {} (s.getCe 0).binds (s.getCe 0).fir.bind).state = .firing ∧
    (s.getCe 0).fir.idx < (s.getCe 0).fir.block.words.length ∧ (decode (s.getCe 0).fir.word).isOk = true ∧ (decode (bad.getCe 0).fir.word).isOk = false ∧
    (unbound.getCe 0).fir.active = false ∧ (o.getOp 0).instr = some (.fork (fC 0)) ∧ fmtCOf (.fork (fC 0)) = some (fC 0) ∧
    conf.opConfig (conf.getOp 0) (fC 0) ≠ none ∧ mark.opConfig (mark.getOp 0) (fC 0) = none ∧ mark.opMark (mark.getOp 0) (.steer (fC 0)) (fC 0) ≠ none ∧
    o.opConfig (o.getOp 0) (fC 0) = none ∧ o.opMark (o.getOp 0) (.fork (fC 0)) (fC 0) = none := by decide +kernel

/-- Turns that are no step of the table (log entry 90), and an error of a word that stays until it is met. -/
theorem witness_StepRunsDecoded_turns :
    let s (t : Turn) : State := { home 0 {} with agenda := [t] }
    (s (.wordError 3 true)).agenda = .wordError 3 true :: [] ∧ (s (.sectorError 3 .lasting)).agenda = .sectorError 3 .lasting :: [] ∧
    (s (.evict 0 0)).agenda = .evict 0 0 :: [] ∧ (s (.systemError 0 0 0 true)).agenda = .systemError 0 0 0 true :: [] ∧
    (match step (s (.wordError 3 true)) with | .next t => t.wordErrs == [(3, true)] | _ => false) = true := by decide +kernel

/-- A well-formed instruction, and the word that encodes it. -/
theorem witness_EncodeDecode :
    encode (.add ⟨.s32, 1, .s 2, .imm 5, .zero, .s 3, .none⟩) = some 0x0242_92C2_B022_6000 ∧
    (Instr.add ⟨.s32, 1, .s 2, .imm 5, .zero, .s 3, .none⟩).bad = none ∧
    decode 0x0242_92C2_B022_6000 = .ok (.add ⟨.s32, 1, .s 2, .imm 5, .zero, .s 3, .none⟩) := by decide +kernel

/-- Words that stand for no instruction, and events, which have no word. -/
theorem witness_StepRunsDecoded_words : encode .cycleCounterAdvance = none ∧ encode (.fork (fC 0)) ≠ none ∧ (decodeTableWord 64 0x0242_92C2_B022_6000).isSome = true ∧
    fmtOf (0x0242_92C2_B022_6000 : Word) ≠ .c := by decide +kernel

theorem witness_MemoriesStayCanonical : MemoryOk State.reset ∧ ∃ t, step { State.reset with agenda := [.event .cycleCounterAdvance] } = .next t :=
  ⟨⟨rfl, rfl, rfl, rfl, rfl⟩, _, rfl⟩

/-! ## The waits of one cycle and of a page that is given up -/

theorem witness_TileAccesses_waits :
    let at_ (n : Nat) : State := { withTile 0 { state := .busy, owner := 0, owned := true } with
      mns := [(0, { tiles := ({ state := .busy, owner := 0, owned := true } : AccTile) :: List.replicate 7 {}, frags := [⟨0, 0, [], n, false, 0⟩] })] }
    ((at_ 0).getMn 0).tileWait 0 (at_ 0).cycle.toNat = true ∧ ((at_ 5).getMn 0).tileWait 0 (at_ 5).cycle.toNat = false ∧
    ((withTile 0 {}).getMn 0).tileWait 0 0 = false ∧ ((withTile 0 {}).getMn 0).clearing = false := by decide +kernel

theorem witness_BanksAndPower_serves :
    let gated := { home 0 {} with pages := [(0, { owner := some 0, clearing := true, gating := true })] }
    let cleared := { home 0 {} with pages := [(0, { owner := some 0, clearing := true })] }
    let twice := bankState fun b => { b with served := [(0, 0)] }
    ¬ ((gated.getPage 0).clearing = true ∧ (gated.getPage 0).gating = false) ∧ ((cleared.getPage 0).clearing = true ∧ (cleared.getPage 0).gating = false) ∧
    (∀ e ∈ (lget {} ((home 0 {}).getMt 0).banks 15).served, e.2 ≠ (home 0 {}).cycle.toNat) ∧ (∃ e ∈ (lget {} (twice.getMt 0).banks 15).served, e.2 = twice.cycle.toNat) ∧
    (∀ id ∈ (cleared.getPage 0).resident, id = 0) := by decide +kernel

theorem witness_ScratchAddresses_waits :
    let map (e : PageEntry) : State := homeP {} fun p => { p with map := [(0, e)] }
    let clears := { home 0 {} with pages := [(0, { owner := some 0, clearing := true })] }
    let stops := { map ⟨true, true, 0⟩ with stops := [⟨1, .save, 1, [unitNo 1 0], false, 0⟩] }
    (tget ({} : PageEntry) ((map ⟨true, true, 0⟩).getPart 0).map 0).mov = true ∧ (map ⟨true, true, 0⟩).leaving = false ∧ stops.leaving = true ∧
    (tget ({} : PageEntry) (clears.getPart 0).map 0).v = true ∧ (clears.getPage 0).clearing = true := by decide +kernel

theorem witness_GatherEngine_busy :
    let s : State := { home 0 {} with mts := [(0, { awakeMt with gatherAt := some 0 })] }
    (s.getMt 0).gatherAt = some s.cycle.toNat ∧ ((home 0 {}).getMt 0).gatherAt = none ∧ ((home 0 {}).getPage 0).clearing = false ∧
    ((home 0 {}).getPage 0).gating = false := by decide +kernel

theorem witness_ReturnFromFault_fetch :
    let rejected := homeCe fun c => { c with fir := {}, binds := c.binds.set 1 { bound := true, state := .faulted } }
    let inside := homeCe fun c => { c with binds := c.binds.set 0 { bound := true, state := .faulted } }
    (rejected.getCe 0).atFetch 1 = true ∧ (inside.getCe 0).atFetch 0 = false := by decide +kernel

theorem witness_QueuesWork_order :
    let s := home 0 {}
    let l (who : Nat) : Launch := { loadedLaunch with state := .queued, queuedAt := 0, issuer := who }
    let t (who : Nat) : State := { s with launches := [(1, loadedLaunch), (2, l who)], parts := [(0, { s.getPart 0 with queues := [[2], [], [], []] })] }
    ((t 7).launchD 2).queuedAt = (t 7).cycle.toNat ∧ psetKey 0 < ((t 7).launchD 2).issuer ∧ ¬ psetKey 0 < ((t 0).launchD 2).issuer := by decide +kernel

theorem witness_TileHandovers_waits :
    let s := node { idleAt := some 0 } [aCtl 0 false] [] {}
    let few := node {} [] (List.replicate 15 (aFrag 0 false)) { pend := [aFrag 0 false, aFrag 0 false] }
    let r : TileEntry := ⟨0, 0, 0, true, [(32767, 1)], 3⟩
    let back : State := { home 0 {} with mns := [(0, { restores := [r], ctxs := { pend := [aFrag 0 false] } :: List.replicate 3 {} })] }
    ((s.getMn 0).tile 0).idleAt = some s.cycle.toNat ∧ (∀ g ∈ ((back.getMn 0).ctx 0).pend, g.real = true) ∧
    ((back.getMn 0).frags.filter Fragment.real).length + ((back.getMn 0).ctx 0).pend.length ≤ 16 ∧ back.mnLive 0 0 = true ∧
    16 < ((few.getMn 0).frags.filter Fragment.real).length + ((few.getMn 0).ctx 0).pend.length := by decide +kernel

theorem witness_FragmentsAccepted_served :
    let s := node {} [aCtl 2 false] [] { reserved := 99 }
    let dead := node {} [aCtl 0 false] [] { dead := true }
    let fence := node {} [aCtl 0 false] [] {}
    ((dead.getMn 0).ctx 0).dead = true ∧ ((fence.getMn 0).ctx 0).pend = [] ∧ s.doneRoom ((s.getMn 0).ctx 0) = false ∧
    ((fence.getMn 0).tile 0).idleAt ≠ some fence.cycle.toNat := by decide +kernel

theorem witness_FragmentsRun_ends :
    let s := node {} [] [aFrag 1 true] {}
    let killed : State := { s with stops := [⟨1, .kill, 2, [unitNo 3 0], false, 0⟩] }
    s.noDone 0 0 = false ∧ killed.noDone 0 0 = true ∧ killed.mnStopped 0 0 = true ∧ s.mnLive 0 0 = true := by decide +kernel

end Sys2Proof.Tests
end

section
/-!
PROOFS of the scope family (O59): every step keeps every memory in its canonical form. Three layers, each a frame or a
preservation lemma per function of the model, in the order of the model's files:
1. `State.f_memories`: a function that writes no memory leaves `State.memories` as it is;
2. `State.f_canonical`: a function that writes memory keeps `Canonical`, by the laws of `Memory.wf` in Sys2Proof/Laws/Tab.lean;
3. `exec_canonical`: every answer of `exec` keeps `Canonical`, from which the step lemma follows.
-/

namespace Sys2Proof.Machine

/-! ## Functions that write no memory

A lemma proved by `(rfl)` has its parentheses for a reason: a bare `rfl` would make it a definitional rewrite rule, which
`simp` cannot use to discharge the hypothesis of `State.foldl_memories`. -/

section
variable (s : State)

/-- The five memories of a state: all that `MemoryOk` speaks of. -/
def State.memories (s : State) : List Memory := [s.scratch, s.istore, s.wbuf, s.accs, s.device]

/-- A state built on another one's memories has them, whatever its other fields are. -/
@[simp] theorem State.memories_mk (t : State) :
    ∀ agenda cur free cycle slew ce ops chans routes starts links buses pages mts mns streams ports portCache devChans
      walks wcache egress ingress launches graphs phases nextId placements parts stops dev counters counted perfReads
      lineScope sectorScope sectorLost wordErrs sectorErrs,
    (State.mk agenda cur free cycle slew ce ops chans routes starts links buses pages mts mns streams ports portCache
      devChans walks wcache egress ingress launches graphs phases nextId placements parts stops dev counters counted
      perfReads t.scratch t.istore t.wbuf t.accs t.device lineScope sectorScope sectorLost wordErrs sectorErrs).memories
      = t.memories := by
  intros; rfl

@[simp] theorem State.memories_ite (c : Prop) [Decidable c] (a b : State) :
    (if c then a else b).memories = if c then a.memories else b.memories := apply_ite _ _ _ _

@[simp] theorem State.foldl_memories {α : Type} (l : List α) (g : State → α → State) (s : State)
    (h : ∀ s x, (g s x).memories = s.memories) : (l.foldl g s).memories = s.memories := by
  induction l generalizing s with
  | nil => rfl
  | cons x l ih => rw [List.foldl_cons, ih, h]

theorem memories_of_pair {α : Type} {p : α × State} {a t} (h : p = (a, t)) : t.memories = p.2.memories := by subst h; rfl

theorem memories_of_triple {α β : Type} {p : α × β × State} {a b t} (h : p = (a, b, t)) :
    t.memories = p.2.2.memories := by subst h; rfl

@[simp] theorem State.memories_snd_ite {α : Type} (c : Prop) [Decidable c] (a b : α × State) :
    (if c then a else b).2.memories = if c then a.2.memories else b.2.memories :=
  apply_ite (fun p : α × State => p.2.memories) c a b

theorem State.foldl_snd_memories {α β : Type} (l : List α) (g : β × State → α → β × State) (p : β × State)
    (h : ∀ p x, (g p x).2.memories = p.2.memories) : (l.foldl g p).2.memories = p.2.memories := by
  induction l generalizing p with
  | nil => rfl
  | cons x l ih => rw [List.foldl_cons, ih, h]

theorem memories_getD {s : State} {o : Option State} (h : ∀ t ∈ o, t.memories = s.memories) :
    (o.getD s).memories = s.memories := by
  cases o with
  | none => rfl
  | some t => exact h t rfl

theorem State.memories_of_ite_some {s : State} {c : Prop} [Decidable c] {t u : State} (e : t.memories = s.memories)
    (h : (if c then some t else none) = some u) : u.memories = s.memories := by
  obtain ⟨-, h⟩ := Option.ite_none_right_eq_some.1 h
  exact Option.some.inj h ▸ e

/-! ### Functions of Sys2Proof/Machine/Tab.lean -/

@[simp] theorem State.setCe_memories (k : Nat) (c : CeCtx) : (s.setCe k c).memories = s.memories := (rfl)
@[simp] theorem State.setOp_memories (k : Nat) (o : OpSlot) : (s.setOp k o).memories = s.memories := (rfl)
@[simp] theorem State.setChan_memories (k : Nat) (c : Chan) : (s.setChan k c).memories = s.memories := (rfl)
@[simp] theorem State.setPage_memories (k : Nat) (p : Page) : (s.setPage k p).memories = s.memories := (rfl)
@[simp] theorem State.setMt_memories (k : Nat) (m : MemTile) : (s.setMt k m).memories = s.memories := (rfl)
@[simp] theorem State.setMn_memories (k : Nat) (m : MatNode) : (s.setMn k m).memories = s.memories := (rfl)
@[simp] theorem State.setPart_memories (k : Nat) (p : Partition) : (s.setPart k p).memories = s.memories := (rfl)
@[simp] theorem State.setDc_memories (k : Nat) (c : DevChan) : (s.setDc k c).memories = s.memories := (rfl)
@[simp] theorem State.setEgress_memories (k : Nat) (e : Egress) : (s.setEgress k e).memories = s.memories := (rfl)
@[simp] theorem State.setIngress_memories (k : Nat) (e : Ingress) : (s.setIngress k e).memories = s.memories := (rfl)
@[simp] theorem State.setLaunch_memories (k : Nat) (l : Launch) : (s.setLaunch k l).memories = s.memories := (rfl)
@[simp] theorem State.setGraph_memories (k : Nat) (g : Graph) : (s.setGraph k g).memories = s.memories := (rfl)
@[simp] theorem State.setPhase_memories (k : Nat) (p : Phase) : (s.setPhase k p).memories = s.memories := (rfl)
@[simp] theorem State.mapCe_memories (k : Nat) (f : CeCtx → CeCtx) : (s.mapCe k f).memories = s.memories := (rfl)
@[simp] theorem State.mapPart_memories (k : Nat) (f : Partition → Partition) : (s.mapPart k f).memories = s.memories := (rfl)
@[simp] theorem State.mapMt_memories (k : Nat) (f : MemTile → MemTile) : (s.mapMt k f).memories = s.memories := (rfl)
@[simp] theorem State.mapMn_memories (k : Nat) (f : MatNode → MatNode) : (s.mapMn k f).memories = s.memories := (rfl)
@[simp] theorem State.mapPage_memories (k : Nat) (f : Page → Page) : (s.mapPage k f).memories = s.memories := (rfl)

@[simp] theorem State.mapChan_memories (k : Nat) (f : Chan → Chan) : (s.mapChan k f).memories = s.memories := by
  unfold State.mapChan
  split <;> simp

@[simp] theorem State.mapLaunch_memories (k : Nat) (f : Launch → Launch) : (s.mapLaunch k f).memories = s.memories := by
  unfold State.mapLaunch
  split <;> simp

/-! ### Functions of Sys2Proof/Machine/Operands.lean -/

@[simp] theorem State.pureT_memories (f : FmtT) (g : Rd → Res) : (s.pureT f g).memories = s.memories := (rfl)
@[simp] theorem State.pureI_memories (f : FmtI) (g : Rd → Res) : (s.pureI f g).memories = s.memories := (rfl)

/-! ### Functions of Sys2Proof/Machine/Work.lean -/

@[simp] theorem State.newId_memories : s.newId.2.memories = s.memories := (rfl)
@[simp] theorem State.msix_memories (part vec : Nat) : (s.msix part vec).memories = s.memories := (rfl)
@[simp] theorem State.countPage_memories (page ctx num n : Nat) : (s.countPage page ctx num n).memories = s.memories := (rfl)
@[simp] theorem State.countCvy_memories (launch die num n : Nat) : (s.countCvy launch die num n).memories = s.memories := (rfl)
@[simp] theorem State.countPart_memories (part num n : Nat) : (s.countPart part num n).memories = s.memories := (rfl)
@[simp] theorem State.countDev_memories (num n : Nat) : (s.countDev num n).memories = s.memories := (rfl)
@[simp] theorem State.setTbuf_memories (part buf st : Nat) : (s.setTbuf part buf st).memories = s.memories := (rfl)
@[simp] theorem State.unpark_memories : s.unpark.memories = s.memories := (rfl)
@[simp] theorem State.freeSlot_memories (p c : Nat) : (s.freeSlot p c).memories = s.memories := by simp [State.freeSlot]

@[simp] theorem State.freeLaunch_memories (id : Nat) : (s.freeLaunch id).memories = s.memories := by
  show (if (s.launchD id).resident then _ else s).memories = s.memories
  simp

@[simp] theorem State.phaseChild_memories (ph : Nat) (o : Outcome) : (s.phaseChild ph o).memories = s.memories := by
  unfold State.phaseChild
  split <;> simp

@[simp] theorem State.graphChild_memories (g : Nat) (o : Outcome) : (s.graphChild g o).memories = s.memories := by
  unfold State.graphChild
  dsimp only
  repeat' split
  all_goals simp

@[simp] theorem State.jobSettle_memories (part : Nat) : (s.jobSettle part).memories = s.memories := by simp [State.jobSettle]

@[simp] theorem State.retireOne_memories (id : Nat) (o : Outcome) : (s.retireOne id o).memories = s.memories := by
  simp only [State.retireOne]
  split
  · rfl
  · simp only [State.graphChild_memories, State.memories_ite, State.mapPart_memories, State.mapLaunch_memories,
      State.freeLaunch_memories, ite_self]
    refine State.foldl_memories _ _ _ fun s e => ?_
    split <;> simp

@[simp] theorem State.retireAll_memories (fuel : Nat) (l : List (Nat × Outcome)) :
    (State.retireAll fuel l s).memories = s.memories := by
  induction fuel generalizing l s with
  | zero => rfl
  | succ fuel ih =>
    cases l with
    | nil => rfl
    | cons e l => simp [State.retireAll, ih]

@[simp] theorem State.retire_memories (id : Nat) (o : Outcome) : (s.retire id o).memories = s.memories := by simp [State.retire]

@[simp] theorem State.startStop_memories (id : Nat) (a : StopAction) (requeue : Bool) (mark : Nat) :
    (s.startStop id a requeue mark).memories = s.memories := by
  simp [State.startStop]

@[simp] theorem State.countPoints_memories (id completed killed faulted : Nat) :
    (s.countPoints id completed killed faulted).memories = s.memories := by
  simp [State.countPoints]

@[simp] theorem State.killAll_memories (id : Nat) : (s.killAll id).memories = s.memories := by simp [State.killAll]

@[simp] theorem State.cancelLaunch_memories (id : Nat) : (s.cancelLaunch id).memories = s.memories := by
  unfold State.cancelLaunch
  dsimp only
  split <;> simp

@[simp] theorem State.cancelList_memories (ids : List Nat) : (s.cancelList ids).memories = s.memories := by
  simp [State.cancelList]

@[simp] theorem State.cancelGraph_memories (g : Nat) : (s.cancelGraph g).memories = s.memories := by simp [State.cancelGraph]

@[simp] theorem State.cancelPhase_memories (ph : Nat) : (s.cancelPhase ph).memories = s.memories := by
  unfold State.cancelPhase
  dsimp only
  split <;> simp

@[simp] theorem State.cancelJob_memories (part : Nat) : (s.cancelJob part).memories = s.memories := by simp [State.cancelJob]

/-! ### Functions of Sys2Proof/Machine/Ops.lean -/

@[simp] theorem State.trapToken_memories (part : Nat) (rseq : BitVec 16) : (s.trapToken part rseq).memories = s.memories := by
  unfold State.trapToken
  dsimp only
  split <;> simp

@[simp] theorem State.enterRecord_memories (part : Nat) (own : Bool) (bits : BitVec 512) :
    (s.enterRecord part own bits).memories = s.memories := by
  simp [State.enterRecord]

@[simp] theorem State.placeRecord_memories (part : Nat) (own : Bool) (bits : BitVec 512) :
    (s.placeRecord part own bits).memories = s.memories := by
  simp [State.placeRecord]

@[simp] theorem State.record_memories (part : Nat) (own : Bool) (r : Rec) : (s.record part own r).memories = s.memories := by
  simp [State.record]

@[simp] theorem State.popRecord_memories (part : Nat) : (s.popRecord part).2.memories = s.memories := by
  unfold State.popRecord
  dsimp only
  split <;> simp

@[simp] theorem State.trigger_memories (k : Nat) : (s.trigger k).memories = s.memories := (rfl)

@[simp] theorem State.triggerDst_memories (ch : Nat) : (s.triggerDst ch).memories = s.memories := by
  unfold State.triggerDst
  split <;> simp

@[simp] theorem State.arrive_memories (ch : Nat) (t : Token) : (s.arrive ch t).memories = s.memories := by simp [State.arrive]
@[simp] theorem State.freeTokens_memories (ch n : Nat) : (s.freeTokens ch n).memories = s.memories := by simp [State.freeTokens]
@[simp] theorem State.takeHead_memories (ch : Nat) : (s.takeHead ch).2.memories = s.memories := by simp [State.takeHead]

@[simp] theorem State.publish_memories (ch : Nat) (ts : List Token) : (s.publish ch ts).memories = s.memories := by
  simp [State.publish]

@[simp] theorem State.moveOut_memories (k j n : Nat) : (s.moveOut k j n).memories = s.memories := by
  unfold State.moveOut
  dsimp only
  split <;> simp

@[simp] theorem State.moveIn_memories (k i n : Nat) : (s.moveIn k i n).memories = s.memories := by
  unfold State.moveIn
  dsimp only
  split <;> simp

@[simp] theorem State.applyMoves_memories (k : Nat) : (s.applyMoves k).memories = s.memories := by simp [State.applyMoves]

@[simp] theorem State.ceRecord_memories (k bind : Nat) (cls : FaultClass) (addr detail index : Nat) (hdr : Bool) (word : Nat) :
    (s.ceRecord k bind cls addr detail index hdr word).memories = s.memories := by simp [State.ceRecord]

@[simp] theorem State.ceFault_memories (k : Nat) (cls : FaultClass) (addr detail : Nat) :
    (s.ceFault k cls addr detail).memories = s.memories := by
  simp [State.ceFault]

@[simp] theorem State.ceReturn_memories (k bind : Nat) (skip : Bool) : (s.ceReturn k bind skip).memories = s.memories := (rfl)
@[simp] theorem State.fire_memories (k bind : Nat) (d : Decoded) : (s.fire k bind d).memories = s.memories := (rfl)

@[simp] theorem State.rejectBlock_memories (k bind : Nat) (r : Reject) : (s.rejectBlock k bind r).memories = s.memories := by
  simp [State.rejectBlock]

@[simp] theorem State.wake_memories (k bind : Nat) (give : Option (BitVec 3 × Word)) :
    (s.wake k bind give).memories = s.memories :=
  (rfl)

@[simp] theorem State.parkLaunch_memories (launch : Nat) (fills : List (Nat × Nat × Nat × BitVec 32)) :
    (s.parkLaunch launch fills).memories = s.memories := by
  unfold State.parkLaunch
  split <;> simp

@[simp] theorem State.blockEnd_memories (k : Nat) : (s.blockEnd k).memories = s.memories := by
  unfold State.blockEnd
  dsimp only
  repeat' split
  all_goals simp

@[simp] theorem State.blockFiring_memories (k : Nat) : (s.blockFiring k).memories = s.memories := by
  unfold State.blockFiring
  dsimp only
  repeat' split
  all_goals simp

/-! ### Functions of Sys2Proof/Machine/Access.lean -/

@[simp] theorem State.dropCaches_memories (part : Nat) : (s.dropCaches part).memories = s.memories := (rfl)
@[simp] theorem State.loadRanges_memories (part : Nat) : (s.loadRanges part).memories = s.memories := (rfl)

@[simp] theorem State.acquire_memories (k : Nat) (r : Option ScopeRec) : (s.acquire k r).memories = s.memories := by
  unfold State.acquire
  dsimp only
  split <;> simp

@[simp] theorem State.patCount_memories (mt : Nat) (r : PatRec) (num : Nat) : (s.patCount mt r num).memories = s.memories := (rfl)

@[simp] theorem State.releaseUse_memories (mt : Nat) (x : Copy) : (s.releaseUse mt x).memories = s.memories := by
  simp [State.releaseUse]

@[simp] theorem State.uncountPage_memories (page ctx num : Nat) : (s.uncountPage page ctx num).memories = s.memories := (rfl)
@[simp] theorem State.unstart_memories (mt dir : Nat) : (s.unstart mt dir).memories = s.memories := by simp [State.unstart]
@[simp] theorem State.watch_memories (mt line : Nat) : (s.watch mt line).memories = s.memories := by simp [State.watch]

@[simp] theorem State.wordsWhole_memories (mt : Nat) (whole : Nat → Bool) : (s.wordsWhole mt whole).memories = s.memories := by
  simp [State.wordsWhole]

@[simp] theorem State.bankAwake_memories (mt bank : Nat) : (s.bankAwake mt bank).2.memories = s.memories := by
  unfold State.bankAwake
  dsimp only
  split <;> simp

@[simp] theorem State.banksAwake_memories (mt off n : Nat) : (s.banksAwake mt off n).2.memories = s.memories := by
  unfold State.banksAwake
  rw [State.foldl_snd_memories]
  intro p b
  simp

@[simp] theorem State.touchBank_memories (mt bank port : Nat) : (s.touchBank mt bank port).memories = s.memories := (rfl)

@[simp] theorem State.sendAcc_memories (k : Nat) (a : Acc) : (s.sendAcc k a).memories = s.memories := by
  unfold State.sendAcc
  repeat' split
  all_goals simp

theorem State.atOnce_memories {s : State} {a : Acc} : ∀ r ∈ s.atOnce a, r.memories = s.memories := by
  simp only [State.atOnce, Option.mem_def]
  repeat' split
  all_goals simp

@[simp] theorem State.pumpLoop_memories (k : Nat) (l keep : List Acc) : (State.pumpLoop k l keep s).2.memories = s.memories := by
  induction l generalizing keep s with
  | nil => rfl
  | cons a l ih =>
    simp only [State.pumpLoop]
    split
    · next e => simp [State.atOnce_memories _ e, ih]
    · simp [ih]

@[simp] theorem State.pump_memories (k : Nat) : (s.pump k).memories = s.memories := by simp [State.pump]
@[simp] theorem State.performed_memories (k acc : Nat) : (s.performed k acc).memories = s.memories := by simp [State.performed]

@[simp] theorem State.issue_memories (k : Nat) (f : FmtM) (addr : Nat) (value : Bool) (kind : Nat → AccKind) :
    (s.issue k f addr value kind).memories = s.memories := by
  simp [State.issue]

@[simp] theorem State.noAccess_memories (k : Nat) (f : FmtM) : (s.noAccess k f).memories = s.memories := (rfl)

@[simp] theorem State.memInstr_memories (f : FmtM) {go : Nat → Rd → State → State}
    (h : ∀ k r s, (go k r s).memories = s.memories) : (s.memInstr f go).memories = s.memories := by simp [State.memInstr, h]

@[simp] theorem State.engine_memories (f : FmtT) {go : Nat → Rd → State → State}
    (h : ∀ k r s, (go k r s).memories = s.memories) : (s.engine f go).memories = s.memories := by simp [State.engine, h]

@[simp] theorem State.give2_memories (k : Nat) (f : FmtT) (vec : Bool) (v : Vec) : (s.give2 k f vec v).memories = s.memories :=
  (rfl)

@[simp] theorem State.check_memories {α : Type} (k : Nat) (e : Try α) {go : α → State}
    (h : ∀ a, (go a).memories = s.memories) :
    (s.check k e go).memories = s.memories := by
  unfold State.check
  repeat' split
  all_goals simp [h]

theorem State.walkMiss_memories {s : State} {part die cache who va : Nat} :
    ∀ r ∈ s.walkMiss part die cache who va, r.memories = s.memories := by
  simp only [State.walkMiss, Option.mem_def]
  split
  · simp
  · split <;> simp

@[simp] theorem State.walkMiss_getD_memories (part die cache who va : Nat) :
    ((s.walkMiss part die cache who va).getD s).memories = s.memories :=
  memories_getD State.walkMiss_memories

@[simp] theorem State.xlate_memories (k va : Nat) (write : Bool) : (s.xlate k va write).2.memories = s.memories := by
  unfold State.xlate
  dsimp only
  split
  · simp
  · split <;> simp

@[simp] theorem State.devAt_memories (k va size : Nat) (write : Bool) : (s.devAt k va size write).2.memories = s.memories := by
  simp [State.devAt]

@[simp] theorem State.setXcache_memories (part id : Nat) (c : List XEntry) : (s.setXcache part id c).memories = s.memories := by
  simp [State.setXcache]

@[simp] theorem State.translateVia_memories (part : Nat) (via : Option Nat) (va : Nat) (write : Bool) :
    (s.translateVia part via va write).2.memories = s.memories := by
  unfold State.translateVia
  dsimp only
  repeat' split
  all_goals simp

@[simp] theorem State.deliver_memories (k : Nat) (vec : Bool) (v : Vec) : (s.deliver k vec v).memories = s.memories := (rfl)

@[simp] theorem State.valueLost_memories (k acc addr detail : Nat) : (s.valueLost k acc addr detail).memories = s.memories := by
  simp [State.valueLost]

/-! ### Functions of Sys2Proof/Machine/MemInstr.lean -/

@[simp] theorem State.bankAcc_memories (k : Nat) (f : FmtM) (a size : Nat) (value write : Bool) (op : Nat → LineOp) :
    (s.bankAcc k f a size value write op).memories = s.memories :=
  State.check_memories _ _ _ fun _ => State.issue_memories _ _ _ _ _ _

@[simp] theorem State.atomic_memories (f : FmtM) (op : AtomOp) : (s.atomic f op).memories = s.memories :=
  State.memInstr_memories _ _ fun _ _ _ => State.bankAcc_memories _ _ _ _ _ _ _ _

@[simp] theorem State.fenceOver_memories (k : Nat) (f : FmtM) (mask : BitVec 16) :
    (s.fenceOver k f mask).memories = s.memories := by
  simp [State.fenceOver]

@[simp] theorem State.gatherEas_memories (k : Nat) (t : Ty) (dev : Bool) (base : Nat) (write : Bool) (l : List Int)
    (acc : Nat × List Nat) :
    (s.gatherEas k t dev base write l acc).2.memories = s.memories := by
  induction l generalizing acc s with
  | nil => rfl
  | cons i l ih =>
    simp only [State.gatherEas]
    split
    · split
      · next e => simp [memories_of_pair e, ih]
      · next e => simp [memories_of_pair e]
    · split
      · simp [ih]
      · simp

@[simp] theorem State.gatherInstr_memories (f : FmtM) (kind : GatherKind) : (s.gatherInstr f kind).memories = s.memories := by
  refine State.memInstr_memories _ _ fun k r s => ?_
  dsimp only
  split
  · split
    · simp
    · split
      · simp
      · split <;> (next e => simp [memories_of_pair e])
  · simp

@[simp] theorem State.newCopy_memories (k mt lpage str acc : Nat) (kind : CopyKind) (src dst : Word) (len : Nat) :
    (s.newCopy k mt lpage str acc kind src dst len).2.memories = s.memories :=
  (rfl)

@[simp] theorem State.devAcc_memories (k : Nat) (f : FmtM) (va : Nat) (value write : Bool) (op : DevOp) :
    (s.devAcc k f va value write op).memories = s.memories := by
  unfold State.devAcc
  dsimp only
  split
  · simp
  · split <;> (next e => simp [memories_of_pair e])

/-! ### Functions of Sys2Proof/Machine/Router.lean -/

@[simp] theorem State.opFault_memories (k : Nat) (f : FmtC) (word : Word) (cls : FaultClass) (input addr detail : Nat) :
    (s.opFault k f word cls input addr detail).memories = s.memories := by
  simp [State.opFault]

@[simp] theorem State.opTake_memories (o : OpSlot) (f : FmtC) (takes : List Nat) :
    (s.opTake o f takes).memories = s.memories := by
  refine State.foldl_memories _ _ _ fun s i => ?_
  split <;> simp

@[simp] theorem State.opGive_memories (ch : Option Nat) (t : Token) : (s.opGive ch t).memories = s.memories := by
  unfold State.opGive
  split <;> simp

@[simp] theorem State.opStuck_memories (k : Nat) (t : Token) : (s.opStuck k t).memories = s.memories := by simp [State.opStuck]

@[simp] theorem State.opFire_memories (k : Nat) (f : FmtC) (takes : List Nat) (g0 : Option (Nat × Token))
    (g1 : Option Token) (o' : OpSlot) (point : Bool) :
    (s.opFire k f takes g0 g1 o' point).memories = s.memories := by
  unfold State.opFire
  dsimp only
  repeat' split
  all_goals simp

@[simp] theorem State.operator_memories (i : Instr) (f : FmtC) (rule : OpSlot → Heads → OpAct) :
    (s.operator i f rule).memories = s.memories := by
  unfold State.operator
  dsimp only
  split
  · simp
  · split <;> simp

@[simp] theorem State.takeConfig_memories (k : Nat) : (s.takeConfig k).memories = s.memories := by
  unfold State.takeConfig
  dsimp only
  repeat' split
  all_goals simp

@[simp] theorem State.discardMark_memories (k : Nat) : (s.discardMark k).memories = s.memories := by
  unfold State.discardMark
  dsimp only
  repeat' split
  all_goals simp

@[simp] theorem State.opSkip_memories (o : OpSlot) (skip : Bool) : (s.opSkip o skip).memories = s.memories := by
  unfold State.opSkip
  split <;> simp

@[simp] theorem State.opReturn_memories (k : Nat) (skip : Bool) : (s.opReturn k skip).memories = s.memories := by
  simp [State.opReturn]

/-! ### Functions of Sys2Proof/Machine/Banks.lean -/

@[simp] theorem State.markLost_memories (mt off : Nat) (err : WordErr) : (s.markLost mt off err).memories = s.memories := by
  simp [State.markLost]

@[simp] theorem State.markFixed_memories (mt line : Nat) (err : WordErr) : (s.markFixed mt line err).memories = s.memories := by
  simp [State.markFixed]

@[simp] theorem State.accLost_memories (k : Nat) (a : Acc) (addr detail : Nat) :
    (s.accLost k a addr detail).memories = s.memories := by
  simp [State.accLost]

@[simp] theorem State.bredLine_memories (k : Nat) (a : Acc) (old : Vec) (mt off count op : Nat) (acc : Option (BitVec 64)) :
    (s.bredLine k a old mt off count op acc).memories = s.memories := by
  simp [State.bredLine]

@[simp] theorem State.gatherServed_memories (mt slot : Nat) (r : GatherReq) :
    (s.gatherServed mt slot r).memories = s.memories := by
  unfold State.gatherServed
  dsimp only
  split
  · split <;> simp
  · simp

@[simp] theorem State.sendSectors_memories (fuel mt : Nat) : (State.sendSectors fuel s mt).memories = s.memories := by
  induction fuel generalizing s with
  | zero => rfl
  | succ n ih =>
    simp only [State.sendSectors]
    split
    · simp
    · simp [ih]

@[simp] theorem State.gatherAccept_memories (mt : Nat) : (s.gatherAccept mt).memories = s.memories := by
  unfold State.gatherAccept
  dsimp only
  split
  · simp
  · split <;> simp

@[simp] theorem State.gatherReturn_memories (mt e : Nat) : (s.gatherReturn mt e).memories = s.memories := by
  unfold State.gatherReturn
  dsimp only
  repeat' split
  all_goals simp

/-! ### Functions of Sys2Proof/Machine/Control.lean -/

@[simp] theorem State.instrX_memories (f : FmtX) {go : Nat → Rd → State → State}
    (h : ∀ k r s, (go k r s).memories = s.memories) : (s.instrX f go).memories = s.memories := by simp [State.instrX, h]

@[simp] theorem State.onFiring_memories (k : Nat) (g : Firing → Firing) : (s.onFiring k g).memories = s.memories := (rfl)
@[simp] theorem State.giveX_memories (k : Nat) (f : FmtX) (v : Word) : (s.giveX k f v).memories = s.memories := (rfl)
@[simp] theorem State.writeTok_memories (k : Nat) (f : FmtX) (t : Token) : (s.writeTok k f t).memories = s.memories := (rfl)
@[simp] theorem State.setWait_memories (k : Nat) (w : Wait) : (s.setWait k w).memories = s.memories := by simp [State.setWait]

/-! ### Functions of Sys2Proof/Machine/Place.lean -/

@[simp] theorem State.arrayLost_memories (ch part sector : Nat) : (s.arrayLost ch part sector).memories = s.memories := (rfl)

@[simp] theorem State.laneLost_memories (ch part sector : Nat) (writes : Bool) :
    (s.laneLost ch part sector writes).memories = s.memories := by
  simp [State.laneLost]

@[simp] theorem State.meetSector_memories (ch part sector : Nat) (writes : Bool) :
    (s.meetSector ch part sector writes).2.memories = s.memories := by
  unfold State.meetSector
  dsimp only
  split
  · simp
  · split <;> simp

@[simp] theorem State.sectorAt_memories (part pa a : Nat) (writes : Bool) :
    (s.sectorAt part pa a writes).2.memories = s.memories := by
  unfold State.sectorAt
  dsimp only
  split
  · simp
  · split
    · simp
    · split
      · simp
      · split <;> (next e => simp [memories_of_pair e])

@[simp] theorem State.meetWords_memories (mt off n : Nat) : (s.meetWords mt off n).memories = s.memories := by
  refine State.foldl_memories _ _ _ fun s e => ?_
  simp

@[simp] theorem State.readPiece_memories (part ap a n : Nat) (e : Engine) :
    (s.readPiece part ap a n e).2.memories = s.memories := by
  unfold State.readPiece
  dsimp only
  split
  · split
    · simp
    · split <;> (next e => simp [memories_of_pair e])
  · split
    · next e => simp [memories_of_pair e]
    · next e =>
        split <;> (next e2 => simp [memories_of_pair e, memories_of_pair e2])

@[simp] theorem State.readPlace_memories (part ap : Nat) (e : Engine) (fuel a n : Nat) (acc : List Byte) :
    (State.readPlace part ap e fuel s a n acc).2.memories = s.memories := by
  induction fuel generalizing s a n acc with
  | zero => rfl
  | succ fuel ih =>
    simp only [State.readPlace]
    split
    · simp
    · split
      · next e => simp [memories_of_pair e]
      · next e => simp [memories_of_pair e, ih]

@[simp] theorem State.readAt_memories (part ap a n : Nat) (e : Engine) : (s.readAt part ap a n e).2.memories = s.memories := by
  simp [State.readAt]

@[simp] theorem State.spotOf_memories (part launch ap a n : Nat) (e : Engine) :
    (s.spotOf part launch ap a n e).2.memories = s.memories := by
  unfold State.spotOf
  dsimp only
  split
  · split
    · simp
    · split <;> (next e => simp [memories_of_pair e])
  · split
    · split
      · next e => simp [memories_of_pair e]
      · next e =>
          split <;> (next e2 => simp [memories_of_pair e, memories_of_pair e2])
    · split <;> simp

@[simp] theorem State.spots_memories (part launch ap : Nat) (e : Engine) (fuel a : Nat) (bs : List Byte)
    (acc : List (Spot × List Byte)) :
    (State.spots part launch ap e fuel s a bs acc).2.memories = s.memories := by
  induction fuel generalizing s a bs acc with
  | zero => rfl
  | succ fuel ih =>
    simp only [State.spots]
    split
    · simp
    · split
      · next e => simp [memories_of_pair e]
      · next e => simp [memories_of_pair e, ih]

@[simp] theorem State.releaseBlock_memories (r : ScopeRec) (part ap a : Nat) :
    (s.releaseBlock r part ap a).memories = s.memories := by
  unfold State.releaseBlock
  repeat' split
  all_goals simp

@[simp] theorem State.releaseAs_memories (r : ScopeRec) (part ap a n : Nat) :
    (s.releaseAs r part ap a n).memories = s.memories := by
  simp [State.releaseAs]

@[simp] theorem State.releaseRange_memories (part ap a n : Nat) : (s.releaseRange part ap a n).memories = s.memories := by
  simp [State.releaseRange]

/-! ### Functions of Sys2Proof/Machine/Tensor.lean -/

@[simp] theorem State.dropPattern_memories (mt dir : Nat) : (s.dropPattern mt dir).memories = s.memories := by
  simp [State.dropPattern]

@[simp] theorem State.segment_memories (part ap base : Nat) (lens : List Nat) (e : Engine) (i n : Nat) :
    (s.segment part ap base lens e i n).2.memories = s.memories := by
  unfold State.segment
  dsimp only
  split
  · next e => simp [memories_of_pair e]
  · next e =>
      split
      · split <;> (next e2 => simp [memories_of_pair e, memories_of_pair e2])
      · split <;> (next e2 => simp [memories_of_pair e, memories_of_pair e2])

@[simp] theorem State.symbols_memories (part ap base : Nat) (lens : List Nat) (e : Engine) (fuel i n : Nat) (acc : List Nat) :
    (State.symbols part ap base lens e fuel s i n acc).2.memories = s.memories := by
  induction fuel generalizing s i n acc with
  | zero => rfl
  | succ fuel ih =>
    simp only [State.symbols]
    split
    · simp
    · split
      · next e => simp [memories_of_pair e]
      · next e => simp [memories_of_pair e, ih]

/-! ### Functions of Sys2Proof/Machine/Matrix.lean -/

@[simp] theorem State.mapMnCtx_memories (mn c : Nat) (f : MnCtx → MnCtx) : (s.mapMnCtx mn c f).memories = s.memories := (rfl)
@[simp] theorem State.mapTile_memories (mn t : Nat) (f : AccTile → AccTile) : (s.mapTile mn t f).memories = s.memories := (rfl)

@[simp] theorem State.mnFault_memories (mn c : Nat) (t : Token) (input : Nat) :
    (s.mnFault mn c t input).memories = s.memories := by
  simp [State.mnFault]

@[simp] theorem State.giveDone_memories (mn c seq : Nat) : (s.giveDone mn c seq).memories = s.memories := by
  unfold State.giveDone
  dsimp only
  split <;> simp

@[simp] theorem State.feedRows_memories (fuel mn c : Nat) : (State.feedRows fuel s mn c).memories = s.memories := by
  induction fuel generalizing s with
  | zero => rfl
  | succ n ih =>
    simp only [State.feedRows]
    repeat' split
    all_goals simp [ih]

@[simp] theorem State.feedAll_memories (mn : Nat) : (s.feedAll mn).memories = s.memories := by simp [State.feedAll]

@[simp] theorem State.acceptToken_memories (mn c ch : Nat) (w : Word) : (s.acceptToken mn c ch w).memories = s.memories := by
  simp [State.acceptToken]

@[simp] theorem State.reaccept_memories (fuel mn c : Nat) : (State.reaccept fuel s mn c).memories = s.memories := by
  induction fuel generalizing s with
  | zero => rfl
  | succ n ih =>
    simp only [State.reaccept]
    split
    · simp
    · simp [ih]

@[simp] theorem State.takeToken_memories (mn c ch : Nat) (t : Token) : (s.takeToken mn c ch t).memories = s.memories := by
  simp [State.takeToken]

@[simp] theorem State.matctl_memories (mn c : Nat) : (s.matctl mn c).memories = s.memories := by
  unfold State.matctl
  dsimp only
  repeat' split
  all_goals simp

@[simp] theorem State.fragStart_memories (mn : Nat) : (s.fragStart mn).memories = s.memories := by
  unfold State.fragStart
  dsimp only
  split
  · simp
  · split <;> simp

@[simp] theorem State.doneFence_memories (mn c : Nat) : (s.doneFence mn c).memories = s.memories := by
  unfold State.doneFence
  dsimp only
  split <;> simp

@[simp] theorem State.tileAcc_memories (f : FmtT) {go : Nat → Rd → State → Nat → Nat → TileState → State}
    (h : ∀ k r s mn t st, (go k r s mn t st).memories = s.memories) : (s.tileAcc f go).memories = s.memories := by
  unfold State.tileAcc
  refine State.engine_memories _ _ fun k r s => State.check_memories _ _ _ fun p => ?_
  simp [h]

@[simp] theorem State.ownTile_memories (mn t k : Nat) (st : TileState) : (s.ownTile mn t k st).memories = s.memories := by
  simp [State.ownTile]

@[simp] theorem State.busGrant_memories (b : Nat) : (s.busGrant b).memories = s.memories := by
  unfold State.busGrant
  dsimp only
  split
  · simp
  · split <;> simp

/-! ### Functions of Sys2Proof/Machine/Copies.lean -/

@[simp] theorem State.setCopy_memories (mt : Nat) (x : Copy) : (s.setCopy mt x).memories = s.memories := (rfl)

@[simp] theorem State.copyFault_memories (mt : Nat) (x : Copy) (e : Err) : (s.copyFault mt x e).memories = s.memories := by
  simp [State.copyFault]

@[simp] theorem State.copyComplete_memories (mt : Nat) (x : Copy) : (s.copyComplete mt x).memories = s.memories := by
  unfold State.copyComplete
  dsimp only
  split
  · simp
  · split <;> split <;> simp

@[simp] theorem State.chunkDone_memories (mt : Nat) (x : Copy) (n : Nat) : (s.chunkDone mt x n).memories = s.memories := by
  unfold State.chunkDone
  dsimp only
  split <;> simp

@[simp] theorem State.fillBytes_memories (part mt : Nat) (x : Copy) (tensor : Option Vec) (off n : Nat) :
    (s.fillBytes part mt x tensor off n).2.memories = s.memories := by
  unfold State.fillBytes
  dsimp only
  split
  · simp
  · split
    · simp
    · split <;> (next e => simp [memories_of_pair e])

@[simp] theorem State.driveFill_memories (mt mn at_ : Nat) (bs : List Byte) : (s.driveFill mt mn at_ bs).memories = s.memories :=
  (rfl)

@[simp] theorem State.fillChunk_memories (mt : Nat) (x : Copy) (mn woff nu : Nat) (tensor : Option Vec) :
    (s.fillChunk mt x mn woff nu tensor).memories = s.memories := by
  unfold State.fillChunk
  dsimp only
  split
  · simp
  · split
    · simp
    · split
      · simp
      · split <;> (next e => simp [memories_of_pair e])

@[simp] theorem State.launchFaulted_memories (id : Nat) : (s.launchFaulted id).memories = s.memories := by
  simp [State.launchFaulted]

@[simp] theorem State.dropOrder_memories (k acc : Nat) : (s.dropOrder k acc).memories = s.memories := by simp [State.dropOrder]

@[simp] theorem State.copyKill_memories (mt : Nat) (x : Copy) : (s.copyKill mt x).memories = s.memories := by
  unfold State.copyKill
  dsimp only
  split <;> simp

@[simp] theorem State.copyReturn_memories (mt : Nat) (x : Copy) (mode : Nat) :
    (s.copyReturn mt x mode).memories = s.memories := by
  unfold State.copyReturn
  split <;> simp

/-! ### Functions of Sys2Proof/Machine/Loader.lean -/

@[simp] theorem State.nameImage_memories (part addr : Nat) : (s.nameImage part addr).2.memories = s.memories := by
  unfold State.nameImage
  dsimp only
  split
  · split <;> simp
  · simp

@[simp] theorem State.loadImage_memories (part addr : Nat) (b : ImageBody) : (s.loadImage part addr b).memories = s.memories := by
  unfold State.loadImage
  dsimp only
  repeat' split
  all_goals simp

/-! ### Functions of Sys2Proof/Machine/Serai.lean -/

@[simp] theorem State.writeRoute_memories (p : Plan) (n : Nat) (c : ImgChan) (keys : List Nat) :
    (s.writeRoute p n c keys).memories = s.memories :=
  (rfl)

@[simp] theorem State.wire_memories (id : Nat) : (s.wire id).memories = s.memories := by
  refine State.foldl_memories _ _ _ fun s e => ?_
  dsimp only
  split <;> split <;> simp

@[simp] theorem State.takeSlot_memories (page c id : Nat) : (s.takeSlot page c id).memories = s.memories := (rfl)

@[simp] theorem State.bindIngress_memories (p : Plan) : (s.bindIngress p).memories = s.memories := by
  refine State.foldl_memories _ _ _ fun s c => ?_
  dsimp only
  split <;> simp

@[simp] theorem State.clearPreload_memories (part : Nat) (lps slots : List Nat) :
    (s.clearPreload part lps slots).memories = s.memories :=
  (rfl)

@[simp] theorem State.resumeLost_memories (id va detail : Nat) : (s.resumeLost id va detail).memories = s.memories := by
  simp [State.resumeLost]

@[simp] theorem State.saveLaunch_memories (id : Nat) : (s.saveLaunch id).memories = s.memories := by simp [State.saveLaunch]

@[simp] theorem State.moveIngress_memories (part id from_ to_ : Nat) :
    (s.moveIngress part id from_ to_).memories = s.memories := by
  simp [State.moveIngress]

/-! ### Functions of Sys2Proof/Machine/Convoy.lean -/

@[simp] theorem State.formHeader_memories (part die ctx launch group flags : Nat) (step : BitVec 32) :
    (s.formHeader part die ctx launch group flags step).memories = s.memories :=
  (rfl)

@[simp] theorem State.appendRow_memories (k group : Nat) (data scores : Vec) (seq : BitVec 32) :
    (s.appendRow k group data scores seq).memories = s.memories := by
  simp [State.appendRow]

@[simp] theorem State.flushLists_memories (k : Nat) : (s.flushLists k).memories = s.memories := by simp [State.flushLists]

@[simp] theorem State.closeLists_memories (k : Nat) (step : BitVec 32) (final : Bool) :
    (s.closeLists k step final).memories = s.memories := by
  simp [State.closeLists]

@[simp] theorem State.deliverBatch_memories (b : Batch) : (s.deliverBatch b).memories = s.memories := by simp [State.deliverBatch]

@[simp] theorem State.departRow_memories (part die : Nat) : (s.departRow part die).memories = s.memories := by
  unfold State.departRow
  dsimp only
  split <;> simp

@[simp] theorem State.productStart_memories (pd : Nat) (t : Token) : (s.productStart pd t).memories = s.memories := by
  simp [State.productStart]

@[simp] theorem State.cvyGive_memories (pd fuel : Nat) : (State.cvyGive pd fuel s).memories = s.memories := by
  induction fuel generalizing s with
  | zero => rfl
  | succ fuel ih =>
    simp only [State.cvyGive]
    split
    · rfl
    · split
      · simp only [ih, State.setIngress_memories, State.productStart_memories]
        refine State.foldl_memories _ _ _ fun s e => ?_
        split <;> simp
      · rfl

@[simp] theorem State.cvyRecord_memories (part die id : Nat) (cls : FaultClass) (word addr : Nat) :
    (s.cvyRecord part die id cls word addr).memories = s.memories := by
  simp [State.cvyRecord]

@[simp] theorem State.endStep_memories (part die size : Nat) : (s.endStep part die size).memories = s.memories := by
  simp [State.endStep]

@[simp] theorem State.endSteps_memories (part die size fuel : Nat) :
    (State.endSteps part die size fuel s).memories = s.memories := by
  induction fuel generalizing s with
  | zero => rfl
  | succ n ih =>
    simp only [State.endSteps]
    simp [ih]

@[simp] theorem State.countClose_memories (part die size : Nat) (h : BitVec 512) :
    (s.countClose part die size h).memories = s.memories := by
  simp [State.countClose]

@[simp] theorem State.batchOver_memories (part die size : Nat) (b : Batch) :
    (s.batchOver part die size b).memories = s.memories := by
  simp [State.batchOver]

@[simp] theorem State.linkArrives_memories (part die : Nat) (b : LinkBatch) :
    (s.linkArrives part die b).memories = s.memories := by
  simp [State.linkArrives]

@[simp] theorem State.takeBatch_memories (part die : Nat) : (s.takeBatch part die).memories = s.memories := by
  unfold State.takeBatch
  dsimp only
  repeat' split
  all_goals simp

@[simp] theorem State.batchReturn_memories (part die : Nat) : (s.batchReturn part die).memories = s.memories := by
  unfold State.batchReturn
  dsimp only
  split
  · simp
  · split
    · simp
    · next e =>
        split <;> simp [memories_of_pair e]

@[simp] theorem State.ingressReturn_memories (part die mode : Nat) : (s.ingressReturn part die mode).memories = s.memories := by
  unfold State.ingressReturn
  dsimp only
  repeat' split
  all_goals simp

/-! ### Functions of Sys2Proof/Machine/StepCache.lean -/

@[simp] theorem State.deliverT_memories (k : Nat) (v : Word) : (s.deliverT k v).memories = s.memories := (rfl)

@[simp] theorem State.decide_memories (mt : Nat) (l : Lookup) (sig : Option (List (BitVec 32))) :
    (s.decide mt l sig).memories = s.memories := by
  unfold State.decide
  dsimp only
  split
  · split <;> simp
  · simp

@[simp] theorem State.lookupSig_memories (mt : Nat) (l : Lookup) : (s.lookupSig mt l).2.memories = s.memories := by
  unfold State.lookupSig
  split
  · simp
  · split
    · split <;> (next e => simp [memories_of_pair e])
    · simp

@[simp] theorem State.stepDecision_memories (mt : Nat) : (s.stepDecision mt).memories = s.memories := by
  unfold State.stepDecision
  split
  · simp
  · split <;> (next e => simp [memories_of_pair e])

@[simp] theorem State.lookup_memories (f : FmtT) (bare : Bool) : (s.lookup f bare).memories = s.memories := by
  refine State.engine_memories _ _ fun k r s => State.check_memories _ _ _ fun _ => ?_
  simp

/-! ### Functions of Sys2Proof/Machine/Collect.lean -/

@[simp] theorem State.setCollective_memories (part : Nat) (c : Collective) :
    (s.setCollective part c).memories = s.memories := (rfl)

@[simp] theorem State.memberRecord_memories (part : Nat) (c : Collective) (m : Member) (e : Err) :
    (s.memberRecord part c m e).memories = s.memories := by
  simp [State.memberRecord]

@[simp] theorem State.memberFault_memories (part : Nat) (c : Collective) (m : Member) (e : Err) :
    (s.memberFault part c m e).memories = s.memories := by
  simp [State.memberFault]

@[simp] theorem State.exchange_memories (part grp : Nat) (seq : BitVec 32) (rank : Nat) (remote : List Byte) :
    (s.exchange part grp seq rank remote).memories = s.memories := by
  unfold State.exchange
  dsimp only
  split
  · simp
  · split
    · simp
    · split
      · split
        · simp
        · split
          · simp
          · split
            · simp
            · split <;> (next e => simp [memories_of_pair e])
      · simp

@[simp] theorem State.memberRelease_memories (part : Nat) (d : Vec) (n : Nat) :
    (s.memberRelease part d n).memories = s.memories := by
  unfold State.memberRelease
  dsimp only
  split <;> split <;> simp

@[simp] theorem State.memberReturn_memories (part : Nat) (c : Collective) (m : Member) (mode : Nat) :
    (s.memberReturn part c m mode).memories = s.memories := by
  unfold State.memberReturn
  dsimp only
  split <;> simp

@[simp] theorem State.collLinkDown_memories (link : Nat) : (s.collLinkDown link).memories = s.memories := by
  refine State.foldl_memories _ _ _ fun s e => State.foldl_memories _ _ _ fun s c => ?_
  simp

/-! ### Functions of Sys2Proof/Machine/Pages.lean -/

@[simp] theorem State.givePage_memories (part page : Nat) : (s.givePage part page).memories = s.memories := (rfl)

@[simp] theorem State.migrateRecord_memories (part lp a : Nat) (b : Option Nat) (asker : MoveBy) :
    (s.migrateRecord part lp a b asker).memories = s.memories := State.record_memories ..

@[simp] theorem State.startMove_memories (part : Nat) (m : Move) : (s.startMove part m).memories = s.memories := by
  simp [State.startMove]

@[simp] theorem State.requestMove_memories (part lp : Nat) (target : Option Nat) (asker : MoveBy) :
    (s.requestMove part lp target asker).2.memories = s.memories := by
  unfold State.requestMove
  dsimp only
  split
  · simp
  · split <;> simp

@[simp] theorem State.copyRegs_memories (src dst : Nat) : (s.copyRegs old src dst).memories = s.memories := (rfl)
@[simp] theorem State.leavePage_memories (page : Nat) : (s.leavePage page).memories = s.memories := by simp [State.leavePage]
@[simp] theorem State.renameScopes_memories (moves : List (Nat × Nat)) : (s.renameScopes moves).memories = s.memories := (rfl)
@[simp] theorem State.dropMove_memories (part : Nat) (m : Move) : (s.dropMove part m).memories = s.memories := (rfl)
@[simp] theorem State.setMove_memories (part : Nat) (m m' : Move) : (s.setMove part m m').memories = s.memories := (rfl)
@[simp] theorem State.bindPage_memories (part lp : Nat) (e : PageEntry) : (s.bindPage part lp e).memories = s.memories := (rfl)

@[simp] theorem State.relocate_memories (part lp page : Nat) : (s.relocate part lp page).memories = s.memories := by
  unfold State.relocate
  dsimp only
  split <;> simp

@[simp] theorem State.relocateSwap_memories (part : Nat) (x : Option Nat) :
    (State.relocateSwap s part x).memories = s.memories := by
  unfold State.relocateSwap
  split
  · simp
  · split <;> simp

@[simp] theorem State.throttle_memories : s.throttle.memories = s.memories := by simp [State.throttle]

@[simp] theorem State.thermRenewal_memories (page : Nat) (temp : BitVec 12) :
    (s.thermRenewal page temp).memories = s.memories := by
  unfold State.thermRenewal
  dsimp only
  split <;> simp

/-! ### Functions of Sys2Proof/Machine/Drover.lean -/

@[simp] theorem State.nameAll_memories (part : Nat) (rs : List LaunchRec) (acc : List ImageBody) :
    (State.nameAll part rs acc s).2.memories = s.memories := by
  induction rs generalizing acc s with
  | nil => rfl
  | cons r rs ih =>
    simp only [State.nameAll]
    split
    · next e => simp [memories_of_pair e, ih]
    · next e => simp [memories_of_pair e]
    · next e => simp [memories_of_pair e]

@[simp] theorem State.enqueue_memories (part graph issuer : Nat) (super : Bool) (r : LaunchRec) :
    (s.enqueue part graph issuer super r).2.memories = s.memories :=
  (rfl)

@[simp] theorem State.admission_memories (part issuer : Nat) (recs : List (Option LaunchRec)) (phase : Option Nat)
    (super : Bool) :
    (s.admission part issuer recs phase super).2.memories = s.memories := by
  simp only [State.admission]
  split
  · simp
  · split
    · next e => simp [memories_of_pair e]
    · next e => simp [memories_of_pair e]
    · next e => simp [memories_of_pair e, State.foldl_snd_memories]

@[simp] theorem State.readRecords_memories (k n va : Nat) (acc : List Nat) :
    (State.readRecords k n va acc s).2.memories = s.memories := by
  induction n generalizing va acc s with
  | zero => rfl
  | succ n ih =>
    simp only [State.readRecords]
    split
    · next e => simp [memories_of_pair e]
    · next e => simp [memories_of_pair e, ih]

@[simp] theorem State.badPhase_memories (part n : Nat) : (s.badPhase part n).memories = s.memories := by simp [State.badPhase]
@[simp] theorem State.mapJob_memories (part : Nat) (g : Job → Job) : (s.mapJob part g).memories = s.memories := (rfl)

@[simp] theorem State.startGraphs_memories (part ph fuel : Nat) : (State.startGraphs part ph fuel s).memories = s.memories := by
  induction fuel generalizing s with
  | zero => rfl
  | succ n ih =>
    simp only [State.startGraphs]
    split
    · simp
    · split
      · split
        · simp [ih]
        · split
          · next e => simp [memories_of_pair e]
          · next e => simp [memories_of_pair e, ih]
          · next e => simp [memories_of_pair e, ih]
      · simp [ih]

@[simp] theorem State.startPhase_memories (part n : Nat) : (s.startPhase part n).memories = s.memories := by
  unfold State.startPhase
  dsimp only
  split <;> simp

@[simp] theorem State.evaluate_memories (part : Nat) (ph : Phase) : (s.evaluate part ph).memories = s.memories := by
  unfold State.evaluate
  dsimp only
  split <;> simp

@[simp] theorem State.phaseSettle_memories (part : Nat) : (s.phaseSettle part).memories = s.memories := by
  unfold State.phaseSettle
  dsimp only
  split
  · simp
  · split <;> simp

@[simp] theorem State.settle_memories : s.settle.memories = s.memories := by simp [State.settle]

@[simp] theorem State.cancelHandle_memories (part : Nat) (h : Word) : (s.cancelHandle part h).memories = s.memories := by
  unfold State.cancelHandle
  split <;> simp

@[simp] theorem State.ageLevel_memories (part level : Nat) : (s.ageLevel part level).memories = s.memories := by
  simp [State.ageLevel]

@[simp] theorem State.bar_memories (part id : Nat) : (s.bar part id).memories = s.memories := (rfl)
@[simp] theorem State.unbar_memories (part id : Nat) : (s.unbar part id).memories = s.memories := (rfl)

@[simp] theorem State.refuseIngress_memories (part id die : Nat) : (s.refuseIngress part id die).memories = s.memories := by
  simp [State.refuseIngress]

@[simp] theorem State.findRoom_memories (part level id : Nat) (b : ImageBody) :
    (s.findRoom part level id b).memories = s.memories := by
  unfold State.findRoom
  dsimp only
  repeat' split
  all_goals simp

@[simp] theorem State.preload_memories (part : Nat) : (s.preload part).memories = s.memories := by
  unfold State.preload
  repeat' split
  all_goals simp

/-! ### Functions of Sys2Proof/Machine/Streams.lean -/

@[simp] theorem State.setStream_memories (key : Nat) (x : Stream) : (s.setStream key x).memories = s.memories := (rfl)

@[simp] theorem State.streamFault_memories (key : Nat) (x : Stream) (e : Err) (elem : Nat) :
    (s.streamFault key x e elem).memories = s.memories := by
  simp [State.streamFault]

@[simp] theorem State.rowBits_memories (part : Nat) (t : Vec) (eng : Engine) (w e n : Nat) :
    (s.rowBits part t eng w e n).2.memories = s.memories := by
  unfold State.rowBits
  dsimp only
  split
  · split <;> (next e => simp [memories_of_pair e])
  · split <;> (next e => simp [memories_of_pair e])

@[simp] theorem State.readPieces_memories (part : Nat) (x : Stream) (at_ : Nat) (l : List (Nat × Nat)) (v : Nat) :
    (State.readPieces part x at_ l s v).2.memories = s.memories := by
  induction l generalizing s v with
  | nil => rfl
  | cons p l ih =>
    simp only [State.readPieces]
    split
    · simp [ih]
    · split
      · next e => simp [memories_of_pair e]
      · next e => simp [memories_of_pair e, ih]

@[simp] theorem State.fetchTokens_memories (part : Nat) (x : Stream) (stop fuel e : Nat) (acc : List Vec) :
    (State.fetchTokens part x stop fuel s e acc).2.memories = s.memories := by
  induction fuel generalizing s e acc with
  | zero => rfl
  | succ fuel ih =>
    simp only [State.fetchTokens]
    split
    · simp
    · split
      · next e => simp [memories_of_pair e]
      · next e => simp [memories_of_pair e, ih]

@[simp] theorem State.fetchAhead_memories (x : Stream) : (s.fetchAhead x).2.memories = s.memories := by
  unfold State.fetchAhead
  split
  · simp
  · split <;> (next e => simp [memories_of_pair e])

@[simp] theorem State.readWalk_memories (key : Nat) (x : Stream) : (s.readWalk key x).memories = s.memories := by
  unfold State.readWalk
  dsimp only
  split
  · simp
  · split
    · simp
    · split <;> (next e => simp [memories_of_pair e])

@[simp] theorem State.qHead_memories (x : Stream) : (s.qHead x).2.memories = s.memories := by
  unfold State.qHead
  dsimp only
  split <;> (next e => simp [memories_of_pair e])

@[simp] theorem State.headerCheck_memories (key : Nat) : (s.headerCheck key).memories = s.memories := by
  unfold State.headerCheck
  split
  · simp
  · split
    · simp
    · split
      · simp
      · split
        · simp
        · split <;> (next e => simp [memories_of_pair e])

@[simp] theorem State.dropStream_memories (key : Nat) (x : Stream) : (s.dropStream key x).memories = s.memories := by
  simp [State.dropStream]

@[simp] theorem State.streamReturn_memories (key : Nat) (x : Stream) (mode : Nat) :
    (s.streamReturn key x mode).memories = s.memories := by
  unfold State.streamReturn
  split
  · simp
  · split <;> simp

/-! ### Functions of Sys2Proof/Machine/Fabric.lean -/

@[simp] theorem State.entryTurn_memories (part va : Nat) (writes : Bool) (n : Nat) (acc : List (Option Nat)) :
    (State.entryTurn part va writes n s acc).2.memories = s.memories := by
  induction n generalizing acc s with
  | zero => rfl
  | succ n ih =>
    simp only [State.entryTurn]
    split
    · simp [ih]
    · split <;> (next e => simp [memories_of_pair e, ih])

theorem State.takeRequest_memories {s : State} {k acc : Nat} : ∀ r ∈ s.takeRequest k acc, r.memories = s.memories := by
  intro r hr
  obtain ⟨a, -, hr⟩ := Option.bind_eq_some_iff.1 hr
  dsimp only at hr
  split at hr
  · refine State.memories_of_ite_some ?_ hr; rfl
  · refine State.memories_of_ite_some ?_ hr; rfl
  · refine State.memories_of_ite_some ?_ hr; rfl
  · refine State.memories_of_ite_some ?_ hr; rfl
  · simp at hr

@[simp] theorem State.publishOrder_memories (k j : Nat) : (s.publishOrder k j).memories = s.memories := by
  unfold State.publishOrder
  dsimp only
  split
  · split <;> simp
  · simp

@[simp] theorem State.mapExtFree_memories (ch : Nat) (f : Nat → Nat) : (s.mapExtFree ch f).memories = s.memories := by
  simp [State.mapExtFree]

@[simp] theorem State.returnSegment_memories (ch seg : Nat) : (s.returnSegment ch seg).memories = s.memories := by
  simp [State.returnSegment]

@[simp] theorem State.readEntries_memories (part : Nat) (l : List Nat) (n : Nat) :
    (State.readEntries part l s n).2.2.memories = s.memories := by
  induction l generalizing s n with
  | nil => rfl
  | cons e l ih =>
    simp only [State.readEntries]
    split
    · next e => simp [memories_of_pair e, ih]
    · next e => simp [memories_of_pair e]

@[simp] theorem State.ringLost_memories (ch : Nat) : (s.ringLost ch).memories = s.memories := by simp [State.ringLost]

@[simp] theorem State.moveRefill_memories (ch : Nat) : (s.moveRefill ch).memories = s.memories := by
  unfold State.moveRefill
  dsimp only
  split <;> simp

@[simp] theorem State.refill_memories (ch : Nat) (err : Bool) : (s.refill ch err).memories = s.memories := by
  unfold State.refill
  dsimp only
  split
  · simp
  · split
    · simp
    · split
      · simp
      · split <;> (next e => simp [memories_of_triple e])

@[simp] theorem State.enlarge_memories (ch : Nat) : (s.enlarge ch).memories = s.memories := by
  unfold State.enlarge
  dsimp only
  split <;> simp

@[simp] theorem State.ringReturn_memories (ch mode : Nat) : (s.ringReturn ch mode).memories = s.memories := by
  unfold State.ringReturn
  dsimp only
  split <;> simp

@[simp] theorem State.quotaRecord_memories (ch : Nat) : (s.quotaRecord ch).memories = s.memories := by
  unfold State.quotaRecord
  dsimp only
  split <;> simp

@[simp] theorem State.turnEnd_memories (page : Nat) : (s.turnEnd page).memories = s.memories := by
  unfold State.turnEnd
  dsimp only
  repeat' split
  all_goals simp

@[simp] theorem State.watchCe_memories (k : Nat) : (s.watchCe k).memories = s.memories := by
  unfold State.watchCe
  dsimp only
  split
  · simp
  · split <;> simp

@[simp] theorem State.watchRouter_memories (rc : Nat) : (s.watchRouter rc).memories = s.memories := by
  unfold State.watchRouter
  dsimp only
  repeat' split
  all_goals simp

@[simp] theorem State.watchNode_memories (mn c : Nat) : (s.watchNode mn c).memories = s.memories := by
  unfold State.watchNode
  dsimp only
  split
  · simp
  · split <;> simp

/-! ### Functions of Sys2Proof/Machine/Regs.lean -/

@[simp] theorem State.csrPart_memories (part n : Nat) (v : Word) (start : Bool) :
    (s.csrPart part n v start).memories = s.memories := by
  unfold State.csrPart
  dsimp only
  split <;> simp

@[simp] theorem State.csrSet_memories (k n : Nat) (v : Word) : (s.csrSet k n v).memories = s.memories := by
  unfold State.csrSet
  split <;> simp

@[simp] theorem State.perfClear_memories (k n : Nat) : (s.perfClear k n).memories = s.memories := by simp [State.perfClear]

/-! ### Functions of Sys2Proof/Machine/Device.lean -/

@[simp] theorem State.mapDev_memories (g : Device → Device) : (s.mapDev g).memories = s.memories := (rfl)

@[simp] theorem State.owned_memories (fn : Nat) (host : Bool) {go : State} (h : go.memories = s.memories) :
    (s.owned fn host go).memories = s.memories := by simp [State.owned, h]

@[simp] theorem State.plainWrite_memories (n : Nat) (v : Word) (host : Bool) : (s.plainWrite n v host).memories = s.memories := by
  unfold State.plainWrite
  dsimp only
  split <;> simp

@[simp] theorem State.vfmapWrite_memories (n : Nat) (v : Word) (host : Bool) : (s.vfmapWrite n v host).memories = s.memories := by
  simp [State.vfmapWrite]

@[simp] theorem State.assignPage_memories (part page : Nat) : (s.assignPage part page).2.memories = s.memories := by
  simp [State.assignPage]

@[simp] theorem State.pgWrite_memories (v : Word) (host : Bool) {one : State → Nat → Nat → Bool × State}
    (h : ∀ s p g, (one s p g).2.memories = s.memories) : (s.pgWrite v host one).memories = s.memories := by
  refine State.owned_memories _ _ _ ((State.mapDev_memories ..).trans ?_)
  exact State.foldl_snd_memories _ _ _ fun p g => h _ _ _

@[simp] theorem State.pcfgWrite_memories (v : Word) (host : Bool) : (s.pcfgWrite v host).memories = s.memories := by
  simp [State.pcfgWrite]

@[simp] theorem State.xareaWrite_memories (v : Word) (host : Bool) : (s.xareaWrite v host).memories = s.memories := by
  simp [State.xareaWrite]

@[simp] theorem State.cntclrWrite_memories (v : Word) (host : Bool) : (s.cntclrWrite v host).memories = s.memories := by
  simp [State.cntclrWrite]

@[simp] theorem State.ownWrite_memories (v : Word) (host : Bool) : (s.ownWrite v host).memories = s.memories := (rfl)
@[simp] theorem State.mornos_memories : s.mornos.memories = s.memories := (rfl)
@[simp] theorem State.mornosGives_memories (n v : Nat) : (s.mornosGives n v).memories = s.memories := (rfl)
@[simp] theorem State.pfMsix_memories : s.pfMsix.memories = s.memories := (rfl)
@[simp] theorem State.linkLost_memories (link : Nat) : (s.linkLost link).memories = s.memories := by simp [State.linkLost]

/-! ### Functions of Sys2Proof/Machine/Pattern.lean -/

@[simp] theorem State.readBlock_memories (mt off : Nat) (t : Vec) : (s.readBlock mt off t).2.memories = s.memories := by
  unfold State.readBlock
  dsimp only
  split
  · next e => simp [memories_of_pair e]
  · next e =>
      split
      · simp [memories_of_pair e]
      · split
        · simp [memories_of_pair e]
        · split
          · next e2 => simp [memories_of_pair e, memories_of_pair e2]
          · next e2 =>
              split
              · simp [memories_of_pair e, memories_of_pair e2]
              · split <;> simp [memories_of_pair e, memories_of_pair e2]

@[simp] theorem State.patRoom_memories (mt n page ctx fuel : Nat) :
    (State.patRoom mt n page ctx fuel s).2.memories = s.memories := by
  induction fuel generalizing s with
  | zero => rfl
  | succ fuel ih =>
    simp only [State.patRoom]
    repeat' split
    all_goals simp [ih]

theorem State.patSlot_memories {s : State} {mt page ctx : Nat} : ∀ r ∈ s.patSlot mt page ctx, r.2.memories = s.memories := by
  unfold State.patSlot
  dsimp only
  split
  · simp
  · split <;> simp

@[simp] theorem State.setCompile_memories (mt : Nat) (c c' : Compile) : (s.setCompile mt c c').memories = s.memories := (rfl)

@[simp] theorem State.blockFault_memories (launch mt ctx : Nat) (uref : Word) (h w : Word) (cls : FaultClass) (addr word : Nat) :
    (s.blockFault launch mt ctx uref h w cls addr word).memories = s.memories := by
  simp [State.blockFault]

@[simp] theorem State.compileFault_memories (mt : Nat) (c : Compile) (cls : FaultClass) (addr : Nat) :
    (s.compileFault mt c cls addr).memories = s.memories := by
  simp [State.compileFault]

@[simp] theorem State.compileStart_memories (mt : Nat) : (s.compileStart mt).memories = s.memories := by
  unfold State.compileStart
  dsimp only
  split
  · simp
  · split
    · simp
    · split
      · simp
      · split
        · next e => simp [memories_of_pair e]
        · next e =>
            split
            · simp [memories_of_pair e]
            · split <;> simp [memories_of_pair e]

@[simp] theorem State.compileInstall_memories (mt : Nat) : (s.compileInstall mt).memories = s.memories := by
  unfold State.compileInstall
  dsimp only
  split
  · simp
  · split
    · simp
    · split
      · simp
      · split
        · simp
        · split
          · next e => simp [memories_of_pair e]
          · next e => simp [memories_of_pair e]
          · next e => simp [memories_of_pair e]
          · next e =>
              split <;> (next e2 => simp [memories_of_pair e, memories_of_pair e2])

@[simp] theorem State.compileReturn_memories (mt : Nat) (c : Compile) (mode : Nat) :
    (s.compileReturn mt c mode).memories = s.memories := by
  simp [State.compileReturn]

@[simp] theorem State.spmmProg_memories (mt i : Nat) (r : PatRec) (x : Copy) (hit : Bool) :
    (s.spmmProg mt i r x hit).memories = s.memories := by
  simp [State.spmmProg]

@[simp] theorem State.spmmFallback_memories (mt : Nat) (x : Copy) (d t : Vec) (count : Bool) :
    (s.spmmFallback mt x d t count).memories = s.memories := by
  unfold State.spmmFallback
  dsimp only
  split <;> (next e => simp [memories_of_pair e])

@[simp] theorem State.spmmStart_memories (mt : Nat) : (s.spmmStart mt).memories = s.memories := by
  unfold State.spmmStart
  dsimp only
  repeat' split
  all_goals simp

@[simp] theorem State.spmmRead_memories (mt base off : Nat) : (s.spmmRead mt base off).2.memories = s.memories := by
  unfold State.spmmRead
  dsimp only
  split <;> (next e => simp [memories_of_pair e])

@[simp] theorem State.spmmReturn_memories (mt : Nat) (x : Copy) (mode : Nat) :
    (s.spmmReturn mt x mode).memories = s.memories := by
  unfold State.spmmReturn
  dsimp only
  split <;> simp

/-! ### Functions of Sys2Proof/Machine/Stops.lean -/

@[simp] theorem State.takeBack_memories (k : Nat) : (s.takeBack k).memories = s.memories := by
  unfold State.takeBack
  dsimp only
  split <;> simp

@[simp] theorem State.cutBlock_memories (k : Nat) : (s.cutBlock k).memories = s.memories := by simp [State.cutBlock]

@[simp] theorem State.unitRest_memories (launch unit : Nat) : (s.unitRest launch unit).memories = s.memories := by
  unfold State.unitRest
  dsimp only
  repeat' split
  all_goals simp

@[simp] theorem State.requeueHead_memories (id mark : Nat) : (s.requeueHead id mark).memories = s.memories := by
  simp [State.requeueHead]

@[simp] theorem State.deferredRecord_memories (part : Nat) : (s.deferredRecord part).memories = s.memories := by
  unfold State.deferredRecord
  dsimp only
  split <;> simp

/-! ### Functions of Sys2Proof/Machine/Host.lean -/

@[simp] theorem State.onVf_memories (vf : Nat) {g : Nat → State} (h : ∀ p, (g p).memories = s.memories) :
    (s.onVf vf g).memories = s.memories := by
  unfold State.onVf
  repeat' split
  all_goals simp [h]

@[simp] theorem State.debugRead_memories (part a : Nat) : (s.debugRead part a).2.2.memories = s.memories := by
  unfold State.debugRead
  dsimp only
  repeat' split
  all_goals simp

@[simp] theorem State.startFails_memories (part err : Nat) : (s.startFails part err).memories = s.memories := (rfl)

@[simp] theorem State.startGoes_memories (part : Nat) : (s.startGoes part).memories = s.memories := by
  unfold State.startGoes
  dsimp only
  split
  · simp
  · split <;> (next e => simp [memories_of_pair e])

@[simp] theorem State.jobStart_memories (part : Nat) : (s.jobStart part).memories = s.memories := by
  unfold State.jobStart
  dsimp only
  repeat' split
  all_goals simp

@[simp] theorem State.lateStarts_memories : s.lateStarts.memories = s.memories := by simp [State.lateStarts]

/-! ### Functions of Sys2Proof/Machine/Cycle.lean -/

@[simp] theorem State.tickChan_memories (ch : Nat) : (s.tickChan ch).memories = s.memories := by simp [State.tickChan]

/-! ### Functions of Sys2Proof/Machine/Dram.lean -/

@[simp] theorem State.freeSector_memories (tile : Nat) : (s.freeSector tile).memories = s.memories := by simp [State.freeSector]

@[simp] theorem State.devRefuse_memories (r : DevReq) (detail : Nat) : (s.devRefuse r detail).memories = s.memories := by
  unfold State.devRefuse
  dsimp only
  split <;> split <;> simp

@[simp] theorem State.devReply_memories (r : DevReq) (v : Vec) : (s.devReply r v).memories = s.memories := by
  unfold State.devReply
  repeat' split
  all_goals simp

@[simp] theorem State.walkEntry_memories (part die level addr : Nat) :
    (s.walkEntry part die level addr).2.memories = s.memories := by
  unfold State.walkEntry
  dsimp only
  split
  · simp
  · split <;> (next e => simp [memories_of_pair e])

@[simp] theorem State.walkLevel_memories (die : Nat) (w : Walk) : (s.walkLevel die w).2.memories = s.memories := by
  unfold State.walkLevel
  dsimp only
  split
  · simp
  · split
    · next e => simp [memories_of_pair e]
    · next e => simp [memories_of_pair e]
    · next e =>
        split <;> simp [memories_of_pair e]

@[simp] theorem State.walkRead_memories (die n : Nat) : (s.walkRead die n).memories = s.memories := by
  unfold State.walkRead
  dsimp only
  split <;> simp

@[simp] theorem State.retryMisses_memories (die : Nat) : (s.retryMisses die).memories = s.memories := (rfl)

@[simp] theorem State.walkDone_memories (die n : Nat) : (s.walkDone die n).memories = s.memories := by
  simp only [State.walkDone]
  split
  · rfl
  · split
    · rfl
    · rfl
    · simp only [State.retryMisses_memories]
      rw [State.foldl_memories]
      · rfl
      · simp
    · simp only [State.retryMisses_memories]
      rw [State.foldl_memories]
      · simp
      · intro s x
        split <;> simp

/-! ### Functions of Sys2Proof/Machine/System.lean -/

@[simp] theorem State.countLost_memories (id n : Nat) : (s.countLost id n).memories = s.memories := by
  simp only [State.countLost]
  simp

theorem State.tretCe_memories {s : State} {part : Nat} {u : Word} {mode : Nat} :
    ∀ r ∈ s.tretCe part u mode, r.2.memories = s.memories := by
  unfold State.tretCe
  dsimp only
  repeat' split
  all_goals simp

theorem State.tretOp_memories {s : State} {part : Nat} {u : Word} {mode : Nat} :
    ∀ r ∈ s.tretOp part u mode, r.2.memories = s.memories := by
  unfold State.tretOp
  dsimp only
  repeat' split
  all_goals simp

@[simp] theorem State.dropMnToken_memories (x : MnCtx) : (s.dropMnToken x).memories = s.memories := by
  unfold State.dropMnToken
  split <;> simp

theorem State.tretMn_memories {s : State} {part : Nat} {u : Word} {mode : Nat} :
    ∀ r ∈ s.tretMn part u mode, r.2.memories = s.memories := by
  unfold State.tretMn
  dsimp only
  repeat' split
  all_goals simp

@[simp] theorem State.killSavedCopy_memories (id : Nat) (mt : Nat) (x : Copy) :
    (s.killSavedCopy id mt x).memories = s.memories := by
  unfold State.killSavedCopy
  dsimp only
  split <;> simp

theorem State.tretCopy_memories {s : State} {part : Nat} {u : Word} {mode : Nat} :
    ∀ r ∈ s.tretCopy part u mode, r.2.memories = s.memories := by
  unfold State.tretCopy
  dsimp only
  split
  · simp
  · split <;> split <;> simp

theorem State.tretStream_memories {s : State} {part : Nat} {u : Word} {mode : Nat} :
    ∀ r ∈ s.tretStream part u mode, r.2.memories = s.memories := by
  unfold State.tretStream
  dsimp only
  repeat' split
  all_goals simp

theorem State.tretCompile_memories {s : State} {part : Nat} {u : Word} {mode : Nat} :
    ∀ r ∈ s.tretCompile part u mode, r.2.memories = s.memories := by
  unfold State.tretCompile
  dsimp only
  split
  · simp
  · split <;> simp

theorem State.tretIngress_memories {s : State} {part : Nat} {u : Word} {mode : Nat} :
    ∀ r ∈ s.tretIngress part u mode, r.2.memories = s.memories := by
  unfold State.tretIngress
  dsimp only
  split <;> simp

theorem State.tretMember_memories {s : State} {part : Nat} {u : Word} {mode : Nat} :
    ∀ r ∈ s.tretMember part u mode, r.2.memories = s.memories := by
  intro r hr
  simp only [State.tretMember, Option.mem_def] at hr
  split at hr
  · simp at hr
  · obtain ⟨p, -, hp⟩ := List.exists_of_findSome?_eq_some hr
    obtain ⟨x, -, rfl⟩ := Option.map_eq_some_iff.1 hp
    simp

theorem State.tretRing_memories {s : State} {part : Nat} {u : Word} {mode : Nat} :
    ∀ r ∈ s.tretRing part u mode, r.2.memories = s.memories := by
  unfold State.tretRing
  split <;> simp

theorem State.tret_memories {s : State} {part : Nat} {u : Word} {mode : Nat} :
    ∀ r ∈ s.tret part u mode, r.2.memories = s.memories := by
  unfold State.tret
  split
  · exact State.tretCe_memories
  · exact State.tretOp_memories
  · exact State.tretMn_memories
  · exact State.tretCopy_memories
  · exact State.tretStream_memories
  · split
    · next h => exact h ▸ State.tretCopy_memories
    · exact State.tretCompile_memories
  · exact State.tretIngress_memories
  · exact State.tretMember_memories
  · exact State.tretRing_memories
  · simp

@[simp] theorem State.growQuota_memories (id i kib : Nat) : (s.growQuota id i kib).memories = s.memories := by
  simp [State.growQuota]

/-! ### Functions of Sys2Proof/Machine/Fetch.lean -/

@[simp] theorem State.nextTurn_memories : s.nextTurn.2.memories = s.memories := by
  unfold State.nextTurn
  split <;> simp

end

/-! ## Functions that write memory -/

section
variable {s : State}

/-- Each memory of the list is in its canonical form; for the memories of a state this is `MemoryOk` (`canonical_iff`). -/
def Canonical (ms : List Memory) : Prop := ∀ m ∈ ms, Memory.wf m = true

@[simp] theorem canonical_ite (c : Prop) [Decidable c] (a b : List Memory) :
    Canonical (if c then a else b) ↔ if c then Canonical a else Canonical b := by split <;> rfl

theorem canonical_iff : Canonical s.memories ↔ MemoryOk s := by
  simp only [Canonical, State.memories, List.forall_mem_cons, List.not_mem_nil]
  exact ⟨fun ⟨hs, hi, hw, ha, hd, _⟩ => ⟨hs, hi, hw, ha, hd⟩, fun h =>
    ⟨h.scratch, h.istore, h.wbuf, h.accs, h.device, by simp⟩⟩

theorem canonical_foldl {α : Type} (l : List α) {g : State → α → State}
    (hg : ∀ s x, Canonical s.memories → Canonical (g s x).memories)
    (h : Canonical s.memories) : Canonical (l.foldl g s).memories := by
  induction l generalizing s with
  | nil => exact h
  | cons x l ih => exact ih (hg s x h)

theorem canonical_foldl_snd {α β : Type} (l : List α) {g : β × State → α → β × State}
    (hg : ∀ p x, Canonical p.2.memories → Canonical (g p x).2.memories) {p : β × State} (h : Canonical p.2.memories) :
    Canonical (l.foldl g p).2.memories := by
  induction l generalizing p with
  | nil => exact h
  | cons x l ih => exact ih (hg p x h)

theorem Memory.foldl_wf {α : Type} (l : List α) {g : Memory → α → Memory}
    (hg : ∀ m x, Memory.wf m = true → Memory.wf (g m x) = true)
    {m : Memory} (h : Memory.wf m = true) : Memory.wf (l.foldl g m) = true := by
  induction l generalizing m with
  | nil => exact h
  | cons x l ih => exact ih (hg m x h)

theorem Memory.moveRange_wf {m : Memory} (h : Memory.wf m = true) (old : Memory) (src dst n : Nat) :
    Memory.wf (m.moveRange old src dst n) = true :=
  Memory.foldl_wf _ (fun _ _ hm => Memory.write_wf hm _ _) (Memory.clear_wf h _ _)

section
variable (h : Canonical s.memories) {m : Memory} (hm : Memory.wf m = true)
include h hm

theorem canonical_scratch :
    Canonical ({ s with scratch := m } : State).memories := canonical_iff.2 { canonical_iff.1 h with scratch := hm }

theorem canonical_istore :
    Canonical ({ s with istore := m } : State).memories := canonical_iff.2 { canonical_iff.1 h with istore := hm }

theorem canonical_wbuf :
    Canonical ({ s with wbuf := m } : State).memories := canonical_iff.2 { canonical_iff.1 h with wbuf := hm }

theorem canonical_accs :
    Canonical ({ s with accs := m } : State).memories := canonical_iff.2 { canonical_iff.1 h with accs := hm }

theorem canonical_device :
    Canonical ({ s with device := m } : State).memories := canonical_iff.2 { canonical_iff.1 h with device := hm }

end

/-! ### Functions of Sys2Proof/Machine/Access.lean -/

@[simp] theorem State.devWriteSector_canonical (h : Canonical s.memories) (pa : Nat) (bs : List Byte) :
    Canonical (s.devWriteSector pa bs).memories := by
  have hd : Canonical ((s.xareaOf pa).foldl State.dropCaches s).memories := by simpa using h
  refine canonical_foldl _ (fun s p h => by simpa using h) ?_
  exact canonical_device hd (Memory.writeBytes_wf (canonical_iff.1 hd).device _ _)

@[simp] theorem State.devWrite_canonical (h : Canonical s.memories) (fuel pa : Nat) (bs : List Byte) :
    Canonical (State.devWrite fuel s pa bs).memories := by
  induction fuel generalizing s pa bs with
  | zero => exact h
  | succ fuel ih =>
    simp only [State.devWrite]
    split
    · exact h
    · exact ih (State.devWriteSector_canonical h _ _) _ _

@[simp] theorem State.scratchWrite_canonical (h : Canonical s.memories) (mt off : Nat) (bs : List Byte) :
    Canonical (s.scratchWrite mt off bs).memories := by
  have hw := canonical_scratch h (Memory.writeBytes_wf (canonical_iff.1 h).scratch (scratchAddr mt off) bs)
  simp only [State.scratchWrite]
  split
  · exact h
  · simpa using hw

@[simp] theorem State.lineOp_canonical (h : Canonical s.memories) (r : BankReq) (mt k : Nat) :
    Canonical (s.lineOp r mt k).2.memories := by
  simp only [State.lineOp, State.memories_ite, State.memories_mk, State.acquire_memories, ite_self]
  split
  · exact h
  · have hw (bs : List Byte) :=
      canonical_scratch h (Memory.writeBytes_wf (canonical_iff.1 h).scratch (scratchAddr mt (128 * r.line)) bs)
    simp only [State.watch_memories, State.wordsWhole_memories]
    exact hw _

/-! ### Functions of Sys2Proof/Machine/Banks.lean -/

@[simp] theorem State.serveDirect_canonical (h : Canonical s.memories) (mt : Nat) (q : BankReq) (err : WordErr) :
    Canonical (s.serveDirect mt q err).memories := by
  unfold State.serveDirect
  repeat' split
  all_goals simp [h]

@[simp] theorem State.serveGather_canonical (h : Canonical s.memories) (mt slot : Nat) (r : GatherReq) (line : Nat)
    (err : WordErr) :
    Canonical (s.serveGather mt slot r line err).memories := by
  unfold State.serveGather
  dsimp only
  split <;> simp [h]

@[simp] theorem State.settleGates_canonical (h : Canonical s.memories) (page : Nat) :
    Canonical (s.settleGates page).memories := by
  simp only [State.settleGates]
  split
  · exact h
  · refine canonical_foldl _ (fun s i h => ?_) (by simpa using h)
    split
    · exact h
    · exact canonical_scratch h (Memory.clear_wf (canonical_iff.1 h).scratch _ _)

@[simp] theorem State.bankServe_canonical (h : Canonical s.memories) (mt bank : Nat) (err : WordErr) :
    Canonical (s.bankServe mt bank err).memories := by
  unfold State.bankServe
  dsimp only
  repeat' split
  all_goals simp [h]

/-! ### Functions of Sys2Proof/Machine/Place.lean -/

@[simp] theorem State.writeSpot_canonical (h : Canonical s.memories) (port : Nat) (p : Spot × List Byte) :
    Canonical (State.writeSpot port s p).memories := by
  unfold State.writeSpot
  split
  · simp [h]
  · simp [h]
  · exact canonical_istore h (Memory.writeBytes_wf (canonical_iff.1 h).istore _ _)

@[simp] theorem State.writeAt_canonical (h : Canonical s.memories) (part launch ap a : Nat) (bs : List Byte) (e : Engine) :
    Canonical (s.writeAt part launch ap a bs e).2.memories := by
  unfold State.writeAt
  split
  · next e => simpa [memories_of_pair e] using h
  · next e => exact canonical_foldl _ (fun s p h => State.writeSpot_canonical h _ p) (by simpa [memories_of_pair e] using h)

/-! ### Functions of Sys2Proof/Machine/Matrix.lean -/

@[simp] theorem State.fragWrite_canonical (h : Canonical s.memories) (mn : Nat) (f : Fragment) :
    Canonical (s.fragWrite mn f).memories :=
  canonical_accs h (Memory.foldl_wf _ (fun _ _ hm => Memory.writeBytes_wf hm _ _) (canonical_iff.1 h).accs)

@[simp] theorem State.fragComplete_canonical (h : Canonical s.memories) (mn : Nat) : Canonical (s.fragComplete mn).memories := by
  unfold State.fragComplete
  dsimp only
  split <;> simp [h]

@[simp] theorem State.restoreTile_canonical (h : Canonical s.memories) (mn : Nat) (r : TileEntry) :
    Canonical (s.restoreTile mn r).memories := by
  simp only [State.restoreTile, State.memories_ite, State.reaccept_memories, State.mapMn_memories, ite_self]
  have hc := Memory.clear_wf (canonical_iff.1 h).accs
  exact canonical_accs h (Memory.foldl_wf _ (fun _ _ hm => Memory.write_wf hm _ _) (hc _ _))

@[simp] theorem State.handover_canonical (h : Canonical s.memories) (mn t : Nat) : Canonical (s.handover mn t).memories := by
  unfold State.handover
  repeat' split
  all_goals simp [h]

@[simp] theorem State.busTake_canonical (h : Canonical s.memories) (mn : Nat) (t : BusXfer) :
    Canonical (s.busTake mn t).memories := by
  unfold State.busTake
  split
  · exact canonical_wbuf h (Memory.writeBytes_wf (canonical_iff.1 h).wbuf _ _)
  · simpa using h

@[simp] theorem State.busDeliver_canonical (h : Canonical s.memories) (b : Nat) : Canonical (s.busDeliver b).memories := by
  simp only [State.busDeliver]
  split
  · exact h
  · split
    · exact h
    · exact canonical_foldl _ (fun s mn h => State.busTake_canonical h mn _) h

/-! ### Functions of Sys2Proof/Machine/Copies.lean -/

@[simp] theorem State.copyChunk_canonical (h : Canonical s.memories) (mt : Nat) (x : Copy) :
    Canonical (s.copyChunk mt x).memories := by
  unfold State.copyChunk
  dsimp only
  split
  · simp [h]
  · split
    · split
      · next e => simp [memories_of_pair e, h]
      · next e => simp [memories_of_pair e, h]
      · next e =>
          split <;> (next e2 => simp [memories_of_pair e, memories_of_pair e2, h])
    · exact h

@[simp] theorem State.copyStep_canonical (h : Canonical s.memories) (mt : Nat) : Canonical (s.copyStep mt).memories := by
  unfold State.copyStep
  dsimp only
  split
  · exact h
  · split <;> simp [h]

/-! ### Functions of Sys2Proof/Machine/Serai.lean -/

@[simp] theorem State.writeCode_canonical (h : Canonical s.memories) (k : Nat) (code : List Byte) :
    Canonical (s.writeCode k code).memories :=
  canonical_istore h (Memory.writeBytes_wf (Memory.clear_wf (canonical_iff.1 h).istore _ _) _ _)

@[simp] theorem State.placePage_canonical (h : Canonical s.memories) (p : Plan) (l : Launch) (i : Nat) :
    Canonical (s.placePage p l i).memories := by
  refine canonical_foldl _ (fun s e h => ?_) (by simpa using h)
  dsimp only
  split
  · simp [h]
  · exact h

@[simp] theorem State.placeLaunch_canonical (h : Canonical s.memories) (id : Nat) (lps slots : List Nat) (b : ImageBody) :
    Canonical (s.placeLaunch id lps slots b).memories := by
  simp only [State.placeLaunch, State.memories_ite, State.startStop_memories, ite_self]
  rw [State.foldl_memories _ _ _ fun s k => State.trigger_memories .., State.wire_memories, State.bindIngress_memories,
    State.foldl_memories, State.foldl_memories]
  · refine canonical_foldl _ (fun s d h => State.scratchWrite_canonical h _ _ _) ?_
    refine canonical_foldl _ (fun s i h => State.placePage_canonical h _ _ _) ?_
    simpa using h
  all_goals
    intro s i
    split <;> simp

@[simp] theorem State.resumePage_canonical (h : Canonical s.memories) (id part : Nat) (p : Plan) (i : Nat) (sv : SavedPage)
    (f : Nat → Nat) :
    Canonical (s.resumePage id part p i sv f).memories := by
  refine canonical_foldl _ (fun s x h => ?_) ?_
  · have hc := Memory.clear_wf (canonical_iff.1 h).istore
    exact canonical_istore h (Memory.foldl_wf _ (fun _ _ hm => Memory.write_wf hm _ _) (hc _ _))
  · iterate 4 rw [State.foldl_memories]
    rw [State.memories_mk, State.setEgress_memories]
    iterate 4 rw [State.foldl_memories]
    · simpa using h
    all_goals
      intro s x
      repeat' split
      all_goals simp

@[simp] theorem State.restoreLaunch_canonical (h : Canonical s.memories) (id : Nat) (slots : List Nat) :
    Canonical (s.restoreLaunch id slots).memories := by
  unfold State.restoreLaunch
  dsimp only
  split
  · exact h
  · have pump (s : State) (k : Nat) : ((s.trigger k).pump k).memories = s.memories := by simp
    have again (s : State) (x : Nat × Nat) :
      (State.reaccept 64 (State.reaccept 64 s (x.1 * 2) x.2) (x.1 * 2 + 1) x.2).memories = s.memories := by simp
    rw [State.foldl_memories _ _ _ pump, State.foldl_memories _ _ _ again, State.unpark_memories, State.setLaunch_memories,
      State.wire_memories, State.foldl_memories _ _ _ fun s x => State.moveIngress_memories .., State.mapPart_memories,
      State.foldl_memories _ _ _ fun s i => State.setOp_memories .., State.foldl_memories, State.memories_mk]
    · refine canonical_foldl _ (fun s i h => ?_) (by simpa using h)
      split
      · exact State.resumePage_canonical h _ _ _ _ _ _
      · exact h
    · intro s i
      split <;> simp

@[simp] theorem State.resumeLaunch_canonical (h : Canonical s.memories) (id : Nat) (slots : List Nat) :
    Canonical (s.resumeLaunch id slots).memories := by
  unfold State.resumeLaunch
  split <;> simp [h]

/-! ### Functions of Sys2Proof/Machine/Convoy.lean -/

@[simp] theorem State.cvyWrite_canonical (h : Canonical s.memories) (part addr : Nat) (bs : List Byte) :
    Canonical (s.cvyWrite part addr bs).2.memories := by
  unfold State.cvyWrite
  dsimp only
  split
  · exact h
  · split <;> (next e => simp [memories_of_pair e, h])

@[simp] theorem State.placeAt_canonical (h : Canonical s.memories) (part die group size : Nat) (r : Row) (sdie : Nat)
    (pl : RowPlan) (page idx : Nat) :
    Canonical (s.placeAt part die group size r sdie pl page idx).memories := by
  -- unfolded under an equation: the kernel cannot evaluate the matcher on the address the function computes
  suffices ∀ place, State.placeAt = place → Canonical (place s part die group size r sdie pl page idx).memories from
    this _ rfl
  intro place hplace
  delta State.placeAt at hplace
  subst hplace
  beta_reduce
  extract_lets +onlyGivenNames pd regs g x addr id
  clear_value addr
  have hw (bs : List Byte) := State.cvyWrite_canonical h part addr bs
  split
  · next e => simpa only [memories_of_pair e] using hw _
  · next e => simpa only [State.cvyRecord_memories, State.setIngress_memories, memories_of_pair e] using hw _
  · next e =>
      simpa only [State.memories_ite, State.countCvy_memories, State.setIngress_memories, ite_self, memories_of_pair e] using hw _

@[simp] theorem State.placeRow_canonical (h : Canonical s.memories) (part die group size : Nat) (r : Row) (sdie : Nat) :
    Canonical (s.placeRow part die group size r sdie).memories := by
  unfold State.placeRow
  dsimp only
  repeat' split
  all_goals simp [h]

@[simp] theorem State.rowPlace_canonical (h : Canonical s.memories) (part die : Nat) :
    Canonical (s.rowPlace part die).memories := by
  unfold State.rowPlace
  dsimp only
  repeat' split
  all_goals simp [h]

/-! ### Functions of Sys2Proof/Machine/Collect.lean -/

@[simp] theorem State.memberComplete_canonical (h : Canonical s.memories) (part : Nat) (c : Collective) (m : Member)
    (xs : List (List Byte)) :
    Canonical (s.memberComplete part c m xs).memories := by
  unfold State.memberComplete
  dsimp only
  split
  · exact h
  · split
    · exact h
    · split <;> (next e => simp [memories_of_pair e, h])

@[simp] theorem State.collComplete_canonical (h : Canonical s.memories) (part grp : Nat) (seq : BitVec 32) :
    Canonical (s.collComplete part grp seq).memories := by
  unfold State.collComplete
  split
  · exact h
  · dsimp only
    split
    · exact h
    · split
      · refine canonical_foldl _ (fun s m h => ?_) h
        split <;> simp [h]
      · refine canonical_foldl _ (fun s m h => ?_) h
        split
        · split <;> simp [h]
        · exact h

/-! ### Functions of Sys2Proof/Machine/Pages.lean -/

@[simp] theorem State.takePage_canonical (h : Canonical s.memories) (part page : Nat) :
    Canonical (s.takePage part page).memories := by
  simp [State.takePage, h]

@[simp] theorem State.zeroPage_canonical (h : Canonical s.memories) (page : Nat) : Canonical (s.zeroPage page).memories := by
  obtain ⟨hs, hi, hw, ha, hd⟩ := canonical_iff.1 h
  refine canonical_foldl _ (fun s n h => by simpa using h) (canonical_iff.2 ?_)
  exact ⟨Memory.clear_wf hs _ _, Memory.clear_wf hi _ _, Memory.clear_wf hw _ _, Memory.clear_wf ha _ _, hd⟩

@[simp] theorem State.copyStores_canonical (h : Canonical s.memories) (old : State) (src dst : Nat) :
    Canonical (s.copyStores old src dst).memories := by
  obtain ⟨hs, hi, hw, ha, hd⟩ := canonical_iff.1 h
  simp only [State.copyStores, State.copyRegs_memories]
  refine canonical_foldl _ (fun s n h => by simpa using h) (canonical_iff.2 ?_)
  exact ⟨Memory.moveRange_wf hs _ _ _ _, Memory.moveRange_wf hi _ _ _ _, Memory.moveRange_wf hw _ _ _ _, ha, hd⟩

@[simp] theorem State.resumeAll_canonical (h : Canonical s.memories) (ids : List Nat) : Canonical (s.resumeAll ids).memories := by
  refine canonical_foldl _ (fun s id h => ?_) h
  dsimp only
  repeat' split
  all_goals simp [h]

@[simp] theorem State.transfer_canonical (h : Canonical s.memories) (part : Nat) (m : Move) :
    Canonical (s.transfer part m).memories := by
  unfold State.transfer
  dsimp only
  repeat' split
  all_goals simp [h]

@[simp] theorem State.commit_canonical (h : Canonical s.memories) (part : Nat) (m : Move) :
    Canonical (s.commit part m).memories := by
  unfold State.commit
  dsimp only
  split
  · exact h
  · split <;> split <;> split <;> simp [h]

@[simp] theorem State.skipGiven_canonical (h : Canonical s.memories) (part page : Nat) :
    Canonical (s.skipGiven part page).memories := by
  simp [State.skipGiven, h]

@[simp] theorem State.mapoutPage_canonical (h : Canonical s.memories) (page : Nat) : Canonical (s.mapoutPage page).memories := by
  unfold State.mapoutPage
  dsimp only
  repeat' split
  all_goals simp [h]

/-! ### Functions of Sys2Proof/Machine/Drover.lean -/

@[simp] theorem State.decidePlacement_canonical (h : Canonical s.memories) (part : Nat) :
    Canonical (s.decidePlacement part).memories := by
  unfold State.decidePlacement
  dsimp only
  repeat' split
  all_goals simp [h]

@[simp] theorem State.tryResume_canonical (h : Canonical s.memories) (id : Nat) : Canonical (s.tryResume id).memories := by
  unfold State.tryResume
  dsimp only
  repeat' split
  all_goals simp [h]

/-! ### Functions of Sys2Proof/Machine/Streams.lean -/

@[simp] theorem State.writeRow_canonical (h : Canonical s.memories) (x : Stream) (e n v : Nat) :
    Canonical (s.writeRow x e n v).2.memories := by
  unfold State.writeRow
  dsimp only
  split
  · simp [h]
  · split <;> (next e => simp [memories_of_pair e, h])

@[simp] theorem State.writePieces_canonical (x : Stream) (at_ v : Nat) (ps : List (Nat × Nat)) (h : Canonical s.memories) :
    Canonical (State.writePieces x at_ v ps s).2.memories := by
  induction ps generalizing s with
  | nil => exact h
  | cons p ps ih =>
    simp only [State.writePieces]
    split
    · simp [h, ih]
    · split
      · next e => simp [memories_of_pair e, h]
      · next e => simp [memories_of_pair e, h, ih]

@[simp] theorem State.writeWalk_canonical (h : Canonical s.memories) (key : Nat) (x : Stream) :
    Canonical (s.writeWalk key x).memories := by
  unfold State.writeWalk
  dsimp only
  split
  · exact h
  · split
    · simp [h]
    · split <;> (next e => simp [memories_of_pair e, h])

@[simp] theorem State.queuePop_canonical (h : Canonical s.memories) (key : Nat) (x : Stream) :
    Canonical (s.queuePop key x).memories := by
  unfold State.queuePop
  dsimp only
  split
  · next e => simp [memories_of_pair e, h]
  · next e => simp [memories_of_pair e, h]
  · next e =>
      split
      · simp [memories_of_pair e, h]
      · split
        · next e2 => simp [memories_of_pair e, memories_of_pair e2, h]
        · next e2 => simp [memories_of_pair e, memories_of_pair e2, h]
        · next e2 =>
            split <;> (next e3 => simp [memories_of_pair e, memories_of_pair e2, memories_of_pair e3, h])

@[simp] theorem State.queuePush_canonical (h : Canonical s.memories) (key : Nat) (x : Stream) :
    Canonical (s.queuePush key x).memories := by
  unfold State.queuePush
  dsimp only
  split
  · exact h
  · split
    · next e => simp [memories_of_pair e, h]
    · next e => simp [memories_of_pair e, h]
    · next e =>
        split
        · simp [memories_of_pair e, h]
        · split
          · next e2 => simp [memories_of_pair e, memories_of_pair e2, h]
          · next e2 => simp [memories_of_pair e, memories_of_pair e2, h]
          · next e2 =>
              split <;> (next e3 => simp [memories_of_pair e, memories_of_pair e2, memories_of_pair e3, h])

@[simp] theorem State.streamMove_canonical (h : Canonical s.memories) (key : Nat) (x : Stream) :
    Canonical (s.streamMove key x).memories := by
  unfold State.streamMove
  split <;> simp [h]

@[simp] theorem State.portMove_canonical (h : Canonical s.memories) (port : Nat) : Canonical (s.portMove port).memories := by
  unfold State.portMove
  dsimp only
  split
  · exact h
  · simp [h]

/-! ### Functions of Sys2Proof/Machine/Fabric.lean -/

@[simp] theorem State.writeEntry_canonical (h : Canonical s.memories) (at_ : List (Option Nat)) (bs : List Byte) :
    Canonical (s.writeEntry at_ bs).memories := by
  refine canonical_foldl _ (fun s e h => ?_) h
  split
  · exact State.devWriteSector_canonical h _ _
  · exact h

@[simp] theorem State.deliverEnd_canonical (h : Canonical s.memories) (ch : Nat) (c : Chan) (t : Token) :
    Canonical (s.deliverEnd ch c t).memories := by
  unfold State.deliverEnd
  split
  · simp [h]
  · split <;> (next e => simp [memories_of_pair e, h])

@[simp] theorem State.hopToken_canonical (h : Canonical s.memories) (ch i : Nat) : Canonical (s.hopToken ch i).memories := by
  unfold State.hopToken
  dsimp only
  split
  · exact h
  · simp [h]

@[simp] theorem State.tokenRecord_canonical (h : Canonical s.memories) (link part launch ctx : Nat) :
    Canonical (s.tokenRecord link part launch ctx).memories := by
  simp [State.tokenRecord, h]

@[simp] theorem State.loseToken_canonical (h : Canonical s.memories) (link ch i : Nat) :
    Canonical (s.loseToken link ch i).memories := by
  simp [State.loseToken, h]

@[simp] theorem State.systemError_canonical (h : Canonical s.memories) (k acc link : Nat) (lost : Bool) :
    Canonical (s.systemError k acc link lost).memories := by
  unfold State.systemError
  dsimp only
  split
  · exact h
  · next e => simp [State.takeRequest_memories _ e, h]

@[simp] theorem State.grant_canonical (h : Canonical s.memories) (link : Nat) (err : TokenErr) :
    Canonical (s.grant link err).memories := by
  unfold State.grant
  dsimp only
  split
  · exact h
  · split <;> simp [h]

/-! ### Functions of Sys2Proof/Machine/Device.lean -/

theorem State.owned_canonical {go : State} (h : Canonical s.memories) (fn : Nat) (host : Bool) (hg : Canonical go.memories) :
    Canonical (s.owned fn host go).memories := by
  unfold State.owned
  split
  · exact hg
  · simpa using h

@[simp] theorem State.releasePage_canonical (h : Canonical s.memories) (part page : Nat) :
    Canonical (s.releasePage part page).2.memories := by
  unfold State.releasePage
  repeat' split
  all_goals simp [h]

theorem State.pgWrite_canonical (h : Canonical s.memories) (v : Word) (host : Bool)
    {one : State → Nat → Nat → Bool × State}
    (ho : ∀ s p g, Canonical s.memories → Canonical (one s p g).2.memories) : Canonical (s.pgWrite v host one).memories := by
  refine State.owned_canonical h _ _ ?_
  rw [State.mapDev_memories]
  refine canonical_foldl_snd _ (fun p g hp => ?_) h
  exact ho p.2 s.dev.psel g hp

@[simp] theorem State.devRegWrite_canonical (h : Canonical s.memories) (n : Nat) (v : Word) (host : Bool) :
    Canonical (s.devRegWrite n v host).memories := by
  unfold State.devRegWrite
  split
  · simpa using h
  · split
    · simpa using h
    · split
      · simpa using State.pgWrite_canonical h v host fun s p g h => State.releasePage_canonical h p g
      · exact State.pgWrite_canonical h v host fun s p g h => by simpa using h
    · simpa using h
    · simpa using h
    · simpa using h
    · simpa using h

@[simp] theorem State.packageReset_canonical : Canonical s.packageReset.memories :=
  canonical_iff.2 ⟨rfl, rfl, rfl, rfl, rfl⟩

/-! ### Functions of Sys2Proof/Machine/Pattern.lean -/

@[simp] theorem State.spmmWrite_canonical (h : Canonical s.memories) (mt off : Nat) (v : Vec) :
    Canonical (s.spmmWrite mt off v).2.memories := by
  unfold State.spmmWrite
  split <;> (next e => simp [memories_of_pair e, h])

@[simp] theorem State.spmmWork_canonical (mt : Nat) (d t : Vec) (acc : Bool) (m n : Nat) (x : Copy) (h : Canonical s.memories) :
    Canonical (State.spmmWork mt d t acc m n s x).2.2.memories := by
  induction m generalizing s n x with
  | zero => exact h
  | succ m ih =>
    simp only [State.spmmWork]
    split
    · exact h
    · split
      · split
        · exact h
        · split
          · next s' e =>
              have hr : Canonical s'.memories := by
                rw [memories_of_pair e]
                split
                · exact h
                · split <;> simp [h]
              exact hr
          · next s' e =>
              have hr : Canonical s'.memories := by
                rw [memories_of_pair e]
                split
                · exact h
                · split <;> simp [h]
              split
              · next e => simp [memories_of_pair e, hr]
              · next e => simp [memories_of_pair e, hr, ih]
      · split
        · simp [h, ih]
        · split
          · next e => simp [memories_of_pair e, h]
          · next e => simp [memories_of_pair e, h, ih]

@[simp] theorem State.spmmComplete_canonical (h : Canonical s.memories) (mt : Nat) : Canonical (s.spmmComplete mt).memories := by
  unfold State.spmmComplete
  split
  · exact h
  · split
    · split <;> (next e => simp [memories_of_triple e, h])
    · exact h

/-! ### Functions of Sys2Proof/Machine/Saves.lean -/

@[simp] theorem State.areaWrite_canonical (part fuel va : Nat) (bs : List Byte) (h : Canonical s.memories) :
    Canonical (State.areaWrite part fuel va bs s).memories := by
  induction fuel generalizing s va bs with
  | zero => exact h
  | succ fuel ih =>
    simp only [State.areaWrite]
    split
    · exact h
    · refine ih _ _ ?_
      split
      · exact State.devWriteSector_canonical h _ _
      · exact h

@[simp] theorem State.writeSaves_canonical (h : Canonical s.memories) (id : Nat) : Canonical (s.writeSaves id).memories := by
  simp only [State.writeSaves]
  split
  · exact h
  · refine canonical_foldl _ (fun t i ht => ?_) ?_
    · split
      · exact ht
      · exact canonical_foldl _ (fun t p ht => State.areaWrite_canonical _ _ _ _ ht) ht
    · exact canonical_foldl _ (fun t i ht => State.areaWrite_canonical _ _ _ _ ht) h

/-! ### Functions of Sys2Proof/Machine/Stops.lean -/

@[simp] theorem State.stopDone_canonical (h : Canonical s.memories) (st : Stop) : Canonical (s.stopDone st).memories := by
  unfold State.stopDone
  dsimp only
  split <;> simp [h]

@[simp] theorem State.stopAdvance_canonical (h : Canonical s.memories) (launch : Nat) :
    Canonical (s.stopAdvance launch).memories := by
  unfold State.stopAdvance
  repeat' split
  all_goals simp [h]

@[simp] theorem State.stopAck_canonical (h : Canonical s.memories) (launch unit : Nat) :
    Canonical (s.stopAck launch unit).memories := by
  unfold State.stopAck
  dsimp only
  split
  · exact h
  · simp [h]

/-! ### Functions of Sys2Proof/Machine/Host.lean -/

@[simp] theorem State.hostWrite_canonical (part fuel va : Nat) (bs : List Byte) (h : Canonical s.memories) :
    Canonical (State.hostWrite part fuel va bs s).memories := by
  induction fuel generalizing s va bs with
  | zero => exact h
  | succ fuel ih =>
    simp only [State.hostWrite]
    split
    · exact h
    · refine ih _ _ ?_
      split
      · exact h
      · split
        · exact State.devWriteSector_canonical h _ _
        · exact h

@[simp] theorem State.writeFree_canonical (h : Canonical s.memories) (pa n : Nat) : Canonical (s.writeFree pa n).memories :=
  State.devWrite_canonical h _ _ _

@[simp] theorem State.writeSections_canonical (part : Nat) (xs : List Section) (pa : Nat) (old : State)
    (h : Canonical s.memories) :
    Canonical (State.writeSections part xs pa old s).memories := by
  induction xs generalizing pa s with
  | nil => exact h
  | cons x xs ih =>
    refine ih _ (canonical_foldl _ (fun s i h => ?_) h)
    split
    · exact State.devWrite_canonical h _ _ _
    · exact State.writeFree_canonical h _ _

@[simp] theorem State.ckptCopy_canonical (h : Canonical s.memories) (part : Nat) (linkDown memUe : Bool) :
    Canonical (s.ckptCopy part linkDown memUe).2.memories := by
  simp [State.ckptCopy, h]

/-! ### Functions of Sys2Proof/Machine/Cycle.lean -/

@[simp] theorem State.writeQueue_canonical (part level : Nat) (ids : List Nat) (i : Nat) (h : Canonical s.memories) :
    Canonical (State.writeQueue part level ids i s).memories := by
  induction ids generalizing s i with
  | nil => exact h
  | cons id ids ih =>
    refine ih _ ?_
    split
    · exact State.devWriteSector_canonical h _ _
    · exact h

@[simp] theorem State.writeQueues_canonical (h : Canonical s.memories) (part : Nat) :
    Canonical (s.writeQueues part).memories := by
  unfold State.writeQueues
  split
  · exact h
  · exact canonical_foldl _ (fun s lv h => State.writeQueue_canonical _ _ _ _ h) h

@[simp] theorem State.tick_canonical (h : Canonical s.memories) : Canonical s.tick.memories := by
  refine canonical_foldl _ (fun s p h => State.writeQueues_canonical h p) ?_
  simpa using h

/-! ### Functions of Sys2Proof/Machine/Dram.lean -/

@[simp] theorem State.devOp_canonical (h : Canonical s.memories) (r : DevReq) : Canonical (s.devOp r).2.memories := by
  simp only [State.devOp, State.memories_ite, State.memories_mk, State.acquire_memories, ite_self]
  split
  · exact h
  · exact State.devWriteSector_canonical h _ _
  · exact State.devWriteSector_canonical h _ _
  · exact canonical_foldl _ (fun s e h => State.devWriteSector_canonical h _ _) h
  · exact canonical_foldl _ (fun s e h => State.devWriteSector_canonical h _ _) h

@[simp] theorem State.devPerform_canonical (h : Canonical s.memories) (ch : Nat) (r : DevReq) :
    Canonical (s.devPerform ch r).memories := by
  unfold State.devPerform
  dsimp only
  split <;> simp [h]

@[simp] theorem State.dramIssue_canonical (h : Canonical s.memories) (ch : Nat) (err : SectorErr) :
    Canonical (s.dramIssue ch err).memories := by
  unfold State.dramIssue
  repeat' split
  all_goals simp [h]

@[simp] theorem State.dramReply_canonical (h : Canonical s.memories) (ch : Nat) (again : Bool) :
    Canonical (s.dramReply ch again).memories := by
  unfold State.dramReply
  dsimp only
  split
  · exact h
  · simp [h]

@[simp] theorem State.crcReplay_canonical (h : Canonical s.memories) (ch : Nat) (ok : Bool) :
    Canonical (s.crcReplay ch ok).memories := by
  unfold State.crcReplay
  dsimp only
  repeat' split
  all_goals simp [h]

@[simp] theorem State.invalidate_canonical (h : Canonical s.memories) (part : Nat) : Canonical (s.invalidate part).memories := by
  simp only [State.invalidate]
  split
  · exact h
  · refine canonical_foldl _ (fun s e h => canonical_foldl _ (fun s r h => ?_) (by simpa using h)) (by simpa using h)
    simp [h]

/-! ### Functions of Sys2Proof/Machine/Fetch.lean -/

theorem State.outside_canonical (h : Canonical s.memories) (t : Turn) : ∀ r ∈ s.outside t, Canonical r.memories := by
  unfold State.outside
  repeat' split
  all_goals simp [h]

end

/-! ## The arms of `exec` -/

section
variable {s : State}

/-- Whatever state the outcome goes on with satisfies `P`; a fault or a refusal goes on with none. -/
def Answers (o : Host.Outcome State Fault Refusal) (P : State → Prop) : Prop := ∀ t, o = .next t → P t

@[simp] theorem answers_next {u : State} {P : State → Prop} : Answers (.next u) P ↔ P u :=
  ⟨fun h => h u rfl, fun h _ e => Host.Outcome.next.inj e ▸ h⟩

theorem State.check_canonical {α : Type} (h : Canonical s.memories) (k : Nat) (e : Try α) {go : α → State}
    (hg : ∀ a, Canonical (go a).memories) : Canonical (s.check k e go).memories := by
  unfold State.check
  split
  · exact hg _
  · exact h
  · simpa using h

theorem State.engine_canonical (h : Canonical s.memories) (f : FmtT) {go : Nat → Rd → State → State}
    (hg : ∀ k r s, Canonical s.memories → Canonical (go k r s).memories) : Canonical (s.engine f go).memories := by
  simp only [State.engine]
  split
  · exact h
  · split
    · simpa using h
    · exact hg _ _ _ h

theorem State.tileAcc_canonical (h : Canonical s.memories) (f : FmtT)
    {go : Nat → Rd → State → Nat → Nat → TileState → State}
    (hg : ∀ k r s mn t st, Canonical s.memories → Canonical (go k r s mn t st).memories) :
    Canonical (s.tileAcc f go).memories := by
  refine State.engine_canonical h f fun k r s h => State.check_canonical h _ _ fun p => ?_
  dsimp only
  split
  · exact h
  · split
    · simpa using h
    · split
      · simpa using h
      · exact hg _ _ _ _ _ _ h

/-- An arm that leaves the memories as they are keeps their canonical form. -/
theorem Answers.canonical {o : Host.Outcome State Fault Refusal} (ho : Answers o fun t => t.memories = s.memories)
    (h : Canonical s.memories) : Answers o fun t => Canonical t.memories :=
  fun t ht => (congrArg Canonical (ho t ht)).mpr h

theorem execLaunch_memories (f : FmtX) : Answers (execLaunch f s) fun t => t.memories = s.memories := by
  refine answers_next.2 (State.instrX_memories _ _ fun k r s => ?_)
  dsimp only
  split
  · rfl
  · refine State.check_memories _ _ _ fun p => ?_
    split
    · next e => simp [memories_of_pair e]
    · next e =>
        split
        · simp [memories_of_pair e]
        · split <;> (next e2 => simp [memories_of_pair e, memories_of_pair e2])

theorem execGlaunch_memories (f : FmtX) : Answers (execGlaunch f s) fun t => t.memories = s.memories := by
  refine answers_next.2 (State.instrX_memories _ _ fun k r s => ?_)
  dsimp only
  split
  · rfl
  · refine (State.check_memories _ _ _ fun hs => ?_).trans (State.readRecords_memories ..)
    split
    · simp
    · refine (State.check_memories _ _ _ fun vs => ?_).trans (State.readRecords_memories ..)
      split <;> (next e => simp [memories_of_pair e])

theorem execPhend_memories (f : FmtX) : Answers (execPhend f s) fun t => t.memories = s.memories := by
  refine answers_next.2 (State.instrX_memories _ _ fun k r s => ?_)
  dsimp only
  split <;> simp

theorem execSopen_memories (f : FmtM) : Answers (execSopen f s) fun t => t.memories = s.memories := by
  refine answers_next.2 (State.memInstr_memories _ _ fun k r s => ?_)
  dsimp only
  repeat' split
  all_goals simp

theorem execQpush_memories (f : FmtM) : Answers (execQpush f s) fun t => t.memories = s.memories := by
  refine answers_next.2 (State.memInstr_memories _ _ fun k r s => ?_)
  dsimp only
  split <;> simp

theorem execQpop_memories (f : FmtM) : Answers (execQpop f s) fun t => t.memories = s.memories := by
  refine answers_next.2 (State.memInstr_memories _ _ fun k r s => ?_)
  dsimp only
  split <;> simp

theorem execAccwr_canonical (h : Canonical s.memories) (f : FmtT) : Answers (execAccwr f s) fun t => Canonical t.memories := by
  refine answers_next.2 (State.tileAcc_canonical h f fun k r s mn t st h => ?_)
  simp only [State.give2_memories, State.ownTile_memories]
  exact canonical_accs h (Memory.writeBytes_wf (canonical_iff.1 h).accs _ _)

theorem execAccz_canonical (h : Canonical s.memories) (f : FmtT) : Answers (execAccz f s) fun t => Canonical t.memories := by
  refine answers_next.2 (State.tileAcc_canonical h f fun k r s mn t st h => ?_)
  simp only [State.give2_memories, State.ownTile_memories]
  exact canonical_accs h (Memory.clear_wf (canonical_iff.1 h).accs _ _)

theorem execWload_memories (f : FmtT) : Answers (execWload f s) fun t => t.memories = s.memories := by
  refine answers_next.2 (State.engine_memories _ _ fun k r s => ?_)
  dsimp only
  repeat' split
  all_goals simp

theorem execWres_memories (f : FmtT) : Answers (execWres f s) fun t => t.memories = s.memories := by
  refine answers_next.2 (State.engine_memories _ _ fun k r s => State.check_memories _ _ _ fun p => ?_)
  simp only [State.give2_memories]
  split <;> simp

theorem execTseal_memories (f : FmtT) : Answers (execTseal f s) fun t => t.memories = s.memories := by
  refine answers_next.2 (State.engine_memories _ _ fun k r s => ?_)
  dsimp only
  split <;> simp

theorem execTdrop_memories (f : FmtT) : Answers (execTdrop f s) fun t => t.memories = s.memories := by
  refine answers_next.2 (State.engine_memories _ _ fun k r s => ?_)
  dsimp only
  split <;> simp

theorem execSpld_memories (f : FmtT) : Answers (execSpld f s) fun t => t.memories = s.memories := by
  refine answers_next.2 (State.engine_memories _ _ fun k r s => State.check_memories _ _ _ fun x => ?_)
  dsimp only
  split
  · simp
  · split
    · simp
    · split
      · simp
      · next e => simp [State.patSlot_memories _ e]

theorem execSpmm_memories (f : FmtT) : Answers (execSpmm f s) fun t => t.memories = s.memories := by
  refine answers_next.2 (State.engine_memories _ _ fun k r s => ?_)
  dsimp only
  split
  · simp
  · refine State.check_memories _ _ _ fun x => State.check_memories _ _ _ fun _ => State.check_memories _ _ _ fun _ => ?_
    simp

theorem execSpinv_memories (f : FmtT) : Answers (execSpinv f s) fun t => t.memories = s.memories := by
  refine answers_next.2 (State.engine_memories _ _ fun k r s => State.check_memories _ _ _ fun x => ?_)
  split <;> simp

theorem execScfill_memories (f : FmtT) : Answers (execScfill f s) fun t => t.memories = s.memories := by
  refine answers_next.2 (State.engine_memories _ _ fun k r s => ?_)
  dsimp only
  split
  · simp
  · split <;> simp

theorem execXsend_memories (f : FmtT) : Answers (execXsend f s) fun t => t.memories = s.memories := by
  refine answers_next.2 (State.engine_memories _ _ fun k r s => ?_)
  dsimp only
  split <;> simp

theorem execColl_memories (f : FmtT) : Answers (execColl f s) fun t => t.memories = s.memories := by
  refine answers_next.2 (State.engine_memories _ _ fun k r s => ?_)
  dsimp only
  split
  · simp
  · split <;> simp

theorem execCsrrd_memories (f : FmtX) : Answers (execCsrrd f s) fun t => t.memories = s.memories := by
  refine answers_next.2 (State.instrX_memories _ _ fun k r s => ?_)
  split <;> simp

theorem execCsrwr_memories (f : FmtX) : Answers (execCsrwr f s) fun t => t.memories = s.memories := by
  refine answers_next.2 (State.instrX_memories _ _ fun k r s => ?_)
  dsimp only
  split <;> simp

theorem execTret_memories (f : FmtX) : Answers (execTret f s) fun t => t.memories = s.memories := by
  refine answers_next.2 (State.instrX_memories _ _ fun k r s => ?_)
  dsimp only
  split
  · simp
  · split
    · simp
    · split
      · simp
      · split
        · simp
        · next e => simp [State.tret_memories _ e]

theorem execQuota_memories (f : FmtX) : Answers (execQuota f s) fun t => t.memories = s.memories := by
  refine answers_next.2 (State.instrX_memories _ _ fun k r s => ?_)
  dsimp only
  repeat' split
  all_goals simp

theorem execBankPowerUp_canonical (h : Canonical s.memories) (mt : Nat) :
    Answers (execBankPowerUp mt s) fun t => Canonical t.memories := by
  refine answers_next.2 ?_
  split
  · exact canonical_scratch h (Memory.clear_wf (canonical_iff.1 h).scratch _ _)
  · exact h

theorem execPageClear_canonical (h : Canonical s.memories) (page : Nat) :
    Answers (execPageClear page s) fun t => Canonical t.memories := by
  refine answers_next.2 ?_
  split
  · exact h
  · refine canonical_foldl _ (fun s n h => ?_) (canonical_istore h (Memory.clear_wf (canonical_iff.1 h).istore _ _))
    split
    · exact h
    · simpa using h

theorem execHeldPushRelease_canonical (h : Canonical s.memories) (stream : Nat) :
    Answers (execHeldPushRelease stream s) fun t => Canonical t.memories := by
  unfold execHeldPushRelease
  split <;> simp [h]

theorem execTileRestore_canonical (h : Canonical s.memories) (mn tile : Nat) :
    Answers (execTileRestore mn tile s) fun t => Canonical t.memories := by
  unfold execTileRestore
  dsimp only
  split
  · simp [h]
  · split <;> simp [h]

theorem execNodePartitionClear_canonical (h : Canonical s.memories) (mn : Nat) :
    Answers (execNodePartitionClear mn s) fun t => Canonical t.memories := by
  obtain ⟨hs, hi, hw, ha, hd⟩ := canonical_iff.1 h
  refine answers_next.2 ?_
  split
  · exact h
  · exact canonical_iff.2 ⟨hs, hi, Memory.clear_wf hw _ _, Memory.clear_wf ha _ _, hd⟩

theorem execIngressBatchTake_memories (part die : Nat) (remote : Option LinkBatch) :
    Answers (execIngressBatchTake part die remote s) fun t => t.memories = s.memories := by
  unfold execIngressBatchTake
  dsimp only
  split <;> simp

theorem execSleepWake_memories (ce bind : Nat) : Answers (execSleepWake ce bind s) fun t => t.memories = s.memories := by
  unfold execSleepWake
  split <;> simp

theorem execCopyWaitWake_memories (ce bind : Nat) : Answers (execCopyWaitWake ce bind s) fun t => t.memories = s.memories := by
  unfold execCopyWaitWake
  split <;> simp

theorem execPromiseTimeout_memories (ce bind : Nat) :
    Answers (execPromiseTimeout ce bind s) fun t => t.memories = s.memories := by
  unfold execPromiseTimeout
  dsimp only
  split <;> simp

theorem execJoinWake_memories (ce bind : Nat) : Answers (execJoinWake ce bind s) fun t => t.memories = s.memories := by
  unfold execJoinWake
  split
  · split <;> simp
  · simp

theorem execTbwaitWake_memories (ce bind : Nat) : Answers (execTbwaitWake ce bind s) fun t => t.memories = s.memories := by
  unfold execTbwaitWake
  split <;> simp

theorem execCollwaitWake_memories (ce bind : Nat) : Answers (execCollwaitWake ce bind s) fun t => t.memories = s.memories := by
  unfold execCollwaitWake
  dsimp only
  split
  · split <;> simp
  · simp

theorem execEmptyPhaseEvaluate_memories (part : Nat) :
    Answers (execEmptyPhaseEvaluate part s) fun t => t.memories = s.memories := by
  unfold execEmptyPhaseEvaluate
  split <;> simp

theorem execPageThermRenewal_memories (page : Nat) (temp : BitVec 12) :
    Answers (execPageThermRenewal page temp s) fun t => t.memories = s.memories := by
  unfold execPageThermRenewal
  split <;> simp

theorem execPageMoveTransfer_canonical (h : Canonical s.memories) (part : Nat) :
    Answers (execPageMoveTransfer part s) fun t => Canonical t.memories := by
  unfold execPageMoveTransfer
  split <;> simp [h]

theorem execPageMoveCommit_canonical (h : Canonical s.memories) (part : Nat) :
    Answers (execPageMoveCommit part s) fun t => Canonical t.memories := by
  unfold execPageMoveCommit
  split <;> simp [h]

theorem execRegisterWrite_memories (win : RegWindow) (reg : Nat) (value : BitVec 64) (host : Bool) :
    Answers (execRegisterWrite win reg value host s) fun t => t.memories = s.memories := by
  refine answers_next.2 ?_
  split <;> simp

theorem execPageRelease_canonical (h : Canonical s.memories) (value : BitVec 64) (host : Bool) :
    Answers (execPageRelease value host s) fun t => Canonical t.memories := by
  refine answers_next.2 ?_
  split
  · rw [State.settle_memories]
    exact State.pgWrite_canonical h value host fun s p g h => State.releasePage_canonical h p g
  · exact h

theorem execCkptEnd_canonical (h : Canonical s.memories) (part : Nat) (linkDown memUe : Bool) :
    Answers (execCkptEnd part linkDown memUe s) fun t => Canonical t.memories := by
  -- as for `State.placeAt_canonical`: the copy is made opaque before its matcher meets the kernel
  suffices ∀ run, execCkptEnd = run → Answers (run part linkDown memUe s) fun t => Canonical t.memories from this _ rfl
  intro run hrun
  have hcopy := @State.ckptCopy_canonical
  delta execCkptEnd at hrun
  generalize State.ckptCopy = copy at hcopy hrun
  subst hrun
  refine answers_next.2 ?_
  extract_lets +onlyGivenNames j
  split
  · exact h
  · split
    next e =>
      have hc := hcopy h part linkDown memUe
      rw [e] at hc
      simp [hc]

theorem execMgtRegisterRead_memories (reg : Nat) : Answers (execMgtRegisterRead reg s) fun t => t.memories = s.memories := by
  unfold execMgtRegisterRead
  split <;> simp

theorem execMgtPackageReset_canonical (h : Canonical s.memories) :
    Answers (execMgtPackageReset s) fun t => Canonical t.memories := by
  refine answers_next.2 ?_
  rw [State.mornos_memories]
  exact State.owned_canonical h _ _ State.packageReset_canonical

theorem execVfBar2Write_canonical (h : Canonical s.memories) (vf address : Nat) (data : List (BitVec 8)) :
    Answers (execVfBar2Write vf address data s) fun t => Canonical t.memories := by
  refine answers_next.2 ?_
  unfold State.onVf
  split
  · exact h
  · split
    · exact State.hostWrite_canonical _ _ _ _ h
    · exact h

/-- Every instruction and every event keeps the canonical form. -/
theorem exec_canonical (h : Canonical s.memories) (i : Instr) : Answers (exec i s) fun t => Canonical t.memories := by
  cases i with
  -- an instruction that writes no memory itself
  | nop | andOp | orOp | xorOp | minOp | maxOp
  | mov | add | sub | mul | mulh | div | rem | shl | shr | abs | cmp | cmpi | sel | clz | popc | bfx | bfi | addi | andi | ldi
  | addr | vmov | vadd | vsub | vmul | vmulh | vmac | vdot4 | vdot2 | vmin | vmax | vabs | vand | vor | vxor | vshl | vshr
  | vrshr | vcmp | vsel | vnarrow | vwiden | vshuf | vslide | vbcast | vext | vins | vred | vscan | viota | vpopc | vcompress
  | fadd | fsub | fmul | ffma | fdiv | faddi | fmuli | fscale | fround | fmin | fmax | fclamp | fabs | fneg | fcmp | fclass
  | frcp | frsq | fsqrt | fexp2 | flog2 | fsig | ftanh | vfred | vfdot2 | cvt | cvts | packf | unpackf | cbexp | cbqnt | send
  | adv | padv | mark | tkind | markarg | osend | cfgsend | exit | call | ret | tend | yield | sleep | trap | brk | pset | join
  | cancel | tbmark | tbwait | ld | st | ldv | stv | stvm | aadd | amin | amax | aand | aor | axor | axchg | acas | afadd | bew
  | bred | fence | xfence | gather | scatter | scatadd | copy | cpstat | sclose | sflush | iflush | ldg | stg | agadd | mma
  | accrd | accrel | tquery | spq | sclook | scstep | scinv | xgate | xflush | xclose | collwait | cycle | statclr | seed | frec
  | migr | perf | steer | merge | carry | count | switch | sploop | seq | smerge | fork | sink | filter | sync =>
    exact answers_next.2 (by simpa using h)
  -- an event that writes no memory
  | configTokenTake | controlMarkDiscard | blockFiring | creditReturn | busGrant
  | orderPublish | bankEccWriteback | bankDrowse | bankWakeEnd | gatherAccept | gatherReturn | queueHeaderCheck
  | arrayEccRewrite | dramRefresh | pageWalkLevelRead | walkComplete | matctlTake | fragmentStart | doneFenceGive
  | patternCompileStart | patternInstall | patternStoreMove | patternAgeSweep | spmmStart | stepCacheDecision | batchDepart
  | batchReturn | collectiveExchangeStep | turnEnd | drainEnd | pannierRefill | ringEnlarge | quotaRecord | watchdog
  | launchAgeing | imageLoad | phasePreload | deferredRecordWrite | powerWindow | cycleSampleExchange | cycleSlew | flitRetry
  | functionReady | hostlFall | hostVfmapWrite | pageAssign | hostPcfgWrite | hostXareaWrite | hostCntclr
  | devOwnWrite | partJobStart | partJobCancel | partTrappop | partDbgAddrWrite | partCkptGo | mctpControl | getVersion
  | getCapabilities | negotiateAlgorithms | getDigests | getCertificate | getMeasurements | mgtInventoryRead | mgtSensorRead
  | mgtErrlogRead | mgtFirmwareStage =>
    exact answers_next.2 (by simpa using h)
  -- an event that writes memory through one function of the layer above
  | linkGrant | busDelivery | bankServe | copyChunk | streamTokenMove | dramIssue | dramReply | crcReplay
  | translationInvalidate | fragmentComplete | tileHandover | spmmComplete | rowPlace | collectiveComplete | placementDecision
  | stopAcknowledge | launchResume | pageMapout | mgtRegisterWrite | cycleCounterAdvance =>
    exact answers_next.2 (by simp [h])
  -- a reset gives fresh memories
  | deviceReset => exact answers_next.2 (by simp)
  -- the arms with a lemma of their own
  | launch f => exact (execLaunch_memories f).canonical h
  | glaunch f => exact (execGlaunch_memories f).canonical h
  | phend f => exact (execPhend_memories f).canonical h
  | sopen f => exact (execSopen_memories f).canonical h
  | qpush f => exact (execQpush_memories f).canonical h
  | qpop f => exact (execQpop_memories f).canonical h
  | accwr f => exact execAccwr_canonical h f
  | accz f => exact execAccz_canonical h f
  | wload f => exact (execWload_memories f).canonical h
  | wres f => exact (execWres_memories f).canonical h
  | tseal f => exact (execTseal_memories f).canonical h
  | tdrop f => exact (execTdrop_memories f).canonical h
  | spld f => exact (execSpld_memories f).canonical h
  | spmm f => exact (execSpmm_memories f).canonical h
  | spinv f => exact (execSpinv_memories f).canonical h
  | scfill f => exact (execScfill_memories f).canonical h
  | xsend f => exact (execXsend_memories f).canonical h
  | coll f => exact (execColl_memories f).canonical h
  | csrrd f => exact (execCsrrd_memories f).canonical h
  | csrwr f => exact (execCsrwr_memories f).canonical h
  | tret f => exact (execTret_memories f).canonical h
  | quota f => exact (execQuota_memories f).canonical h
  | bankPowerUp mt => exact execBankPowerUp_canonical h mt
  | pageClear page => exact execPageClear_canonical h page
  | heldPushRelease stream => exact execHeldPushRelease_canonical h stream
  | tileRestore mn tile => exact execTileRestore_canonical h mn tile
  | nodePartitionClear mn => exact execNodePartitionClear_canonical h mn
  | ingressBatchTake part die remote => exact (execIngressBatchTake_memories part die remote).canonical h
  | sleepWake ce bind => exact (execSleepWake_memories ce bind).canonical h
  | copyWaitWake ce bind => exact (execCopyWaitWake_memories ce bind).canonical h
  | promiseTimeout ce bind => exact (execPromiseTimeout_memories ce bind).canonical h
  | joinWake ce bind => exact (execJoinWake_memories ce bind).canonical h
  | tbwaitWake ce bind => exact (execTbwaitWake_memories ce bind).canonical h
  | collwaitWake ce bind => exact (execCollwaitWake_memories ce bind).canonical h
  | emptyPhaseEvaluate part => exact (execEmptyPhaseEvaluate_memories part).canonical h
  | pageThermRenewal page temp => exact (execPageThermRenewal_memories page temp).canonical h
  | pageMoveTransfer part => exact execPageMoveTransfer_canonical h part
  | pageMoveCommit part => exact execPageMoveCommit_canonical h part
  | registerWrite win reg value host => exact (execRegisterWrite_memories win reg value host).canonical h
  | pageRelease value host => exact execPageRelease_canonical h value host
  | ckptEnd part linkDown memUe => exact execCkptEnd_canonical h part linkDown memUe
  | mgtRegisterRead reg => exact (execMgtRegisterRead_memories reg).canonical h
  | mgtPackageReset => exact execMgtPackageReset_canonical h
  | vfBar2Write vf address data => exact execVfBar2Write_canonical h vf address data
  -- REPEAT, the one constructor whose name is a keyword: an operator that writes no memory
  | _ => exact answers_next.2 (by simpa using h)

theorem step_canonical (h : Canonical s.memories) : Answers (step s) fun t => Canonical t.memories := by
  unfold step
  split
  next t u e =>
    have hu : Canonical u.memories := by rw [memories_of_pair e]; simpa using h
    split
    · next r hr => exact answers_next.2 (State.outside_canonical hu t r hr)
    · split
      · exact exec_canonical (by simpa using hu) _
      · intro t ht
        cases ht

end

/-- Settles O59, by cases on what the turn runs: an outside event (`State.outside_canonical`) or an arm of `exec`
(`exec_canonical`). -/
theorem memoriesStayCanonical : Obligations.MemoriesStayCanonical := by
  intro s t h hstep
  exact canonical_iff.1 (step_canonical (canonical_iff.2 h) t hstep)

end Sys2Proof.Machine
end

section
/-!
PROOFS of the fabric family (O37). The statement says of a link whose receiver finds an uncorrectable token that every
channel but the token's own stays as it was. The MEM_UE record of that token is written in the same step, and for each
record written the Drover gives one token on the supervisor's trapq channel (R420): where a supervisor is placed, that
channel changes. `supervised` is such a state.
-/

namespace Sys2Proof.Machine

/-- LINK_GRANT with an uncorrectable token: whatever its envelope is, the receiver holds it (R18). -/
theorem State.grant_lost (s : State) (link key ch i : Nat)
    (h : afterLast (tget {} s.links link).last (s.linkReady link) = some (key, ch, i)) :
    s.grant link .lost =
      ({ s with links := tput s.links link { tget {} s.links link with last := key } } : State).loseToken link ch i := by
  simp only [State.grant, h, ite_self]

/-- A channel from a context of compute element 0 to itself, over the local port of router 0 (link 4): its one token waits
at its start. -/
def loopChan : Chan :=
  { (default : Chan) with
    launch := 1, src := .ceOut 0 0, dst := .ceIn 0 0, depth := 1, hops := [⟨4, 0, []⟩], startq := [⟨0, 0, 0⟩] }

/-- The channel that the supervisor's image binds to trapq.out0 (R420), empty. -/
def trapqChan : Chan :=
  { (default : Chan) with
    launch := 2, src := .trapq 0, dst := .ceIn 4 0, depth := 1, spill := true, hops := [⟨9, 0, []⟩] }

/-- A partition whose supervisor, launch 2, takes its records on channel 1, while launch 1 has a token ready on channel 0. -/
def supervised : State :=
  { State.reset with
    chans := [(0, loopChan), (1, trapqChan)]
    launches := [(1, { (default : Launch) with state := .resident }),
      (2, { (default : Launch) with state := .resident, super := true })]
    parts := [(0, { job := { superLaunch := 2, superTrapq := true } })] }

/-- Channel 0 is all that link 4 may grant. -/
theorem supervised_linkReady : supervised.linkReady 4 = [(0, 0, 0)] := by decide

/-- The record of channel 0's lost token puts a token with its RSEQ, 0, on channel 1, which was empty. -/
theorem supervised_lost_trapq : ((supervised.grant 4 .lost).chanD 1).startq = [⟨0, 0, 0⟩] := by
  rw [State.grant_lost supervised 4 0 0 0 (by rw [supervised_linkReady]; rfl)]
  decide +kernel

/-- Refutes O37: the MEM_UE record of an uncorrectable token gives the supervisor a token on its trapq channel (R420), so a
channel other than the token's own changes. The state is `supervised`, whose link 4 grants channel 0. -/
theorem not_linksAndRings : ¬ Obligations.LinksAndRings := by
  unfold Obligations.LinksAndRings
  intro h
  obtain ⟨hlinks, -⟩ := h
  obtain ⟨-, hgrant, -⟩ := hlinks supervised 4 0 0 0 0 0 0 loopChan ⟨0, 0, 0⟩ [] default
  simp only [supervised_linkReady] at hgrant
  obtain ⟨-, -, -, -, -, hlost⟩ := hgrant (by simp) (by simp) rfl rfl (by decide)
  obtain ⟨t, hexec, -, hothers, -⟩ := hlost (by decide) (by decide)
  have hgranted : supervised.grant 4 .lost = t := Host.Outcome.next.inj hexec
  have hsame : (t.chanD 1).startq = (supervised.chanD 1).startq := congrArg Chan.startq (hothers 1 (by decide))
  rw [← hgranted, supervised_lost_trapq] at hsame
  exact absurd hsame (by decide)

end Sys2Proof.Machine
end

section
/-!
PROOFS of the work family (O56): what a step runs. The turn at the head of the agenda decides it (`State.instrOf`,
`State.outside`); a word that `withFetchWord` places is the word its context or its operator stands at.
-/

namespace Sys2Proof.Machine

/-! ## The next instruction -/

/-- The next turn is the head of the agenda (log entry 1). -/
theorem State.nextTurn_cons {s : State} {t : Turn} {rest : List Turn} (h : s.agenda = t :: rest) :
    s.nextTurn = (t, { s with agenda := rest }) := by
  simp [State.nextTurn, h]

/-- A step whose turn runs an instruction. -/
theorem step_of_instrOf {s : State} {t : Turn} {rest : List Turn} {i : Instr} (h : s.agenda = t :: rest)
    (hout : ({ s with agenda := rest } : State).outside t = none)
    (hi : ({ s with agenda := rest } : State).instrOf t = .ok i) :
    step s = exec i { s with agenda := rest, cur := t } := by
  unfold step
  rw [State.nextTurn_cons h]
  simp only [hout, hi]

/-- A step whose turn names no instruction is the fault of the name it has. -/
theorem step_of_instrOf_error {s : State} {t : Turn} {rest : List Turn} {e : Fault} (h : s.agenda = t :: rest)
    (hout : ({ s with agenda := rest } : State).outside t = none)
    (hi : ({ s with agenda := rest } : State).instrOf t = .error e) : step s = .fault e := by
  unfold step
  rw [State.nextTurn_cons h]
  simp only [hout, hi]

/-- A step whose turn is no step of the table (log entry 90). -/
theorem step_of_outside {s u : State} {t : Turn} {rest : List Turn} (h : s.agenda = t :: rest)
    (hout : ({ s with agenda := rest } : State).outside t = some u) : step s = .next u := by
  unfold step
  rw [State.nextTurn_cons h]
  simp only [hout]

/-- A firing of context k stands before a word. -/
def State.standsAtWord (s : State) (k : Nat) : Prop :=
  (s.getCe k).fir.active = true ∧ (lget {} (s.getCe k).binds (s.getCe k).fir.bind).state = .firing ∧
    (s.getCe k).fir.idx < (s.getCe k).fir.block.words.length

/-- A context whose firing stands before a word runs what the word decodes to (R28). -/
theorem State.instrOf_ce_ok {s : State} {k : Nat} {i : Instr} (h : s.standsAtWord k)
    (hw : ceWord (s.getCe k).fir.word = .ok i) : s.instrOf (.ce k) = .ok i := by
  obtain ⟨hactive, hfiring, hidx⟩ := h
  simp [State.instrOf, hactive, hfiring, hidx, hw]

theorem State.instrOf_ce_error {s : State} {k : Nat} {e : DecErr} (h : s.standsAtWord k)
    (hw : ceWord (s.getCe k).fir.word = .error e) : s.instrOf (.ce k) = .error .undecodedWord := by
  obtain ⟨hactive, hfiring, hidx⟩ := h
  simp [State.instrOf, hactive, hfiring, hidx, hw]

/-- Any other context runs a BLOCK_FIRING. -/
theorem State.instrOf_ce_idle {s : State} {k : Nat} (h : ¬ s.standsAtWord k) : s.instrOf (.ce k) = .ok (.blockFiring k) := by
  have hnot : ((s.getCe k).fir.active && (lget {} (s.getCe k).binds (s.getCe k).fir.bind).state == .firing &&
      Decidable.decide ((s.getCe k).fir.idx < (s.getCe k).fir.block.words.length)) = false := by
    simpa [State.standsAtWord, imp_iff_not_or, or_assoc] using h
  simp only [State.instrOf, hnot]
  rfl

theorem ceWord_of_ok {w : Word} {i : Instr} (hf : fmtOf w ≠ .c) (hd : decode w = .ok i) : ceWord w = .ok i := by
  simp [ceWord, hf, hd]

theorem ceWord_error {w : Word} (h : fmtOf w = .c ∨ ∃ e, decode w = .error e) : ∃ e, ceWord w = .error e := by
  rcases h with h | ⟨e, h⟩
  · exact ⟨⟨4⟩, by simp [ceWord, h]⟩
  · unfold ceWord
    split
    · exact ⟨_, rfl⟩
    · exact ⟨e, h⟩

/-- An operator's turn: the action that R220 chooses. -/
theorem State.opChoice_eq {s : State} {k : Nat} {i : Instr} {f : FmtC} (hi : (s.getOp k).instr = some i) (hf : fmtCOf i = some f) :
    s.opChoice k = some (if s.opConfig (s.getOp k) f ≠ none then .configTokenTake k
      else if s.opMark (s.getOp k) i f ≠ none then .controlMarkDiscard k else i) := by
  simp [State.opChoice, hi, hf, Option.isSome_iff_ne_none]

/-! ## Words and the instructions they decode to -/

/-- A word's bytes, lowest address first, are the word (R3). -/
theorem wordOfBytes_bytesOfWord (w : Word) : wordOfBytes (bytesOfWord w) = w := by
  apply BitVec.eq_of_getLsbD_eq
  intro i hi
  simp only [wordOfBytes, bytesOfWord, List.range, List.range.loop, List.map, List.take, List.foldr]
  interval_cases i <;> simp

theorem decodeBytes_bytesOfWord (w : Word) : decodeBytes (bytesOfWord w) = decode w := by
  unfold decodeBytes
  rw [if_neg (by simp [bytesOfWord]), wordOfBytes_bytesOfWord]

/-- A decoded word's raw fields parse. -/
theorem decodeRaw_of_decode {w : Word} {i : Instr} (hd : decode w = .ok i) : decodeRaw w = .ok i := by
  unfold decode at hd
  split at hd
  · cases hd
  · split at hd
    · simp_all
    · cases hd

/-- The opcodes of format C are those of the row 0xE0 (R98). -/
theorem opcode_of_fmtOf {w : Word} (hf : fmtOf w = .c) : 0xE0 ≤ (fld w 56 8).toNat ∧ (fld w 56 8).toNat < 0xF0 := by
  unfold fmtOf at hf
  dsimp only at hf
  split_ifs at hf with h1 h2 h3 h4
  simp only [beq_iff_eq] at h4
  omega

/-- The instruction of a format C word is a router operator's (R98, R99). -/
theorem isRouter_of_fmtOf {w : Word} {i : Instr} (hf : fmtOf w = .c) (hd : decode w = .ok i) : i.isRouter = true := by
  obtain ⟨hlo, hhi⟩ := opcode_of_fmtOf hf
  have hraw := decodeRaw_of_decode hd
  unfold decodeRaw at hraw
  generalize (fld w 56 8).toNat = x at *
  interval_cases x <;> cases hraw <;> rfl

/-- A router word stands in a router operator, whose word fields are those of format C. -/
theorem fmtCOf_of_isRouter {i : Instr} (h : i.isRouter = true) : ∃ f, fmtCOf i = some f := by
  unfold Instr.isRouter at h
  split at h <;> simp [fmtCOf] at h ⊢

theorem routerWord_of_isRouter {w : Word} {i : Instr} (hd : decode w = .ok i) :
    routerWord w = if i.isRouter then some i else none := by
  simp [routerWord, hd]

/-- An operator that no channel is bound to takes from none. -/
theorem OpSlot.inCh_unbound {o : OpSlot} (h : ∀ ch ∈ o.ins, ch = none) (f : FmtC) (i : Nat) : o.inCh f i = none := by
  have hin : lget none o.ins i = none := by
    unfold lget
    rw [List.getD_eq_getElem?_getD]
    rcases hx : o.ins[i]? with _ | ch
    · rfl
    · exact h ch (List.mem_of_getElem? hx)
  simp [OpSlot.inCh, hin]

theorem State.opConfig_unbound {s : State} {o : OpSlot} (h : ∀ ch ∈ o.ins, ch = none) (f : FmtC) : s.opConfig o f = none := by
  simp [State.opConfig, State.opHeads, OpSlot.inCh_unbound h, State.filled, Heads.at, lget, List.range, List.range.loop]

theorem State.opMark_unbound {s : State} {o : OpSlot} (h : ∀ ch ∈ o.ins, ch = none) (i : Instr) (f : FmtC) :
    s.opMark o i f = none := by
  have hat : ∀ n, (s.opHeads o f).at n = none := by
    intro n
    simp only [State.opHeads, OpSlot.inCh_unbound h, State.filled, Heads.at, lget, List.getD_eq_getElem?_getD]
    rcases hx : ((List.range 3).map fun _ => ([] : List Token).head?)[n]? with _ | t
    · rfl
    · obtain ⟨_, -, rfl⟩ := List.mem_map.1 (List.mem_of_getElem? hx)
      rfl
  simp [State.opMark, hat]

/-- A router word placed by `withFetchWord` is the one its operator runs (log entry 14). -/
theorem step_withFetchWord_router {w : Word} {i : Instr} (hd : decode w = .ok i) (hr : i.isRouter = true) :
    ∃ t, step (State.reset.loadOp w) = exec i t := by
  obtain ⟨f, hf⟩ := fmtCOf_of_isRouter hr
  have hop : ({ State.reset.loadOp w with agenda := [] } : State).getOp 0 =
      { ({} : OpSlot) with
        placed := (match decC w with | .ok f => some f | .error _ => none), instr := some i, launch := 1 } := by
    rw [← show routerWord w = some i by simp [routerWord_of_isRouter hd, hr]]
    rfl
  refine ⟨_, step_of_instrOf (t := .op 0) (rest := []) rfl rfl ?_⟩
  have hins : ∀ ch ∈ (({ State.reset.loadOp w with agenda := [] } : State).getOp 0).ins, ch = none := by
    rw [hop]
    exact fun ch h => by simpa using h
  simp only [State.instrOf]
  rw [State.opChoice_eq (by rw [hop]) hf, State.opConfig_unbound hins, State.opMark_unbound hins]
  rfl

/-- A word of the other formats placed by `withFetchWord` is the next one of its context's firing (log entry 14). -/
theorem step_withFetchWord_ce {w : Word} {i : Instr} (hd : decode w = .ok i) (hr : i.isRouter = false) :
    ∃ t, step (State.reset.loadCe w) = exec i t := by
  refine ⟨_, step_of_instrOf (t := .ce 0) (rest := []) rfl rfl ?_⟩
  have hf : fmtOf w ≠ .c := fun hc => by simp [isRouter_of_fmtOf hc hd] at hr
  exact State.instrOf_ce_ok (s := { State.reset.loadCe w with agenda := [] }) ⟨rfl, rfl, Nat.zero_lt_one⟩ (ceWord_of_ok hf hd)

theorem step_withFetchWord {w : Nat} {i : Instr} (h : decodeTableWord 64 w = some i) :
    ∃ t, step (State.reset.withFetchWord 64 w) = exec i t := by
  have hd : decode (BitVec.ofNat 64 (w % 2 ^ 64)) = .ok i := by
    unfold decodeTableWord at h
    rw [decodeBytes_bytesOfWord] at h
    split at h <;> simp_all
  unfold State.withFetchWord
  dsimp only
  rw [routerWord_of_isRouter hd]
  cases hr : i.isRouter
  · exact step_withFetchWord_ce hd hr
  · exact step_withFetchWord_router hd hr

/-- Settles O56, turn by turn: each clause is what `State.instrOf` or `State.outside` answers for its turn. -/
theorem stepRunsDecoded : Obligations.StepRunsDecoded := by
  intro s k rest i f c o at_ stands
  refine ⟨?_, ?_, ?_, ?_, ?_, ?_, ?_, ?_, ?_, ?_, ?_, fun w h => step_withFetchWord h⟩
  · intro h hs hf hd
    exact step_of_instrOf h rfl (State.instrOf_ce_ok (s := { s with agenda := rest }) hs (ceWord_of_ok hf hd))
  · intro e h hs herr
    obtain ⟨e', he'⟩ := ceWord_error (herr.imp_right fun hd => ⟨e, hd⟩)
    exact step_of_instrOf_error h rfl (State.instrOf_ce_error (s := { s with agenda := rest }) hs he')
  · intro h hs
    exact step_of_instrOf h rfl (State.instrOf_ce_idle hs)
  · intro h hi hf
    refine step_of_instrOf h rfl ?_
    have := State.opChoice_eq (s := { s with agenda := rest }) hi hf
    simp only [State.instrOf, this]
    rfl
  · intro h he
    exact step_of_instrOf h rfl (by simp [State.instrOf, isEvent, he])
  · intro h he
    refine step_of_instrOf_error h rfl ?_
    rcases hx : encode i with _ | w
    · exact absurd hx he
    · simp [State.instrOf, isEvent, hx]
  · exact fun w lost h => step_of_outside h rfl
  · exact fun a e h => step_of_outside h rfl
  · exact fun a h => step_of_outside h rfl
  · exact fun acc link lost h => step_of_outside h rfl
  · intro h
    exact ⟨freeTurn s.free, by simp [step, State.nextTurn, h]⟩

end Sys2Proof.Machine
end

section
/-!
PROOFS of the work family (O46). The statement fixes what stands in device memory for a launch that waits in a partition's
queue at the end of a cycle, and says that its WAITED field has advanced; it does not say that the launch belongs to that
partition. The model advances WAITED of a launch that a queue of its own partition holds (`State.tickLaunch`), and writes every
entry of a running job's queues. `strayQueued` is a state in which the two partitions differ.
-/

namespace Sys2Proof.Machine

/-- An entry of a range table that maps the 64 KiB at virtual address 0 to physical address 0, writes allowed (R402). -/
def lowRange : Nat := 2 ^ 96 + 2 ^ 63 + 2 ^ 62

/-- Partition 0 runs a job, and its queue of level 0 holds launch 1, which is one of partition 1. -/
def strayQueued : State :=
  { State.reset with
    launches := [(1, { (default : Launch) with part := 1 })]
    parts := [(0, { job := { running := true }, queues := (List.replicate 4 []).set 0 [1], ranges := [lowRange] })] }

/-- The queue area of partition 0 begins at virtual address 0, which translates. -/
theorem strayQueued_translate : strayQueued.translate 0 0 = .ok (0, true) := by
  have hrange : strayQueued.rangeFind 0 0 = some (0, true) := by decide +kernel
  simp [State.translate, hrange]

/-- The WAITED field of the entry that the cycle writes is 0 still. -/
theorem strayQueued_waited : memNat strayQueued.lateStarts.tick.settle.device 0 32 / 2 ^ 192 % 2 ^ 32 = 0 := by
  decide +kernel

/-- Refutes O46: the queue entry of a launch whose partition is not the one in whose queue it waits is written with a WAITED
that has not advanced, where the statement has it advance by one. The state is `strayQueued`. -/
theorem not_waitsAndTurns : ¬ Obligations.WaitsAndTurns := by
  unfold Obligations.WaitsAndTurns
  intro h
  obtain ⟨-, ⟨-, hqueues, -⟩⟩ := h
  have hmem : MemoryOk strayQueued := ⟨rfl, rfl, rfl, rfl, rfl⟩
  obtain ⟨u, hexec, hentry⟩ := hqueues strayQueued 0 1 0 0 true _ _ rfl rfl rfl (by decide) rfl rfl hmem (by decide) (by decide)
    (by decide) (by decide) (by decide) (by decide) strayQueued_translate rfl rfl
  have hu : strayQueued.lateStarts.tick.settle = u := Host.Outcome.next.inj hexec
  have hwaited := strayQueued_waited
  rw [hu, show memNat u.device 0 32 = _ from hentry] at hwaited
  exact absurd hwaited (by decide)

end Sys2Proof.Machine
end

section
/-!
SUPPORT of the work family: fault records (R417 to R420). The fields of a record's 64 bytes, and what writing one does: it
enters the trap queue of its partition or waits for a place there (`State.record_queue`), and changes nothing else but the
Drover's token for the supervisor and the host's interrupt (`Told`).
-/

namespace Sys2Proof.Machine

open BitVec

/-! ## The fields of a record (R417)

`Rec.bits` is a concatenation: a field is what is left when the fields below it are dropped. -/

section
variable (r : Rec) (cycle : BitVec 64)

theorem Rec.bits_rseq : (r.bits cycle).extractLsb' 0 16 = 0 := extractLsb'_append_eq_right

theorem Rec.bits_xy : (r.bits cycle).extractLsb' 16 14 = BitVec.ofNat 14 r.xy := by
  unfold Rec.bits
  iterate 1 rw [extractLsb'_append_eq_of_le (by decide)]
  exact extractLsb'_append_eq_right

theorem Rec.bits_slot : (r.bits cycle).extractLsb' 39 3 = BitVec.ofNat 3 r.slot := by
  unfold Rec.bits
  iterate 3 rw [extractLsb'_append_eq_of_le (by decide)]
  exact extractLsb'_append_eq_right

theorem Rec.bits_index : (r.bits cycle).extractLsb' 42 7 = BitVec.ofNat 7 r.index := by
  unfold Rec.bits
  iterate 4 rw [extractLsb'_append_eq_of_le (by decide)]
  exact extractLsb'_append_eq_right

theorem Rec.bits_hdr : (r.bits cycle).extractLsb' 49 1 = BitVec.ofBool r.hdr := by
  unfold Rec.bits
  iterate 5 rw [extractLsb'_append_eq_of_le (by decide)]
  exact extractLsb'_append_eq_right

theorem Rec.bits_ctx : (r.bits cycle).extractLsb' 50 2 = BitVec.ofNat 2 r.ctx := by
  unfold Rec.bits
  iterate 6 rw [extractLsb'_append_eq_of_le (by decide)]
  exact extractLsb'_append_eq_right

theorem Rec.bits_kind : (r.bits cycle).extractLsb' 52 4 = BitVec.ofNat 4 r.kind := by
  unfold Rec.bits
  iterate 7 rw [extractLsb'_append_eq_of_le (by decide)]
  exact extractLsb'_append_eq_right

theorem Rec.bits_cls : (r.bits cycle).extractLsb' 56 8 = BitVec.ofNat 8 r.cls.code := by
  unfold Rec.bits
  iterate 8 rw [extractLsb'_append_eq_of_le (by decide)]
  exact extractLsb'_append_eq_right

theorem Rec.bits_uref : (r.bits cycle).extractLsb' 64 64 = r.uref := by
  unfold Rec.bits
  iterate 9 rw [extractLsb'_append_eq_of_le (by decide)]
  exact extractLsb'_append_eq_right

theorem Rec.bits_word : (r.bits cycle).extractLsb' 128 64 = BitVec.ofNat 64 r.word := by
  unfold Rec.bits
  iterate 10 rw [extractLsb'_append_eq_of_le (by decide)]
  exact extractLsb'_append_eq_right

theorem Rec.bits_addr : (r.bits cycle).extractLsb' 192 64 = BitVec.ofNat 64 r.addr := by
  unfold Rec.bits
  iterate 11 rw [extractLsb'_append_eq_of_le (by decide)]
  exact extractLsb'_append_eq_right

theorem Rec.bits_detail : (r.bits cycle).extractLsb' 256 64 = BitVec.ofNat 64 r.detail := by
  unfold Rec.bits
  iterate 12 rw [extractLsb'_append_eq_of_le (by decide)]
  exact extractLsb'_append_eq_right

theorem Rec.bits_cycle : (r.bits cycle).extractLsb' 384 64 = cycle := by
  unfold Rec.bits
  iterate 14 rw [extractLsb'_append_eq_of_le (by decide)]
  exact extractLsb'_append_eq_right

theorem Rec.bits_aux : (r.bits cycle).extractLsb' 448 64 = BitVec.ofNat 64 r.aux := by
  unfold Rec.bits
  iterate 15 rw [extractLsb'_append_eq_of_le (by decide)]
  exact extractLsb'_eq_self

end

/-- A record that takes an RSEQ keeps every field above it. -/
@[simp] theorem extractLsb'_withRseq (b : BitVec 512) (n : BitVec 16) (a k : Nat) (h : 16 ≤ a) :
    (withRseq b n).extractLsb' a k = b.extractLsb' a k := by
  unfold withRseq
  rw [extractLsb'_append_eq_of_le h]
  ext i hi
  simp only [getElem_extractLsb', getLsbD_extractLsb', show 16 + (a - 16 + i) = a + i by omega]
  by_cases hlt : a + i < 512
  · simp [show a - 16 + i < 496 by omega]
  · simp [show ¬ a - 16 + i < 496 by omega, BitVec.getLsbD_of_ge b (a + i) (by omega)]

/-- The first RSEQ of a record is put in by an OR, which is the same while the field is 0. -/
theorem or_setWidth_eq_withRseq {b : BitVec 512} (h : b.extractLsb' 0 16 = 0) (n : BitVec 16) :
    b ||| n.setWidth 512 = withRseq b n := by
  have hlow : ∀ i, i < 16 → b.getLsbD i = false := by
    intro i hi
    have := congrArg (fun x => x.getLsbD i) h
    simpa [hi] using this
  apply BitVec.eq_of_getLsbD_eq
  intro i hi
  by_cases h16 : i < 16
  · have hrseq : (withRseq b n).getLsbD i = n.getLsbD i := by
      have := congrArg (fun x => x.getLsbD i) (recordRseq_withRseq b n)
      simpa [recordRseq, h16] using this
    rw [hrseq, BitVec.getLsbD_or, hlow i h16, Bool.false_or, BitVec.getLsbD_setWidth]
    simp [hi]
  · rw [withRseq_getLsbD b n i (by omega) hi]
    simp [BitVec.getLsbD_of_ge n i (by omega)]

/-- Where a record stands among those of its cycle does not depend on its RSEQ (R419). -/
@[simp] theorem laterRecords_withRseq (es : List (Bool × BitVec 512)) (b : BitVec 512) (n : BitVec 16) :
    laterRecords es (withRseq b n) = laterRecords es b := by
  have hplace : recordPlace (withRseq b n) = recordPlace b := by simp [recordPlace]
  have hcycle : recordCycle (withRseq b n) = recordCycle b := by simp [recordCycle]
  unfold laterRecords
  rw [hplace, hcycle]

theorem laterRecords_le (es : List (Bool × BitVec 512)) (b : BitVec 512) : laterRecords es b ≤ es.length := by
  simpa [laterRecords] using (List.takeWhile_sublist _ (l := es.reverse)).length_le

/-! ## Writing a record (R419, R420) -/

/-- All that writing a record may change: the trap queue of its partition and the tokens the Drover holds for it, the tokens
at the start of channels, and the interrupts to the host. -/
structure Told (s t : State) (part : Nat) : Prop where
  rest : t = { s with parts := t.parts, chans := t.chans, dev := t.dev }
  others : ∀ k, k ≠ part → t.getPart k = s.getPart k
  own : ∃ tr tw rs tg, t.getPart part = { s.getPart part with traps := tr, trapWait := tw, rseq := rs, trapGive := tg }
  chans : ∀ ch, ∃ q, t.chanD ch = { s.chanD ch with startq := q }
  dev : ∃ m, t.dev = { s.dev with msix := m }

theorem Told.trans {s t u : State} {part : Nat} (h : Told s t part) (h' : Told t u part) : Told s u part where
  rest := by rw [h'.rest, h.rest]
  others k hk := (h'.others k hk).trans (h.others k hk)
  own := by
    obtain ⟨_, _, _, _, e⟩ := h.own
    obtain ⟨tr, tw, rs, tg, e'⟩ := h'.own
    exact ⟨tr, tw, rs, tg, by rw [e', e]⟩
  chans ch := by
    obtain ⟨_, e⟩ := h.chans ch
    obtain ⟨q, e'⟩ := h'.chans ch
    exact ⟨q, by rw [e', e]⟩
  dev := by
    obtain ⟨_, e⟩ := h.dev
    obtain ⟨m, e'⟩ := h'.dev
    exact ⟨m, by rw [e', e]⟩

/-- A change of the trap queue alone. -/
theorem told_setPart (s : State) (part : Nat) (tr tw : List (Bool × BitVec 512)) (rs : BitVec 16) (tg : List Token) :
    Told s (s.setPart part { s.getPart part with traps := tr, trapWait := tw, rseq := rs, trapGive := tg }) part where
  rest := rfl
  others _ hk := State.getPart_setPart_ne s part _ hk
  own := ⟨tr, tw, rs, tg, State.getPart_setPart s part _⟩
  chans ch := ⟨(s.chanD ch).startq, rfl⟩
  dev := ⟨s.dev.msix, rfl⟩

theorem told_msix (s : State) (part p vec : Nat) : Told s (s.msix p vec) part where
  rest := rfl
  others _ _ := rfl
  own := ⟨_, _, _, _, rfl⟩
  chans ch := ⟨(s.chanD ch).startq, rfl⟩
  dev := ⟨_, rfl⟩

/-- A channel after a change of one that is placed. -/
theorem State.chanD_mapChan (s : State) (k ch : Nat) (f : Chan → Chan) :
    (s.mapChan k f).chanD ch = if ch = k ∧ (tfind s.chans k).isSome then f (s.chanD ch) else s.chanD ch := by
  unfold State.mapChan State.chanD
  rcases hf : tfind s.chans k with _ | c
  · simp
  · by_cases h : ch = k
    · subst h
      simp [State.setChan, hf]
    · simp [State.setChan, tfind_tput_ne _ _ h, h]

theorem State.mapChan_eq (s : State) (k : Nat) (f : Chan → Chan) : s.mapChan k f = { s with chans := (s.mapChan k f).chans } := by
  unfold State.mapChan
  split <;> rfl

@[simp] theorem State.mapChan_getPart (s : State) (k n : Nat) (f : Chan → Chan) : (s.mapChan k f).getPart n = s.getPart n := by
  rw [State.mapChan_eq]; rfl

@[simp] theorem State.mapChan_dev (s : State) (k : Nat) (f : Chan → Chan) : (s.mapChan k f).dev = s.dev := by
  rw [State.mapChan_eq]

theorem told_trapToken (s : State) (part : Nat) (n : BitVec 16) : Told s (s.trapToken part n) part := by
  unfold State.trapToken
  dsimp only
  split
  next ch _ =>
    exact {
      rest := by
        rw [State.mapChan_eq]
      others := fun _ _ => State.mapChan_getPart ..
      own := ⟨_, _, _, _, State.mapChan_getPart ..⟩
      chans := fun c => by
        rw [State.chanD_mapChan]
        split
        · exact ⟨_, rfl⟩
        · exact ⟨(s.chanD c).startq, rfl⟩
      dev := ⟨s.dev.msix, State.mapChan_dev ..⟩ }
  · exact told_setPart s part _ _ _ _

/-- The trap queue after a record has entered at its tail. -/
theorem State.enterRecord_traps (s : State) (part : Nat) (own : Bool) (bits : BitVec 512) :
    let q := (s.enterRecord part own bits).getPart part
    let p := s.getPart part
    q.traps = p.traps ++ [(own, bits ||| p.rseq.setWidth 512)] ∧ q.rseq = p.rseq + 1 ∧ q.trapWait = p.trapWait := by
  unfold State.enterRecord
  dsimp only
  split
  · unfold State.trapToken
    dsimp only
    split
    · simp
    · simp [State.mapPart]
  · split
    · simp [State.msix, State.getPart, State.setPart]
    · simp

theorem told_enterRecord (s : State) (part : Nat) (own : Bool) (bits : BitVec 512) : Told s (s.enterRecord part own bits) part := by
  unfold State.enterRecord
  dsimp only
  split
  · exact (told_setPart s part _ _ _ _).trans (told_trapToken _ part _)
  · split
    · exact (told_setPart s part _ _ _ _).trans (told_msix _ part _ _)
    · exact told_setPart s part _ _ _ _

theorem told_placeRecord (s : State) (part : Nat) (own : Bool) (bits : BitVec 512) : Told s (s.placeRecord part own bits) part := by
  unfold State.placeRecord State.mapPart
  dsimp only
  refine (told_enterRecord s part own bits).trans ?_
  split
  · exact told_setPart _ part _ _ _ _
  · exact told_setPart _ part _ _ _ _

/-- The entry of a record that stands before it in the queue, with the RSEQ after its own (R419). -/
def rseqMoved (e : Bool × BitVec 512) : Bool × BitVec 512 := (e.1, withRseq e.2 (recordRseq e.2 + 1))

/-- The last items of a list, by their numbers. -/
theorem map_range_lget {α β : Type} (d : α) (l : List α) (g : α → β) (n m : Nat) (h : m + n = l.length) :
    ((List.range n).map fun i => g (lget d l (m + i))) = (l.drop m).map g := by
  apply List.ext_getElem
  · simp; omega
  · intro i h1 h2
    simp only [List.length_map, List.length_drop] at h2
    simp [lget, List.getD_eq_getElem?_getD, List.getElem?_eq_getElem (show m + i < l.length by omega)]

/-- A record enters the queue before the records of its cycle that R419 puts after it, which take the RSEQ after theirs. -/
theorem State.placeRecord_queue (s : State) (part : Nat) (own : Bool) {bits : BitVec 512} (h : bits.extractLsb' 0 16 = 0) :
    let q := (s.placeRecord part own bits).getPart part
    let p := s.getPart part
    let n := laterRecords p.traps bits
    q.traps = p.traps.take (p.traps.length - n) ++ (own, withRseq bits (p.rseq - BitVec.ofNat 16 n)) ::
        (p.traps.drop (p.traps.length - n)).map rseqMoved ∧
      q.rseq = p.rseq + 1 ∧ q.trapWait = p.trapWait := by
  intro q p n
  have hle : n ≤ p.traps.length := laterRecords_le _ _
  obtain ⟨htraps, hrseq, hwait⟩ := State.enterRecord_traps s part own bits
  rw [or_setWidth_eq_withRseq h] at htraps
  simp only [q, State.placeRecord, State.mapPart, State.getPart_setPart]
  split
  next h0 =>
    have hn : n = 0 := h0
    exact ⟨by rw [htraps]; simp [p, hn], hrseq, hwait⟩
  next h0 =>
    refine ⟨?_, hrseq, hwait⟩
    dsimp only
    rw [htraps, hrseq]
    have hlen : (p.traps ++ [(own, withRseq bits p.rseq)]).length - (n + 1) = p.traps.length - n := by simp
    have hlater : laterRecords (s.getPart part).traps bits = n := rfl
    rw [hlater, hlen]
    have hpos : 0 < n := Nat.pos_of_ne_zero h0
    have hrange : ((List.range n).map fun i => rseqMoved (lget default (p.traps ++ [(own, withRseq bits p.rseq)]) (p.traps.length - n + i))) =
        (p.traps.drop (p.traps.length - n)).map rseqMoved := by
      rw [← map_range_lget default p.traps rseqMoved n _ (by omega)]
      refine List.map_congr_left fun i hi => ?_
      have : i < n := List.mem_range.1 hi
      simp [lget, List.getD_eq_getElem?_getD, List.getElem?_append_left (show p.traps.length - n + i < p.traps.length by omega)]
    have hsub : p.rseq + 1 - BitVec.ofNat 16 (n + 1) = p.rseq - BitVec.ofNat 16 n := by
      rw [BitVec.ofNat_add]
      bv_omega
    rw [List.take_append_of_le_length (show p.traps.length - n ≤ p.traps.length by omega)]
    exact congrArg₂ _ rfl (congrArg₂ _ (by rw [← hsub]) hrange)

/-- The places that a record of the supervisor's own units needs (R419). -/
def ownRoom (s : State) (part : Nat) (own : Bool) : Prop :=
  own = true → (s.getPart part).traps.countP (fun e => e.1) < 16

theorem ownRoom_false (s : State) (part : Nat) : ownRoom s part false := fun h => by cases h

/-- A record is placed, or one of an ordinary unit waits for a place among those of its cycle (R417, R419). -/
theorem State.record_cases {s : State} {part : Nat} {own : Bool} (h : ownRoom s part own) (r : Rec) :
    let p := s.getPart part
    let b := r.bits s.cycle
    let m := p.trapWait.length - laterRecords p.trapWait b
    s.record part own r = s.placeRecord part own b ∨
      (own = false ∧ s.record part own r =
        s.setPart part { p with trapWait := p.trapWait.take m ++ (own, b) :: p.trapWait.drop m }) := by
  intro p b m
  cases own with
  | true =>
    have hroom : (p.traps.filter fun e => e.1 == true).length < Config.trapSuperPlaces := by
      have := h rfl
      simpa [List.countP_eq_length_filter, Config.trapSuperPlaces, p] using this
    exact .inl (if_pos hroom)
  | false =>
    by_cases hroom : p.trapWait.isEmpty && (p.traps.filter fun e => e.1 == false).length < Config.trapPlaces
    · exact .inl (if_pos hroom)
    · exact .inr ⟨rfl, if_neg hroom⟩

/-- The queue of records after a record. -/
theorem State.record_queue {s : State} {part : Nat} {own : Bool} (h : ownRoom s part own) (r : Rec) :
    let q := (s.record part own r).getPart part
    let p := s.getPart part
    let b := r.bits s.cycle
    let n := laterRecords p.traps b
    let m := p.trapWait.length - laterRecords p.trapWait b
    (q.traps = p.traps.take (p.traps.length - n) ++ (own, withRseq b (p.rseq - BitVec.ofNat 16 n)) ::
          (p.traps.drop (p.traps.length - n)).map rseqMoved ∧
        q.rseq = p.rseq + 1 ∧ q.trapWait = p.trapWait) ∨
      (own = false ∧ q.traps = p.traps ∧ q.trapWait = p.trapWait.take m ++ (own, b) :: p.trapWait.drop m) := by
  intro q p b n m
  rcases State.record_cases h r with e | ⟨hown, e⟩
  · simp only [q, e]
    exact .inl (State.placeRecord_queue s part own (Rec.bits_rseq r _))
  · simp only [q, e, State.getPart_setPart]
    exact .inr ⟨hown, rfl, rfl⟩

theorem told_record {s : State} {part : Nat} {own : Bool} (h : ownRoom s part own) (r : Rec) : Told s (s.record part own r) part := by
  rcases State.record_cases h r with e | ⟨-, e⟩ <;> rw [e]
  · exact told_placeRecord s part own _
  · exact told_setPart s part _ _ _ _

theorem told_recordOrdinary (s : State) (part : Nat) (r : Rec) : Told s (s.record part false r) part :=
  told_record (ownRoom_false s part) r

/-- A record of an ordinary unit, written in a state whose trap queue and cycle are those of `s`. -/
theorem State.record_recorded {s u : State} {part : Nat} (hpart : u.getPart part = s.getPart part) (hcycle : u.cycle = s.cycle)
    (r : Rec) : Recorded s (u.record part false r) part r.cls r.uref r.addr r.detail := by
  have hq := State.record_queue (ownRoom_false u part) r
  rw [hpart, hcycle] at hq
  rcases hq with ⟨htraps, -, hwait⟩ | ⟨-, htraps, hwait⟩
  · refine ⟨withRseq (r.bits s.cycle) ((s.getPart part).rseq - BitVec.ofNat 16 (laterRecords (s.getPart part).traps (r.bits s.cycle))),
      ?_, ?_, ?_, ?_, ?_, .inl ⟨?_, hwait⟩⟩
    · simp [Rec.bits_cls]
    · simp [Rec.bits_uref]
    · simp [Rec.bits_addr]
    · simp [Rec.bits_detail]
    · simp [Rec.bits_cycle]
    · beta_reduce
      rw [laterRecords_withRseq]
      exact htraps
  · exact ⟨r.bits s.cycle, Rec.bits_cls r _, Rec.bits_uref r _, Rec.bits_addr r _, Rec.bits_detail r _, Rec.bits_cycle r _,
      .inr ⟨htraps, hwait⟩⟩

/-! ### What a record leaves alone -/

section
variable {s t : State} {part : Nat} (h : Told s t part)
include h

theorem Told.ce : t.ce = s.ce := by rw [h.rest]
theorem Told.getCe (k : Nat) : t.getCe k = s.getCe k := by rw [h.rest]; rfl
theorem Told.getOp (k : Nat) : t.getOp k = s.getOp k := by rw [h.rest]; rfl
theorem Told.getMn (k : Nat) : t.getMn k = s.getMn k := by rw [h.rest]; rfl
theorem Told.getPage (k : Nat) : t.getPage k = s.getPage k := by rw [h.rest]; rfl
theorem Told.launches : t.launches = s.launches := by rw [h.rest]
theorem Told.scratch : t.scratch = s.scratch := by rw [h.rest]
theorem Told.istore : t.istore = s.istore := by rw [h.rest]
theorem Told.wbuf : t.wbuf = s.wbuf := by rw [h.rest]
theorem Told.accs : t.accs = s.accs := by rw [h.rest]
theorem Told.device : t.device = s.device := by rw [h.rest]
theorem Told.cycle : t.cycle = s.cycle := by rw [h.rest]
theorem Told.endq (ch : Nat) : (t.chanD ch).endq = (s.chanD ch).endq := by
  obtain ⟨q, e⟩ := h.chans ch
  rw [e]

end

end Sys2Proof.Machine
end

section
/-!
SUPPORT of the work family: what the end of work (R31, R40, R43) leaves alone. Cancelling and retiring launches changes no
register of the device, but for the interrupts sent to the host, and no record in a trap queue.
-/

namespace Sys2Proof.Machine

/-- What the end of work leaves alone: the device but for its interrupts, and the records of every partition. -/
def State.kept (s : State) : Device × (Nat → List (Bool × BitVec 512) × List (Bool × BitVec 512)) :=
  ({ s.dev with msix := [] }, fun k => ((s.getPart k).traps, (s.getPart k).trapWait))

section
variable (s : State)

/-- A state built on another one's partitions and device keeps these, whatever its other fields are. -/
@[simp] theorem State.kept_mk (t : State) :
    ∀ agenda cur free cycle slew ce ops chans routes starts links buses pages mts mns streams ports portCache devChans
      walks wcache egress ingress launches graphs phases nextId placements stops counters counted perfReads scratch istore
      wbuf accs device lineScope sectorScope sectorLost wordErrs sectorErrs,
    (State.mk agenda cur free cycle slew ce ops chans routes starts links buses pages mts mns streams ports portCache
      devChans walks wcache egress ingress launches graphs phases nextId placements t.parts stops t.dev counters counted
      perfReads scratch istore wbuf accs device lineScope sectorScope sectorLost wordErrs sectorErrs).kept = t.kept := by
  intros; rfl

@[simp] theorem State.kept_ite (c : Prop) [Decidable c] (a b : State) :
    (if c then a else b).kept = if c then a.kept else b.kept := apply_ite _ _ _ _

@[simp] theorem State.foldl_kept {α : Type} (l : List α) (g : State → α → State) (s : State)
    (h : ∀ s x, (g s x).kept = s.kept) : (l.foldl g s).kept = s.kept := by
  induction l generalizing s with
  | nil => rfl
  | cons x l ih => rw [List.foldl_cons, ih, h]

@[simp] theorem State.setPart_kept (k : Nat) (p : Partition)
    (h : p.traps = (s.getPart k).traps ∧ p.trapWait = (s.getPart k).trapWait) : (s.setPart k p).kept = s.kept := by
  refine congrArg (Prod.mk _) (funext fun n => ?_)
  by_cases hn : n = k
  · subst hn
    rw [State.getPart_setPart, h.1, h.2]
  · rw [State.getPart_setPart_ne s k p hn]

@[simp] theorem State.mapPart_kept (k : Nat) (f : Partition → Partition)
    (h : ∀ p, (f p).traps = p.traps ∧ (f p).trapWait = p.trapWait) : (s.mapPart k f).kept = s.kept :=
  State.setPart_kept s k _ (h _)

@[simp] theorem State.setLaunch_kept (k : Nat) (l : Launch) : (s.setLaunch k l).kept = s.kept := (rfl)
@[simp] theorem State.setGraph_kept (k : Nat) (g : Graph) : (s.setGraph k g).kept = s.kept := (rfl)
@[simp] theorem State.setPhase_kept (k : Nat) (p : Phase) : (s.setPhase k p).kept = s.kept := (rfl)
@[simp] theorem State.mapPage_kept (k : Nat) (f : Page → Page) : (s.mapPage k f).kept = s.kept := (rfl)
@[simp] theorem State.mapMn_kept (k : Nat) (f : MatNode → MatNode) : (s.mapMn k f).kept = s.kept := (rfl)
@[simp] theorem State.mapMt_kept (k : Nat) (f : MemTile → MemTile) : (s.mapMt k f).kept = s.kept := (rfl)
@[simp] theorem State.msix_kept (part vec : Nat) : (s.msix part vec).kept = s.kept := (rfl)
@[simp] theorem State.unpark_kept : s.unpark.kept = s.kept := (rfl)

@[simp] theorem State.mapLaunch_kept (k : Nat) (f : Launch → Launch) : (s.mapLaunch k f).kept = s.kept := by
  unfold State.mapLaunch
  split <;> simp

@[simp] theorem State.setTbuf_kept (part buf st : Nat) : (s.setTbuf part buf st).kept = s.kept := by simp [State.setTbuf]

@[simp] theorem State.freeSlot_kept (p c : Nat) : (s.freeSlot p c).kept = s.kept := by simp [State.freeSlot]

@[simp] theorem State.freeLaunch_kept (id : Nat) : (s.freeLaunch id).kept = s.kept := by simp [State.freeLaunch]

@[simp] theorem State.phaseChild_kept (ph : Nat) (o : Outcome) : (s.phaseChild ph o).kept = s.kept := by
  unfold State.phaseChild
  split <;> simp

@[simp] theorem State.graphChild_kept (g : Nat) (o : Outcome) : (s.graphChild g o).kept = s.kept := by
  unfold State.graphChild
  dsimp only
  repeat' split
  all_goals simp

@[simp] theorem State.jobSettle_kept (part : Nat) : (s.jobSettle part).kept = s.kept := by
  unfold State.jobSettle
  dsimp only
  split
  · rfl
  · exact State.setPart_kept s part _ ⟨rfl, rfl⟩

@[simp] theorem State.retireOne_kept (id : Nat) (o : Outcome) : (s.retireOne id o).kept = s.kept := by
  simp only [State.retireOne]
  split
  · rfl
  · have hfold : ∀ (l : List (Nat × TbufUse)) (g : State → Nat × TbufUse → State),
        (∀ s e, (g s e).kept = s.kept) → (l.foldl g s).kept = s.kept := fun l g h => State.foldl_kept l g s h
    simp only [State.graphChild_kept, State.kept_ite, State.mapPart_kept, implies_true, and_self, State.mapLaunch_kept,
      State.freeLaunch_kept, ite_self]
    refine hfold _ _ fun s e => ?_
    split <;> simp

@[simp] theorem State.retireAll_kept (fuel : Nat) (l : List (Nat × Outcome)) : (State.retireAll fuel l s).kept = s.kept := by
  induction fuel generalizing l s with
  | zero => rfl
  | succ fuel ih =>
    cases l with
    | nil => rfl
    | cons e l => simp [State.retireAll, ih]

@[simp] theorem State.retire_kept (id : Nat) (o : Outcome) : (s.retire id o).kept = s.kept := by simp [State.retire]

@[simp] theorem State.startStop_kept (id : Nat) (a : StopAction) (requeue : Bool) (mark : Nat) :
    (s.startStop id a requeue mark).kept = s.kept := by simp [State.startStop]

@[simp] theorem State.killAll_kept (id : Nat) : (s.killAll id).kept = s.kept := by simp [State.killAll]

@[simp] theorem State.cancelLaunch_kept (id : Nat) : (s.cancelLaunch id).kept = s.kept := by
  unfold State.cancelLaunch
  dsimp only
  split <;> simp

@[simp] theorem State.cancelList_kept (ids : List Nat) : (s.cancelList ids).kept = s.kept := by simp [State.cancelList]

@[simp] theorem State.cancelJob_kept (part : Nat) : (s.cancelJob part).kept = s.kept := by simp [State.cancelJob]

end

/-- Cancelling a job changes no register of the device but its interrupts. -/
theorem State.linkReady_of_kept {s t : State} (h : t.kept = s.kept) : t.dev.linkReady = s.dev.linkReady :=
  congrArg (fun x => x.1.linkReady) h

/-! ## What a record leaves of the device -/

theorem State.placeRecord_linkReady (s : State) (part : Nat) (own : Bool) (bits : BitVec 512) :
    (s.placeRecord part own bits).dev.linkReady = s.dev.linkReady := by
  obtain ⟨m, e⟩ := (told_placeRecord s part own bits).dev
  rw [e]

@[simp] theorem State.record_linkReady (s : State) (part : Nat) (own : Bool) (r : Rec) :
    (s.record part own r).dev.linkReady = s.dev.linkReady := by
  unfold State.record
  dsimp only
  repeat' split
  · exact State.placeRecord_linkReady ..
  · rw [State.linkReady_of_kept (State.cancelJob_kept ..)]
    exact State.placeRecord_linkReady ..
  · rfl
  · exact State.placeRecord_linkReady ..
  · rfl

theorem State.foldl_linkReady {α : Type} (l : List α) (g : State → α → State) (s : State)
    (h : ∀ s, ∀ x ∈ l, (g s x).dev.linkReady = s.dev.linkReady) : (l.foldl g s).dev.linkReady = s.dev.linkReady := by
  induction l generalizing s with
  | nil => rfl
  | cons x l ih =>
    rw [List.foldl_cons, ih _ fun s y hy => h s y (List.mem_cons_of_mem _ hy)]
    exact h s x List.mem_cons_self

/-- The collectives that a lost link fails leave the other links up (R422). -/
theorem State.collLinkDown_linkReady (s : State) (link : Nat) : (s.collLinkDown link).dev.linkReady = s.dev.linkReady := by
  unfold State.collLinkDown
  refine State.foldl_linkReady _ _ _ fun s e _ => State.foldl_linkReady _ _ _ fun s c _ => ?_
  dsimp only
  split
  · rfl
  · refine State.foldl_linkReady _ _ _ fun s m _ => ?_
    split
    · rfl
    · exact State.record_linkReady ..

end Sys2Proof.Machine
end

section
/-!
PROOFS of the work family (O38): the watchdog (R47), CONFIG tokens and discarded marks (R219, R221) and flit retries (R422).
-/

namespace Sys2Proof.Machine

/-! ## Tokens taken off an endpoint -/

theorem State.freeTokens_endq (s : State) (ch n : Nat) : ((s.freeTokens ch n).chanD ch).endq = (s.chanD ch).endq.drop n := by
  unfold State.freeTokens
  rw [State.chanD_mapChan]
  split
  · rfl
  next h =>
    have hnone : tfind s.chans ch = none := by simpa using h
    have : (s.chanD ch).endq = [] := by simp [State.chanD, hnone]; rfl
    simp [this]

theorem State.freeTokens_chanD_ne (s : State) (ch n : Nat) {c : Nat} (h : c ≠ ch) :
    (s.freeTokens ch n).chanD c = s.chanD c := by
  unfold State.freeTokens
  rw [State.chanD_mapChan, if_neg fun e => h e.1]

@[simp] theorem State.freeTokens_getOp (s : State) (ch n k : Nat) : (s.freeTokens ch n).getOp k = s.getOp k := by
  unfold State.freeTokens
  rw [State.mapChan_eq]
  rfl

section
variable (s : State) (o : OpSlot) (f : FmtC) (n : Nat)

theorem State.opTake_single : s.opTake o f [n] = match o.inCh f n with | some ch => s.freeTokens ch 1 | none => s := rfl

/-- An operator that takes the head of one input takes it off that endpoint and no other. -/
theorem State.opTake_chans :
    (∀ ch, o.inCh f n = some ch → ((s.opTake o f [n]).chanD ch).endq = (s.chanD ch).endq.drop 1) ∧
    (∀ ch, o.inCh f n ≠ some ch → (s.opTake o f [n]).chanD ch = s.chanD ch) := by
  rw [State.opTake_single]
  cases hin : o.inCh f n with
  | none => exact ⟨(fun ch e => by cases e), fun ch _ => rfl⟩
  | some c =>
    constructor
    · rintro ch ⟨⟩
      exact State.freeTokens_endq s c 1
    · exact fun ch e => State.freeTokens_chanD_ne s c 1 fun h => e (congrArg some h.symm)

@[simp] theorem State.opTake_getOp (k : Nat) : (s.opTake o f [n]).getOp k = s.getOp k := by
  rw [State.opTake_single]
  split
  · exact State.freeTokens_getOp ..
  · rfl

end

/-! ## The watchdog (R47) -/

section
variable {s : State} {k : Nat}

theorem State.watchCe_idle (h : (s.getCe k).watched = true ∨ (s.getCe k).waited < 2 ^ 24) : s.watchCe k = s := if_pos h

theorem State.watchCe_records {at_ i : Nat} (hw : (s.getCe k).watched = false) (hn : 2 ^ 24 ≤ (s.getCe k).waited)
    (ho : s.oldestInput (s.getCe k).inputs = some (at_, i)) (hs : s.isSuper (s.getCe k).launch = false) :
    (s.watchCe k).getCe k = { s.getCe k with watched := true } ∧
      Recorded s (s.watchCe k) (s.getCe k).part .watchdog (State.ceUref k 0 (s.getCe k)) 0 i := by
  have hlate : ¬ ((s.getCe k).watched = true ∨ (s.getCe k).waited < Config.watchdogCycles) :=
    not_or.2 ⟨by simp [hw], Nat.not_lt.2 hn⟩
  unfold State.watchCe
  dsimp only
  rw [if_neg hlate, ho]
  dsimp only
  rw [hs]
  exact ⟨by rw [(told_recordOrdinary _ _ _).getCe, State.getCe_setCe], State.record_recorded (by rfl) (by rfl) _⟩

end

section
variable {s : State} {mn c : Nat}

theorem State.watchNode_idle (h : ((s.getMn mn).ctx c).watched = true ∨ ((s.getMn mn).ctx c).waited < 2 ^ 24) :
    s.watchNode mn c = s := if_pos h

theorem State.watchNode_records {at_ i : Nat} (hw : ((s.getMn mn).ctx c).watched = false)
    (hn : 2 ^ 24 ≤ ((s.getMn mn).ctx c).waited) (hc : c < (s.getMn mn).ctxs.length)
    (ho : s.oldestInput ((((s.getMn mn).ctx c).ctl.map fun ch => (0, ch)).toList ++
      (((s.getMn mn).ctx c).rows.map fun ch => (1, ch)).toList) = some (at_, i))
    (hs : s.isSuper (s.slotLaunch (mn / 2) c) = false) :
    ((s.watchNode mn c).getMn mn).ctx c = { (s.getMn mn).ctx c with watched := true } ∧
      Recorded s (s.watchNode mn c) (s.pageOwner (mn / 2)) .watchdog (s.mnUref mn c 0) 0 i := by
  have hlate : ¬ (((s.getMn mn).ctx c).watched = true ∨ ((s.getMn mn).ctx c).waited < Config.watchdogCycles) :=
    not_or.2 ⟨by simp [hw], Nat.not_lt.2 hn⟩
  unfold State.watchNode
  dsimp only
  rw [if_neg hlate, ho]
  dsimp only
  rw [hs]
  refine ⟨?_, State.record_recorded (by rfl) (by rfl) _⟩
  rw [(told_recordOrdinary _ _ _).getMn]
  simp [State.mapMnCtx, State.mapMn, MatNode.ctx, hc]

end

/-- The watchdog of a router whose one operator has waited too long. -/
theorem State.watchRouter_records {s : State} {k : Nat} {f : FmtC} {at_ i : Nat} (hops : s.ops = [(k, s.getOp k)])
    (hw : (s.getOp k).watched = false) (hn : 2 ^ 24 ≤ (s.getOp k).waited)
    (ho : s.oldestInput (s.getOp k).inputs = some (at_, i)) (hf : (s.getOp k).instr.bind fmtCOf = some f)
    (hs : s.isSuper (s.getOp k).launch = false) :
    (s.watchRouter (k / 8)).getOp k = { s.getOp k with watched := true } ∧
      Recorded s (s.watchRouter (k / 8)) (s.getOp k).part .watchdog (s.opUref k) 0 i := by
  have hmine : (s.ops.filter fun e => e.1 / 8 == k / 8) = [(k, s.getOp k)] := by rw [hops]; simp
  have hlate : ([(k, s.getOp k)].isEmpty ||
      ([(k, s.getOp k)].any fun e => e.2.watched || e.2.waited < Config.watchdogCycles)) = false := by
    simp [hw, show ¬ (s.getOp k).waited < Config.watchdogCycles from Nat.not_lt.2 hn]
  have hold : ([(k, s.getOp k)].filterMap fun e => (s.oldestInput e.2.inputs).map fun x => (x.1, e.1, x.2)) = [(at_, k, i)] := by
    simp [ho]
  unfold State.watchRouter
  dsimp only
  rw [hmine, hlate, hold]
  simp only [Bool.false_eq_true, if_false, List.foldl_nil]
  rw [hf]
  dsimp only
  have hsuper : State.isSuper { s with ops := tmap s.ops fun j y => if j / 8 = k / 8 then { y with watched := true } else y }
      (s.getOp k).launch = false := hs
  rw [hsuper]
  have huref : State.opUref { s with ops := tmap s.ops fun j y => if j / 8 = k / 8 then { y with watched := true } else y } k =
      s.opUref k := by
    unfold State.opUref State.getOp
    rw [hops]
    simp [tmap, tget]
    rfl
  rw [← huref]
  refine ⟨?_, State.record_recorded (by rfl) (by rfl) _⟩
  rw [(told_recordOrdinary _ _ _).getOp]
  unfold State.getOp
  rw [hops]
  simp [tmap, tget]

/-! ## CONFIG tokens and marks (R219, R221) -/

/-- The head that an operator sees at an input. -/
theorem State.opHeads_at (s : State) (o : OpSlot) (f : FmtC) {n : Nat} (h : n < 3) :
    (s.opHeads o f).at n = (s.filled (o.inCh f n)).head? := by
  rcases n with _ | _ | _ | n
  · rfl
  · rfl
  · rfl
  · omega

section
variable {s : State} {k n : Nat} {i : Instr} {f p : FmtC} {tok : Token}

/-- An operator that has a CONFIG token at its head takes the payload's word where it encodes one of its kind, or raises
CONFIG. -/
theorem State.takeConfig_eq (hp : (s.getOp k).placed = some p) (hi : (s.getOp k).instr = some i) (hf : fmtCOf i = some f)
    (hc : s.opConfig (s.getOp k) f = some n) (hmay : s.opMay k = true)
    (htok : (s.filled ((s.getOp k).inCh f n)).head? = some tok) (hn : n < 3) :
    (∀ i', configWord k p i tok.data.toWord = some i' → s.takeConfig k =
      (s.opTake (s.getOp k) f [n]).setOp k { ((s.getOp k).restart i') with instr := some i', fired := true }) ∧
    (configWord k p i tok.data.toWord = none → s.takeConfig k = s.opFault k f tok.data.toWord .config n 0 0) := by
  have hhead := (State.opHeads_at s (s.getOp k) f hn).trans htok
  constructor
  · intro i' hword
    unfold State.takeConfig
    simp only [hi, hp, hf, hc, hmay, hhead, hword, Bool.not_true, Bool.false_eq_true, if_false]
  · intro hword
    unfold State.takeConfig
    simp only [hi, hp, hf, hc, hmay, hhead, hword, Bool.not_true, Bool.false_eq_true, if_false]

theorem OpSlot.restart_placed (o : OpSlot) (i : Instr) : (o.restart i).placed = o.placed := by
  unfold OpSlot.restart
  split <;> rfl

/-- An operator that faults (R417): it stands FAULTED, and its record names it. -/
def State.opFaulted (s : State) (k : Nat) (cls : FaultClass) (n : Nat) : State :=
  s.setOp k { s.getOp k with faulted := some cls.code, faultIn := n, fired := true }

/-- The name of an operator is not changed by its fault. -/
theorem State.opFaulted_opUref (s : State) (k : Nat) (cls : FaultClass) (n : Nat) : (s.opFaulted k cls n).opUref k = s.opUref k := by
  have hpart : ((s.opFaulted k cls n).getOp k).part = (s.getOp k).part := by
    unfold State.opFaulted
    rw [State.getOp_setOp]
  unfold State.opUref
  rw [hpart]
  rfl

/-- The fault of an operator of a launch other than the supervisor. -/
theorem State.opFault_faults (s : State) (k : Nat) (f : FmtC) (w : Word) (cls : FaultClass) (n addr detail : Nat)
    (hs : s.isSuper (s.getOp k).launch = false) :
    let t := s.opFault k f w cls n addr detail
    t.getOp k = { s.getOp k with faulted := some cls.code, faultIn := n, fired := true } ∧
      (∀ ch, (t.chanD ch).endq = (s.chanD ch).endq) ∧ Recorded s t (s.getOp k).part cls (s.opUref k) addr detail := by
  intro t
  have ht : t = (s.opFaulted k cls n).record (s.getOp k).part ((s.opFaulted k cls n).isSuper (s.getOp k).launch)
      { cls := cls, kind := 3, ctx := opCtx k, xy := tileXy (opPage k) (opTile k), uref := (s.opFaulted k cls n).opUref k,
        slot := k % 8, word := w.toNat, addr := addr, detail := detail, waiting := (s.opFaulted k cls n).opWaiting (s.getOp k) f } :=
    rfl
  have hsuper : (s.opFaulted k cls n).isSuper (s.getOp k).launch = false := hs
  rw [hsuper, State.opFaulted_opUref] at ht
  have htold : Told (s.opFaulted k cls n) t (s.getOp k).part := ht ▸ told_recordOrdinary _ _ _
  refine ⟨(htold.getOp k).trans (State.getOp_setOp ..), htold.endq, ?_⟩
  rw [ht]
  exact State.record_recorded (by rfl) (by rfl) _

theorem State.discardMark_eq (hi : (s.getOp k).instr = some i) (hf : fmtCOf i = some f)
    (hc : s.opConfig (s.getOp k) f = none) (hm : s.opMark (s.getOp k) i f = some n) (hmay : s.opMay k = true) :
    s.discardMark k = (s.opTake (s.getOp k) f [n]).setOp k { s.getOp k with fired := true } := by
  unfold State.discardMark
  simp [hi, hf, hc, hm, hmay]

/-- What an operator that takes a head and stands at `o` afterwards leaves: the other endpoints and the other operators. -/
theorem State.opTake_setOp_frame (o : OpSlot) :
    let t := (s.opTake (s.getOp k) f [n]).setOp k o
    (∀ ch, (s.getOp k).inCh f n = some ch → (t.chanD ch).endq = (s.chanD ch).endq.drop 1) ∧
    (∀ ch, (s.getOp k).inCh f n ≠ some ch → t.chanD ch = s.chanD ch) ∧ ∀ j, j ≠ k → t.getOp j = s.getOp j := by
  obtain ⟨htaken, hothers⟩ := State.opTake_chans s (s.getOp k) f n
  refine ⟨htaken, hothers, fun j hj => ?_⟩
  rw [State.getOp_setOp_ne _ k o hj, State.opTake_getOp]

end

/-! ## Flit retries (R422) -/

section
variable {s : State} {k : Nat}

/-- A lane of a link is mapped out: two device counters have counted it. -/
def State.laneOut (s : State) (k : Nat) : State :=
  ((s.countDev 0x401 1).countDev 0x402 1).mapDev fun d => { d with lanes := tput d.lanes k (tget 0 s.dev.lanes k - 1) }

theorem exec_flitRetry_idle (h : 18 ≤ k ∨ s.dev.linkReady.getLsbD k = false) (ok : Bool) :
    exec (.flitRetry k ok) s = .next s := congrArg Host.Outcome.next (if_pos (h.imp_right fun e => by simp [e]))

theorem exec_flitRetry_repaired (hk : k < 18) (h : s.dev.linkReady.getLsbD k = true) :
    exec (.flitRetry k true) s = .next (s.countDev 0x400 1) := by
  have hup : ¬ (18 ≤ k ∨ !s.dev.linkReady.getLsbD k) := by simp [h, hk]
  exact congrArg Host.Outcome.next ((if_neg hup).trans (if_pos rfl))

theorem exec_flitRetry_lost (hk : k < 18) (h : s.dev.linkReady.getLsbD k = true) :
    exec (.flitRetry k false) s = .next (if tget 0 s.dev.lanes k - 1 = 0 then (s.laneOut k).linkLost k else s.laneOut k) := by
  have hup : ¬ (18 ≤ k ∨ !s.dev.linkReady.getLsbD k) := by simp [h, hk]
  exact congrArg Host.Outcome.next ((if_neg hup).trans (if_neg Bool.false_ne_true))

/-- Losing a link takes its ready bit and no other. -/
theorem State.linkLost_linkReady (s : State) (k : Nat) :
    (s.linkLost k).dev.linkReady = s.dev.linkReady &&& ~~~(BitVec.twoPow 18 k) := by
  unfold State.linkLost
  rw [State.collLinkDown_linkReady]
  rfl

theorem linkReady_cleared (b : BitVec 18) (k j : Nat) :
    (b &&& ~~~(BitVec.twoPow 18 k)).getLsbD j = (b.getLsbD j && decide (j ≠ k)) := by
  by_cases hj : j < 18
  · by_cases h : j = k
    · subst h; simp [hj]
    · simp [hj, h]
  · simp [BitVec.getLsbD_of_ge b j (by omega)]

end

theorem exec_watchdog_ce (s : State) {k : Nat} (hk : k < 2 ^ 20) : exec (.watchdog false k) s = .next (s.watchCe k) :=
  congrArg Host.Outcome.next (if_pos hk)

theorem exec_watchdog_node (s : State) (k : Nat) :
    exec (.watchdog false (2 ^ 20 + k)) s = .next (s.watchNode (k / 4) (k % 4)) := by
  have hnode : ¬ 2 ^ 20 + k < watchNodes := by unfold watchNodes; omega
  have hkey : 2 ^ 20 + k - watchNodes = k := by unfold watchNodes; omega
  refine congrArg Host.Outcome.next ((if_neg hnode).trans ?_)
  rw [hkey]

/-- Settles O38, from one rule for each event. -/
theorem watchdogsAndConfiguration : Obligations.WatchdogsAndConfiguration := by
  unfold Obligations.WatchdogsAndConfiguration
  intro s k c o free x
  refine ⟨?_, ?_, ?_, ?_, ?_, ?_, ?_, fun h ok => exec_flitRetry_idle h ok, ?_⟩
  · exact fun hk h => (exec_watchdog_ce s hk).trans (congrArg _ (State.watchCe_idle h))
  · exact fun h => (exec_watchdog_node s k).trans (congrArg _ (State.watchNode_idle h))
  · intro at_ i hw hn hlen ho hs
    exact ⟨_, exec_watchdog_node s k, State.watchNode_records hw hn (by omega) ho hs⟩
  · intro at_ i hk hw hn ho hs
    exact ⟨_, exec_watchdog_ce s hk, State.watchCe_records hw hn ho hs⟩
  · intro f at_ i hops hw hn ho hf hs
    exact ⟨_, rfl, State.watchRouter_records hops hw hn ho hf hs⟩
  · intro p f i n tok hp hi hf hc hmay htok hn
    obtain ⟨htakes, hfaults⟩ := State.takeConfig_eq hp hi hf hc hmay htok hn
    constructor
    · intro i' hword
      refine ⟨_, congrArg Host.Outcome.next (htakes i' hword), ?_⟩
      beta_reduce
      rw [State.getOp_setOp]
      exact ⟨rfl, (OpSlot.restart_placed _ _).trans hp, rfl, State.opTake_setOp_frame _⟩
    · intro hword hs
      obtain ⟨hop, hchans, hrec⟩ := State.opFault_faults s k f tok.data.toWord .config n 0 0 hs
      exact ⟨_, congrArg Host.Outcome.next (hfaults hword), by rw [hop]; rfl, by rw [hop]; exact hi, hchans, hrec⟩
  · intro f i n hi hf hc hm hmay
    have hexec : exec (.controlMarkDiscard k) s = .next (s.discardMark k) := rfl
    rw [State.discardMark_eq hi hf hc hm hmay] at hexec
    exact ⟨_, hexec, State.getOp_setOp .., State.opTake_setOp_frame _⟩
  · intro hk hup
    refine ⟨exec_flitRetry_repaired hk hup, fun hlanes => ?_, fun hlanes => ?_⟩
    · refine ⟨_, (exec_flitRetry_lost hk hup).trans (congrArg _ (if_neg (by omega))), ?_, rfl⟩
      exact tget_tput_self ..
    · have hready : ((s.laneOut k).linkLost k).dev.linkReady = s.dev.linkReady &&& ~~~(BitVec.twoPow 18 k) :=
        State.linkLost_linkReady _ k
      refine ⟨_, (exec_flitRetry_lost hk hup).trans (congrArg _ (if_pos (by omega))), ?_, fun j hj => ?_⟩
      · rw [hready, linkReady_cleared]
        simp
      · rw [hready, linkReady_cleared]
        simp [hj]

end Sys2Proof.Machine
end

section
/-!
SUPPORT of the work family: the pointer moves of a block (R28, R165). ADV and PADV move the pointers of the running context and
the tokens of the channels at its endpoints, and nothing else (`Moved`).
-/

namespace Sys2Proof.Machine

/-- Only the context at a key has moved, and in it the pointers of its endpoints alone; and tokens of channels. -/
structure Moved (s t : State) (k : Nat) : Prop where
  rest : t = { s with ce := t.ce, chans := t.chans }
  others : ∀ k', k' ≠ k → t.getCe k' = s.getCe k'
  own : ∃ ins outs, t.getCe k = { s.getCe k with ins := ins, outs := outs }

section
variable {s t u : State} {k : Nat}

theorem Moved.refl (s : State) (k : Nat) : Moved s s k := ⟨rfl, fun _ _ => rfl, (s.getCe k).ins, (s.getCe k).outs, rfl⟩

theorem Moved.trans (h : Moved s t k) (h' : Moved t u k) : Moved s u k where
  rest := by rw [h'.rest, h.rest]
  others k' hk := (h'.others k' hk).trans (h.others k' hk)
  own := by
    obtain ⟨_, _, e⟩ := h.own
    obtain ⟨ins, outs, e'⟩ := h'.own
    exact ⟨ins, outs, by rw [e', e]⟩

theorem Moved.foldl {α : Type} (l : List α) {g : State → α → State} (h : ∀ s x, Moved s (g s x) k) (s : State) :
    Moved s (l.foldl g s) k := by
  induction l generalizing s with
  | nil => exact .refl s k
  | cons x l ih => exact (h s x).trans (ih _)

/-- The pointers of the running context alone. -/
theorem Moved.setCe (s : State) (k : Nat) (ins : List InEp) (outs : List OutEp) :
    Moved s (s.setCe k { s.getCe k with ins := ins, outs := outs }) k where
  rest := rfl
  others _ hk := State.getCe_setCe_ne s k _ hk
  own := ⟨ins, outs, State.getCe_setCe s k _⟩

theorem Moved.mapChan (s : State) (k ch : Nat) (f : Chan → Chan) : Moved s (s.mapChan ch f) k := by
  rw [State.mapChan_eq]
  exact ⟨rfl, fun _ _ => rfl, (s.getCe k).ins, (s.getCe k).outs, rfl⟩

end

section
variable (s : State) (k : Nat)

theorem moved_moveIn (i n : Nat) : Moved s (s.moveIn k i n) k := by
  unfold State.moveIn
  dsimp only
  split
  · exact .refl s k
  · exact (Moved.setCe s k _ (s.getCe k).outs).trans (Moved.mapChan _ k _ _)

theorem moved_moveOut (j n : Nat) : Moved s (s.moveOut k j n) k := by
  unfold State.moveOut
  dsimp only
  split
  · exact .refl s k
  · exact (Moved.setCe s k (s.getCe k).ins _).trans (Moved.mapChan _ k _ _)

/-- The firing after its pointer moves have been applied. -/
def Firing.moved (f : Firing) : Firing :=
  { f with advMoves := [], padvMoves := [], published := f.padvMoves.foldl (fun t m => tadd t m.1 m.2) f.published }

/-- The state after the moves of both kinds, before the firing forgets them. -/
def State.afterMoves : State :=
  (s.getCe k).fir.padvMoves.foldl (fun s (m : Nat × Nat) => s.moveOut k m.1 m.2) ((s.getCe k).fir.advMoves.foldl (fun s m => s.moveIn k m.1 m.2) s)

theorem moved_afterMoves : Moved s (s.afterMoves k) k :=
  (Moved.foldl _ (fun s (m : Nat × Nat) => moved_moveIn s k m.1 m.2) s).trans (Moved.foldl _ (fun s (m : Nat × Nat) => moved_moveOut s k m.1 m.2) _)

/-- `applyMoves`: the moves, and a firing that has none left. -/
theorem State.applyMoves_eq :
    s.applyMoves k = (s.afterMoves k).setCe k { (s.afterMoves k).getCe k with fir := (s.getCe k).fir.moved } := by
  obtain ⟨ins, outs, e⟩ := (moved_afterMoves s k).own
  have hfir : ((s.afterMoves k).getCe k).fir = (s.getCe k).fir := by rw [e]
  have heq : s.applyMoves k = (s.afterMoves k).setCe k { (s.afterMoves k).getCe k with fir :=
      { ((s.afterMoves k).getCe k).fir with
        advMoves := [], padvMoves := []
        published := (s.getCe k).fir.padvMoves.foldl (fun t m => tadd t m.1 m.2) ((s.afterMoves k).getCe k).fir.published } } := rfl
  rw [heq, hfir]
  rfl

theorem State.applyMoves_rest : s.applyMoves k = { s with ce := (s.applyMoves k).ce, chans := (s.applyMoves k).chans } := by
  have h := (moved_afterMoves s k).rest
  rw [State.applyMoves_eq, h]
  rfl

theorem State.applyMoves_others {k' : Nat} (h : k' ≠ k) : (s.applyMoves k).getCe k' = s.getCe k' := by
  rw [State.applyMoves_eq, State.getCe_setCe_ne _ k _ h, (moved_afterMoves s k).others k' h]

theorem State.applyMoves_own :
    ∃ ins outs, (s.applyMoves k).getCe k = { s.getCe k with ins := ins, outs := outs, fir := (s.getCe k).fir.moved } := by
  obtain ⟨ins, outs, e⟩ := (moved_afterMoves s k).own
  exact ⟨ins, outs, by rw [State.applyMoves_eq, State.getCe_setCe, e]⟩

@[simp] theorem State.applyMoves_chanD (ch : Nat) : (s.applyMoves k).chanD ch = (s.afterMoves k).chanD ch := by
  rw [State.applyMoves_eq]
  rfl

/-! ## The tokens of one move -/

theorem State.moveIn_chanD {i ch : Nat} (h : (s.getCe k).inCh i = some ch) (n c : Nat) :
    (s.moveIn k i n).chanD c = (s.freeTokens ch n).chanD c := by
  unfold CeCtx.inCh at h
  unfold State.moveIn
  simp only [h]
  unfold State.freeTokens
  rw [State.chanD_mapChan, State.chanD_mapChan]
  rfl

theorem State.moveOut_chanD {j ch : Nat} (h : (s.getCe k).outCh j = some ch) (n c : Nat) :
    (s.moveOut k j n).chanD c =
      (s.publish ch ((List.range n).map fun i => tget default (lget {} (s.getCe k).outs j).stage i)).chanD c := by
  unfold CeCtx.outCh at h
  unfold State.moveOut
  simp only [h]
  unfold State.publish
  rw [State.chanD_mapChan, State.chanD_mapChan]
  rfl

end

end Sys2Proof.Machine
end

section
/-!
PROOFS of the work family (O19): taking a fault on a compute element and returning from it (R28, R187, R417, R421).
-/

namespace Sys2Proof.Machine

/-! ## Taking a fault -/

section
variable (s : State) (k : Nat)

/-- The running context with its moves applied and its binding FAULTED at its block, before the record is written. -/
def State.faultedAt : State :=
  (s.applyMoves k).setCe k { (s.applyMoves k).getCe k with
    fir := { (s.getCe k).fir.moved with hold := .none, skip := false }
    binds := lmod (s.getCe k).binds (s.getCe k).fir.bind fun b => { b with state := .faulted, retry := false } }

theorem State.faultedAt_others {k' : Nat} (h : k' ≠ k) : (s.faultedAt k).getCe k' = s.getCe k' :=
  (State.getCe_setCe_ne _ k _ h).trans (State.applyMoves_others s k h)

theorem State.faultedAt_own : ∃ ins outs, (s.faultedAt k).getCe k = { s.getCe k with
    ins := ins, outs := outs
    fir := { (s.getCe k).fir.moved with hold := .none, skip := false }
    binds := lmod (s.getCe k).binds (s.getCe k).fir.bind fun b => { b with state := .faulted, retry := false } } := by
  obtain ⟨ins, outs, e⟩ := State.applyMoves_own s k
  refine ⟨ins, outs, ?_⟩
  unfold State.faultedAt
  rw [State.getCe_setCe, e]

theorem State.faultedAt_rest : s.faultedAt k = { s with ce := (s.faultedAt k).ce, chans := (s.faultedAt k).chans } := by
  unfold State.faultedAt
  rw [State.applyMoves_rest]
  rfl

/-- The record of a fault on a compute element (R417). -/
def State.ceRec (cls : FaultClass) (addr detail : Nat) : Rec :=
  let c := s.getCe k
  { cls := cls, kind := 0, ctx := ceSlot k, xy := ceXy k, uref := State.ceUref k c.fir.bind c, slot := c.fir.bind, hdr := false,
    index := c.fir.idx, word := c.fir.word.toNat, addr := addr, detail := detail
    waiting := (s.faultedAt k).waitingWord ((s.faultedAt k).getCe k) }

/-- `ceFault`: the binding stands FAULTED, and the record names what faulted. -/
theorem State.ceFault_eq (cls : FaultClass) (addr detail : Nat) :
    s.ceFault k cls addr detail =
      (s.faultedAt k).record (s.getCe k).part (s.isSuper (s.getCe k).launch) (s.ceRec k cls addr detail) := by
  obtain ⟨ins, outs, e⟩ := State.applyMoves_own s k
  obtain ⟨ins', outs', e'⟩ := State.faultedAt_own s k
  have hfault : s.ceFault k cls addr detail =
      ((s.applyMoves k).mapCe k fun c => { c with
        fir := { ((s.applyMoves k).getCe k).fir with hold := .none, skip := false }
        binds := lmod c.binds ((s.applyMoves k).getCe k).fir.bind fun b => { b with state := .faulted, retry := false } }).ceRecord
        k ((s.applyMoves k).getCe k).fir.bind cls addr detail ((s.applyMoves k).getCe k).fir.idx false
        ((s.applyMoves k).getCe k).fir.word.toNat := rfl
  have hstate : ((s.applyMoves k).mapCe k fun c => { c with
      fir := { ((s.applyMoves k).getCe k).fir with hold := .none, skip := false }
      binds := lmod c.binds ((s.applyMoves k).getCe k).fir.bind fun b => { b with state := .faulted, retry := false } }) =
      s.faultedAt k := by
    unfold State.mapCe State.faultedAt
    rw [e]
    rfl
  have hlaunches : (s.faultedAt k).launches = s.launches := by rw [State.faultedAt_rest]
  have hsuper : (s.faultedAt k).isSuper (s.getCe k).launch = s.isSuper (s.getCe k).launch := by
    simp only [State.isSuper, State.launchD, hlaunches]
  have hfir : ((s.applyMoves k).getCe k).fir = (s.getCe k).fir.moved := by rw [e]
  rw [hfault, hstate, hfir]
  unfold State.ceRecord State.ceRec
  dsimp only
  rw [e', ← hsuper]
  rfl

/-- What one ADV of the block frees is what its endpoint has lost. -/
theorem State.faultedAt_endq {i m ch : Nat} (hadv : (s.getCe k).fir.advMoves = [(i, m)]) (hpadv : (s.getCe k).fir.padvMoves = [])
    (hch : (s.getCe k).inCh i = some ch) : ((s.faultedAt k).chanD ch).endq = (s.chanD ch).endq.drop m := by
  have hmoves : s.afterMoves k = s.moveIn k i m := by simp [State.afterMoves, hadv, hpadv]
  have hchan : (s.faultedAt k).chanD ch = (s.afterMoves k).chanD ch := State.applyMoves_chanD s k ch
  rw [hchan, hmoves, State.moveIn_chanD s k hch]
  exact State.freeTokens_endq s ch m

end

/-! ## Returning from one (R187) -/

section
variable (s : State) (k bind : Nat) (skip : Bool)

@[simp] theorem State.ceReturn_getCe : (s.ceReturn k bind skip).getCe k = (s.getCe k).returned bind skip :=
  State.getCe_mapCe s k _

end

section
variable (c : CeCtx) (bind : Nat) (skip : Bool)

theorem CeCtx.returned_regs : (c.returned bind skip).regs = c.regs := by
  unfold CeCtx.returned
  dsimp only
  repeat' split
  all_goals rfl

theorem CeCtx.returned_others {n : Nat} (h : n ≠ bind) : lget {} (c.returned bind skip).binds n = lget {} c.binds n := by
  unfold CeCtx.returned
  dsimp only
  repeat' split
  all_goals simp [lget_lmod_ne _ _ _ h]

variable {c bind skip}

/-- A binding that left its block in place goes on with it. -/
theorem CeCtx.returned_residue (hl : bind < c.binds.length) (ha : c.fir.active = true) (hb : c.fir.bind = bind) :
    (c.returned bind skip).fir = { c.fir with skip := skip } ∧
      lget {} (c.returned bind skip).binds bind = { lget {} c.binds bind with state := .runnable } := by
  unfold CeCtx.returned
  simp [ha, hb, hl]

/-- A binding that left nothing behind: a wait that is to be tried again, or a block rejected at its fetch. -/
theorem CeCtx.returned_bare (h : c.fir.active = false ∨ c.fir.bind ≠ bind) :
    c.returned bind skip =
      if (lget {} c.binds bind).retry then
        { c with binds := lmod c.binds bind fun b =>
          if skip then { b with state := .runnable, wait := .none, retry := false } else { b with state := .sleeping, retry := false } }
      else if skip then c else { c with binds := lmod c.binds bind fun b => { b with state := .runnable } } := by
  have hresidue : (c.fir.active && c.fir.bind == bind) = false := by
    rcases h with h | h <;> simp [h]
  unfold CeCtx.returned
  simp only [hresidue, Bool.false_eq_true, if_false]

/-- Where a binding stands in its task is not changed by a return. -/
theorem CeCtx.returned_place (c : CeCtx) (bind : Nat) (skip : Bool) (hl : bind < c.binds.length) :
    (lget {} (c.returned bind skip).binds bind).pc = (lget {} c.binds bind).pc ∧
      (lget {} (c.returned bind skip).binds bind).stack = (lget {} c.binds bind).stack := by
  unfold CeCtx.returned
  dsimp only
  repeat' split
  all_goals simp [hl]

/-- A binding without anything left: it runs again, waits again where its wait is to be tried again, or a skip leaves it. -/
theorem CeCtx.returned_bare_state (hl : bind < c.binds.length) (h : c.fir.active = false ∨ c.fir.bind ≠ bind) :
    let x := lget {} c.binds bind
    let y := c.returned bind skip
    let z := lget {} y.binds bind
    y.fir = c.fir ∧ (x.retry = false → skip = false → z.state = .runnable) ∧ (x.retry = false → skip = true → y = c) ∧
      (x.retry = true → skip = false → z.state = .sleeping ∧ z.wait = x.wait ∧ z.retry = false) ∧
      (x.retry = true → skip = true → z.state = .runnable ∧ z.wait = .none ∧ z.retry = false) := by
  intro x y z
  have hy := CeCtx.returned_bare (skip := skip) h
  have hz : z = lget {} (c.returned bind skip).binds bind := rfl
  cases hretry : x.retry <;> cases skip <;> simp only [hretry, x, if_true, if_false, Bool.false_eq_true] at hy <;>
    simp [y, hz, hy, hl, x]

end

/-! ## Instructions of format X -/

theorem Word.toVec_zero : (0 : Word).toVec = 0 := BitVec.setWidth_zero ..

theorem Word.toVec_one : (1 : Word).toVec = 1 := by
  unfold Word.toVec
  exact BitVec.setWidth_ofNat_of_le_of_lt (by decide) (by decide)

/-- An instruction of format X that is ready runs its own rule. -/
theorem State.instrX_ready {s : State} {f : FmtX} (h : Ready s f) (go : Nat → Rd → State → State) :
    s.instrX f go = go s.key (s.rdAt s.key) s := by
  obtain ⟨hhold, hskip, hguard⟩ := h
  have hhold' : ¬ (s.rdAt s.key).c.fir.hold ≠ .none := not_not.2 hhold
  have hrun : (s.rdAt s.key).guardX f = true := by
    unfold Rd.guardX
    rw [hguard]
    exact congrArg (fun b => !b && true) hskip
  unfold State.instrX
  simp only [if_neg hhold', hrun, Bool.not_true, Bool.false_eq_true, if_false]

/-- An instruction that only delivers a word. -/
theorem gives_giveX {i : Instr} {s : State} {f : FmtX} {v : Word} (h : exec i s = .next (s.giveX s.key f v)) {P : Vec → Prop}
    (hP : P v.toVec) : Gives i s f.ta .none false 0 P :=
  ⟨_, _, h, State.mapCe_only s _, by
    have := CeCtx.give_delivered (s.getCe s.key) false v.toVec f.ta
    rwa [State.giveX, State.getCe_mapCe], hP⟩

/-! ## TRET (R187, R421) -/

section
variable {s : State} {f : FmtX}

/-- The mode of a TRET. -/
theorem tretMode_eq (f : FmtX) : f.sub.toNat % 4 = (f.sub.extractLsb' 0 2).toNat := by simp [BitVec.extractLsb'_toNat]

/-- TRET of the supervisor, once no access and no record of the unit is under way. -/
theorem exec_tret (h : Ready s f) (hsuper : s.isSuper (s.getCe s.key).launch = true) (hwrites : s.areaWrites s.key = false)
    (hrecord : s.unitRecordWaits (s.getCe s.key).part ((s.rdAt s.key).w64 .a f.sa) = false) :
    exec (.tret f) s = .next (match s.tret (s.getCe s.key).part ((s.rdAt s.key).w64 .a f.sa) (f.sub.extractLsb' 0 2).toNat with
      | none => s.giveX s.key f 0
      | some (id, t) => if s.stopping id then s else (t.giveX s.key f 1).settle) := by
  refine congrArg Host.Outcome.next ((State.instrX_ready h _).trans ?_)
  have hsuper' : s.isSuper (s.rdAt s.key).c.launch = true := hsuper
  have hrecord' : s.unitRecordWaits (s.rdAt s.key).c.part ((s.rdAt s.key).xa f) = false := hrecord
  simp only [hsuper', hwrites, hrecord', tretMode_eq, Bool.not_true, Bool.false_eq_true, if_false] <;> rfl

/-- A TRET that names no FAULTED unit, or nothing that it could do, delivers 0. -/
theorem gives_tret_none (h : Ready s f) (hsuper : s.isSuper (s.getCe s.key).launch = true) (hwrites : s.areaWrites s.key = false)
    (hrecord : s.unitRecordWaits (s.getCe s.key).part ((s.rdAt s.key).w64 .a f.sa) = false)
    (hnone : s.tret (s.getCe s.key).part ((s.rdAt s.key).w64 .a f.sa) (f.sub.extractLsb' 0 2).toNat = none) :
    Gives (.tret f) s f.ta .none false 0 (fun v => v = 0) := by
  refine gives_giveX (v := 0) ?_ Word.toVec_zero
  rw [exec_tret h hsuper hwrites hrecord, hnone]

/-- A TRET that changes a unit of a launch that is not being stopped. -/
theorem exec_tret_some (h : Ready s f) (hsuper : s.isSuper (s.getCe s.key).launch = true) (hwrites : s.areaWrites s.key = false)
    (hrecord : s.unitRecordWaits (s.getCe s.key).part ((s.rdAt s.key).w64 .a f.sa) = false) {id : Nat} {t : State}
    (hsome : s.tret (s.getCe s.key).part ((s.rdAt s.key).w64 .a f.sa) (f.sub.extractLsb' 0 2).toNat = some (id, t))
    (hstop : s.stopping id = false) :
    exec (.tret f) s = .next (t.mapCe s.key fun c => c.give false 1 f.ta).settle := by
  rw [exec_tret h hsuper hwrites hrecord, hsome]
  simp only [hstop, Bool.false_eq_true, if_false, State.giveX, Word.toVec_one]

/-- What TRET does to a FAULTED binding of a context in place. -/
theorem State.tret_binding {part e pp mode : Nat} {u : Word} (hkind : urKind u = 1) (he : tileCe (urTile u) = some e)
    (hpp : s.phys part (urPage u) = some pp) (hlaunch : (s.getCe (ceKey pp e (urCtx u))).launch ≠ 0)
    (hpart : (s.getCe (ceKey pp e (urCtx u))).part = part)
    (hbound : (lget {} (s.getCe (ceKey pp e (urCtx u))).binds (urSlot u)).bound = true)
    (hfault : (lget {} (s.getCe (ceKey pp e (urCtx u))).binds (urSlot u)).state = .faulted) :
    s.tret part u mode =
      let j := ceKey pp e (urCtx u)
      let d := s.getCe j
      let x := lget {} d.binds (urSlot u)
      if mode = 2 then some (d.launch, (s.mapCe j (·.dropBinding (urSlot u))).countLost d.launch (x.ends - x.points))
      else if mode = 1 ∧ d.atFetch (urSlot u) then none
      else some (d.launch, s.ceReturn j (urSlot u) (mode == 1)) := by
  have htret : s.tret part u mode = s.tretCe part u mode := by
    unfold State.tret
    simp only [hkind]
  rw [htret]
  unfold State.tretCe
  rw [he]
  simp only [hpp, Option.getD_some, Option.isSome_some, true_and]
  rw [if_pos ⟨hlaunch, hpart, hbound, hfault⟩]

end

/-- The queue of records after a fault: the record stands among those of its cycle (R419), with all the fields of R417. -/
theorem State.ceFault_recorded {s : State} {k : Nat} (cls : FaultClass) (addr detail : Nat)
    (hroom : ownRoom s (s.getCe k).part (s.isSuper (s.getCe k).launch)) :
    let c := s.getCe k
    let own := s.isSuper c.launch
    let p := s.getPart c.part
    let q := (s.ceFault k cls addr detail).getPart c.part
    ∃ n' : BitVec 16, let b := withRseq ((s.ceRec k cls addr detail).bits s.cycle) n'
      let n := laterRecords p.traps b
      let m := p.trapWait.length - laterRecords p.trapWait b
      (q.traps = p.traps.take (p.traps.length - n) ++ (own, b) :: (p.traps.drop (p.traps.length - n)).map rseqMoved ∧
          n' = p.rseq - BitVec.ofNat 16 n ∧ q.rseq = p.rseq + 1 ∧ q.trapWait = p.trapWait) ∨
        (own = false ∧ q.traps = p.traps ∧ q.trapWait = p.trapWait.take m ++ (own, b) :: p.trapWait.drop m) := by
  intro c own p q
  have hrest := State.faultedAt_rest s k
  have hpart : (s.faultedAt k).getPart c.part = p := by rw [hrest]; rfl
  have hcycle : (s.faultedAt k).cycle = s.cycle := by rw [hrest]
  have hfit : ownRoom (s.faultedAt k) c.part own := fun h => hpart ▸ hroom h
  have hq := State.record_queue hfit (s.ceRec k cls addr detail)
  rw [hpart, hcycle, ← State.ceFault_eq] at hq
  rcases hq with ⟨htraps, hrseq, hwait⟩ | hq
  · refine ⟨p.rseq - BitVec.ofNat 16 (laterRecords p.traps ((s.ceRec k cls addr detail).bits s.cycle)), ?_⟩
    intro b n m
    have hn : n = laterRecords p.traps ((s.ceRec k cls addr detail).bits s.cycle) := laterRecords_withRseq ..
    exact .inl ⟨hn ▸ htraps, by rw [hn], hrseq, hwait⟩
  · refine ⟨0, .inr ?_⟩
    have hsame : withRseq ((s.ceRec k cls addr detail).bits s.cycle) 0 = (s.ceRec k cls addr detail).bits s.cycle := by
      rw [← or_setWidth_eq_withRseq (Rec.bits_rseq ..)]
      simp
    simp only [hsame]
    exact hq

/-- Settles O19: the fault from `State.ceFault_eq` and the frames of the moves and the record, the return from
`CeCtx.returned`, and TRET from what it does to a binding. -/
theorem exceptions : Obligations.Exceptions := by
  unfold Obligations.Exceptions
  refine ⟨fun s k cls addr detail i m ch => ?_, fun s f hready => ?_⟩
  · intro c f own p t d q hroom
    obtain ⟨ins, outs, hown⟩ := State.faultedAt_own s k
    have hrest := State.faultedAt_rest s k
    have hpart : (s.faultedAt k).getPart c.part = p := by rw [hrest]; rfl
    have hfit : ownRoom (s.faultedAt k) c.part own := fun h => hpart ▸ hroom h
    have ht : t = (s.faultedAt k).record c.part own (s.ceRec k cls addr detail) := State.ceFault_eq s k cls addr detail
    have htold : Told (s.faultedAt k) t c.part := ht ▸ told_record hfit _
    have hd : d = { c with
        ins := ins, outs := outs, fir := { f.moved with hold := .none, skip := false }
        binds := lmod c.binds f.bind fun b => { b with state := .faulted, retry := false } } := (htold.getCe k).trans hown
    refine ⟨fun k' hk => (htold.getCe k').trans (State.faultedAt_others s k hk), htold.scratch.trans (by rw [hrest]),
      htold.device.trans (by rw [hrest]), htold.istore.trans (by rw [hrest]), htold.wbuf.trans (by rw [hrest]),
      htold.accs.trans (by rw [hrest]), htold.launches.trans (by rw [hrest]), by rw [hd], by rw [hd], by rw [hd], by rw [hd],
      by rw [hd]; rfl, by rw [hd]; rfl, by rw [hd]; rfl, by rw [hd]; rfl, by rw [hd]; rfl, by rw [hd], by rw [hd]; rfl,
      by rw [hd]; rfl, fun n hn => ?_, fun hl => ?_, fun hadv hpadv hin _ => ?_, ?_, fun b es => rfl, ?_⟩
    · rw [hd]
      exact lget_lmod_ne _ _ _ hn
    · rw [hd]
      exact lget_lmod_self _ _ _ _ hl
    · rw [htold.endq]
      exact State.faultedAt_endq s k hadv hpadv hin
    · obtain ⟨n', hq⟩ := State.ceFault_recorded cls addr detail hroom
      refine ⟨withRseq ((s.ceRec k cls addr detail).bits s.cycle) n', ?_, ?_, ?_, ?_, ?_, ?_, ?_, ?_, ?_, ?_, ?_, ?_, ?_, ?_⟩
      · simp [Rec.bits_xy]; rfl
      · simp [Rec.bits_slot]; rfl
      · simp [Rec.bits_index]; rfl
      · simp [Rec.bits_hdr]; rfl
      · simp [Rec.bits_ctx]; rfl
      · simp [Rec.bits_kind]; rfl
      · simp [Rec.bits_cls]; rfl
      · simp [Rec.bits_uref]; rfl
      · simp [Rec.bits_word, State.ceRec]; rfl
      · simp [Rec.bits_addr]; rfl
      · simp [Rec.bits_detail]; rfl
      · simp [Rec.bits_cycle]
      · simp [Rec.bits_aux]; rfl
      · have hrseq : (withRseq ((s.ceRec k cls addr detail).bits s.cycle) n').extractLsb' 0 16 = n' := recordRseq_withRseq _ n'
        rw [hrseq]
        exact hq
    · intro bind skip hl x y z
      have hy : y = c.returned bind skip := State.ceReturn_getCe s k bind skip
      obtain ⟨hpc, hstack⟩ := CeCtx.returned_place c bind skip hl
      simp only [z, hy]
      refine ⟨CeCtx.returned_regs c bind skip, fun n hn => CeCtx.returned_others c bind skip hn, hpc, hstack, fun ha hb => ?_,
        fun hbare => CeCtx.returned_bare_state hl hbare⟩
      obtain ⟨hfir, hbind⟩ := CeCtx.returned_residue (skip := skip) hl ha hb
      exact ⟨hfir, by rw [hbind]⟩
  · intro k c u mode hsuper hwrites hrecord
    refine ⟨gives_tret_none hready hsuper hwrites hrecord, ?_⟩
    intro e pp hkind he hpp j d b hlaunch hpart hbound hfault hstop
    have htret := State.tret_binding (mode := mode) hkind he hpp hlaunch hpart hbound hfault
    refine ⟨fun hmode => ?_, fun hmode hfetch => ?_, fun hmode => ?_⟩
    · refine exec_tret_some hready hsuper hwrites hrecord (htret.trans ?_) hstop
      have hnotKill : mode ≠ 2 := by omega
      have hnotNone : ¬ (mode = 1 ∧ d.atFetch (urSlot u) = true) := by
        rintro ⟨h1, hfetch⟩
        rcases hmode with h0 | ⟨-, hresidue⟩
        · omega
        · exact Bool.false_ne_true (hresidue.symm.trans hfetch)
      exact (if_neg hnotKill).trans (if_neg hnotNone)
    · refine gives_tret_none hready hsuper hwrites hrecord (htret.trans ?_)
      rw [if_neg (by omega), if_pos ⟨hmode, hfetch⟩]
    · exact exec_tret_some hready hsuper hwrites hrecord (htret.trans (if_pos hmode)) hstop

end Sys2Proof.Machine
end

section
/-!
PROOFS of the work family (O20): LAUNCH, GLAUNCH, CANCEL and PHEND (R33, R38, R40, R175 to R179, R182, R352).
-/

namespace Sys2Proof.Machine

/-! ## Queuing one launch -/

/-- Naming an image changes only the partition's images (R427). -/
theorem State.nameImage_rest (s : State) (part addr : Nat) :
    (s.nameImage part addr).2 = { s with parts := (s.nameImage part addr).2.parts } := by
  unfold State.nameImage
  dsimp only
  repeat' split
  all_goals rfl

section
variable {s s' : State} {part issuer : Nat} {r : LaunchRec} {b : ImageBody}

/-- One new launch of a graph of its own, at the tail of its level. -/
theorem State.enqueue_queues (s : State) (part graph issuer : Nat) (r : LaunchRec) :
    let t := (s.enqueue part graph issuer false r).2
    let id := s.nextId + 1
    (s.enqueue part graph issuer false r).1 = id ∧ t.nextId = id ∧ t.graphs = s.graphs ∧
      tfind t.launches id = some { newLaunch part graph r r.level false with queuedAt := s.cycle.toNat, issuer := issuer } ∧
      (t.getPart part).queues = (s.getPart part).queues.modify r.level (t.putTail id) := by
  intro t id
  refine ⟨rfl, rfl, rfl, tfind_tput_self .., ?_⟩
  exact congrArg Partition.queues (State.getPart_setPart ..)

/-- The tail of a queue, for a launch that was queued in the cycle `now` by `issuer` (R352). -/
theorem State.putTail_of_find {t : State} {id now issuer : Nat} {l : Launch} (h : tfind t.launches id = some l)
    (hnow : l.queuedAt = now) (hissuer : l.issuer = issuer) (q : List Nat) :
    t.putTail id q =
      let n := (q.reverse.takeWhile fun x => (t.launchD x).queuedAt == now && issuer < (t.launchD x).issuer).length
      q.take (q.length - n) ++ [id] ++ q.drop (q.length - n) := by
  have hl : t.launchD id = l := by simp [State.launchD, h]
  unfold State.putTail
  simp only [hl, hnow, hissuer]

/-- A new graph of one launch, without a phase. -/
def State.newGraph (s : State) (part : Nat) : State :=
  ({ s with nextId := s.nextId + 1 } : State).setGraph (s.nextId + 1)
    { part := part, counter := 1, completed := 0, killed := 0, faulted := 0, phase := none }

/-- Admitting one record whose image is loaded, fits and finds room in its level. -/
theorem State.admission_one (hname : s.nameImage part r.image = (.body b, s')) (hfit : (s'.getPart part).noFit b = false)
    (hroom : (s'.getPart part).queueFull [r.level] = false) :
    s.admission part issuer [some r] none false =
      (.taken (s'.nextId + 1) [s'.nextId + 2], ((s'.newGraph part).enqueue part (s'.nextId + 1) issuer false r).2) := by
  have hall : State.nameAll part [r] [] s = (.bodies [b], s') := by
    simp only [State.nameAll, hname, List.nil_append]
  unfold State.admission
  simp only [List.any_cons, Option.isNone_some, List.any_nil, Bool.or_self, Bool.false_eq_true, if_false, List.filterMap_cons,
    id_eq, List.filterMap_nil, hall, hfit, List.map_cons, List.map_nil, hroom, List.foldl_cons, List.foldl_nil, List.nil_append,
    State.newId, List.length_cons, List.length_nil, Nat.zero_add]
  rfl

/-- What admitting one record leaves: a graph of one launch, which stands in its level after the entries of its
cycle whose issuers come first (R352). -/
theorem State.admission_one_taken (hname : s.nameImage part r.image = (.body b, s')) (hid : s'.nextId = s.nextId)
    (hfit : (s'.getPart part).noFit b = false) (hroom : (s'.getPart part).queueFull [r.level] = false) :
    let g := s.nextId + 1
    ∃ t, s.admission part issuer [some r] none false = (.taken g [g + 1], t) ∧ t.nextId = g + 1 ∧
      tfind t.launches (g + 1) = some { newLaunch part g r r.level false with queuedAt := s.cycle.toNat, issuer := issuer } ∧
      tfind t.graphs g = some { part := part, counter := 1, completed := 0, killed := 0, faulted := 0, phase := none } ∧
      (t.getPart part).queues = (s'.getPart part).queues.modify r.level fun q =>
        let n := (q.reverse.takeWhile fun x => (t.launchD x).queuedAt == s.cycle.toNat && issuer < (t.launchD x).issuer).length
        q.take (q.length - n) ++ [g + 1] ++ q.drop (q.length - n) := by
  intro g
  have hcycle : s'.cycle = s.cycle := by
    have hrest : s' = { s with parts := (s.nameImage part r.image).2.parts } := by
      rw [← State.nameImage_rest, hname]
    rw [hrest]
  have hadmit := State.admission_one (issuer := issuer) hname hfit hroom
  obtain ⟨-, hnext, hgraphs, hfind, hqueues⟩ := State.enqueue_queues (s'.newGraph part) part (s'.nextId + 1) issuer r
  have hput := State.putTail_of_find hfind rfl rfl
  rw [hid] at hadmit hnext hgraphs hfind hqueues hput
  have hnew : (s'.newGraph part).nextId = g := congrArg (· + 1) hid
  have hnow : (s'.newGraph part).cycle = s.cycle := hcycle
  rw [hnew] at hnext hfind hqueues hput
  rw [hnow] at hfind hput
  refine ⟨_, hadmit, hnext, hfind, ?_, ?_⟩
  · have hg : g = s'.nextId + 1 := congrArg (· + 1) hid.symm
    rw [hgraphs, hg]
    exact tfind_tput_self ..
  · rw [hqueues]
    exact congrArg₂ _ rfl (funext hput)

/-- A record that breaks its map admits nothing (R440). -/
theorem State.admission_badRec (s : State) (part issuer : Nat) : s.admission part issuer [none] none false = (.error 4, s) := rfl

end

/-! ## LAUNCH (R176, R177) -/

section
variable {s : State} {f : FmtX}

/-- A LAUNCH whose accesses are performed and whose record address fails its check (R191). -/
theorem faults_launch (h : Ready s f) (hdone : (s.getCe s.key).allPerformed = true) {e : Err}
    (hat : s.scratchAt (s.getCe s.key).part ((s.rdAt s.key).w64 .a f.sa).toNat 128 = .error (some e)) :
    Faults (.launch f) s e.cls e.addr e.detail := by
  refine congrArg Host.Outcome.next ((State.instrX_ready h _).trans ?_)
  have hdone' : (s.rdAt s.key).c.allPerformed = true := hdone
  have hat' : s.scratchAt (s.rdAt s.key).c.part ((s.rdAt s.key).xa f).toNat 128 = .error (some e) := hat
  simp only [hdone', hat', Bool.not_true, Bool.false_eq_true, if_false, State.check]

section
variable {mt off : Nat} (h : Ready s f) (hdone : (s.getCe s.key).allPerformed = true)
  (hat : s.scratchAt (s.getCe s.key).part ((s.rdAt s.key).w64 .a f.sa).toNat 128 = .ok (mt, off))
  (hawake : s.banksAwake mt off 128 = (true, s)) (hgood : s.scratchLost mt off 128 = false)
include h hdone hat hawake hgood

/-- A LAUNCH that reads its record and finds an error delivers the error's handle. -/
theorem exec_launch_error {t : State} {e : Nat}
    (hadmit : s.admission (s.getCe s.key).part (psetKey s.key) [launchRec (natOfBytes (s.scratchRead mt off 128))] none false =
      (.error e, t)) : exec (.launch f) s = .next (t.giveX s.key f (errorHandle e)) := by
  refine congrArg Host.Outcome.next ((State.instrX_ready h _).trans ?_)
  have hdone' : (s.rdAt s.key).c.allPerformed = true := hdone
  have hat' : s.scratchAt (s.rdAt s.key).c.part ((s.rdAt s.key).xa f).toNat 128 = .ok (mt, off) := hat
  have hadmit' : s.admission (s.rdAt s.key).c.part (psetKey s.key) [launchRec (natOfBytes (s.scratchRead mt off 128))] none false =
      (.error e, t) := hadmit
  simp only [hdone', hat', hawake, hgood, hadmit', Bool.not_true, Bool.false_eq_true, if_false, State.check]

/-- A LAUNCH that is taken delivers the handle of its launch. -/
theorem exec_launch_taken {t : State} {g : Nat} {ids : List Nat}
    (hadmit : s.admission (s.getCe s.key).part (psetKey s.key) [launchRec (natOfBytes (s.scratchRead mt off 128))] none false =
      (.taken g ids, t)) : exec (.launch f) s = .next (t.giveX s.key f (handle 1 (ids.headD 0))) := by
  refine congrArg Host.Outcome.next ((State.instrX_ready h _).trans ?_)
  have hdone' : (s.rdAt s.key).c.allPerformed = true := hdone
  have hat' : s.scratchAt (s.rdAt s.key).c.part ((s.rdAt s.key).xa f).toNat 128 = .ok (mt, off) := hat
  have hadmit' : s.admission (s.rdAt s.key).c.part (psetKey s.key) [launchRec (natOfBytes (s.scratchRead mt off 128))] none false =
      (.taken g ids, t) := hadmit
  simp only [hdone', hat', hawake, hgood, hadmit', Bool.not_true, Bool.false_eq_true, if_false, State.check]

end

/-! ## GLAUNCH (R38, R177) -/

section
variable {h : Nat} {s1 : State} (hready : Ready s f) (hdone : (s.getCe s.key).allPerformed = true)
  (hhead : State.readRecords s.key 1 ((s.rdAt s.key).w64 .a f.sa).toNat [] s = (.ok [h], s1))
include hready hdone hhead

theorem exec_glaunch_taken {n g : Nat} {vs ids : List Nat} {s2 s3 : State} (hcount : templateCount h = some n)
    (hrecs : State.readRecords s.key n (((s.rdAt s.key).w64 .a f.sa).toNat + 128) [] s1 = (.ok vs, s2))
    (hadmit : s2.admission (s.getCe s.key).part (psetKey s.key) (vs.map launchRec) none false = (.taken g ids, s3)) :
    exec (.glaunch f) s = .next (s3.giveX s.key f (handle 2 g)) := by
  refine congrArg Host.Outcome.next ((State.instrX_ready hready _).trans ?_)
  have hdone' : (s.rdAt s.key).c.allPerformed = true := hdone
  have hadmit' : s2.admission (s.rdAt s.key).c.part (psetKey s.key) (vs.map launchRec) none false = (.taken g ids, s3) := hadmit
  simp only [hdone', Rd.xa, hhead, hcount, hrecs, hadmit', Bool.not_true, Bool.false_eq_true, if_false, State.check, List.headD_cons]

theorem exec_glaunch_badHeader (hcount : templateCount h = none) :
    exec (.glaunch f) s = .next (s1.giveX s.key f (errorHandle 4)) := by
  refine congrArg Host.Outcome.next ((State.instrX_ready hready _).trans ?_)
  have hdone' : (s.rdAt s.key).c.allPerformed = true := hdone
  simp only [hdone', Rd.xa, hhead, hcount, Bool.not_true, Bool.false_eq_true, if_false, State.check, List.headD_cons]

end

/-! ## CANCEL and PHEND (R40, R179, R182) -/

theorem faults_cancel (h : Ready s f) (hunknown : s.knownHandle (s.getCe s.key).part ((s.rdAt s.key).w64 .a f.sa) = false) :
    Faults (.cancel f) s .handle ((s.rdAt s.key).w64 .a f.sa).toNat 0 := by
  refine congrArg Host.Outcome.next ((State.instrX_ready h _).trans ?_)
  have hunknown' : s.knownHandle (s.rdAt s.key).c.part ((s.rdAt s.key).xa f) = false := hunknown
  simp only [hunknown', Bool.not_false, if_true]
  rfl

section
variable (h : Ready s f) (hknown : s.knownHandle (s.getCe s.key).part ((s.rdAt s.key).w64 .a f.sa) = true)
include h hknown

theorem exec_cancel_zero (hup : s.counterUp (s.getCe s.key).part ((s.rdAt s.key).w64 .a f.sa) = false) :
    exec (.cancel f) s = .next (s.giveX s.key f 0) := by
  refine congrArg Host.Outcome.next ((State.instrX_ready h _).trans ?_)
  have hknown' : s.knownHandle (s.rdAt s.key).c.part ((s.rdAt s.key).xa f) = true := hknown
  have hup' : s.counterUp (s.rdAt s.key).c.part ((s.rdAt s.key).xa f) = false := hup
  simp only [hknown', hup', Bool.not_true, Bool.false_eq_true, if_false]
  rfl

theorem exec_cancel_up (hup : s.counterUp (s.getCe s.key).part ((s.rdAt s.key).w64 .a f.sa) = true) :
    exec (.cancel f) s = .next ((s.mapCe s.key fun c => c.give false 1 f.ta).cancelHandle
      (s.getCe s.key).part ((s.rdAt s.key).w64 .a f.sa)).settle := by
  refine congrArg Host.Outcome.next ((State.instrX_ready h _).trans ?_)
  have hknown' : s.knownHandle (s.rdAt s.key).c.part ((s.rdAt s.key).xa f) = true := hknown
  have hup' : s.counterUp (s.rdAt s.key).c.part ((s.rdAt s.key).xa f) = true := hup
  have hone : Word.toVec (BitVec.ofNat 64 (b2n true)) = 1 := Word.toVec_one
  simp only [hknown', hup', State.giveX, hone, Bool.not_true, Bool.false_eq_true, if_false, if_true]
  rfl

end

theorem exec_phend_phase (h : Ready s f) {id : Nat} {p : Phase} (hphase : s.phaseNow (s.getCe s.key).part = some (id, p)) :
    exec (.phend f) s = .next ((s.mapCe s.key fun c => c.stepped (fun x => x)).cancelPhase id).settle := by
  refine congrArg Host.Outcome.next ((State.instrX_ready h _).trans ?_)
  have hphase' : (s.mapCe s.key CeCtx.bump).phaseNow (s.rdAt s.key).c.part = some (id, p) := hphase
  simp only [hphase']
  rfl

theorem goes_phend_idle (h : Ready s f) (hphase : s.phaseNow (s.getCe s.key).part = none) : Goes (.phend f) s (fun x => x) := by
  refine ⟨s.mapCe s.key CeCtx.bump, congrArg Host.Outcome.next ((State.instrX_ready h _).trans ?_), State.mapCe_only s _,
    State.getCe_mapCe ..⟩
  have hphase' : (s.mapCe s.key CeCtx.bump).phaseNow (s.rdAt s.key).c.part = none := hphase
  simp only [hphase']

end

/-- Settles O20, from one rule for each answer of the four instructions. -/
theorem queuesWork : Obligations.QueuesWork := by
  unfold Obligations.QueuesWork
  refine ⟨fun s f hready => ?_, fun s f hready => ?_⟩
  · intro k c a gave new later hdone
    refine ⟨fun _ hat => faults_launch (e := ⟨.align, a, 0⟩) hready hdone hat, ?_, ?_, ?_⟩
    · intro mt off hat hawake hgood rec_
      refine ⟨fun hnone => ?_, fun r b s' hrec hname hid hfit hroom => ?_⟩
      · refine exec_launch_error hready hdone hat hawake hgood (e := 4) ?_
        exact congrArg (fun x => s.admission c.part (psetKey k) [x] none false) hnone
      · obtain ⟨t, hadmit, hnew⟩ := State.admission_one_taken (issuer := psetKey k) hname hid hfit hroom
        refine ⟨t, exec_launch_taken hready hdone hat hawake hgood (g := s.nextId + 1) (ids := [s.nextId + 1 + 1]) ?_, hnew⟩
        exact (congrArg (fun x => s.admission c.part (psetKey k) [x] none false) hrec).trans hadmit
    · intro h s1 vs s2 n g ids s3 hhead hcount hrecs hadmit
      exact exec_glaunch_taken hready hdone hhead hcount hrecs hadmit
    · intro h s1 hhead hcount
      exact exec_glaunch_badHeader hready hdone hhead hcount
  · intro k c h gave
    refine ⟨fun hunknown => faults_cancel hready hunknown,
      fun hknown hup => gives_giveX (exec_cancel_zero hready hknown hup) Word.toVec_zero, fun hknown hup => ?_,
      fun id p hphase => exec_phend_phase hready hphase, fun hphase => goes_phend_idle hready hphase⟩
    have hexec := exec_cancel_up hready hknown hup
    refine ⟨fun hkind => ?_, fun hkind => ?_, fun hkind => ?_, fun hkind => ?_⟩ <;>
      · refine hexec.trans ?_
        simp only [State.cancelHandle, show handleKind ((s.rdAt s.key).w64 .a f.sa) = _ from hkind]
        rfl

end Sys2Proof.Machine
end

section
/-!
PROOFS of the work family (O45): a block fires, and ends (R25, R27 to R29, R100, R101, R167, R181).
-/

namespace Sys2Proof.Machine

/-! ## The end of a block, in its steps -/

/-- The binding after a firing. -/
def Firing.ended (f : Firing) (b : Binding) : Binding :=
  if f.tend then { b with state := .idle, stack := [], wait := .none, points := b.points + 1 }
  else
    match f.waitSet, f.wait with
    | true, .cycles 0 => { nextBlock f b with state := .runnable, wait := .none }
    | true, w => { nextBlock f b with state := .sleeping, wait := w }
    | false, _ => { nextBlock f b with state := .runnable, wait := .none }

/-- The context after a firing, its pointer moves applied. -/
def CeCtx.ended (c : CeCtx) (f : Firing) : CeCtx :=
  { c with
    binds := c.binds.set f.bind (f.ended (lget {} c.binds f.bind))
    next := (f.bind + 1) % 4
    fir := {}
    outs := c.outs.map fun o => { o with orders := o.orders.map fun r =>
      { r with performed := r.performed || !(c.pend.any fun a => a.id == r.acc) } } }

section
variable (s : State) (k : Nat)

/-- The state once the pointers, the predicates and the binding of a block stand as its end leaves them. -/
def State.endedAt : State :=
  ((s.applyMoves k).mapPart (s.getCe k).part fun p => p.psets k (s.getCe k).fir.psets).setCe k
    (((s.applyMoves k).getCe k).ended (s.getCe k).fir)

/-- A wait for a counter that is zero already ends at once. -/
def State.joinAtEnd (s : State) (k i : Nat) : Wait → State
  | .join h tgt => match s.joinStatus h with | some v => s.wake k i (some (tgt, v)) | none => s
  | _ => s

/-- A YIELD that the block's context set. -/
def State.yieldAtEnd (s : State) (k : Nat) (yield : Bool) : State :=
  if yield then s.mapPage (cePage k) fun p => if p.active = ceSlot k then { p with yielded := true } else p else s

/-- The steps that follow: the wait, the YIELD, the parking and the triggers. -/
def State.tailAt (s : State) (k launch : Nat) (f : Firing) (w : Wait) : State :=
  (((s.joinAtEnd k f.bind w).yieldAtEnd k f.yield).parkLaunch launch f.park).trigger k

theorem State.blockEnd_eq :
    s.blockEnd k =
      let f := (s.getCe k).fir
      let t := (s.endedAt k).tailAt k (s.getCe k).launch f (f.ended (lget {} (s.getCe k).binds f.bind)).wait
      if f.tend then t.countPoints (s.getCe k).launch 1 0 0 else t := by
  obtain ⟨ins, outs, e⟩ := State.applyMoves_own s k
  unfold State.blockEnd State.endedAt
  simp only [e]
  rfl

theorem State.endedAt_rest : s.endedAt k =
    { s with ce := (s.endedAt k).ce, chans := (s.applyMoves k).chans, parts := (s.endedAt k).parts } := by
  unfold State.endedAt
  rw [State.applyMoves_rest]
  rfl

theorem State.endedAt_joinStatus (h : Word) : (s.endedAt k).joinStatus h = s.joinStatus h := by
  rw [State.endedAt_rest]
  rfl

theorem State.endedAt_own : (s.endedAt k).getCe k = ((s.applyMoves k).getCe k).ended (s.getCe k).fir := State.getCe_setCe ..

theorem State.endedAt_others {k' : Nat} (h : k' ≠ k) : (s.endedAt k).getCe k' = s.getCe k' :=
  (State.getCe_setCe_ne _ k _ h).trans (State.applyMoves_others s k h)

/-- The predicates of the block reach those of its partition (R181). -/
theorem State.endedAt_part : (s.endedAt k).getPart (s.getCe k).part = (s.getPart (s.getCe k).part).psets k (s.getCe k).fir.psets := by
  have hpart : (s.applyMoves k).getPart (s.getCe k).part = s.getPart (s.getCe k).part := by
    rw [State.applyMoves_rest]
    rfl
  rw [← hpart]
  exact State.getPart_setPart ..

end

/-- A binding waits for a counter only where its firing has set that wait. -/
theorem Firing.ended_join {f : Firing} {b : Binding} {h : Word} {t : BitVec 3} (hw : (f.ended b).wait = .join h t) :
    f.waitSet = true ∧ f.wait = .join h t := by
  unfold Firing.ended at hw
  split at hw
  · cases hw
  · split at hw
    · cases hw
    · next hset _ => exact ⟨hset, hw⟩
    · cases hw

/-- The wait of a block whose counter, if it names one, is not yet zero. -/
theorem State.joinAtEnd_none {s : State} {k i : Nat} {w : Wait} (h : ∀ hd t, w = .join hd t → s.joinStatus hd = none) :
    s.joinAtEnd k i w = s := by
  unfold State.joinAtEnd
  split
  next hd t =>
    rw [h hd t rfl]
  · rfl

section
variable (s : State) (k : Nat)

@[simp] theorem State.parkLaunch_nil (launch : Nat) : s.parkLaunch launch [] = s := rfl

theorem State.yieldAtEnd_rest (yield : Bool) : s.yieldAtEnd k yield = { s with pages := (s.yieldAtEnd k yield).pages } := by
  unfold State.yieldAtEnd
  split <;> rfl

/-- A YIELD ends the turn of the context that the page serves. -/
theorem State.yieldAtEnd_yielded (yield : Bool) :
    ((s.yieldAtEnd k yield).getPage (cePage k)).yielded = true ↔
      (s.getPage (cePage k)).yielded = true ∨ (yield = true ∧ (s.getPage (cePage k)).active = ceSlot k) := by
  cases yield with
  | false => simp [State.yieldAtEnd]
  | true =>
    simp only [State.yieldAtEnd, if_true, State.mapPage, State.getPage_setPage]
    split
    · next h => simp [h]
    · next h => simp [h]

theorem State.trigger_rest : s.trigger k = { s with ce := (s.trigger k).ce } := rfl

theorem State.trigger_own : ∃ binds, (s.trigger k).getCe k = { s.getCe k with binds := binds } := ⟨_, State.getCe_mapCe ..⟩

theorem State.trigger_others {k' : Nat} (h : k' ≠ k) : (s.trigger k).getCe k' = s.getCe k' := State.getCe_setCe_ne s k _ h

/-- Without tokens at their triggers, bindings stand as they did. -/
theorem State.trigger_quiet (h : ∀ b ∈ (s.getCe k).binds, b.bound = true → s.filled ((s.getCe k).inCh b.trigger) = []) :
    (s.trigger k).getCe k = s.getCe k := by
  unfold State.trigger
  rw [State.getCe_mapCe]
  have hbinds : ((s.getCe k).binds.map fun b =>
      if b.bound && b.state == .idle && s.filled ((s.getCe k).inCh b.trigger) != [] then
        { b with state := .runnable, pc := b.entry, stack := [] } else b) = (s.getCe k).binds := by
    refine (List.map_congr_left fun b hb => ?_).trans (List.map_id _)
    rw [if_neg]
    · rfl
    · simp only [Bool.and_eq_true, bne_iff_ne, not_and, not_not]
      exact fun hbound => h b hb hbound.1
  rw [hbinds]

/-! ## Counting a completion point (R30) -/

theorem State.countPoints_rest (id a b c : Nat) :
    s.countPoints id a b c = { s with launches := (s.countPoints id a b c).launches, stops := (s.countPoints id a b c).stops } := by
  unfold State.countPoints State.startStop
  dsimp only
  repeat' split
  all_goals rfl

variable {s}

/-- A launch that has counted a completion point and has `m` left. -/
def Launch.counted (l : Launch) (m : Nat) : Launch := { l with counter := m, done := l.done + 1 }

theorem State.startStop_launches (s : State) (id : Nat) (a : StopAction) (requeue : Bool) (mark : Nat) :
    (s.startStop id a requeue mark).launches = s.launches := by
  unfold State.startStop
  split <;> rfl

theorem State.countPoints_one_eq {id m : Nat} {l : Launch} (hl : tfind s.launches id = some l) (hs : l.state ≠ .retired)
    (hm : l.counter = m + 1) :
    s.countPoints id 1 0 0 =
      if m = 0 then (s.setLaunch id (l.counted m)).startStop id .retire else s.setLaunch id (l.counted m) := by
  have hd : s.launchD id = l := by simp [State.launchD, hl]
  unfold State.countPoints
  simp [hd, hs, hm, Launch.counted]

/-- A completion point of a launch that has `m + 1` left: at zero the launch is stopped with RETIRE. -/
theorem State.countPoints_one {id m : Nat} {l : Launch} (hl : tfind s.launches id = some l) (hs : l.state ≠ .retired)
    (hm : l.counter = m + 1) :
    let u := s.countPoints id 1 0 0
    (u.launchD id).counter = m ∧ (u.launchD id).done = l.done + 1 ∧ (m ≠ 0 → u.stops = s.stops) ∧
      (m = 0 → s.stopping id = false → u.stops.map (fun x => (x.launch, x.action, x.phase)) =
        s.stops.map (fun x => (x.launch, x.action, x.phase)) ++ [(id, .retire, 1)]) := by
  intro u
  have hu := State.countPoints_one_eq hl hs hm
  have hlaunch : u.launchD id = l.counted m := by
    have hfind : tfind u.launches id = some (l.counted m) := by
      rw [show u = _ from hu]
      split
      · rw [State.startStop_launches]
        exact tfind_tput_self ..
      · exact tfind_tput_self ..
    simp [State.launchD, hfind]
  refine ⟨by rw [hlaunch]; rfl, by rw [hlaunch]; rfl, fun h0 => ?_, fun h0 hstop => ?_⟩
  · rw [show u = _ from hu, if_neg h0]
    rfl
  · have hstop' : (s.setLaunch id (l.counted m)).stopping id = false := hstop
    rw [show u = _ from hu, if_pos h0]
    unfold State.startStop
    rw [if_neg (by simp [hstop'])]
    simp

end

/-! ## The choice of a block (R25) -/

/-- The first answer along a range. -/
theorem findSome?_range_eq_some {β : Type} {f : Nat → Option β} {n m : Nat} {b : β} (hn : n < m) (hnone : ∀ j, j < n → f j = none)
    (hsome : f n = some b) : (List.range m).findSome? f = some b := by
  obtain ⟨d, rfl⟩ := Nat.exists_eq_add_of_lt hn
  rw [Nat.add_assoc, List.range_add, List.findSome?_append, List.range_succ_eq_map]
  have hfirst : (List.range n).findSome? f = none :=
    List.findSome?_eq_none_iff.2 fun j hj => hnone j (List.mem_range.1 hj)
  simp [hfirst, hsome]

/-- A binding that gives the element no block to fire. -/
def State.stands (s : State) (k i : Nat) : Prop :=
  let c := s.getCe k
  let x := lget {} c.binds i
  x.bound = false ∨ x.state ≠ .runnable ∨ ((∀ y ∈ c.dec, y.address ≠ x.pc) ∧ s.codeHold k = true) ∨
    ∃ d', s.blockOf k x.pc = .ok d' ∧ s.blockReady k d'.header = false

/-- The block that a binding offers. -/
def State.offered (s : State) (k i : Nat) : Option (Nat × Except Reject Decoded) :=
  let c := s.getCe k
  let b := lget {} c.binds i
  if b.bound && b.state == .runnable && !(!(c.dec.any fun d => d.address == b.pc) && s.codeHold k) then
    match s.blockOf k b.pc with
    | .error r => some (i, .error r)
    | .ok d => if s.blockReady k d.header then some (i, .ok d) else none
  else none

section
variable {s : State} {k i n : Nat}

theorem State.nextBinding_eq (s : State) (k : Nat) :
    s.nextBinding k = (List.range 4).findSome? fun n => s.offered k (((s.getCe k).next + n) % 4) := by
  unfold State.nextBinding
  rw [List.findSome?_map]
  rfl

/-- When the element would look at a binding's block. -/
theorem State.offered_guard : ((lget {} (s.getCe k).binds i).bound && (lget {} (s.getCe k).binds i).state == .runnable &&
      !(!((s.getCe k).dec.any fun d => d.address == (lget {} (s.getCe k).binds i).pc) && s.codeHold k)) = true ↔
    (lget {} (s.getCe k).binds i).bound = true ∧ (lget {} (s.getCe k).binds i).state = .runnable ∧
      ¬ ((∀ y ∈ (s.getCe k).dec, y.address ≠ (lget {} (s.getCe k).binds i).pc) ∧ s.codeHold k = true) := by
  simp only [Bool.and_eq_true, beq_iff_eq, Bool.not_eq_true', Bool.and_eq_false_iff, Bool.not_eq_false', List.any_eq_true,
    and_assoc, not_and, Bool.not_eq_true]
  refine and_congr_right fun _ => and_congr_right fun _ => ⟨fun h hnone => h.resolve_left ?_, fun h => ?_⟩
  · rintro ⟨y, hy, e⟩
    exact hnone y hy e
  · by_cases hd : ∃ y ∈ (s.getCe k).dec, y.address = (lget {} (s.getCe k).binds i).pc
    · exact .inl hd
    · exact .inr (h fun y hy e => hd ⟨y, hy, e⟩)

theorem State.offered_none (h : s.stands k i) : s.offered k i = none := by
  unfold State.offered
  dsimp only
  split
  next hg =>
    obtain ⟨hbound, hrun, hfetch⟩ := State.offered_guard.1 hg
    rcases h with h | h | h | ⟨d, hd, hready⟩
    · exact absurd hbound (by simp [h])
    · exact absurd hrun h
    · exact absurd h hfetch
    · simp [hd, hready]
  · rfl

theorem State.offered_some (h : ¬ s.stands k i) : s.offered k i = some (i, s.blockOf k (lget {} (s.getCe k).binds i).pc) := by
  unfold State.stands at h
  simp only [not_or, ne_eq, not_not, not_exists, not_and, Bool.not_eq_false] at h
  obtain ⟨hbound, hrun, hfetch, hready⟩ := h
  unfold State.offered
  dsimp only
  rw [if_pos (State.offered_guard.2 ⟨hbound, hrun, fun e => hfetch e.1 e.2⟩)]
  cases hb : s.blockOf k (lget {} (s.getCe k).binds i).pc with
  | error r => rfl
  | ok d => simp [hready d hb]

theorem State.nextBinding_none (h : ∀ i, i < 4 → s.stands k i) : s.nextBinding k = none := by
  rw [State.nextBinding_eq, List.findSome?_eq_none_iff]
  exact fun n _ => State.offered_none (h _ (Nat.mod_lt _ (by decide)))

theorem State.nextBinding_some (hn : n < 4) (hi : i = ((s.getCe k).next + n) % 4)
    (hbefore : ∀ m, m < n → s.stands k (((s.getCe k).next + m) % 4)) (h : ¬ s.stands k i) :
    s.nextBinding k = some (i, s.blockOf k (lget {} (s.getCe k).binds i).pc) := by
  subst hi
  rw [State.nextBinding_eq]
  exact findSome?_range_eq_some hn (fun m hm => State.offered_none (hbefore m hm)) (State.offered_some h)

end

theorem lmod_eq_set {α : Type} (d : α) (l : List α) (n : Nat) (f : α → α) : lmod l n f = l.set n (f (lget d l n)) := by
  unfold lmod lget
  by_cases h : n < l.length
  · rw [List.modify_eq_set_getElem?]
    simp [h, List.getD_eq_getElem?_getD]
  · rw [List.modify_eq_self (by omega), List.set_eq_of_length_le (by omega)]

/-! ## What the end of a block leaves -/

theorem State.filled_congr {s t : State} (h : t.chans = s.chans) (ch : Option Nat) : t.filled ch = s.filled ch := by
  cases ch with
  | none => rfl
  | some ch => simp only [State.filled, State.chanD, h]

/-- The end of a block changes neither whether a task is bound nor its trigger. -/
theorem Firing.ended_task (f : Firing) (b : Binding) : (f.ended b).bound = b.bound ∧ (f.ended b).trigger = b.trigger := by
  unfold Firing.ended nextBlock
  repeat' split
  all_goals exact ⟨rfl, rfl⟩

theorem CeCtx.mem_ended_binds {c : CeCtx} {f : Firing} {b : Binding} (h : b ∈ (c.ended f).binds) :
    ∃ x ∈ c.binds, x.bound = b.bound ∧ b.trigger = x.trigger := by
  by_cases hf : f.bind < c.binds.length
  · rcases List.mem_or_eq_of_mem_set h with h | h
    · exact ⟨b, h, rfl, rfl⟩
    · obtain ⟨hbound, htrigger⟩ := Firing.ended_task f (lget {} c.binds f.bind)
      have hmem : lget {} c.binds f.bind ∈ c.binds := by
        unfold lget
        rw [List.getD_eq_getElem _ _ hf]
        exact List.getElem_mem hf
      exact ⟨_, hmem, by rw [h, hbound], by rw [h, htrigger]⟩
  · have hsame : (c.ended f).binds = c.binds := List.set_eq_of_length_le (Nat.not_lt.1 hf)
    exact ⟨b, hsame ▸ h, rfl, rfl⟩

/-- A block that ends: its instructions are done, it parks on no fill, and the counter that it waits for is not zero. -/
structure Ending (s : State) (k : Nat) : Prop where
  active : (s.getCe k).fir.active = true
  firing : (lget {} (s.getCe k).binds (s.getCe k).fir.bind).state = .firing
  done : (s.getCe k).fir.block.words.length ≤ (s.getCe k).fir.idx
  park : (s.getCe k).fir.park = []
  join : ∀ h t, (s.getCe k).fir.waitSet = true → (s.getCe k).fir.wait = .join h t → s.joinStatus h = none

section
variable {s : State} {k : Nat} (h : Ending s k)
include h

theorem Ending.exec (hlate : s.psetLate (s.getCe k).part (s.getCe k).fir = false) :
    exec (.blockFiring k) s = .next (s.blockEnd k) := by
  refine congrArg Host.Outcome.next ?_
  unfold State.blockFiring
  simp only [h.active, h.firing, h.done, hlate, if_true, decide_true, Bool.not_false, Bool.and_self]

/-- The state after a block, before its completion point is counted. -/
def State.endedTail (s : State) (k : Nat) : State :=
  ((s.endedAt k).yieldAtEnd k (s.getCe k).fir.yield).trigger k

theorem Ending.blockEnd_eq : s.blockEnd k =
    if (s.getCe k).fir.tend then (s.endedTail k).countPoints (s.getCe k).launch 1 0 0 else s.endedTail k := by
  have hjoin : (s.endedAt k).joinAtEnd k (s.getCe k).fir.bind
      ((s.getCe k).fir.ended (lget {} (s.getCe k).binds (s.getCe k).fir.bind)).wait = s.endedAt k := by
    refine State.joinAtEnd_none fun hd t hw => ?_
    obtain ⟨hset, hwait⟩ := Firing.ended_join hw
    rw [State.endedAt_joinStatus]
    exact h.join hd t hset hwait
  rw [State.blockEnd_eq]
  unfold State.tailAt State.endedTail
  simp only [hjoin, h.park, State.parkLaunch_nil]

omit h in
theorem State.endedTail_rest (s : State) (k : Nat) : s.endedTail k =
    { s with ce := (s.endedTail k).ce, chans := (s.applyMoves k).chans, parts := (s.endedAt k).parts,
             pages := ((s.endedAt k).yieldAtEnd k (s.getCe k).fir.yield).pages } := by
  unfold State.endedTail
  rw [State.trigger_rest, State.yieldAtEnd_rest, State.endedAt_rest]

omit h in
/-- Counting the point of a block changes no more than its launch and its stops. -/
theorem State.counted_rest (t : State) (id : Nat) (tend : Bool) : (if tend then t.countPoints id 1 0 0 else t) =
    { t with launches := (if tend then t.countPoints id 1 0 0 else t).launches
             stops := (if tend then t.countPoints id 1 0 0 else t).stops } := by
  cases tend with
  | false => rfl
  | true => exact State.countPoints_rest t id 1 0 0

theorem Ending.rest : s.blockEnd k = { s.endedTail k with launches := (s.blockEnd k).launches, stops := (s.blockEnd k).stops } := by
  rw [h.blockEnd_eq]
  exact State.counted_rest ..

theorem Ending.getCe (k' : Nat) : (s.blockEnd k).getCe k' = (s.endedTail k).getCe k' := by rw [h.rest]; rfl

theorem Ending.others {k' : Nat} (hk : k' ≠ k) : (s.blockEnd k).getCe k' = s.getCe k' := by
  rw [h.getCe]
  refine (State.trigger_others _ k hk).trans ?_
  rw [State.yieldAtEnd_rest]
  exact State.endedAt_others s k hk

/-- The context but for its bindings. -/
theorem Ending.own : ∃ binds, (s.blockEnd k).getCe k = { ((s.applyMoves k).getCe k).ended (s.getCe k).fir with binds := binds } := by
  obtain ⟨binds, e⟩ := State.trigger_own ((s.endedAt k).yieldAtEnd k (s.getCe k).fir.yield) k
  refine ⟨binds, ?_⟩
  rw [h.getCe, show (s.endedTail k).getCe k = _ from e, State.yieldAtEnd_rest]
  exact congrArg (fun c : CeCtx => { c with binds := binds }) (State.endedAt_own s k)

theorem Ending.chanD (ch : Nat) : (s.blockEnd k).chanD ch = (s.afterMoves k).chanD ch := by
  rw [← State.applyMoves_chanD, h.rest, State.endedTail_rest]
  rfl

theorem Ending.scratch : (s.blockEnd k).scratch = s.scratch := by rw [h.rest, State.endedTail_rest]

theorem Ending.part : (s.blockEnd k).getPart (s.getCe k).part = (s.getPart (s.getCe k).part).psets k (s.getCe k).fir.psets := by
  rw [← State.endedAt_part, h.rest, State.endedTail_rest]
  rfl

theorem Ending.yielded : ((s.blockEnd k).getPage (cePage k)).yielded = true ↔
    (s.getPage (cePage k)).yielded = true ∨ ((s.getCe k).fir.yield = true ∧ (s.getPage (cePage k)).active = ceSlot k) := by
  have hpage : (s.blockEnd k).getPage (cePage k) = ((s.endedAt k).yieldAtEnd k (s.getCe k).fir.yield).getPage (cePage k) := by
    rw [h.rest, State.endedTail_rest]
    rfl
  have hbefore : (s.endedAt k).getPage (cePage k) = s.getPage (cePage k) := by rw [State.endedAt_rest]; rfl
  rw [hpage, State.yieldAtEnd_yielded, hbefore]

/-- A block without pointer moves, in a context without tokens at its triggers. -/
theorem Ending.still (hadv : (s.getCe k).fir.advMoves = []) (hpadv : (s.getCe k).fir.padvMoves = [])
    (hquiet : ∀ b ∈ (s.getCe k).binds, b.bound = true → s.filled ((s.getCe k).inCh b.trigger) = []) :
    (s.blockEnd k).chans = s.chans ∧ (s.blockEnd k).getCe k = (s.getCe k).ended (s.getCe k).fir := by
  have hmoves : s.afterMoves k = s := by simp [State.afterMoves, hadv, hpadv]
  have hown : (s.applyMoves k).getCe k = { s.getCe k with fir := (s.getCe k).fir.moved } := by
    rw [State.applyMoves_eq, State.getCe_setCe, hmoves]
  have hchans : (s.applyMoves k).chans = s.chans := by
    rw [State.applyMoves_eq, hmoves]
    rfl
  refine ⟨by rw [h.rest, State.endedTail_rest]; exact hchans, ?_⟩
  have hend : ((s.endedAt k).yieldAtEnd k (s.getCe k).fir.yield).getCe k = (s.getCe k).ended (s.getCe k).fir := by
    rw [State.yieldAtEnd_rest]
    exact (State.endedAt_own s k).trans (by rw [hown]; rfl)
  rw [h.getCe]
  refine (State.trigger_quiet _ k ?_).trans hend
  rw [hend]
  intro b hb hbound
  have hfilled : ∀ x, ((s.endedAt k).yieldAtEnd k (s.getCe k).fir.yield).filled x = s.filled x :=
    State.filled_congr (by rw [State.yieldAtEnd_rest, State.endedAt_rest]; exact hchans)
  rw [hfilled]
  obtain ⟨x, hx, hxb, hxt⟩ := CeCtx.mem_ended_binds hb
  rw [hxt]
  exact hquiet x hx (hxb ▸ hbound)

end

/-! ## Predicates (R181) -/

theorem Partition.psets_first {p : Partition} (h : p.predLate = []) (k : Nat) {ws : List (Nat × Nat × Bool)} (hw : ws ≠ []) :
    (p.psets k ws).pred = predAfter p.pred ws := by
  simp [Partition.psets, h, hw]

theorem Partition.psets_second {p : Partition} {e : Nat × List (Nat × Nat × Bool)} (h : p.predLate = [e]) (k : Nat)
    {ws : List (Nat × Nat × Bool)} (hw : ws ≠ []) :
    (p.psets k ws).pred = if e.1 ≤ psetKey k then predAfter (predAfter p.predOld e.2) ws else predAfter (predAfter p.predOld ws) e.2 := by
  by_cases he : e.1 ≤ psetKey k <;> simp [Partition.psets, h, hw, he]

theorem predAfter_single (q : BitVec 16) {n m a : Nat} {z : Bool} (hn : n < 16) (ha : a < 16) :
    (predAfter q [(n, m, z)]).getLsbD a =
      if a = n then (if m = 1 then q.getLsbD a || z else if m = 2 then q.getLsbD a && z else z) else q.getLsbD a := by
  have hbit : ∀ x : Bool, (if x then q ||| BitVec.twoPow 16 n else q &&& ~~~(BitVec.twoPow 16 n)).getLsbD a =
      if a = n then x else q.getLsbD a := by
    intro x
    by_cases h : a = n
    · subst h
      cases x <;> simp [ha]
    · cases x with
      | false => simp [h, ha]
      | true => simp [h, Ne.symm h]
  unfold predAfter
  simp only [List.foldl_cons, List.foldl_nil]
  rw [hbit]
  split
  next h =>
    subst h
    rcases m with _ | _ | _ | m <;> simp
  · rfl

/-- The tokens that stay staged, counted from the new pointer. -/
theorem tget_shift {α : Type} (d : α) (t : Tab α) (n a : Nat) :
    tget d ((t.filter fun e => n ≤ e.1).map fun e => (e.1 - n, e.2)) a = tget d t (a + n) := by
  induction t with
  | nil => rfl
  | cons e t ih =>
    obtain ⟨j, v⟩ := e
    by_cases hj : n ≤ j
    · simp [hj, tget, ih, show j - n = a ↔ j = a + n by omega]
    · simp [hj, tget, ih, show ¬ j = a + n by omega]

theorem lget_map {α β : Type} (d : α) (e : β) (l : List α) (g : α → β) (h : g d = e) (n : Nat) :
    lget e (l.map g) n = g (lget d l n) := by
  unfold lget
  by_cases hn : n < l.length
  · simp [List.getD_eq_getElem?_getD, hn]
  · simp [List.getD_eq_getElem?_getD, hn, h]

/-! ## The next block (R29, R172) -/

section
variable {f : Firing} {b : Binding}

theorem Firing.ended_of_tend (h : f.tend = true) :
    f.ended b = { b with state := .idle, stack := [], wait := .none, points := b.points + 1 } := if_pos h

theorem Firing.ended_of_not_tend (h : f.tend = false) : f.ended b =
    if f.waitSet = true ∧ f.wait ≠ .cycles 0 then { nextBlock f b with state := .sleeping, wait := f.wait }
    else { nextBlock f b with state := .runnable, wait := .none } := by
  unfold Firing.ended
  rw [if_neg (by simp [h])]
  split
  next hset hwait => simp [hwait]
  next hset hwait => rw [if_pos ⟨hset, hwait⟩]
  next hset => simp [hset]

theorem nextBlock_call {t : Nat} (h : f.target = some (t, true)) :
    nextBlock f b = { b with pc := t, stack := f.block.nextPc :: b.stack } := by
  simp only [nextBlock, h]

theorem nextBlock_jump {t : Nat} (h : f.target = some (t, false)) : nextBlock f b = { b with pc := t } := by
  simp only [nextBlock, h]

theorem nextBlock_ret (h : f.target = none) (hret : f.ret = true) :
    nextBlock f b = { b with pc := lget 0 b.stack 0, stack := b.stack.drop 1 } := by
  simp only [nextBlock, h, hret, if_true]

theorem nextBlock_next (h : f.target = none) (hret : f.ret = false) : nextBlock f b = { b with pc := f.block.nextPc } := by
  simp only [nextBlock, h, hret, Bool.false_eq_true, if_false]

end

/-! ## Firing, and rejecting at fetch (R25, R101) -/

section
variable {s : State} {k : Nat}

theorem exec_blockFiring (s : State) (k : Nat) : exec (.blockFiring k) s = .next (s.blockFiring k) := rfl

/-- An element without a block under way, in a context that may fire. -/
theorem State.blockFiring_choice {i : Nat} {e : Except Reject Decoded} (hidle : (s.getCe k).fir.active = false)
    (hmay : s.mayFire (cePage k) (ceSlot k) (s.getCe k).launch = true) (hnext : s.nextBinding k = some (i, e)) :
    (∀ d, e = .ok d → s.blockFiring k = s.fire k i d) ∧ (∀ r, e = .error r → s.blockFiring k = s.rejectBlock k i r) := by
  constructor
  · rintro d rfl
    unfold State.blockFiring
    simp only [hidle, hmay, hnext, Bool.false_eq_true, if_false, if_true]
  · rintro r rfl
    unfold State.blockFiring
    simp only [hidle, hmay, hnext, Bool.false_eq_true, if_false, if_true]

theorem State.blockFiring_none (hidle : (s.getCe k).fir.active = false)
    (h : s.mayFire (cePage k) (ceSlot k) (s.getCe k).launch = false ∨ s.nextBinding k = none) : s.blockFiring k = s := by
  unfold State.blockFiring
  rcases h with h | h
  · simp only [hidle, h, Bool.false_eq_true, if_false]
  · simp only [hidle, h, Bool.false_eq_true, if_false, ite_self]

/-- A residue that TRET or a resume made RUNNABLE goes on (R187). -/
theorem State.blockFiring_goesOn (hactive : (s.getCe k).fir.active = true)
    (hrun : (lget {} (s.getCe k).binds (s.getCe k).fir.bind).state = .runnable)
    (hmay : s.mayFire (cePage k) (ceSlot k) (s.getCe k).launch = true) :
    s.blockFiring k = s.setCe k { s.getCe k with
      binds := lmod (s.getCe k).binds (s.getCe k).fir.bind fun b => { b with state := .firing }, waited := 0, watched := false } := by
  unfold State.blockFiring
  simp only [hactive, hrun, hmay, if_true]

theorem State.blockFiring_waits (hactive : (s.getCe k).fir.active = true)
    (h : (lget {} (s.getCe k).binds (s.getCe k).fir.bind).state ≠ .firing)
    (h' : (lget {} (s.getCe k).binds (s.getCe k).fir.bind).state ≠ .runnable ∨
      s.mayFire (cePage k) (ceSlot k) (s.getCe k).launch = false) : s.blockFiring k = s := by
  unfold State.blockFiring
  simp only [hactive, if_true]
  split
  next hf => exact absurd hf h
  next hr => simp only [h'.resolve_left (not_not.2 hr), Bool.false_eq_true, if_false]
  · rfl

/-- A block whose last instruction has not ended, or whose predicates come after the cycle's phase evaluation (R437). -/
theorem State.blockFiring_runs (hactive : (s.getCe k).fir.active = true)
    (hfiring : (lget {} (s.getCe k).binds (s.getCe k).fir.bind).state = .firing)
    (h : (s.getCe k).fir.idx < (s.getCe k).fir.block.words.length ∨ s.psetLate (s.getCe k).part (s.getCe k).fir = true) :
    s.blockFiring k = s := by
  have hend : ((s.getCe k).fir.block.words.length ≤ (s.getCe k).fir.idx && !s.psetLate (s.getCe k).part (s.getCe k).fir) = false := by
    rcases h with h | h <;> simp [h]
  unfold State.blockFiring
  simp only [hactive, hfiring, if_true, hend, Bool.false_eq_true, if_false]

theorem State.psetLate_eq (s : State) (part : Nat) (f : Firing) :
    s.psetLate part f = true ↔ f.psets ≠ [] ∧ (s.getPart part).evalAt = some s.cycle.toNat := by
  simp [State.psetLate]

/-- A record of a compute element of a launch other than the supervisor. -/
theorem State.ceRecord_recorded (v : State) (k bind : Nat) (cls : FaultClass) (addr detail index : Nat) (hdr : Bool) (word : Nat)
    (hs : v.isSuper (v.getCe k).launch = false) :
    let u := v.ceRecord k bind cls addr detail index hdr word
    Told v u (v.getCe k).part ∧ Recorded v u (v.getCe k).part cls (State.ceUref k bind (v.getCe k)) addr detail := by
  intro u
  have hu : u = v.record (v.getCe k).part (v.isSuper (v.getCe k).launch)
      { cls := cls, kind := 0, ctx := ceSlot k, xy := ceXy k, uref := State.ceUref k bind (v.getCe k), slot := bind, hdr := hdr,
        index := index, word := word, addr := addr, detail := detail, waiting := v.waitingWord (v.getCe k) } := rfl
  rw [hs] at hu
  rw [hu]
  exact ⟨told_recordOrdinary _ _ _, State.record_recorded (by rfl) (by rfl) _⟩

/-- A block rejected at fetch: its binding FAULTED, and an ILLEGAL record. -/
theorem State.rejectBlock_rejects (s : State) (k i : Nat) (r : Reject) (hs : s.isSuper (s.getCe k).launch = false) :
    let u := s.rejectBlock k i r
    (∀ k', k' ≠ k → u.getCe k' = s.getCe k') ∧
      u.getCe k = { s.getCe k with binds := lmod (s.getCe k).binds i fun b => { b with state := .faulted, retry := false } } ∧
      Recorded s u (s.getCe k).part .illegal (State.ceUref k i (s.getCe k)) 0 r.row := by
  intro u
  let v := s.mapCe k fun c => { c with binds := lmod c.binds i fun b => { b with state := .faulted, retry := false } }
  have hv : v.getCe k = { s.getCe k with binds := lmod (s.getCe k).binds i fun b => { b with state := .faulted, retry := false } } :=
    State.getCe_mapCe ..
  have hsuper : v.isSuper (v.getCe k).launch = false := by rw [hv]; exact hs
  obtain ⟨htold, hrec⟩ := State.ceRecord_recorded v k i .illegal 0 r.row (r.index.getD 0) r.index.isNone
    (match r.index with
      | some n => s.istore.readNat (istoreAddr k (s.getCe k) ((lget {} (s.getCe k).binds i).pc + 16 + 8 * n)) 8
      | none => if (s.getCe k).winSize < (lget {} (s.getCe k).binds i).pc + 16 then 0
        else s.istore.readNat (istoreAddr k (s.getCe k) ((lget {} (s.getCe k).binds i).pc + 8)) 8) hsuper
  refine ⟨fun k' hk => (htold.getCe k').trans (State.getCe_setCe_ne s k _ hk), (htold.getCe k).trans hv, ?_⟩
  rw [hv] at hrec
  exact hrec

end

/-! ## The pointer moves of a block (R28, R165) -/

section
variable {s : State} {k : Nat}

theorem State.mapChan_getCe (s : State) (ch n : Nat) (f : Chan → Chan) : (s.mapChan ch f).getCe n = s.getCe n := by
  rw [State.mapChan_eq]
  rfl

theorem State.moveIn_outs (s : State) (k i n : Nat) : ((s.moveIn k i n).getCe k).outs = (s.getCe k).outs := by
  unfold State.moveIn
  dsimp only
  split
  · rfl
  · unfold State.freeTokens
    rw [State.mapChan_getCe, State.getCe_setCe]

theorem State.moveOut_stage {j ch : Nat} (h : (s.getCe k).outCh j = some ch) (hj : j < (s.getCe k).outs.length) (n a : Nat) :
    tget default (lget {} ((s.moveOut k j n).getCe k).outs j).stage a = tget default (lget {} (s.getCe k).outs j).stage (a + n) := by
  unfold CeCtx.outCh at h
  have hout : lget {} ((s.moveOut k j n).getCe k).outs j =
      { lget {} (s.getCe k).outs j with
        stage := ((lget {} (s.getCe k).outs j).stage.filter fun e => n ≤ e.1).map fun e => (e.1 - n, e.2)
        ptr := ((lget {} (s.getCe k).outs j).ptr + n) % max 1 (s.chanD ch).depth } := by
    unfold State.moveOut
    simp only [h]
    unfold State.publish
    rw [State.mapChan_getCe, State.getCe_setCe]
    simp [lget, List.getD_eq_getElem?_getD, hj]
  rw [hout]
  exact tget_shift ..

theorem State.mapChan_isSome (s : State) (ch n : Nat) (f : Chan → Chan) :
    (tfind (s.mapChan ch f).chans n).isSome = (tfind s.chans n).isSome := by
  unfold State.mapChan
  cases hf : tfind s.chans ch with
  | none => rfl
  | some c =>
    by_cases h : n = ch
    · subst h
      simp [State.setChan, hf]
    · simp [State.setChan, tfind_tput_ne _ _ h]

theorem CeCtx.outCh_lt {c : CeCtx} {j ch : Nat} (h : c.outCh j = some ch) : j < c.outs.length := by
  by_contra hj
  simp [CeCtx.outCh, lget, List.getD_eq_getElem?_getD, hj] at h

theorem State.publish_chanD_ne (s : State) (ch : Nat) (ts : List Token) {c : Nat} (h : c ≠ ch) :
    (s.publish ch ts).chanD c = s.chanD c := by
  unfold State.publish
  rw [State.chanD_mapChan, if_neg fun e => h e.1]

theorem State.publish_chanD (s : State) {ch : Nat} (ts : List Token) (h : (tfind s.chans ch).isSome = true) :
    (s.publish ch ts).chanD ch = { s.chanD ch with
      startq := (s.chanD ch).startq ++ ts
      credit := if (s.chanD ch).credited then (s.chanD ch).credit - ts.length else (s.chanD ch).credit } := by
  unfold State.publish
  rw [State.chanD_mapChan, if_pos ⟨rfl, h⟩]

theorem State.freeTokens_chanD (s : State) {ch : Nat} (n : Nat) (h : (tfind s.chans ch).isSome = true) :
    (s.freeTokens ch n).chanD ch = { s.chanD ch with
      endq := (s.chanD ch).endq.drop n, freed := (s.chanD ch).freed + min n (s.chanD ch).endq.length
      arrived := (s.chanD ch).arrived.drop n } := by
  unfold State.freeTokens
  rw [State.chanD_mapChan, if_pos ⟨rfl, h⟩]

end

/-- The channels after one move of each kind, on two channels. -/
theorem State.afterMoves_pair {s : State} {k i m ch j p ch' : Nat} (hadv : (s.getCe k).fir.advMoves = [(i, m)])
    (hpadv : (s.getCe k).fir.padvMoves = [(j, p)]) (hin : (s.getCe k).inCh i = some ch) (hout : (s.getCe k).outCh j = some ch')
    (hne : ch ≠ ch') (hch : (tfind s.chans ch).isSome = true) (hch' : (tfind s.chans ch').isSome = true) :
    let ts := (List.range p).map fun a => tget default (lget {} (s.getCe k).outs j).stage a
    (s.afterMoves k).chanD ch = { s.chanD ch with
        endq := (s.chanD ch).endq.drop m, freed := (s.chanD ch).freed + min m (s.chanD ch).endq.length
        arrived := (s.chanD ch).arrived.drop m } ∧
      (s.afterMoves k).chanD ch' = { s.chanD ch' with
        startq := (s.chanD ch').startq ++ ts
        credit := if (s.chanD ch').credited then (s.chanD ch').credit - ts.length else (s.chanD ch').credit } ∧
      ∀ a, a ≠ ch → a ≠ ch' → (s.afterMoves k).chanD a = s.chanD a := by
  intro ts
  have hmoves : s.afterMoves k = (s.moveIn k i m).moveOut k j p := by simp [State.afterMoves, hadv, hpadv]
  have hout' : ((s.moveIn k i m).getCe k).outCh j = some ch' := by
    unfold CeCtx.outCh
    rw [State.moveIn_outs]
    exact hout
  have hchan : ∀ a, (s.afterMoves k).chanD a = ((s.moveIn k i m).publish ch' ts).chanD a := by
    intro a
    rw [hmoves, State.moveOut_chanD _ k hout', State.moveIn_outs]
  have hplaced : (tfind (s.moveIn k i m).chans ch').isSome = true := by
    unfold CeCtx.inCh at hin
    unfold State.moveIn
    simp only [hin]
    exact (State.mapChan_isSome _ ch ch' _).trans hch'
  refine ⟨?_, ?_, fun a ha ha' => ?_⟩
  · rw [hchan, State.publish_chanD_ne _ _ _ hne, State.moveIn_chanD s k hin, State.freeTokens_chanD s m hch]
  · rw [hchan, State.publish_chanD _ _ hplaced, State.moveIn_chanD s k hin, State.freeTokens_chanD_ne s ch m hne.symm]
  · rw [hchan, State.publish_chanD_ne _ _ _ ha', State.moveIn_chanD s k hin, State.freeTokens_chanD_ne s ch m ha]

/-- The tokens staged at an output after a block has published `p` of them. -/
theorem Ending.stage {s : State} {k i m j p ch' : Nat} (h : Ending s k) (hadv : (s.getCe k).fir.advMoves = [(i, m)])
    (hpadv : (s.getCe k).fir.padvMoves = [(j, p)]) (hout : (s.getCe k).outCh j = some ch') (a : Nat) :
    tget default (lget {} ((s.blockEnd k).getCe k).outs j).stage a = tget default (lget {} (s.getCe k).outs j).stage (a + p) := by
  have hmoves : s.afterMoves k = (s.moveIn k i m).moveOut k j p := by simp [State.afterMoves, hadv, hpadv]
  have hout' : ((s.moveIn k i m).getCe k).outCh j = some ch' := by
    unfold CeCtx.outCh
    rw [State.moveIn_outs]
    exact hout
  have houts : ((s.applyMoves k).getCe k).outs = ((s.afterMoves k).getCe k).outs := by
    rw [State.applyMoves_eq, State.getCe_setCe]
  have hstage : (lget {} ((s.blockEnd k).getCe k).outs j).stage = (lget {} ((s.afterMoves k).getCe k).outs j).stage := by
    obtain ⟨binds, hown⟩ := h.own
    rw [hown, ← houts]
    refine (congrArg OutEp.stage (lget_map ({} : OutEp) ({} : OutEp) ((s.applyMoves k).getCe k).outs _ ?_ j)).trans ?_
    · rfl
    · rfl
  rw [hstage, hmoves, State.moveOut_stage hout' (CeCtx.outCh_lt hout'), State.moveIn_outs]

/-- Settles O45: the choice of a block from `State.nextBinding_some`, its end from the steps of `Ending`. -/
theorem blockFirings : Obligations.BlockFirings := by
  unfold Obligations.BlockFirings
  intro s k i j m n ch ch' d r l c f b may fire others stands chosen ending next
  have hexec : exec fire s = .next (s.blockFiring k) := rfl
  have hends : ending → Ending s k ∧ ∀ x ∈ c.binds, x.bound = true → s.filled (c.inCh x.trigger) = [] := by
    rintro ⟨hactive, hfiring, hdone, hpark, hquiet, hjoin⟩
    exact ⟨⟨hactive, hfiring, hdone, hpark, hjoin⟩, hquiet⟩
  have hnotLate : f.psets = [] ∨ (s.getPart c.part).evalAt ≠ some s.cycle.toNat → s.psetLate c.part f = false := by
    intro h
    rw [← Bool.not_eq_true, State.psetLate_eq]
    exact fun e => h.elim e.1 fun hat => hat e.2
  refine ⟨?_, ?_, ?_, ?_, ?_, ?_, ?_, ?_, ?_, ?_, ?_⟩
  · exact fun hactive hfiring hidx => hexec.trans (congrArg _ (State.blockFiring_runs hactive hfiring (.inl hidx)))
  · exact fun hactive hf h => hexec.trans (congrArg _ (State.blockFiring_waits hactive hf (h.imp_right (Bool.not_eq_true _).mp)))
  · intro hactive hrun hmay
    refine ⟨_, hexec.trans (congrArg _ (State.blockFiring_goesOn hactive hrun hmay)), rfl, fun k' hk => State.getCe_setCe_ne s k _ hk, ?_⟩
    rw [State.getCe_setCe, lmod_eq_set {}]
  · intro hidle h
    refine hexec.trans (congrArg _ (State.blockFiring_none hidle ?_))
    exact h.imp (Bool.not_eq_true _).mp fun hall => State.nextBinding_none hall
  · rintro ⟨hidle, hmay, hn, hi, hbefore, hstands⟩ hblock
    have hnext := State.nextBinding_some (s := s) (k := k) hn hi hbefore hstands
    refine ⟨_, hexec.trans (congrArg _ ((State.blockFiring_choice hidle hmay hnext).1 d hblock)), rfl,
      fun k' hk => State.getCe_setCe_ne s k _ hk, ?_⟩
    unfold State.fire
    rw [State.getCe_mapCe, lmod_eq_set {}]
    exact ⟨rfl, rfl, rfl, rfl⟩
  · rintro ⟨hidle, hmay, hn, hi, hbefore, hstands⟩ hblock hsuper
    have hnext := State.nextBinding_some (s := s) (k := k) hn hi hbefore hstands
    obtain ⟨hothers, hown, hrec⟩ := State.rejectBlock_rejects s k i r hsuper
    refine ⟨_, hexec.trans (congrArg _ ((State.blockFiring_choice hidle hmay hnext).2 r hblock)), hothers, ?_, hrec⟩
    rw [hown, lmod_eq_set {}]
  · intro hend hadv hpadv hpsets
    obtain ⟨hE, hquiet⟩ := hends hend
    have hlate := hnotLate (.inl hpsets)
    obtain ⟨hchans, hown⟩ := hE.still hadv hpadv hquiet
    refine ⟨_, hE.exec hlate, fun k' hk => hE.others hk, hchans, hE.scratch, by rw [hown]; rfl, by rw [hown]; rfl, by rw [hown]; rfl,
      ?_, hE.yielded, ?_, fun htend hl hs hm => ?_, fun htend => ?_⟩
    · rw [hE.part, hpsets]
      rfl
    · rw [hown]
      refine congrArg (c.binds.set f.bind) ?_
      cases htend : f.tend with
      | true => exact Firing.ended_of_tend htend
      | false =>
        simp only [Bool.false_eq_true, if_false]
        rcases htarget : f.target with _ | ⟨t, _ | _⟩
        · cases hret : f.ret with
          | true => rw [Firing.ended_of_not_tend htend, nextBlock_ret htarget hret]; rfl
          | false => rw [Firing.ended_of_not_tend htend, nextBlock_next htarget hret]; rfl
        · rw [Firing.ended_of_not_tend htend, nextBlock_jump htarget]
        · rw [Firing.ended_of_not_tend htend, nextBlock_call htarget]
          rfl
    · have hu : s.blockEnd k = (s.endedTail k).countPoints c.launch 1 0 0 := hE.blockEnd_eq.trans (if_pos htend)
      have hrest := State.endedTail_rest s k
      have hl' : tfind (s.endedTail k).launches c.launch = some l := by rw [hrest]; exact hl
      obtain ⟨hcounter, hdone, hmore, hlast⟩ := State.countPoints_one hl' hs hm
      have hstops : (s.endedTail k).stops = s.stops := by rw [hrest]
      have hstopping : (s.endedTail k).stopping c.launch = s.stopping c.launch := by rw [State.stopping, hstops]; rfl
      rw [hu]
      rw [hstops] at hmore hlast
      rw [hstopping] at hlast
      exact ⟨hcounter, hdone, hmore, hlast⟩
    · have hu : s.blockEnd k = s.endedTail k := hE.blockEnd_eq.trans (if_neg fun e => Bool.false_ne_true (htend.symm.trans e))
      rw [hu, State.endedTail_rest]
  · intro q z hend hpsets hat hn hlate
    obtain ⟨hE, -⟩ := hends hend
    refine ⟨_, hE.exec (hnotLate (.inr hat)), fun a ha => ?_⟩
    have hsome : f.psets ≠ [] := hpsets ▸ List.cons_ne_nil _ _
    rw [hE.part, Partition.psets_first hlate k hsome]
    refine (congrArg (fun ws => (predAfter (s.getPart c.part).pred ws).getLsbD a) hpsets).trans ?_
    exact predAfter_single _ hn ha
  · exact fun hactive hfiring hpsets hat =>
      hexec.trans (congrArg _ (State.blockFiring_runs hactive hfiring (.inr ((State.psetLate_eq s c.part f).2 ⟨hpsets, hat⟩))))
  · intro e hend hpsets hat hlate
    obtain ⟨hE, -⟩ := hends hend
    refine ⟨_, hE.exec (hnotLate (.inr hat)), ?_⟩
    beta_reduce
    rw [hE.part]
    exact Partition.psets_second hlate k hpsets
  · intro p hend hpsets hadv hpadv hin hout hne hch hch'
    obtain ⟨hE, -⟩ := hends hend
    obtain ⟨htaken, hsent, hothers⟩ := State.afterMoves_pair hadv hpadv hin hout hne hch hch'
    refine ⟨_, hE.exec (hnotLate hpsets), ?_, ?_, ?_, fun a => ?_, fun a hain haout => ?_⟩
    · rw [hE.chanD, htaken]
    · rw [hE.chanD, htaken]
    · rw [hE.chanD, hsent]
    · exact hE.stage hadv hpadv hout a
    · rw [hE.chanD, hothers a hain haout]

end Sys2Proof.Machine
end

section
/-!
SUPPORT of the work family: what a partition reads of device memory through its translation (R301 to R303, R402) depends on its
range table, its translation area and device memory alone (`SameReach`); and a record counts against the queue of its partition
as it stood (`Recorded.of_queue`).
-/

namespace Sys2Proof.Machine

/-- A record written in a state whose trap queue and cycle are those of `s`. -/
theorem Recorded.of_queue {s u t : State} {part : Nat} {cls : FaultClass} {uref : Word} {addr detail : Nat}
    (h : Recorded u t part cls uref addr detail) (htraps : (u.getPart part).traps = (s.getPart part).traps)
    (hwait : (u.getPart part).trapWait = (s.getPart part).trapWait) (hcycle : u.cycle = s.cycle) :
    Recorded s t part cls uref addr detail := by
  unfold Recorded at h ⊢
  simpa only [htraps, hwait, hcycle] using h

/-- A record counts for a later state with the same queue. -/
theorem Recorded.to_queue {s t v : State} {part : Nat} {cls : FaultClass} {uref : Word} {addr detail : Nat}
    (h : Recorded s t part cls uref addr detail) (htraps : (v.getPart part).traps = (t.getPart part).traps)
    (hwait : (v.getPart part).trapWait = (t.getPart part).trapWait) : Recorded s v part cls uref addr detail := by
  unfold Recorded at h ⊢
  simpa only [htraps, hwait] using h

/-- Two states in which a partition reaches the same device memory at the same addresses. -/
structure SameReach (s t : State) (part : Nat) : Prop where
  device : t.device = s.device
  ranges : (t.getPart part).ranges = (s.getPart part).ranges
  base : (t.getPart part).xareaBase = (s.getPart part).xareaBase
  log2 : (t.getPart part).xareaLog2 = (s.getPart part).xareaLog2

section
variable {s t : State} {part : Nat} (h : SameReach s t part)
include h

theorem SameReach.devNat (pa n : Nat) : t.devNat pa n = s.devNat pa n := by
  simp only [State.devNat, State.devRead, h.device]

theorem SameReach.walkFrom (va fuel level table : Nat) : t.walkFrom part va fuel level table = s.walkFrom part va fuel level table := by
  induction fuel generalizing level table with
  | zero => rfl
  | succ fuel ih =>
    unfold State.walkFrom
    simp only [h.base, h.log2, h.devNat, ih]

theorem SameReach.translate (va : Nat) : t.translate part va = s.translate part va := by
  have hroot : t.rootTable part = s.rootTable part := by simp only [State.rootTable, h.base, h.log2, h.devNat]
  have hrange : t.rangeFind part va = s.rangeFind part va := by simp only [State.rangeFind, h.ranges]
  simp only [State.translate, hroot, hrange, h.walkFrom]

theorem SameReach.readVa (fuel va n : Nat) (acc : List Byte) : t.readVa part fuel va n acc = s.readVa part fuel va n acc := by
  induction fuel generalizing va n acc with
  | zero => rfl
  | succ fuel ih =>
    unfold State.readVa
    simp only [h.translate, State.devRead, h.device, ih]

theorem SameReach.vaNat (va n : Nat) : t.vaNat part va n = s.vaNat part va n := by
  simp only [State.vaNat, State.vaBytes, h.readVa]

theorem SameReach.vaItems (va size n : Nat) : t.vaItems part va size n = s.vaItems part va size n := by
  simp only [State.vaItems, h.vaNat]

/-- The phase table of a job, where the job names the same one. -/
theorem SameReach.phaseEntry (hTab : (t.getPart part).job.phTab = (s.getPart part).job.phTab)
    (hN : (t.getPart part).job.nPhase = (s.getPart part).job.nPhase) (n : Nat) : t.phaseEntry part n = s.phaseEntry part n := by
  simp only [State.phaseEntry, Job.entryAt, hTab, hN, h.vaNat]

end

end Sys2Proof.Machine
end

section
/-!
PROOFS of the work family (O49): phases are evaluated, started and preloaded (R41, R42, R437, R438).
-/

namespace Sys2Proof.Machine

/-! ## The successor of a phase (R437) -/

/-- A clause of an entry holds for predicates q. -/
def clauseHolds (v q i : Nat) : Prop := clValid (phClause v i) = true ∧ q &&& clMask (phClause v i) = clValue (phClause v i)

theorem phaseNext_clause {v q i : Nat} (hi : i < 4) (hit : clauseHolds v q i) (hfirst : ∀ k, k < i → ¬ clauseHolds v q k) :
    phaseNext v q = clNext (phClause v i) := by
  have hfind : ((List.range 4).find? fun i => let c := phClause v i; clValid c && q &&& clMask c == clValue c) = some i := by
    rw [List.find?_range_eq_some]
    refine ⟨?_, List.mem_range.2 hi, fun k hk => ?_⟩
    · simpa [clauseHolds] using hit
    · simpa [clauseHolds, imp_iff_not_or] using hfirst k hk
  unfold phaseNext
  simp only [hfind]

theorem phaseNext_default {v q : Nat} (h : ∀ i, i < 4 → ¬ clauseHolds v q i) : phaseNext v q = phDefault v := by
  have hfind : ((List.range 4).find? fun i => let c := phClause v i; clValid c && q &&& clMask c == clValue c) = none := by
    rw [List.find?_range_eq_none]
    intro i hi
    simpa [clauseHolds, imp_iff_not_or] using h i hi
  unfold phaseNext
  simp only [hfind]

/-! ## Evaluating a phase -/

section
variable (s : State) (part : Nat)

/-- The partition notes that its phase is evaluated in this cycle. -/
def State.noteEval : State := s.mapPart part fun p => { p with evalAt := some s.cycle.toNat }

/-- The job once its phase has been counted. -/
def State.phaseCounted (ph : Phase) : State :=
  (s.noteEval part).mapJob part fun j => j.countPhase (outcomeOf ph.faulted ph.killed)

theorem State.noteEval_getPart : (s.noteEval part).getPart part = { s.getPart part with evalAt := some s.cycle.toNat } :=
  State.getPart_setPart ..

theorem State.phaseCounted_getPart (ph : Phase) : (s.phaseCounted part ph).getPart part =
    { s.getPart part with
      evalAt := some s.cycle.toNat, job := (s.getPart part).job.countPhase (outcomeOf ph.faulted ph.killed) } := by
  unfold State.phaseCounted State.mapJob State.mapPart
  rw [State.getPart_setPart, State.noteEval_getPart]

theorem State.noteEval_phaseEntry (n : Nat) : (s.noteEval part).phaseEntry part n = s.phaseEntry part n := by
  have hp := State.noteEval_getPart s part
  have hreach : SameReach s (s.noteEval part) part := ⟨rfl, by rw [hp], by rw [hp], by rw [hp]⟩
  exact hreach.phaseEntry (by rw [hp]) (by rw [hp]) n

variable {s part}

/-- A bad entry is recorded, and the job cancelled. -/
theorem State.badPhase_records (u : State) (part n : Nat) : ∃ w, u.badPhase part n = w.cancelJob part ∧
    Recorded u w part .config 0 ((u.getPart part).job.phTab + 128 * n) 0 :=
  ⟨_, rfl, State.record_recorded (by rfl) (by rfl) _⟩

theorem State.evaluate_bad {ph : Phase} (h : s.phaseEntry part ph.entry = none) :
    s.evaluate part ph = (s.noteEval part).badPhase part ph.entry := by
  have h' : State.phaseEntry (s.mapPart part fun p => { p with evalAt := some s.cycle.toNat }) part ph.entry = none :=
    (State.noteEval_phaseEntry s part ph.entry).trans h
  unfold State.evaluate
  simp only [h']
  rfl

theorem State.evaluate_entry {ph : Phase} {v : Nat} (h : s.phaseEntry part ph.entry = some v) :
    s.evaluate part ph =
      if phaseNext v (s.getPart part).pred.toNat = 0xFF then (s.phaseCounted part ph).cancelJob part
      else (s.phaseCounted part ph).startPhase part (phaseNext v (s.getPart part).pred.toNat) := by
  have h' : State.phaseEntry (s.mapPart part fun p => { p with evalAt := some s.cycle.toNat }) part ph.entry = some v :=
    (State.noteEval_phaseEntry s part ph.entry).trans h
  have hpred : ((s.phaseCounted part ph).getPart part).pred = (s.getPart part).pred := by rw [State.phaseCounted_getPart]
  rw [← hpred]
  unfold State.evaluate
  simp only [h']
  rfl

/-- A phase that starts: its templates stand to be instantiated. -/
theorem State.startPhase_starts {u : State} {n e : Nat} (h : u.phaseEntry part n = some e) :
    ∃ w ph', u.startPhase part n = State.startGraphs part ph' 9 w ∧
      let ts := ((List.range 8).map (phTemplate e)).filter (· != 0)
      (w.getPart part).job.phase = some ph' ∧ (w.getPart part).job.toStart = ts.map (BitVec.ofNat 64) ∧
      tfind w.phases ph' = some { part := part, entry := n, counter := ts.length, completed := 0, killed := 0, faulted := 0,
                                  ending := false, startAt := some u.cycle.toNat } ∧
      w.launches = u.launches ∧ w.graphs = u.graphs ∧ (w.getPart part).queues = (u.getPart part).queues := by
  let ts := ((List.range 8).map (phTemplate e)).filter (· != 0)
  let v := u.newId.2.setPhase (u.nextId + 1) { part := part, entry := n, counter := ts.length, completed := 0, killed := 0, faulted := 0,
                                               ending := false, startAt := some u.cycle.toNat }
  refine ⟨v.mapJob part fun j => { j with
      phase := some (u.nextId + 1), toStart := ts.map (BitVec.ofNat 64)
      preload := if j.preload = some n then j.preload else none
      preloadSlots := if j.preload = some n then j.preloadSlots else [] }, u.nextId + 1, ?_, ?_, ?_, tfind_tput_self .., rfl, rfl, ?_⟩
  · unfold State.startPhase
    simp only [h]
    rfl
  · exact congrArg (fun p : Partition => p.job.phase) (State.getPart_setPart ..)
  · exact congrArg (fun p : Partition => p.job.toStart) (State.getPart_setPart ..)
  · exact (congrArg Partition.queues (State.getPart_setPart ..)).trans rfl

end

/-! ## The two events -/

section
variable {s : State} {part id : Nat} {ph : Phase}

theorem exec_emptyPhase_idle (h : s.phaseNow part = none ∨ (s.phaseNow part = some (id, ph) ∧
    (ph.counter ≠ 0 ∨ (s.getPart part).job.toStart ≠ [] ∨ ph.startAt = some s.cycle.toNat))) :
    exec (.emptyPhaseEvaluate part) s = .next s := by
  refine congrArg Host.Outcome.next ?_
  rcases h with h | ⟨h, hnot⟩
  · simp only [h]
  · simp only [h]
    exact if_neg fun e => hnot.elim (· e.1) fun hnot => hnot.elim (· e.2.1) (e.2.2 ·)

theorem exec_emptyPhase_evaluate (h : s.phaseNow part = some (id, ph)) (hcounter : ph.counter = 0)
    (hstart : (s.getPart part).job.toStart = []) (hat : ph.startAt ≠ some s.cycle.toNat) :
    exec (.emptyPhaseEvaluate part) s = .next (s.evaluate part ph) := by
  refine congrArg Host.Outcome.next ?_
  simp only [h]
  exact if_pos ⟨hcounter, hstart, hat⟩

/-- Nothing is preloaded without a phase, or twice. -/
theorem State.preload_done (h : s.phaseNow part = none ∨ (s.getPart part).job.preload ≠ none) : s.preload part = s := by
  unfold State.preload
  split
  · rfl
  next hnow =>
    split
    · rfl
    · rw [if_pos (.inl (Option.isSome_iff_ne_none.2 (h.resolve_left (by simp [hnow]))))]

variable {v : Nat} (hnow : s.phaseNow part = some (id, ph)) (hentry : s.phaseEntry part ph.entry = some v)
include hnow hentry

theorem State.preload_unlikely (h : phLikely v = 0xFF) : s.preload part = s := by
  unfold State.preload
  simp only [hnow, hentry]
  exact if_pos (.inr h)

/-- The preload of the likely successor's first launch (R42). -/
theorem State.preload_first {w t : Nat} {r : LaunchRec} {b : ImageBody} (hnone : (s.getPart part).job.preload = none)
    (hlikely : phLikely v ≠ 0xFF) (hnext : s.phaseEntry part (phLikely v) = some w)
    (hfirst : (((List.range 8).map (phTemplate w)).filter (· != 0)).head? = some t)
    (hrec : (s.template part t).head? = some (some r))
    (hbody : (tfind (s.getPart part).images r.image).bind (·.body) = some b) :
    (s.growth part b [] = none → s.preload part = s) ∧
      ∀ lps, s.growth part b [] = some lps → s.preload part = s.mapJob part fun j => { j with
        preload := some (phLikely v)
        preloadSlots := lps.map fun lp => (lp, (s.freeSlotOf ((s.phys part lp).getD 0) []).getD 0) } := by
  have hgo : ¬ ((s.getPart part).job.preload.isSome = true ∨ phLikely v = 0xFF) := by simp [hnone, hlikely]
  have hhead : (s.template part t).headD none = some r := by rw [List.headD_eq_head?_getD, hrec]; rfl
  constructor
  · intro hgrow
    unfold State.preload
    simp only [hnow, hentry, if_neg hgo, hnext, hfirst, hhead, hbody, hgrow]
  · intro lps hgrow
    unfold State.preload
    simp only [hnow, hentry, if_neg hgo, hnext, hfirst, hhead, hbody, hgrow]

end

/-- Settles O49, from the successor that `phaseNext` gives and what starting a phase does. -/
theorem phasesFollow : Obligations.PhasesFollow := by
  unfold Obligations.PhasesFollow
  intro s part id ph v j pred event ready hit o counted goes
  have hgoes : ready → s.phaseEntry part ph.entry = some v → goes (phaseNext v pred) := by
    rintro ⟨hnow, hcounter, hstart, hat⟩ hentry
    have hexec := exec_emptyPhase_evaluate hnow hcounter hstart hat
    rw [State.evaluate_entry hentry] at hexec
    have hp := State.phaseCounted_getPart s part ph
    refine ⟨s.phaseCounted part ph, ?_, rfl, fun hn => ?_, fun hn hnone => ?_, fun e hn hsome => ?_⟩
    · rw [hp]
      exact ⟨rfl, rfl, rfl, rfl⟩
    · rw [if_pos hn] at hexec
      exact hexec
    · rw [if_neg hn, State.startPhase] at hexec
      simp only [show (s.phaseCounted part ph).phaseEntry part (phaseNext v (s.getPart part).pred.toNat) = none from hnone] at hexec
      obtain ⟨w, hw, hrec⟩ := State.badPhase_records (s.phaseCounted part ph) part (phaseNext v pred)
      rw [hp] at hrec
      exact ⟨w, hexec.trans (congrArg _ hw), hrec⟩
    · rw [if_neg hn] at hexec
      obtain ⟨w, ph', hw, hphase, hts, hfind, hlaunches, hgraphs, hqueues⟩ := State.startPhase_starts hsome
      rw [hp] at hqueues
      exact ⟨w, ph', hexec.trans (congrArg _ hw), hphase, hts, hfind, hlaunches, hgraphs, hqueues⟩
  refine ⟨exec_emptyPhase_idle, ?_, fun hready hentry => ⟨fun i hi hhit hfirst => ?_, fun hnone => ?_⟩, ?_, ?_, ?_⟩
  · rintro ⟨hnow, hcounter, hstart, hat⟩ hentry
    obtain ⟨w, hw, hrec⟩ := State.badPhase_records (s.noteEval part) part ph.entry
    have hp := State.noteEval_getPart s part
    refine ⟨w, (exec_emptyPhase_evaluate hnow hcounter hstart hat).trans (congrArg _ ((State.evaluate_bad hentry).trans hw)), ?_⟩
    rw [hp] at hrec
    exact hrec.of_queue (by rw [hp]) (by rw [hp]) rfl
  · rw [← phaseNext_clause hi hhit hfirst]
    exact hgoes hready hentry
  · rw [← phaseNext_default hnone]
    exact hgoes hready hentry
  · exact fun h => congrArg Host.Outcome.next (State.preload_done h)
  · exact fun hnow hentry hlikely => congrArg Host.Outcome.next (State.preload_unlikely hnow hentry hlikely)
  · intro w t r b hnow hentry hnone hlikely hnext hfirst hrec hbody
    obtain ⟨hfull, hroom⟩ := State.preload_first hnow hentry hnone hlikely hnext hfirst hrec hbody
    refine ⟨fun hgrow => congrArg Host.Outcome.next (hfull hgrow), fun lps hgrow => ?_⟩
    exact ⟨_, congrArg Host.Outcome.next (hroom lps hgrow), rfl, State.getPart_setPart ..⟩

end Sys2Proof.Machine
end

section
/-!
PROOFS of the work family (O54): the partition window and the start of a job (R43, R451, R452, R455 to R457, R465).
-/

namespace Sys2Proof.Machine

/-! ## The partition of a VF (R452) -/

section
variable {s : State} {vf part : Nat}

theorem State.onVf_unbound (h : 128 ≤ vf ∨ s.dev.vfPart vf = none) (g : Nat → State) : s.onVf vf g = s := by
  unfold State.onVf
  rcases h with h | h
  · exact if_pos h
  · simp only [h, ite_self]

theorem State.onVf_bound (h : vf < 128) (hp : s.dev.vfPart vf = some part) (g : Nat → State) : s.onVf vf g = g part := by
  unfold State.onVf
  simp only [Nat.not_le.2 h, if_false, hp]

theorem Device.vfPart_eq_some {d : Device} {vf part : Nat} : d.vfPart vf = some part ↔
    128 ≤ (tget 0 d.vfmap (vf / 8)).toNat / 2 ^ (8 * (vf % 8)) % 256 ∧
      (tget 0 d.vfmap (vf / 8)).toNat / 2 ^ (8 * (vf % 8)) % 256 % 32 = part := by
  have hbyte : d.vfByte vf = (tget 0 d.vfmap (vf / 8)).toNat / 2 ^ (8 * (vf % 8)) % 256 := by
    unfold Device.vfByte natBits
    rw [show 8 * (vf % 8) + 7 + 1 - 8 * (vf % 8) = 8 by omega]
    rfl
  rw [← hbyte]
  unfold Device.vfPart
  split
  next h => simp [h]
  next h => simp [h]

theorem State.mapJob_getPart (s : State) (part : Nat) (g : Job → Job) :
    (s.mapJob part g).getPart part = { s.getPart part with job := g (s.getPart part).job } := State.getPart_setPart ..

theorem State.mapJob_getPart_ne (s : State) (part : Nat) (g : Job → Job) {k : Nat} (h : k ≠ part) :
    (s.mapJob part g).getPart k = s.getPart k := State.getPart_setPart_ne s part _ h

/-! ## What the host reads (R455) -/

/-- The registers of the window of a bound VF outside the trap window. -/
theorem State.vfRead_bound (h : vf < 128) (hp : s.dev.vfPart vf = some part) :
    let j := (s.getPart part).job
    s.vfRead vf 0x000 = j.recAddr ∧ s.vfRead vf 0x010 = j.status ∧ s.vfRead vf 0x018 = BitVec.ofNat 64 (j.err * 256 + b2n j.running) := by
  unfold State.vfRead
  simp only [h, if_true, hp]
  exact ⟨rfl, rfl, rfl⟩

theorem State.vfRead_trap (h : vf < 128) (hp : s.dev.vfPart vf = some part) {n : Nat} (hn : n < 8) :
    ((s.getPart part).traps = [] → s.vfRead vf (0x020 + 8 * n) = 0) ∧
      ∀ e es, (s.getPart part).traps = e :: es → s.vfRead vf (0x020 + 8 * n) = e.2.extractLsb' (64 * n) 64 := by
  have hwin : 0x020 ≤ 0x020 + 8 * n ∧ 0x020 + 8 * n < 0x060 ∧ (0x020 + 8 * n) % 8 = 0 := by omega
  constructor
  · intro htraps
    unfold State.vfRead
    simp only [h, if_true, hp, if_pos hwin, htraps]
  · intro e es htraps
    have hbit : 8 * (0x020 + 8 * n - 0x020) = 64 * n := by omega
    unfold State.vfRead
    simp only [h, if_true, hp, if_pos hwin, htraps, hbit]

theorem State.vfRead_unbound (h : 128 ≤ vf ∨ s.dev.vfPart vf = none) (n : Nat) : s.vfRead vf n = 0 := by
  have hnone : (if vf < 128 then s.dev.vfPart vf else none) = none := by
    rcases h with h | h
    · exact if_neg (Nat.not_lt.2 h)
    · simp only [h, ite_self]
  unfold State.vfRead
  simp only [hnone]

/-- The last byte of a BAR2 read is the byte at its last address. -/
theorem State.bar2Read_last (hp : s.dev.vfPart vf = some part) (h : vf < 128) (a n : Nat) :
    (∀ pa wr, a + n < 2 ^ 36 → s.translate part (a + n) = .ok (pa, wr) →
      (s.bar2Read vf a (n + 1)).getLast? = some (s.device.read (canonAddr pa))) ∧
    ((∀ r, s.translate part (a + n) ≠ .ok r) → (s.bar2Read vf a (n + 1)).getLast? = some 0xFF) := by
  unfold State.bar2Read
  rw [List.range_succ, List.map_append, List.map_cons, List.map_nil, List.getLast?_concat]
  constructor
  · intro pa wr hlt htr
    simp only [h, hlt, and_self, if_true, hp, htr]
  · intro hno
    by_cases hlt : a + n < 2 ^ 36
    · simp only [h, hlt, and_self, if_true, hp]
      cases htr : s.translate part (a + n) with
      | ok r => exact absurd htr (hno r)
      | error e => rfl
    · simp only [hlt, and_false, if_false]

end

/-! ## What the host writes (R455) -/

theorem Job.plainWrite_other (j : Job) (v : Word) {n : Nat} (h : n ∉ [0x000, 0x0C0, 0x0D8]) : j.plainWrite n v = j := by
  simp only [List.mem_cons, List.not_mem_nil, or_false, not_or] at h
  obtain ⟨h0, hdst, hlim⟩ := h
  unfold Job.plainWrite
  split
  · exact absurd rfl h0
  · exact absurd rfl hdst
  · exact absurd rfl hlim
  · rfl

/-- A POP removes the oldest record. -/
theorem State.popRecord_eq (s : State) (part : Nat) : ∃ ts, (s.popRecord part).2 = { s with parts := ts } ∧
    (s.popRecord part).2.getPart part = { s.getPart part with traps := (s.getPart part).traps.drop 1 } := by
  unfold State.popRecord
  dsimp only
  split
  next h =>
    have hsame : (s.getPart part).traps.drop 1 = (s.getPart part).traps := by rw [h]; rfl
    exact ⟨s.parts, rfl, by rw [hsame]⟩
  next h => exact ⟨_, rfl, (State.getPart_setPart ..).trans (by rw [h]; rfl)⟩

theorem State.bankAwake_rest (s : State) (mt bank : Nat) : (s.bankAwake mt bank).2 = { s with mts := (s.bankAwake mt bank).2.mts } := by
  unfold State.bankAwake
  dsimp only
  split <;> rfl

section
variable {s : State} {part a : Nat}

/-- The page of a debug read's address is unbound, mapped out or has gated banks. -/
def State.debugOff (s : State) (part a : Nat) : Prop :=
  let e := tget {} (s.getPart part).map (natBits a 29 21)
  e.v = false ∨ (s.getPage e.ppage).mapout = true ∨ ∃ b ∈ (s.getMt (e.ppage * 2 + natBits a 20 20)).banks, b.power = .gated

/-- The memory tile of a debug read's address. -/
def State.debugMt (s : State) (part a : Nat) : Nat := (tget {} (s.getPart part).map (natBits a 29 21)).ppage * 2 + natBits a 20 20

theorem State.debugOff_iff : (!(tget {} (s.getPart part).map (natBits a 29 21)).v ||
      (s.getPage (tget {} (s.getPart part).map (natBits a 29 21)).ppage).mapout ||
      (s.getMt ((tget {} (s.getPart part).map (natBits a 29 21)).ppage * 2 + natBits a 20 20)).banks.any (fun b => b.power == .gated)) = true ↔
    s.debugOff part a := by
  simp [State.debugOff, or_assoc]

/-- What a debug read changes: the power of a bank that was drowsy. -/
theorem State.debugRead_rest (s : State) (part a : Nat) :
    (s.debugRead part a).2.2 = { s with mts := (s.debugRead part a).2.2.mts } := by
  unfold State.debugRead
  dsimp only
  split
  · rfl
  · split
    · rfl
    · split
      · exact State.bankAwake_rest ..
      · exact State.bankAwake_rest ..

/-- The status and the data that a debug read answers with. -/
theorem State.debugRead_answer :
    let lp := natBits a 29 21
    let st (n : Nat) (x : Word) : Prop := (s.debugRead part a).1 = n ∧ (s.debugRead part a).2.1 = x
    ((s.getPart part).nl ≤ lp → st 3 0) ∧ (lp < (s.getPart part).nl → s.debugOff part a → st 1 0) ∧
    (lp < (s.getPart part).nl → ¬ s.debugOff part a → s.scratchLost (s.debugMt part a) (a % 2 ^ 20) 8 = true → st 2 0) ∧
    (lp < (s.getPart part).nl → ¬ s.debugOff part a → s.scratchLost (s.debugMt part a) (a % 2 ^ 20) 8 = false →
      st 0 (BitVec.ofNat 64 (s.scratch.readNat (scratchAddr (s.debugMt part a) (a % 2 ^ 20)) 8))) := by
  intro lp st
  unfold State.debugMt
  simp only [st, lp]
  refine ⟨fun h => ?_, fun h hoff => ?_, fun h hon hlost => ?_, fun h hon hlost => ?_⟩
  · unfold State.debugRead
    simp only [h, if_true, and_self]
  · unfold State.debugRead
    simp only [if_neg (Nat.not_le.2 h), if_pos (State.debugOff_iff.2 hoff), and_self]
  · unfold State.debugRead
    simp only [if_neg (Nat.not_le.2 h), if_neg (fun e => hon (State.debugOff_iff.1 e)), hlost, if_true, and_self]
  · unfold State.debugRead
    simp only [if_neg (Nat.not_le.2 h), if_neg (fun e => hon (State.debugOff_iff.1 e)), hlost, Bool.false_eq_true, if_false, and_self]

end

/-! ## BAR2 writes (R451) -/

/-- One piece of a BAR2 write, within a sector. -/
def State.hostPiece (s : State) (part va : Nat) (bs : List Byte) : State :=
  if 2 ^ 36 ≤ va then s else
    match s.translate part va with
    | .ok (pa, true) => s.devWriteSector pa bs
    | _ => s

theorem State.hostWrite_nil (part fuel va : Nat) (s : State) : State.hostWrite part fuel va [] s = s := by
  cases fuel <;> rfl

theorem State.hostWrite_succ (part fuel va : Nat) {bs : List Byte} (h : bs ≠ []) (s : State) :
    State.hostWrite part (fuel + 1) va bs s =
      State.hostWrite part fuel (va + (64 - va % 64)) (bs.drop (64 - va % 64)) (s.hostPiece part va (bs.take (64 - va % 64))) := by
  have hne : ¬ bs.isEmpty = true := by simp [h]
  show (if bs.isEmpty then s else _) = _
  rw [if_neg hne]
  rfl

/-- More pieces than a write has change nothing. -/
theorem State.hostWrite_fuel (part : Nat) {f f' va : Nat} {bs : List Byte} (s : State) (h : va % 64 + bs.length ≤ 64 * f)
    (h' : va % 64 + bs.length ≤ 64 * f') : State.hostWrite part f va bs s = State.hostWrite part f' va bs s := by
  induction f generalizing f' va bs s with
  | zero =>
    have hnil : bs = [] := List.eq_nil_of_length_eq_zero (by omega)
    rw [hnil, State.hostWrite_nil, State.hostWrite_nil]
  | succ f ih =>
    by_cases hbs : bs = []
    · rw [hbs, State.hostWrite_nil, State.hostWrite_nil]
    · have hlen : 0 < bs.length := List.length_pos_iff.2 hbs
      obtain ⟨f', rfl⟩ : ∃ n, f' = n + 1 := ⟨f' - 1, by omega⟩
      rw [State.hostWrite_succ part f va hbs, State.hostWrite_succ part f' va hbs]
      exact ih _ (by rw [List.length_drop]; omega) (by rw [List.length_drop]; omega)

/-- A write within one sector is one piece. -/
theorem State.hostWrite_one (part fuel va : Nat) {bs : List Byte} (h : bs ≠ []) (hlen : va % 64 + bs.length ≤ 64) (s : State) :
    State.hostWrite part (fuel + 1) va bs s = s.hostPiece part va bs := by
  rw [State.hostWrite_succ part fuel va h, List.take_of_length_le (by omega), List.drop_eq_nil_of_le (by omega), State.hostWrite_nil]

theorem State.hostPiece_dropped {s : State} {part va : Nat} (h : 2 ^ 36 ≤ va ∨ ∀ pa, s.translate part va ≠ .ok (pa, true))
    (bs : List Byte) : s.hostPiece part va bs = s := by
  unfold State.hostPiece
  split
  · rfl
  next hlt =>
    split
    next pa htr => exact absurd htr ((h.resolve_left hlt) pa)
    · rfl

theorem State.hostPiece_lands {s : State} {part va pa : Nat} (h : va < 2 ^ 36) (htr : s.translate part va = .ok (pa, true))
    (bs : List Byte) : s.hostPiece part va bs = s.devWriteSector pa bs := by
  unfold State.hostPiece
  simp only [if_neg (Nat.not_le.2 h), htr]

/-! ### What a piece leaves (R451, R402) -/

theorem State.foldl_dropCaches_rest (areas : List Nat) (s : State) :
    ∃ mts pc wc walks, areas.foldl State.dropCaches s = { s with mts := mts, portCache := pc, wcache := wc, walks := walks } := by
  induction areas generalizing s with
  | nil => exact ⟨s.mts, s.portCache, s.wcache, s.walks, rfl⟩
  | cons a areas ih =>
    obtain ⟨mts, pc, wc, walks, e⟩ := ih (s.dropCaches a)
    exact ⟨mts, pc, wc, walks, e⟩

theorem State.loadRanges_getPart (s : State) (k n : Nat) : (s.loadRanges k).getPart n = { s.getPart n with
    ranges := if n = k then (if (s.getPart k).xareaLog2 = 0 then []
      else (List.range 64).map fun i => s.devNat ((s.getPart k).xareaBase + 16 * i) 16) else (s.getPart n).ranges } := by
  by_cases h : n = k
  · subst h
    rw [if_pos rfl]
    exact State.getPart_setPart ..
  · rw [if_neg h]
    exact State.getPart_setPart_ne s k _ h

/-- The range tables of some partitions are read again: nothing else of a partition changes, and those read show what stands
in device memory. -/
theorem State.foldl_loadRanges (areas : List Nat) (s : State) :
    let t := areas.foldl State.loadRanges s
    t = { s with parts := t.parts } ∧ (∀ k, t.getPart k = { s.getPart k with ranges := (t.getPart k).ranges }) ∧
      (areas = [] → t.parts = s.parts) ∧
      ∀ k, (s.getPart k).xareaLog2 ≠ 0 →
        (k ∈ areas ∨ (s.getPart k).ranges = (List.range 64).map fun n => s.devNat ((s.getPart k).xareaBase + 16 * n) 16) →
        (t.getPart k).ranges = (List.range 64).map fun n => s.devNat ((s.getPart k).xareaBase + 16 * n) 16 := by
  induction areas generalizing s with
  | nil => exact ⟨rfl, fun k => rfl, fun _ => rfl, fun k _ h => h.resolve_left (List.not_mem_nil)⟩
  | cons a areas ih =>
    obtain ⟨hrest, hparts, -, hloaded⟩ := ih (s.loadRanges a)
    have hstep := State.loadRanges_getPart s a
    have hdev : ∀ pa n, (s.loadRanges a).devNat pa n = s.devNat pa n := fun _ _ => rfl
    refine ⟨hrest, fun k => ?_, fun e => absurd e (List.cons_ne_nil _ _), fun k hlog h => ?_⟩
    · rw [List.foldl_cons, hparts, hstep]
    · have hbase : ((s.loadRanges a).getPart k).xareaBase = (s.getPart k).xareaBase := by rw [hstep]
      have hlog' : ((s.loadRanges a).getPart k).xareaLog2 = (s.getPart k).xareaLog2 := by rw [hstep]
      have hload := hloaded k (by rw [hlog']; exact hlog)
      simp only [hbase, hdev] at hload
      refine hload ?_
      by_cases hk : k = a
      · subst hk
        right
        rw [hstep, if_pos rfl, if_neg hlog]
      · rcases h with h | h
        · exact .inl ((List.mem_cons.1 h).resolve_left hk)
        · right
          rw [hstep, if_neg hk]
          exact h

/-- Byte i of the number that some bytes make. -/
theorem natOfBytes_byte (bs : List Byte) {i : Nat} (h : i < bs.length) : BitVec.ofNat 8 (natOfBytes bs / 2 ^ (8 * i)) = bs[i] := by
  induction bs generalizing i with
  | nil => simp at h
  | cons b bs ih =>
    cases i with
    | zero =>
      refine BitVec.eq_of_toNat_eq ?_
      have := b.isLt
      simp [natOfBytes]
      omega
    | succ i =>
      have hdiv : natOfBytes (b :: bs) / 2 ^ (8 * (i + 1)) = natOfBytes bs / 2 ^ (8 * i) := by
        have hb := b.isLt
        have hq : natOfBytes (b :: bs) / 256 = natOfBytes bs := by
          simp only [natOfBytes]
          omega
        rw [← hq, Nat.div_div_eq_div_mul, show 8 * (i + 1) = 8 + 8 * i by ring, Nat.pow_add]
      rw [hdiv]
      exact ih (by simpa using h)

/-- The bytes of a write stand in memory, and every other byte is as before. -/
theorem stored_writeBytes {m : Memory} (hm : Memory.wf m = true) (a : Nat) (bs : List Byte) :
    Stored m (m.writeBytes a bs) a bs.length (natOfBytes bs) := by
  intro x
  split
  next h =>
    obtain ⟨i, rfl⟩ := Nat.exists_eq_add_of_le h.1
    have hi : i < bs.length := by omega
    rw [Memory.read_writeBytes hm a bs hi, show a + i - a = i by omega, natOfBytes_byte bs hi]
  next h => exact Memory.read_writeBytes_ne m a bs (by omega)

theorem State.devWriteSector_rest (s : State) (pa : Nat) (bs : List Byte) :
    let u := s.devWriteSector pa bs
    u.dev = s.dev ∧ u.scratch = s.scratch ∧ u.device = s.device.writeBytes (canonAddr pa) bs ∧
      (s.xareaOf pa = [] → u.parts = s.parts) ∧ (∀ k, u.getPart k = { s.getPart k with ranges := (u.getPart k).ranges }) ∧
      ∀ k ∈ s.xareaOf pa, (s.getPart k).xareaLog2 ≠ 0 →
        (u.getPart k).ranges = (List.range 64).map fun n => u.devNat ((s.getPart k).xareaBase + 16 * n) 16 := by
  intro u
  obtain ⟨mts, pc, wc, walks, e⟩ := State.foldl_dropCaches_rest (s.xareaOf pa) s
  let v : State := { (s.xareaOf pa).foldl State.dropCaches s with
    device := ((s.xareaOf pa).foldl State.dropCaches s).device.writeBytes (canonAddr pa) bs
    sectorLost := if bs.length = 64 then ((s.xareaOf pa).foldl State.dropCaches s).sectorLost.filter (· != canonAddr pa / 64)
      else ((s.xareaOf pa).foldl State.dropCaches s).sectorLost }
  have hu : u = (s.xareaOf pa).foldl State.loadRanges v := rfl
  obtain ⟨hrest, hparts, hnone, hloaded⟩ := State.foldl_loadRanges (s.xareaOf pa) v
  rw [← hu] at hrest hparts hnone hloaded
  have hv : ∀ k, v.getPart k = s.getPart k := fun k => by simp only [v, e]; rfl
  have hdev : ∀ a n, u.devNat a n = v.devNat a n := fun a n => by rw [hrest]; rfl
  refine ⟨?_, ?_, ?_, fun h => ?_, fun k => ?_, fun k hk hlog => ?_⟩
  · rw [hrest]; simp only [v, e]
  · rw [hrest]; simp only [v, e]
  · rw [hrest]; simp only [v, e]
  · rw [hnone h]; simp only [v, e]
  · rw [← hv k]
    exact hparts k
  · have := hloaded k (by rw [hv]; exact hlog) (.inl hk)
    rw [hv] at this
    simp only [hdev]
    exact this

/-! ## The start of a job (R456, R457) -/

/-- What a job record that keeps its field map says. -/
theorem jobRec_some {h : Nat} {r : JobRec} (e : jobRec h = some r) :
    r.nPhase = natBits h 15 8 ∧ r.first = natBits h 23 16 ∧ r.phTab = natBits h 191 128 ∧ r.first < r.nPhase ∧ r.ninit ≤ 64 ∧
      r.init % 16 = 0 := by
  unfold jobRec at e
  dsimp only at e
  split at e
  · cases e
  next hok =>
    obtain rfl := Option.some.inj e
    simp only [not_or, not_le, not_lt, ne_eq, not_not] at hok
    obtain ⟨-, -, -, hninit, hinit, -, -, hfirst⟩ := hok
    exact ⟨rfl, rfl, rfl, hfirst, hninit, hinit⟩

section
variable {s : State} {part : Nat}

/-- The partition as a start clears it (R36, R43, R381, R445). -/
def State.startCleared (s : State) (part : Nat) (groups : Tab GroupEntry) : State := s.mapPart part (·.cleared groups)

theorem State.startCleared_getPart (s : State) (part : Nat) (groups : Tab GroupEntry) :
    (s.startCleared part groups).getPart part = (s.getPart part).cleared groups := State.getPart_setPart ..

theorem State.startCleared_reach (s : State) (part : Nat) (groups : Tab GroupEntry) : SameReach s (s.startCleared part groups) part := by
  have hp := State.startCleared_getPart s part groups
  exact ⟨rfl, by rw [hp]; rfl, by rw [hp]; rfl, by rw [hp]; rfl⟩

/-- The job of a good start, before it goes on (R457). -/
def JobRec.ready (r : JobRec) (sup : Option (BitVec 1024)) (j : Job) : Job := { j with
  starting := true, superRec := sup, first := r.first, phTab := r.phTab, nPhase := r.nPhase }

def State.jobReady (s : State) (part : Nat) (groups : Tab GroupEntry) (r : JobRec) (sup : Option (BitVec 1024)) : State :=
  (s.startCleared part groups).mapJob part (r.ready sup)

theorem State.jobReady_getPart (s : State) (part : Nat) (groups : Tab GroupEntry) (r : JobRec) (sup : Option (BitVec 1024)) :
    (s.jobReady part groups r sup).getPart part =
      { (s.getPart part).cleared groups with job := r.ready sup ((s.getPart part).cleared groups).job } := by
  unfold State.jobReady
  rw [State.mapJob_getPart, State.startCleared_getPart]

theorem State.jobStart_busy (h : ¬ ((s.getPart part).job.running = false ∧ (s.getPart part).job.starting = false)) :
    s.jobStart part = s.mapJob part fun j => { j with err := 4, again := some s.cycle.toNat } := by
  refine if_pos ?_
  by_contra hno
  simp only [not_or, Bool.not_eq_true] at hno
  exact h hno

section
variable (hfree : (s.getPart part).job.running = false ∧ (s.getPart part).job.starting = false)
include hfree

theorem State.jobStart_free : ¬ ((s.getPart part).job.running = true ∨ (s.getPart part).job.starting = true) := by
  simp [hfree.1, hfree.2]

theorem State.jobStart_misaligned (h : ¬ (s.getPart part).job.recAddr.toNat % 128 = 0) : s.jobStart part = s.startFails part 1 := by
  unfold State.jobStart
  simp only [if_neg (State.jobStart_free hfree), ne_eq, h, not_false_eq_true, if_true]

variable (haligned : (s.getPart part).job.recAddr.toNat % 128 = 0)
include haligned

theorem State.jobStart_unread (h : s.vaNat part (s.getPart part).job.recAddr.toNat 128 = none) :
    s.jobStart part = s.startFails part 2 := by
  unfold State.jobStart
  simp only [if_neg (State.jobStart_free hfree), ne_eq, haligned, not_true_eq_false, if_false, h]

variable {v : Nat} (hread : s.vaNat part (s.getPart part).job.recAddr.toNat 128 = some v)
include hread

theorem State.jobStart_badRecord (h : jobRec v = none) : s.jobStart part = s.startFails part 1 := by
  unfold State.jobStart
  simp only [if_neg (State.jobStart_free hfree), ne_eq, haligned, not_true_eq_false, if_false, hread, h]

variable {r : JobRec} (hrec : jobRec v = some r)
include hrec

theorem State.jobStart_badGroups {e : Nat} (h : s.groupTable part r.cgtab = .error e) : s.jobStart part = s.startFails part e := by
  unfold State.jobStart
  simp only [if_neg (State.jobStart_free hfree), ne_eq, haligned, not_true_eq_false, if_false, hread, hrec, h]

variable {groups : Tab GroupEntry} (hgroups : s.groupTable part r.cgtab = .ok groups)
include hgroups

/-- A register list that cannot be read, or that names another register. -/
theorem State.jobStart_badRegs {e : Nat} (h : (s.startCleared part groups).initList part r.init r.ninit = .error e) :
    s.jobStart part = (s.startCleared part groups).startFails part e := by
  unfold State.startCleared at h ⊢
  unfold State.jobStart
  simp only [if_neg (State.jobStart_free hfree), ne_eq, haligned, not_true_eq_false, if_false, hread, hrec, hgroups, h]

/-- A start without a register list goes on, with or without a supervisor. -/
theorem State.jobStart_noRegs (h : r.ninit = 0) :
    (r.super = 0 → s.jobStart part = (s.jobReady part groups r none).startGoes part) ∧
    (∀ n, r.super ≠ 0 → s.vaNat part r.super 128 = some n →
      s.jobStart part = (s.jobReady part groups r (some (BitVec.ofNat 1024 n))).startGoes part) ∧
    (r.super ≠ 0 → s.vaNat part r.super 128 = none → s.jobStart part = (s.startCleared part groups).startFails part 2) := by
  have hinit : (s.mapPart part (·.cleared groups)).initList part r.init r.ninit = .ok [] := by rw [h]; rfl
  have hva : (s.mapPart part (·.cleared groups)).vaNat part r.super 128 = s.vaNat part r.super 128 :=
    (State.startCleared_reach s part groups).vaNat r.super 128
  unfold State.jobReady State.startCleared JobRec.ready
  refine ⟨fun hsuper => ?_, fun n hsuper hn => ?_, fun hsuper hn => ?_⟩
  · unfold State.jobStart
    simp only [if_neg (State.jobStart_free hfree), ne_eq, haligned, not_true_eq_false, if_false, hread, hrec, hgroups, hinit,
      List.foldl_nil, hsuper, if_true, Option.map_none]
  · unfold State.jobStart
    simp only [if_neg (State.jobStart_free hfree), ne_eq, haligned, not_true_eq_false, if_false, hread, hrec, hgroups, hinit,
      List.foldl_nil, hsuper, hva, hn, Option.map_some]
  · unfold State.jobStart
    simp only [if_neg (State.jobStart_free hfree), ne_eq, haligned, not_true_eq_false, if_false, hread, hrec, hgroups, hinit,
      List.foldl_nil, hsuper, hva, hn, Option.map_none]

end

end

section
variable {s : State} {part : Nat}

theorem State.initList_unread {va n : Nat} (h : ∀ es, s.vaItems part va 16 n ≠ some es) : s.initList part va n = .error 2 := by
  unfold State.initList
  rw [Option.eq_none_iff_forall_ne_some.2 h]

theorem State.initList_badRegister {va n : Nat} {es : List Nat} (hes : s.vaItems part va 16 n = some es)
    (h : ∃ e ∈ es, natBits e 63 12 ≠ 0 ∨ csrInit (natBits e 11 0) = false) : s.initList part va n = .error 1 := by
  obtain ⟨e, he, hbad⟩ := h
  have hall : ¬ (es.all fun e => natBits e 63 12 == 0 && csrInit (natBits e 11 0)) = true := by
    intro hgood
    obtain ⟨hzero, hreg⟩ := Bool.and_eq_true_iff.1 (List.all_eq_true.1 hgood e he)
    exact hbad.elim (· (beq_iff_eq.1 hzero)) fun hno => Bool.false_ne_true (hno.symm.trans hreg)
  unfold State.initList
  simp only [hes]
  exact if_neg hall

/-- A job that has begun to run, without a supervisor. -/
def Job.begun (j : Job) (id : Nat) : Job := { j with
  running := true, starting := false, err := 0, id := id, superLaunch := 0, ending := false
  completed := 0, killed := 0, faulted := 0, phase := none, toStart := [], preload := none, preloadSlots := [] }

def State.jobBegun (u : State) (part : Nat) : State :=
  (u.newId.2.mapDev fun d => { d with jobSeen := true }).mapJob part (·.begun (u.nextId + 1))

theorem State.jobBegun_getPart (u : State) (part : Nat) :
    (u.jobBegun part).getPart part = { u.getPart part with job := (u.getPart part).job.begun (u.nextId + 1) } :=
  State.mapJob_getPart ..

theorem State.jobBegun_rest (u : State) (part : Nat) : (u.jobBegun part).launches = u.launches ∧
    (u.jobBegun part).dev.jobSeen = true ∧ (u.jobBegun part).scratch = u.scratch := ⟨rfl, rfl, rfl⟩

theorem State.startGoes_noSuper {u : State} (h : (u.getPart part).job.superRec = none) :
    u.startGoes part = ((u.jobBegun part).startPhase part (((u.jobBegun part).getPart part).job.first)).phaseSettle part := by
  unfold State.startGoes
  simp only [h]
  rfl

end

/-- A cleared partition with a job of its own, whose status is 0. -/
theorem Partition.cleared_begun (p : Partition) (groups : Tab GroupEntry) (j : Job) (hj : j.status = 0) :
    let q : Partition := { p.cleared groups with job := j }
    q.pred = 0 ∧ q.predOld = 0 ∧ q.predLate = [] ∧ q.barred = [] ∧ q.counters = [] ∧ q.traps = [] ∧ q.trapWait = [] ∧ q.rseq = 0 ∧
      q.cseq = [] ∧ q.cgtab = groups ∧ q.collectives = [] ∧ q.tbufs = [] ∧ q.job.status = 0 :=
  ⟨rfl, rfl, rfl, rfl, rfl, rfl, rfl, rfl, rfl, rfl, rfl, rfl, hj⟩

/-! ## The events of the window, through a bound VF -/

section
variable {s : State} {vf part : Nat} {v : Word} (hvf : vf < 128) (hp : s.dev.vfPart vf = some part)
include hvf hp

theorem happens_trappop (hbit : v.getLsbD 0 = true) : Happens (.partTrappop vf v) s fun u => u = { s with parts := u.parts } ∧
    u.getPart part = { s.getPart part with traps := (s.getPart part).traps.drop 1, popAt := some s.cycle.toNat } := by
  obtain ⟨ts, hpop, hpart⟩ := State.popRecord_eq s part
  refine ⟨(s.popRecord part).2.mapPart part fun p => { p with popAt := some s.cycle.toNat },
    congrArg Host.Outcome.next ((if_pos hbit).trans (State.onVf_bound hvf hp _)), ?_, ?_⟩
  · unfold State.mapPart
    rw [hpop]
    rfl
  · unfold State.mapPart
    rw [State.getPart_setPart, hpart]

/-- A debug read answers with what `State.debugRead` gives, and leaves the other partitions and the scratchpad alone. -/
theorem happens_debug {n : Nat} {x : Word} (hn : (s.debugRead part (keepBits v 29 3)).1 = n)
    (hx : (s.debugRead part (keepBits v 29 3)).2.1 = x) : Happens (.partDbgAddrWrite vf v) s fun u =>
      u.getPart part = { s.getPart part with
        job := { (s.getPart part).job with dbgAddr := keepBits v 29 3, dbgData := x, dbgStat := n } } ∧
      (∀ k, k ≠ part → u.getPart k = s.getPart k) ∧ u.scratch = s.scratch := by
  have hrest := State.debugRead_rest s part (keepBits v 29 3)
  have hsame : ∀ k, (s.debugRead part (keepBits v 29 3)).2.2.getPart k = s.getPart k := fun k => by rw [hrest]; rfl
  have hscratch : (s.debugRead part (keepBits v 29 3)).2.2.scratch = s.scratch := by rw [hrest]
  have hexec : exec (.partDbgAddrWrite vf v) s = .next ((s.debugRead part (keepBits v 29 3)).2.2.mapJob part fun j => { j with
      dbgAddr := keepBits v 29 3, dbgData := (s.debugRead part (keepBits v 29 3)).2.1, dbgStat := (s.debugRead part (keepBits v 29 3)).1 }) :=
    congrArg Host.Outcome.next (State.onVf_bound hvf hp _)
  refine ⟨_, hexec, ?_, fun k hk => ?_, ?_⟩
  · rw [State.mapJob_getPart, hsame, hn, hx]
  · rw [State.mapJob_getPart_ne _ part _ hk, hsame]
  · exact hscratch

theorem exec_jobCancel_idle (h : v.getLsbD 1 = false ∨ (s.getPart part).job.running = false) :
    exec (.partJobCancel vf v) s = .next s := by
  refine congrArg Host.Outcome.next ?_
  rcases h with h | h
  · exact if_pos (by simp only [h, Bool.not_false])
  · rw [State.onVf_bound hvf hp]
    simp only [h, Bool.not_false, if_true, ite_self]

section
variable (hbit : v.getLsbD 1 = true) (hrun : (s.getPart part).job.running = true)
include hbit hrun

theorem exec_jobCancel_ckpt (hckpt : (s.getPart part).job.ckptRun = true) :
    exec (.partJobCancel vf v) s = .next (s.mapJob part fun j => { j with ckptCancel := true }) := by
  refine congrArg Host.Outcome.next ?_
  rw [State.onVf_bound hvf hp]
  simp only [hbit, hrun, hckpt, Bool.not_true, Bool.false_eq_true, if_false, if_true]

theorem exec_jobCancel_cancels (hckpt : (s.getPart part).job.ckptRun = false) :
    exec (.partJobCancel vf v) s = .next (s.cancelJob part).settle := by
  refine congrArg Host.Outcome.next ?_
  rw [State.onVf_bound hvf hp]
  simp only [hbit, hrun, hckpt, Bool.not_true, Bool.false_eq_true, if_false]

end

theorem exec_bar2Write (a : Nat) (bs : List Byte) :
    exec (.vfBar2Write vf a bs) s = .next (State.hostWrite part (bs.length / 64 + 2) a bs s) :=
  congrArg Host.Outcome.next (State.onVf_bound hvf hp _)

/-- A BAR2 write within one sector. -/
theorem exec_bar2Write_one {a : Nat} {bs : List Byte} (h : bs ≠ []) (hlen : a % 64 + bs.length ≤ 64) :
    exec (.vfBar2Write vf a bs) s = .next (s.hostPiece part a bs) := by
  rw [exec_bar2Write hvf hp, State.hostWrite_one part _ a h hlen]

theorem exec_jobStart (hstart : v.getLsbD 0 = true) : exec (.partJobStart vf v) s = .next (s.jobStart part) :=
  congrArg Host.Outcome.next ((if_pos hstart).trans (State.onVf_bound hvf hp _))

end

/-- A piece of a write binds no VF to another partition. -/
theorem State.hostPiece_dev (s : State) (part va : Nat) (bs : List Byte) : (s.hostPiece part va bs).dev = s.dev := by
  unfold State.hostPiece
  repeat' split
  · rfl
  · exact (State.devWriteSector_rest s _ bs).1
  · rfl

/-- A BAR2 write that crosses a sector is its first piece, then the rest (R451). -/
theorem exec_bar2Write_split {s : State} {vf part : Nat} (hvf : vf < 128) (hp : s.dev.vfPart vf = some part) {a : Nat} {bs : List Byte}
    (h : 64 < a % 64 + bs.length) :
    ∃ u, exec (.vfBar2Write vf a (bs.take (64 - a % 64))) s = .next u ∧
      exec (.vfBar2Write vf a bs) s = exec (.vfBar2Write vf (a + (64 - a % 64)) (bs.drop (64 - a % 64))) u := by
  have hbs : bs ≠ [] := by
    rintro rfl
    simp at h
    omega
  have htake : bs.take (64 - a % 64) ≠ [] := by
    intro e
    have := congrArg List.length e
    rw [List.length_take, List.length_nil] at this
    omega
  let u := s.hostPiece part a (bs.take (64 - a % 64))
  have hp' : u.dev.vfPart vf = some part := by rw [State.hostPiece_dev]; exact hp
  refine ⟨u, exec_bar2Write_one hvf hp htake (by rw [List.length_take]; omega), ?_⟩
  rw [exec_bar2Write hvf hp, exec_bar2Write hvf hp', State.hostWrite_succ part _ a hbs]
  exact congrArg Host.Outcome.next (State.hostWrite_fuel part u (by rw [List.length_drop]; omega) (by rw [List.length_drop]; omega))

/-- A running job is cancelled: it is ending, its launches are cancelled, and it ends when none is left (R43). -/
theorem State.cancelJob_running {s : State} {part : Nat} (hrun : (s.getPart part).job.running = true)
    (hending : (s.getPart part).job.ending = false) : s.cancelJob part =
      ((s.setPart part { s.getPart part with job := { (s.getPart part).job with ending := true } }).cancelList
        ((s.launches.filter fun e => e.2.part == part).map (·.1))).jobSettle part :=
  if_neg (by simp only [hrun, hending, Bool.not_true, Bool.or_self, Bool.false_eq_true, not_false_eq_true])

/-! ## The address of a debug read (R455) -/

section
variable (v : Word)

theorem debugAddr_page : natBits (keepBits v 29 3) 29 21 = natBits v.toNat 29 21 := by
  unfold keepBits natBits
  omega

theorem debugAddr_half : natBits (keepBits v 29 3) 20 20 = natBits v.toNat 20 20 := by
  unfold keepBits natBits
  omega

theorem debugAddr_off : keepBits v 29 3 % 2 ^ 20 = natBits v.toNat 19 3 * 8 := by
  unfold keepBits natBits
  omega

end

/-- Settles O54: the window from `State.onVf_bound` and one rule for each register, the start from the steps of
`State.jobStart`. -/
theorem partitionWindow : Obligations.PartitionWindow := by
  unfold Obligations.PartitionWindow
  refine ⟨fun s vf part v => ?_, fun s vf part v hvf hp hstart => ?_⟩
  · intro p j bits bound frame job reg
    refine ⟨fun _ => Device.vfPart_eq_some, fun h n a bs => ?_, fun h n => State.vfRead_unbound h n, ?_⟩
    · have hstay : ∀ g : Nat → State, s.onVf vf g = s := State.onVf_unbound h
      refine ⟨congrArg _ (hstay _), congrArg _ ((if_congr Iff.rfl (hstay _) rfl).trans (ite_self s)), congrArg _ (hstay _),
        congrArg _ ((if_congr Iff.rfl (hstay _) rfl).trans (ite_self s)),
        congrArg _ ((if_congr Iff.rfl rfl (hstay _)).trans (ite_self s)), congrArg _ (hstay _), congrArg _ (hstay _)⟩
    · rintro ⟨hvf, hp⟩
      have hjob : ∀ {e : Instr} {g : Job → Job}, exec e s = .next (s.mapJob part g) → job e (g j) := fun h =>
        ⟨_, h, ⟨rfl, fun k hk => State.mapJob_getPart_ne s part _ hk⟩, State.mapJob_getPart ..⟩
      have hreg : ∀ n, exec (reg n) s = .next (s.mapJob part fun j => j.plainWrite n v) := fun n =>
        congrArg Host.Outcome.next (State.onVf_bound hvf hp _)
      obtain ⟨hrec, hstatus, hstate⟩ := State.vfRead_bound hvf hp
      refine ⟨hrec, hstatus, hstate, fun n hn => ?_, fun a n => (State.bar2Read_last hp hvf a n).1,
        fun a n => (State.bar2Read_last hp hvf a n).2, ?_, ?_, ?_, fun n hn => ?_, fun hbit => ?_, happens_trappop hvf hp, ?_,
        exec_jobCancel_idle hvf hp, fun hbit hrun hckpt => hjob (exec_jobCancel_ckpt hvf hp hbit hrun hckpt),
        fun hbit hrun hckpt hending => ?_, fun a bs => ⟨?_, fun h hlen hdrop => ?_, fun pa hm h hlen ha htr => ?_, fun hlen => ?_⟩⟩
      · obtain ⟨hnone, hsome⟩ := State.vfRead_trap hvf hp hn
        split
        next h => exact hnone h
        next h => exact hsome _ _ h
      · have hval : keepBits v 55 0 = bits 55 0 := by simp [keepBits, natBits, bits]
        have := hjob (hreg 0x000)
        simpa only [Job.plainWrite, hval] using this
      · have hval : keepBits v 63 48 + keepBits v 41 0 = bits 63 48 * 2 ^ 48 + bits 41 0 := by simp [keepBits, natBits, bits]
        have := hjob (hreg 0x0C0)
        simpa only [Job.plainWrite, hval] using this
      · have hval : v.setWidth 32 = v.extractLsb' 0 32 := BitVec.setWidth_eq_extractLsb' (by decide)
        have := hjob (hreg 0x0D8)
        simpa only [Job.plainWrite, hval] using this
      · have := hjob (hreg n)
        simpa only [Job.plainWrite_other j v hn] using this
      · have hoff : ¬ v.getLsbD 0 = true := fun e => Bool.false_ne_true (hbit.symm.trans e)
        exact ⟨congrArg Host.Outcome.next (if_neg hoff), congrArg Host.Outcome.next (if_neg hoff)⟩
      · rintro lp e rfl rfl mt off off_ reads
        have hpage : natBits (keepBits v 29 3) 29 21 = bits 29 21 := debugAddr_page v
        have hmt : s.debugMt part (keepBits v 29 3) = mt := by
          unfold State.debugMt
          rw [debugAddr_page, debugAddr_half]
        have hoff : s.debugOff part (keepBits v 29 3) ↔ off_ := by
          unfold State.debugOff
          rw [debugAddr_page, debugAddr_half]
        have hreads : ∀ {st x}, (s.debugRead part (keepBits v 29 3)).1 = st ∧ (s.debugRead part (keepBits v 29 3)).2.1 = x → reads st x :=
          fun h => happens_debug hvf hp h.1 h.2
        obtain ⟨hbeyond, hgone, hlost, hread⟩ := State.debugRead_answer (s := s) (part := part) (a := keepBits v 29 3)
        rw [hpage] at hbeyond
        rw [hpage, hoff] at hgone
        rw [hpage, hoff, hmt, debugAddr_off] at hlost hread
        exact ⟨fun h => hreads (hbeyond h), fun h h' => hreads (hgone h h'), fun h h' hx => hreads (hlost h h' hx),
          fun h h' hx => hreads (hread h h' hx)⟩
      · let u := s.setPart part { p with job := { j with ending := true } }
        exact ⟨u, _, (exec_jobCancel_cancels hvf hp hbit hrun hckpt).trans (by rw [State.cancelJob_running hrun hending]),
          ⟨rfl, fun k hk => State.getPart_setPart_ne s part _ hk⟩, State.getPart_setPart .., rfl⟩
      · rintro rfl
        exact (exec_bar2Write hvf hp a []).trans (congrArg _ (State.hostWrite_nil ..))
      · exact (exec_bar2Write_one hvf hp h hlen).trans (congrArg _ (State.hostPiece_dropped hdrop bs))
      · obtain ⟨-, hscratch, hdevice, hparts, hranges, hloaded⟩ := State.devWriteSector_rest s pa bs
        refine ⟨_, (exec_bar2Write_one hvf hp h hlen).trans (congrArg _ (State.hostPiece_lands ha htr bs)), hscratch, hparts, hranges,
          hloaded, ?_⟩
        rw [hdevice]
        exact stored_writeBytes hm.device _ bs
      · exact exec_bar2Write_split hvf hp hlen
  · intro p j event job fails free aligned good begun
    have hexec : exec event s = .next (s.jobStart part) := exec_jobStart hvf hp hstart
    have hjob : ∀ {g : Job → Job}, s.jobStart part = s.mapJob part g → job (g j) := fun h =>
      ⟨_, hexec.trans (congrArg Host.Outcome.next h), rfl, State.mapJob_getPart .., fun k hk => State.mapJob_getPart_ne s part _ hk⟩
    have hbegun : ∀ groups (g : Job → Job), (g ((s.getPart part).cleared groups).job).status = 0 →
        begun groups ((s.startCleared part groups).mapJob part g) := by
      intro groups g hg
      have hpart : ((s.startCleared part groups).mapJob part g).getPart part =
          { (s.getPart part).cleared groups with job := g ((s.getPart part).cleared groups).job } := by
        rw [State.mapJob_getPart, State.startCleared_getPart]
      simp only [begun, hpart]
      exact Partition.cleared_begun p groups _ hg
    refine ⟨fun h => hjob (State.jobStart_busy h), fun h h' => hjob (State.jobStart_misaligned h h'),
      fun h h' hno => hjob (State.jobStart_unread h h' hno), fun v h h' hv hno => hjob (State.jobStart_badRecord h h' hv hno),
      fun v r h h' hv hr => ?_, ?_, ?_, ?_, ?_, ?_⟩
    · obtain ⟨hN, hfirst, hTab, hlt, hninit, hinit⟩ := jobRec_some hr
      exact ⟨hN, hfirst, hTab, hlt, hninit, hinit, fun e he => hjob (State.jobStart_badGroups h h' hv hr he)⟩
    · rintro r groups ⟨h, h', ⟨v, hv, hr⟩, hgroups⟩ hninit hsuper
      let u := s.jobReady part groups r none
      have hu := State.jobReady_getPart s part groups r none
      have hw := State.jobBegun_getPart u part
      rw [hu] at hw
      have hgoes := State.startGoes_noSuper (u := u) (part := part) (congrArg (fun p : Partition => p.job.superRec) hu)
      rw [hw] at hgoes
      refine ⟨u, u.jobBegun part, hexec.trans (congrArg Host.Outcome.next (((State.jobStart_noRegs h h' hv hr hgroups hninit).1
        hsuper).trans hgoes)), hbegun groups _ rfl, ?_,
        congrArg (fun p : Partition => p.job.starting) hu, ?_⟩
      · simp only [begun, hw]
        exact Partition.cleared_begun p groups _ rfl
      · obtain ⟨hlaunches, hseen, hscratch⟩ := State.jobBegun_rest u part
        rw [hw]
        exact ⟨rfl, rfl, rfl, rfl, rfl, rfl, rfl, rfl, rfl, rfl, hlaunches, hseen, hscratch⟩
    · rintro r groups n ⟨h, h', ⟨v, hv, hr⟩, hgroups⟩ hninit hsuper hn
      refine ⟨_, hexec.trans (congrArg Host.Outcome.next ((State.jobStart_noRegs h h' hv hr hgroups hninit).2.1 n hsuper hn)),
        hbegun groups _ rfl, ?_, ?_, rfl⟩ <;> rw [State.jobReady_getPart] <;> rfl
    · rintro r groups ⟨h, h', ⟨v, hv, hr⟩, hgroups⟩ hninit hsuper hn
      refine ⟨_, hexec.trans (congrArg Host.Outcome.next ((State.jobStart_noRegs h h' hv hr hgroups hninit).2.2 hsuper hn)), ?_, ?_, rfl⟩
      · exact congrArg (fun p : Partition => p.job.err) (State.mapJob_getPart ..)
      · refine (congrArg (fun p : Partition => p.job.running) (State.mapJob_getPart ..)).trans ?_
        rw [State.startCleared_getPart]
        exact h.1
    · rintro r groups ⟨h, h', ⟨v, hv, hr⟩, hgroups⟩ - hno
      have hunread : (s.startCleared part groups).initList part r.init r.ninit = .error 2 :=
        State.initList_unread fun es => by rw [(State.startCleared_reach s part groups).vaItems]; exact hno es
      exact ⟨_, hexec.trans (congrArg Host.Outcome.next (State.jobStart_badRegs h h' hv hr hgroups hunread)),
        congrArg (fun p : Partition => p.job.err) (State.mapJob_getPart ..), hbegun groups _ rfl⟩
    · rintro r groups es ⟨h, h', ⟨v, hv, hr⟩, hgroups⟩ hes hbad
      have hbadReg : (s.startCleared part groups).initList part r.init r.ninit = .error 1 :=
        State.initList_badRegister (by rw [(State.startCleared_reach s part groups).vaItems]; exact hes) hbad
      exact ⟨_, hexec.trans (congrArg Host.Outcome.next (State.jobStart_badRegs h h' hv hr hgroups hbadReg)),
        congrArg (fun p : Partition => p.job.err) (State.mapJob_getPart ..), hbegun groups _ rfl, rfl⟩

end Sys2Proof.Machine
end

section
/-!
SUPPORT of the work family (O48): what the settling of phases (R437) can have done, read backwards. Each evaluation notes its
cycle in its partition (EVALAT), and nothing takes that note away; every launch that a phase starts takes a new number. So where
no partition holds a note and no number has been given out, settling has left the launches alone.
-/

namespace Sys2Proof.Machine

/-! ## What notes an evaluation, and what leaves the notes alone -/

/-- The cycle of each partition's last phase evaluation. -/
def State.evals (s : State) : Nat → Option Nat := fun k => (s.getPart k).evalAt

theorem mem_of_tfind {α : Type} {t : Tab α} {k : Nat} {x : α} (h : tfind t k = some x) : (k, x) ∈ t := by
  induction t with
  | nil => cases h
  | cons e t ih =>
    unfold tfind at h
    split at h
    next hk =>
      obtain rfl := Option.some.inj h
      exact hk ▸ List.mem_cons_self
    next => exact List.mem_cons_of_mem _ (ih h)

section
variable (s : State)

/-- The notes are the partitions', whatever the other fields are. -/
theorem State.evals_of_parts {t : State} (h : t.parts = s.parts) : t.evals = s.evals := by
  unfold State.evals State.getPart
  rw [h]

theorem State.evals_none (h : ∀ e ∈ s.parts, e.2.evalAt = none) (k : Nat) : s.evals k = none := by
  unfold State.evals State.getPart
  rw [tget_eq_tfind]
  rcases hfind : tfind s.parts k with _ | p
  · rfl
  · exact h (k, p) (mem_of_tfind hfind)

theorem State.setPart_evals (k : Nat) (p : Partition) (h : p.evalAt = (s.getPart k).evalAt) : (s.setPart k p).evals = s.evals := by
  funext n
  by_cases hn : n = k
  · subst hn
    exact (congrArg Partition.evalAt (State.getPart_setPart ..)).trans h
  · exact congrArg Partition.evalAt (State.getPart_setPart_ne s k p hn)

theorem State.mapPart_evals (k : Nat) (f : Partition → Partition) (h : ∀ p, (f p).evalAt = p.evalAt) : (s.mapPart k f).evals = s.evals :=
  State.setPart_evals s k _ (h _)

theorem State.mapJob_evals (k : Nat) (f : Job → Job) : (s.mapJob k f).evals = s.evals := State.mapPart_evals s k _ (by intro p; rfl)

theorem State.foldl_evals {α : Type} (l : List α) (g : State → α → State) (h : ∀ s x, (g s x).evals = s.evals) :
    (l.foldl g s).evals = s.evals := by
  induction l generalizing s with
  | nil => rfl
  | cons x l ih => rw [List.foldl_cons, ih, h]

/-! ### The end of work (R31, R40, R43) -/

theorem State.mapLaunch_evals (k : Nat) (f : Launch → Launch) : (s.mapLaunch k f).evals = s.evals := by
  unfold State.mapLaunch
  split <;> rfl

theorem State.setTbuf_evals (part buf st : Nat) : (s.setTbuf part buf st).evals = s.evals :=
  (State.evals_of_parts _ rfl).trans
    (State.mapPart_evals s part (fun p => { p with tbufs := tput p.tbufs buf st }) fun _ => rfl)

theorem State.freeSlot_parts (p c : Nat) : (s.freeSlot p c).parts = s.parts := by
  have hfold : ∀ (g : State → Nat → State), (∀ s x, (g s x).parts = s.parts) → ∀ (l : List Nat) (t : State), (l.foldl g t).parts = t.parts :=
    fun g hg l => by
      induction l with
      | nil => exact fun _ => rfl
      | cons x l ih => exact fun t => (ih _).trans (hg t x)
  unfold State.freeSlot
  refine (hfold _ (fun t m => ?_) _ _).trans ((hfold _ (fun t n => ?_) _ _).trans rfl)
  · split <;> rfl
  · split <;> rfl

theorem State.freeLaunch_evals (id : Nat) : (s.freeLaunch id).evals = s.evals := by
  have hslots : (if (s.launchD id).resident then (s.places (s.launchD id)).foldl (fun s p => s.freeSlot p.2.1 p.2.2) s else s).evals =
      s.evals := by
    split
    · exact State.foldl_evals s _ _ fun s p => State.evals_of_parts s (s.freeSlot_parts p.2.1 p.2.2)
    · rfl
  unfold State.freeLaunch
  exact (State.mapPart_evals _ _ _ (by intro p; rfl)).trans ((State.evals_of_parts _ rfl).trans hslots)

theorem State.phaseChild_parts (ph : Nat) (o : Outcome) : (s.phaseChild ph o).parts = s.parts := by
  unfold State.phaseChild
  repeat' split
  all_goals rfl

theorem State.graphChild_parts (g : Nat) (o : Outcome) : (s.graphChild g o).parts = s.parts := by
  unfold State.graphChild
  split
  · rfl
  · dsimp only
    split
    · rfl
    · split
      · split
        · exact State.phaseChild_parts ..
        · rfl
      · rfl

theorem State.jobSettle_evals (part : Nat) : (s.jobSettle part).evals = s.evals := by
  unfold State.jobSettle
  dsimp only
  split
  · rfl
  · exact (State.evals_of_parts _ rfl).trans (State.setPart_evals s part _ rfl)

theorem State.retireOne_evals (id : Nat) (o : Outcome) : (s.retireOne id o).evals = s.evals := by
  unfold State.retireOne
  dsimp only
  split
  · rfl
  · refine (State.evals_of_parts _ (State.graphChild_parts ..)).trans ?_
    have hsuper : ∀ (c : Prop) [Decidable c] (t : State) (k : Nat) (f : Partition → Partition), (∀ p, (f p).evalAt = p.evalAt) →
        (if c then t else t.mapPart k f).evals = t.evals := fun c _ t k f h => by
      split
      · rfl
      · exact State.mapPart_evals t k f h
    refine (hsuper _ _ _ _ (by intro p; rfl)).trans ((State.mapLaunch_evals ..).trans ((State.freeLaunch_evals ..).trans ?_))
    refine State.foldl_evals s _ _ fun s e => ?_
    split
    · exact State.setTbuf_evals ..
    · exact State.setTbuf_evals ..
    · exact State.setTbuf_evals ..
    · rfl

theorem State.retireAll_evals (fuel : Nat) (l : List (Nat × Outcome)) : (State.retireAll fuel l s).evals = s.evals := by
  induction fuel generalizing l s with
  | zero => rfl
  | succ fuel ih =>
    cases l with
    | nil => rfl
    | cons e l =>
      unfold State.retireAll
      dsimp only
      split
      · exact ih _ _
      · refine (ih _ _).trans ((State.retireOne_evals ..).trans ?_)
        split
        · exact State.mapLaunch_evals ..
        · rfl

theorem State.retire_evals (id : Nat) (o : Outcome) : (s.retire id o).evals = s.evals :=
  (State.jobSettle_evals ..).trans (State.retireAll_evals ..)

theorem State.cancelLaunch_evals (id : Nat) : (s.cancelLaunch id).evals = s.evals := by
  have hstop : (s.startStop id .kill).evals = s.evals := State.evals_of_parts s (by unfold State.startStop; split <;> rfl)
  have hkill : (s.killAll id).evals = s.evals := by
    unfold State.killAll
    exact (State.retire_evals ..).trans rfl
  unfold State.cancelLaunch
  dsimp only
  split
  · exact State.retire_evals ..
  · exact hkill
  · exact hstop
  · exact hstop
  · rfl

theorem State.cancelJob_evals (part : Nat) : (s.cancelJob part).evals = s.evals := by
  unfold State.cancelJob
  dsimp only
  split
  · rfl
  · exact (State.jobSettle_evals ..).trans ((State.foldl_evals _ _ _ State.cancelLaunch_evals).trans (State.setPart_evals s part _ rfl))

theorem Told.evals {s t : State} {part : Nat} (h : Told s t part) : t.evals = s.evals := by
  funext k
  by_cases hk : k = part
  · subst hk
    obtain ⟨_, _, _, _, e⟩ := h.own
    exact (congrArg Partition.evalAt e).trans rfl
  · exact congrArg Partition.evalAt (h.others k hk)

theorem State.badPhase_evals (part n : Nat) : (s.badPhase part n).evals = s.evals :=
  (State.cancelJob_evals ..).trans (told_recordOrdinary s part _).evals

end

/-! ## What an admission leaves (R352) -/

section
variable (s : State) (part : Nat)

theorem State.nameImage_evals (addr : Nat) : (s.nameImage part addr).2.evals = s.evals := by
  unfold State.nameImage
  dsimp only
  split
  · split <;> exact State.setPart_evals s part _ rfl
  · split
    · rfl
    · exact State.setPart_evals s part _ rfl

/-- Naming the images of launches changes no launch, gives out no number and notes no evaluation. -/
theorem State.nameAll_rest (rs : List LaunchRec) (acc : List ImageBody) :
    let t := (State.nameAll part rs acc s).2
    t.launches = s.launches ∧ t.nextId = s.nextId ∧ t.evals = s.evals := by
  induction rs generalizing acc s with
  | nil => exact ⟨rfl, rfl, rfl⟩
  | cons r rs ih =>
    have hrest := State.nameImage_rest s part r.image
    have hevals := State.nameImage_evals s part r.image
    unfold State.nameAll
    rcases hname : s.nameImage part r.image with ⟨named, t⟩
    rw [hname] at hrest hevals
    have hl : t.launches = s.launches := by rw [show t = _ from hrest]
    have hn : t.nextId = s.nextId := by rw [show t = _ from hrest]
    cases named with
    | body b =>
      obtain ⟨hl', hn', he'⟩ := ih t (acc ++ [b])
      exact ⟨hl'.trans hl, hn'.trans hn, he'.trans hevals⟩
    | refused => exact ⟨hl, hn, hevals⟩
    | load => exact ⟨hl, hn, hevals⟩

theorem State.enqueue_evals (graph issuer : Nat) (super : Bool) (r : LaunchRec) :
    (s.enqueue part graph issuer super r).2.evals = s.evals := State.mapPart_evals _ _ _ (by intro p; rfl)

/-- What queues the launches of an admission, one after the other. -/
theorem State.foldl_enqueue (graph issuer : Nat) (super : Bool) (rs : List LaunchRec) (acc : List Nat × State) (h : acc.2.nextId ≠ 0) :
    let t := (rs.foldl (fun acc r => ((acc.1 ++ [(acc.2.enqueue part graph issuer super r).1], (acc.2.enqueue part graph issuer super r).2) :
      List Nat × State)) acc).2
    t.nextId ≠ 0 ∧ t.evals = acc.2.evals := by
  induction rs generalizing acc with
  | nil => exact ⟨h, rfl⟩
  | cons r rs ih =>
    obtain ⟨hn, he⟩ := ih (acc.1 ++ [(acc.2.enqueue part graph issuer super r).1], (acc.2.enqueue part graph issuer super r).2)
      (Nat.succ_ne_zero _)
    exact ⟨hn, he.trans (State.enqueue_evals ..)⟩

/-- An admission queues nothing, or gives out a number. -/
theorem State.admission_rest (issuer : Nat) (recs : List (Option LaunchRec)) (phase : Option Nat) (super : Bool) :
    let t := (s.admission part issuer recs phase super).2
    t.evals = s.evals ∧ (t.nextId ≠ 0 ∨ (t.nextId = s.nextId ∧ t.launches = s.launches)) := by
  unfold State.admission
  dsimp only
  split
  · exact ⟨rfl, .inr ⟨rfl, rfl⟩⟩
  · obtain ⟨hl, hn, he⟩ := State.nameAll_rest s part (recs.filterMap id) []
    rcases hall : State.nameAll part (recs.filterMap id) [] s with ⟨named, t⟩
    rw [hall] at hl hn he
    cases named with
    | load => exact ⟨he, .inr ⟨hn, hl⟩⟩
    | refused => exact ⟨he, .inr ⟨hn, hl⟩⟩
    | bodies bs =>
      dsimp only
      split
      · exact ⟨he, .inr ⟨hn, hl⟩⟩
      · by_cases hfull : (t.getPart part).queueFull ((recs.filterMap id).map fun r => if super then 0 else r.level) = true
        · rw [if_pos hfull]
          exact ⟨he, .inr ⟨hn, hl⟩⟩
        · rw [if_neg hfull]
          obtain ⟨hn', he'⟩ := State.foldl_enqueue part t.newId.1 issuer super (recs.filterMap id)
            ([], t.newId.2.setGraph t.newId.1 { part := part, counter := (recs.filterMap id).length, completed := 0, killed := 0, faulted := 0, phase := phase })
            (Nat.succ_ne_zero _)
          exact ⟨he'.trans he, .inl hn'⟩

end

/-! ## Settling, read backwards -/

/-- No partition holds the note of an evaluation, and no number has been given out. -/
def State.unmarked (s : State) : Prop := (∀ k, s.evals k = none) ∧ s.nextId = 0

/-- Where the later state is unmarked, so was the earlier one, and the launches are the same. -/
def Stays (s t : State) : Prop := t.unmarked → s.unmarked ∧ t.launches = s.launches

theorem Stays.trans {s t u : State} (h : Stays s t) (h' : Stays t u) : Stays s u := fun hu => by
  obtain ⟨ht, e'⟩ := h' hu
  obtain ⟨hs, e⟩ := h ht
  exact ⟨hs, e'.trans e⟩

theorem Stays.of_same {s t : State} (he : t.evals = s.evals) (hn : t.nextId = s.nextId) (hl : t.launches = s.launches) : Stays s t :=
  fun ht => ⟨⟨fun k => by rw [← he]; exact ht.1 k, hn.symm.trans ht.2⟩, hl⟩

theorem Stays.of_eval {s t : State} {k c : Nat} (h : t.evals k = some c) : Stays s t := fun ht => by
  have := ht.1 k
  rw [h] at this
  cases this

section
variable (s : State) (part : Nat)

theorem stays_phaseChild (ph : Nat) (o : Outcome) : Stays s (s.phaseChild ph o) := by
  refine .of_same (State.evals_of_parts s (State.phaseChild_parts ..)) ?_ ?_
  · unfold State.phaseChild
    repeat' split
    all_goals rfl
  · unfold State.phaseChild
    repeat' split
    all_goals rfl

theorem stays_mapJob (f : Job → Job) : Stays s (s.mapJob part f) := .of_same (State.mapJob_evals ..) rfl rfl

theorem stays_admission (issuer : Nat) (recs : List (Option LaunchRec)) (phase : Option Nat) (super : Bool) :
    Stays s (s.admission part issuer recs phase super).2 := by
  obtain ⟨he, hn | ⟨hn, hl⟩⟩ := State.admission_rest s part issuer recs phase super
  · exact fun ht => absurd ht.2 hn
  · exact .of_same he hn hl

/-- The graphs of a phase: what they note and what they queue. -/
theorem State.startGraphs_rest (ph fuel : Nat) : Stays s (State.startGraphs part ph fuel s) ∧ (State.startGraphs part ph fuel s).evals = s.evals := by
  induction fuel generalizing s with
  | zero => exact ⟨.of_same rfl rfl rfl, rfl⟩
  | succ fuel ih =>
    have hstep : ∀ t : State, Stays s t → t.evals = s.evals →
        Stays s (State.startGraphs part ph fuel t) ∧ (State.startGraphs part ph fuel t).evals = s.evals := fun t h he =>
      ⟨h.trans (ih t).1, (ih t).2.trans he⟩
    unfold State.startGraphs
    split
    · exact ⟨.of_same rfl rfl rfl, rfl⟩
    next t rest _ =>
      dsimp only
      have hdrop : ∀ u : State, Stays u ((u.mapJob part fun j => { j with toStart := rest }).phaseChild ph .killed) ∧
          ((u.mapJob part fun j => { j with toStart := rest }).phaseChild ph .killed).evals = u.evals := fun u =>
        ⟨(stays_mapJob u part _).trans (stays_phaseChild _ ph .killed),
          (State.evals_of_parts _ (State.phaseChild_parts ..)).trans (State.mapJob_evals ..)⟩
      have hadmit := stays_admission s part noIssuer (s.template part t.toNat) (some ph) false
      have hevals := (State.admission_rest s part noIssuer (s.template part t.toNat) (some ph) false).1
      rcases hres : s.admission part noIssuer (s.template part t.toNat) (some ph) false with ⟨answer, u⟩
      rw [hres] at hadmit hevals
      have hkilled := hstep _ (hdrop s).1 (hdrop s).2
      rcases tfind s.phases ph with _ | p
      · exact hkilled
      · dsimp only
        split
        · exact hkilled
        · cases answer with
          | wait => exact ⟨hadmit, hevals⟩
          | error e => exact hstep _ (hadmit.trans (hdrop u).1) ((hdrop u).2.trans hevals)
          | taken g ids => exact hstep _ (hadmit.trans (stays_mapJob u part _)) ((State.mapJob_evals ..).trans hevals)

theorem State.startPhase_evals (n : Nat) : (s.startPhase part n).evals = s.evals := by
  unfold State.startPhase
  split
  · exact State.badPhase_evals ..
  · exact (State.startGraphs_rest ..).2.trans ((State.mapJob_evals ..).trans rfl)

/-- An evaluation leaves its note. -/
theorem State.evaluate_evals (ph : Phase) : (s.evaluate part ph).evals part = some s.cycle.toNat := by
  have hnote : (s.mapPart part fun p => { p with evalAt := some s.cycle.toNat }).evals part = some s.cycle.toNat :=
    congrArg Partition.evalAt (State.getPart_setPart ..)
  rw [← hnote]
  refine congrFun (?_ : (s.evaluate part ph).evals = _) part
  unfold State.evaluate
  dsimp only
  split
  · exact State.badPhase_evals ..
  · split
    · exact (State.cancelJob_evals ..).trans (State.mapJob_evals ..)
    · exact (State.startPhase_evals ..).trans (State.mapJob_evals ..)

theorem stays_phaseSettle : Stays s (s.phaseSettle part) := by
  unfold State.phaseSettle
  split
  · exact .of_same rfl rfl rfl
  · dsimp only
    split
    · exact (State.startGraphs_rest ..).1
    · split
      · exact .of_eval (State.evaluate_evals ..)
      · exact (State.startGraphs_rest ..).1

theorem stays_settle : Stays s s.settle := by
  have hfold : ∀ (ks : List Nat) (t : State), Stays t (ks.foldl State.phaseSettle t) := fun ks => by
    induction ks with
    | nil => exact fun _ => .of_same rfl rfl rfl
    | cons k ks ih => exact fun t => (stays_phaseSettle t k).trans (ih _)
  exact hfold _ s

end

end Sys2Proof.Machine
end

section
/-!
PROOFS of the work family (O48): placement. The statement lets a launch whose ingress cannot be bound retire in every state; where
two entries of the table of launches have one number, and the job ends with that launch, the second entry is left queued.
-/

namespace Sys2Proof.Machine

/-- An image whose one channel leaves into the Convoy engine of a die that no group entry of the partition names. -/
def ungroupedImage : ImageBody := ⟨1, [], [], [⟨.ceOut 0 0 0, .convoyIn 0, 4, none, 0, false, 0⟩], [], []⟩

/-- A queued launch of this image. -/
def ungroupedLaunch : Launch := { (default : Launch) with image := 64, state := .queued, level := 1 }

/-- Partition 0 holds page 0, and its job ends; its one launch, number 2, waits at level 1. A second launch with number 2 is of
partition 1. -/
def twiceNumbered : State :=
  { State.reset with
    launches := [(2, ungroupedLaunch), (2, { ungroupedLaunch with part := 1 })]
    parts := [(0, { pages := [0], nl := 1, map := [(0, ⟨true, false, 0⟩)], regs := { panFree := 100000 }
                    job := { running := true, ending := true }, queues := [[], [2], [], []]
                    images := [(64, { body := some ungroupedImage, lastNamed := 0 })] })] }

/-- After the decision: the second entry stands alone. -/
def twiceNumbered.decided : State := (twiceNumbered.decidePlacement 0).settle

theorem twiceNumbered.decided_queued : (twiceNumbered.decided.launchD 2).state = .queued := by decide +kernel

/-- No phase has been evaluated, and nothing has been given a number. -/
theorem twiceNumbered.decided_unmarked : twiceNumbered.decided.unmarked := by
  have hparts : twiceNumbered.decided.parts.map (·.2.evalAt) = [none] := by decide +kernel
  refine ⟨State.evals_none _ fun e he => ?_, by decide +kernel⟩
  have hmem := List.mem_map_of_mem (f := fun e : Nat × Partition => e.2.evalAt) he
  rw [hparts] at hmem
  exact List.mem_singleton.1 hmem

/-- The decision chooses launch 2, for which there is a place but no entry of its ingress. -/
theorem twiceNumbered.refuses : twiceNumbered.fit 0 2 ungroupedImage [] = some ([0], [0]) ∧
    twiceNumbered.noIngress 0 ungroupedImage [0] = some 0 ∧ twiceNumbered.eligible 2 = true := by decide +kernel

/-- Refutes O48: on `twiceNumbered` the refused launch does not end RETIRED. Its job ends with it and takes its entry out of the
table, where a second entry of the same number stands, QUEUED; and settling cannot have brought that about from a state in which
the launch was RETIRED (`stays_settle`). -/
theorem not_placement : ¬ Obligations.Placement := by
  unfold Obligations.Placement
  intro h
  obtain ⟨hdecides, -⟩ := h
  obtain ⟨-, -, -, -, -, hrefused, -⟩ := hdecides twiceNumbered 0 1 2 [] [] ungroupedImage
  obtain ⟨hfit, hingress, heligible⟩ := twiceNumbered.refuses
  have hhigher : ∀ n, n < 1 → ∀ x ∈ (twiceNumbered.getPart 0).queues.getD n [], twiceNumbered.eligible x = false := fun n hn x hx => by
    obtain rfl : n = 0 := Nat.lt_one_iff.1 hn
    exact absurd hx List.not_mem_nil
  obtain ⟨u, hexec, hretired, -⟩ := hrefused 0 [0] [0] ⟨rfl, by decide, rfl, heligible, .inr ⟨fun _ _ _ => List.not_mem_nil,
    fun _ hx => absurd hx List.not_mem_nil⟩, hhigher, rfl, rfl⟩ hfit hingress rfl
  have hu : twiceNumbered.decided = u.settle := Host.Outcome.next.inj hexec
  have hstays := stays_settle u
  rw [← hu] at hstays
  obtain ⟨-, hlaunches⟩ := hstays twiceNumbered.decided_unmarked
  have hqueued := twiceNumbered.decided_queued
  have hsame : twiceNumbered.decided.launchD 2 = u.launchD 2 := by
    unfold State.launchD
    rw [hlaunches]
  rw [hsame, hretired] at hqueued
  cases hqueued

end Sys2Proof.Machine
end

section
/-!
PROOFS of the numbers family: the binade of an exact value, and the split of a value into units of a place (R57).
-/

namespace Sys2Proof.Machine

/-! ## Binades -/

/-- The binade of a positive value, from its bounds. -/
theorem log_eq_of_bounds {v : ℝ} {e : ℤ} (hlo : (2 : ℝ) ^ e ≤ v) (hhi : v < (2 : ℝ) ^ (e + 1)) : Int.log 2 v = e := by
  have hv : 0 < v := lt_of_lt_of_le (by positivity) hlo
  have h1 : e ≤ Int.log 2 v := (Int.zpow_le_iff_le_log one_lt_two hv).1 (by exact_mod_cast hlo)
  have h2 : Int.log 2 v < e + 1 := (Int.lt_zpow_iff_log_lt one_lt_two hv).1 (by exact_mod_cast hhi)
  omega

theorem zpow_log_le {v : ℝ} (hv : 0 < v) : (2 : ℝ) ^ Int.log 2 v ≤ v := by
  exact_mod_cast Int.zpow_log_le_self (R := ℝ) one_lt_two hv

theorem lt_zpow_log (v : ℝ) : v < (2 : ℝ) ^ (Int.log 2 v + 1) := by
  exact_mod_cast Int.lt_zpow_succ_log_self (R := ℝ) one_lt_two v

/-- A power of two of natural exponent. -/
theorem zpow_toNat {n : ℤ} (h : 0 ≤ n) : (2 : ℝ) ^ n.toNat = (2 : ℝ) ^ n := by
  rw [← zpow_natCast, Int.toNat_of_nonneg h]

theorem two_zpow_le {a b : ℤ} : (2 : ℝ) ^ a ≤ (2 : ℝ) ^ b ↔ a ≤ b := zpow_le_zpow_iff_right₀ one_lt_two

theorem two_zpow_lt {a b : ℤ} : (2 : ℝ) ^ a < (2 : ℝ) ^ b ↔ a < b := zpow_lt_zpow_iff_right₀ one_lt_two

theorem natCast_log2_bounds {n : ℕ} (h : 0 < n) : (2 : ℝ) ^ (Nat.log2 n : ℤ) ≤ n ∧ (n : ℝ) < (2 : ℝ) ^ ((Nat.log2 n : ℤ) + 1) := by
  have h1 : 2 ^ Nat.log2 n ≤ n := Nat.log2_self_le h.ne'
  have h2 : n < 2 ^ (Nat.log2 n + 1) := Nat.lt_log2_self
  constructor
  · rw [zpow_natCast]; exact_mod_cast h1
  · rw [← Nat.cast_succ, zpow_natCast]; exact_mod_cast h2

/-- The comparison that `ilog2` makes. -/
theorem ilog2_below_iff {num den : ℕ} (hd : 0 < den) (l : ℤ) :
    (if 0 ≤ l then decide (num < den * 2 ^ l.toNat) else decide (num * 2 ^ (-l).toNat < den)) = true ↔
      (num : ℝ) / den < (2 : ℝ) ^ l := by
  have hd' : (0 : ℝ) < den := by exact_mod_cast hd
  rw [div_lt_iff₀ hd']
  split
  · next h =>
    rw [decide_eq_true_eq, ← zpow_toNat h, mul_comm]
    exact_mod_cast Iff.rfl
  · next h =>
    have h' : (2 : ℝ) ^ l * (2 : ℝ) ^ (-l).toNat = 1 := by
      rw [zpow_toNat (by omega), ← zpow_add₀ two_ne_zero]; simp
    have hp : (0 : ℝ) < (2 : ℝ) ^ (-l).toNat := by positivity
    rw [decide_eq_true_eq, ← mul_lt_mul_iff_left₀ hp, mul_right_comm, h', one_mul]
    exact_mod_cast Iff.rfl

/-- `ilog2` is the binade of the exact value. -/
theorem ilog2_eq {num den : ℕ} (hn : 0 < num) (hd : 0 < den) (ex : ℤ) :
    ilog2 num den ex = Int.log 2 ((num : ℝ) / den * (2 : ℝ) ^ ex) := by
  have hd' : (0 : ℝ) < den := by exact_mod_cast hd
  obtain ⟨hn1, hn2⟩ := natCast_log2_bounds hn
  obtain ⟨hd1, hd2⟩ := natCast_log2_bounds hd
  have key : ∀ e : ℤ, (2 : ℝ) ^ e ≤ (num : ℝ) / den → (num : ℝ) / den < (2 : ℝ) ^ (e + 1) →
      e + ex = Int.log 2 ((num : ℝ) / den * (2 : ℝ) ^ ex) := fun e h1 h2 => by
    refine (log_eq_of_bounds ?_ ?_).symm
    · rw [zpow_add₀ two_ne_zero]; gcongr
    · rw [show e + ex + 1 = (e + 1) + ex by ring, zpow_add₀ two_ne_zero]; gcongr
  set l : ℤ := (Nat.log2 num : ℤ) - (Nat.log2 den : ℤ) with hl
  have hlow : (2 : ℝ) ^ (l - 1) ≤ (num : ℝ) / den := by
    rw [le_div_iff₀ hd']
    calc (2 : ℝ) ^ (l - 1) * den ≤ (2 : ℝ) ^ (l - 1) * (2 : ℝ) ^ ((Nat.log2 den : ℤ) + 1) := by gcongr
      _ = (2 : ℝ) ^ (Nat.log2 num : ℤ) := by rw [← zpow_add₀ two_ne_zero]; congr 1; omega
      _ ≤ num := hn1
  have hhigh : (num : ℝ) / den < (2 : ℝ) ^ (l + 1) := by
    rw [div_lt_iff₀ hd']
    calc (num : ℝ) < (2 : ℝ) ^ ((Nat.log2 num : ℤ) + 1) := hn2
      _ = (2 : ℝ) ^ (l + 1) * (2 : ℝ) ^ (Nat.log2 den : ℤ) := by rw [← zpow_add₀ two_ne_zero]; congr 1; omega
      _ ≤ (2 : ℝ) ^ (l + 1) * den := by gcongr
  have hb := ilog2_below_iff (num := num) hd l
  unfold ilog2
  simp only [← hl]
  generalize (if 0 ≤ l then decide (num < den * 2 ^ l.toNat) else decide (num * 2 ^ (-l).toNat < den)) = below at hb ⊢
  cases below with
  | true => exact key (l - 1) hlow (by rw [sub_add_cancel]; exact hb.1 rfl)
  | false => exact key l (not_lt.1 fun hc => Bool.noConfusion (hb.2 hc)) hhigh

/-! ## Rounding at a place -/

/-- Whether a magnitude of `k` units and `r / d` of one goes up (R57). -/
def goesUp (md : ℕ) (neg : Bool) (k r d : ℕ) : Bool :=
  match md with
  | 0 => decide (d < 2 * r) || (decide (2 * r = d) && k % 2 == 1)
  | 1 => false
  | 2 => neg && r != 0
  | _ => !neg && r != 0

/-- `roundAt` splits the exact value into units of the place and a rest. -/
theorem roundAt_split (md : ℕ) (neg : Bool) (num : ℕ) {den : ℕ} (hd : 0 < den) (ex q : ℤ) :
    ∃ k r d : ℕ, r < d ∧ (num : ℝ) / den * (2 : ℝ) ^ ex = (k + (r : ℝ) / d) * (2 : ℝ) ^ q ∧
      roundAt md neg num den ex q = (if goesUp md neg k r d then k + 1 else k, r != 0) := by
  have split_of : ∀ n d : ℕ, 0 < d → (num : ℝ) / den * (2 : ℝ) ^ (ex - q) = (n : ℝ) / d →
      (num : ℝ) / den * (2 : ℝ) ^ ex = ((n / d : ℕ) + ((n % d : ℕ) : ℝ) / d) * (2 : ℝ) ^ q := fun n d hd h => by
    have hd' : (d : ℝ) ≠ 0 := by exact_mod_cast hd.ne'
    have hn : ((n / d : ℕ) : ℝ) * d + ((n % d : ℕ) : ℝ) = n := by exact_mod_cast (by rw [mul_comm]; exact Nat.div_add_mod n d)
    have hq : (n / d : ℕ) + ((n % d : ℕ) : ℝ) / d = (n : ℝ) / d := by rw [← hn]; field_simp
    rw [hq, ← h, mul_assoc, ← zpow_add₀ two_ne_zero, sub_add_cancel]
  by_cases hs : 0 ≤ ex - q
  · refine ⟨num * 2 ^ (ex - q).toNat / den, num * 2 ^ (ex - q).toNat % den, den, Nat.mod_lt _ hd, ?_, ?_⟩
    · refine split_of _ _ hd ?_
      rw [← zpow_toNat hs]; push_cast; ring
    · simp only [roundAt, hs, if_true]; rfl
  · refine ⟨num / (den * 2 ^ (-(ex - q)).toNat), num % (den * 2 ^ (-(ex - q)).toNat), den * 2 ^ (-(ex - q)).toNat,
      Nat.mod_lt _ (by positivity), ?_, ?_⟩
    · refine split_of _ _ (by positivity) ?_
      rw [show ex - q = -(-(ex - q)) by ring, zpow_neg, ← zpow_toNat (n := -(ex - q)) (by omega)]
      push_cast
      rw [neg_neg, div_mul_eq_div_div, div_eq_mul_inv (_ / _)]
    · simp only [roundAt, hs, if_false]; rfl

end Sys2Proof.Machine
end

section
/-!
PROOFS of the numbers family: the magnitude that each rounding mode chooses (R57).
-/

namespace Sys2Proof.Machine

/-- The magnitude that rounding chooses: the units below the value, or one more. -/
def chosen (md : ℕ) (neg : Bool) (k r d : ℕ) : ℕ := if goesUp md neg k r d then k + 1 else k

/-- A value that is a whole number of units does not go up. -/
theorem chosen_exact (md : ℕ) (neg : Bool) (k : ℕ) {d : ℕ} (hd : 0 < d) : chosen md neg k 0 d = k := by
  match md with
  | 0 => simp [chosen, goesUp, hd.ne]
  | 1 => simp [chosen, goesUp]
  | 2 => simp [chosen, goesUp]
  | n + 3 => simp [chosen, goesUp]

section
variable (neg : Bool) (k : ℕ) {r d : ℕ} (h : r < d)
include h

theorem rest_bounds : 0 ≤ (r : ℝ) / d ∧ (r : ℝ) / d < 1 := by
  have hd : (0 : ℝ) < d := by exact_mod_cast Nat.zero_lt_of_lt h
  exact ⟨by positivity, by rw [div_lt_one hd]; exact_mod_cast h⟩

/-- The chosen magnitude is less than a unit from the value. -/
theorem abs_chosen_sub_lt (md : ℕ) : |(k + (r : ℝ) / d) - chosen md neg k r d| < 1 := by
  obtain ⟨h0, h1⟩ := rest_bounds h
  rcases Nat.eq_zero_or_pos r with rfl | hr
  · rw [chosen_exact md neg k h]; simp
  · have hp : 0 < (r : ℝ) / d := div_pos (by exact_mod_cast hr) (by exact_mod_cast Nat.zero_lt_of_lt h)
    unfold chosen
    split
    · push_cast; rw [abs_lt]; constructor <;> linarith
    · rw [abs_lt]; constructor <;> linarith

/-- Mode 0: no magnitude is nearer, and a tie goes to the even one. -/
theorem chosen_nearest : |(k + (r : ℝ) / d) - chosen 0 neg k r d| ≤ 1 / 2 ∧
    (|(k + (r : ℝ) / d) - chosen 0 neg k r d| = 1 / 2 → Even (chosen 0 neg k r d)) := by
  have hd : (0 : ℝ) < d := by exact_mod_cast Nat.zero_lt_of_lt h
  obtain ⟨h0, h1⟩ := rest_bounds h
  have half_lt : d < 2 * r ↔ 1 / 2 < (r : ℝ) / d := by
    rw [lt_div_iff₀ hd, ← Nat.cast_lt (α := ℝ)]; push_cast; constructor <;> intro _ <;> linarith
  have half_eq : 2 * r = d ↔ (r : ℝ) / d = 1 / 2 := by
    rw [div_eq_iff hd.ne', ← Nat.cast_inj (R := ℝ)]; push_cast; constructor <;> intro _ <;> linarith
  have up : goesUp 0 neg k r d = true ↔ 1 / 2 < (r : ℝ) / d ∨ ((r : ℝ) / d = 1 / 2 ∧ k % 2 = 1) := by
    simp [goesUp, half_lt, half_eq]
  by_cases hup : goesUp 0 neg k r d = true
  · have hge : 1 / 2 ≤ (r : ℝ) / d := by rcases up.1 hup with hl | hl <;> linarith
    have hab : |(k + (r : ℝ) / d) - chosen 0 neg k r d| = 1 - (r : ℝ) / d := by
      rw [chosen, if_pos hup]; push_cast; rw [abs_of_neg] <;> linarith
    rw [hab, chosen, if_pos hup]
    refine ⟨by linarith, fun htie => ?_⟩
    obtain hl | ⟨-, hodd⟩ := up.1 hup
    · exact absurd hl (by linarith)
    · exact (Nat.odd_iff.2 hodd).add_one
  · have hle : (r : ℝ) / d ≤ 1 / 2 := not_lt.1 fun hl => hup (up.2 (.inl hl))
    have hab : |(k + (r : ℝ) / d) - chosen 0 neg k r d| = (r : ℝ) / d := by
      rw [chosen, if_neg hup, add_sub_cancel_left, abs_of_nonneg h0]
    rw [hab, chosen, if_neg hup]
    exact ⟨hle, fun htie => Nat.not_odd_iff_even.1 fun ho => hup (up.2 (.inr ⟨htie, Nat.odd_iff.1 ho⟩))⟩

/-- A directed mode that goes away from zero for this sign: the magnitude is not below the value. -/
theorem le_chosen {md : ℕ} (hup : goesUp md neg k r d = (r != 0)) : k + (r : ℝ) / d ≤ chosen md neg k r d := by
  obtain ⟨-, h1⟩ := rest_bounds h
  unfold chosen
  rw [hup]
  split
  · push_cast; linarith
  · next hr => simp [show r = 0 by simpa using hr]

/-- A directed mode that goes toward zero for this sign: the magnitude is not above the value. -/
theorem chosen_le {md : ℕ} (hup : goesUp md neg k r d = false) : (chosen md neg k r d : ℝ) ≤ k + (r : ℝ) / d := by
  obtain ⟨h0, -⟩ := rest_bounds h
  simp [chosen, hup, h0]

/-- The magnitude chosen, in units of a place, is the value rounded to that place (R57). -/
theorem roundsTo_chosen (md : ℕ) (q : ℤ) :
    RoundsTo md q ((if neg then -1 else 1) * ((k + (r : ℝ) / d) * (2 : ℝ) ^ q))
      ((if neg then -1 else 1) * (chosen md neg k r d : ℚ) * (2 : ℚ) ^ q) := by
  have hu : (0 : ℝ) < (2 : ℝ) ^ q := by positivity
  obtain ⟨h0, -⟩ := rest_bounds h
  have near := mul_lt_of_lt_one_left hu (abs_chosen_sub_lt neg k h md)
  have dist : |(if neg then -1 else 1) * ((k + (r : ℝ) / d) * (2 : ℝ) ^ q) -
      (((if neg then -1 else 1) * (chosen md neg k r d : ℚ) * (2 : ℚ) ^ q : ℚ) : ℝ)| =
      |(k + (r : ℝ) / d) - chosen md neg k r d| * (2 : ℝ) ^ q := by
    rw [← abs_of_pos hu, ← abs_mul, abs_of_pos hu]
    cases neg
    · simp [sub_mul]
    · simp only [if_true]; push_cast; rw [← abs_neg]; congr 1; ring
  refine ⟨⟨(if neg then -1 else 1) * (chosen md neg k r d : ℤ), by cases neg <;> simp⟩, ?_⟩
  match md with
  | 0 =>
    obtain ⟨hhalf, htie⟩ := chosen_nearest neg k h
    simp only [dist]
    refine ⟨by nlinarith, fun e => ?_⟩
    have hab : |(k + (r : ℝ) / d) - chosen 0 neg k r d| = 1 / 2 := by
      rw [← mul_left_inj' hu.ne', e]; ring
    obtain ⟨n, hn⟩ := htie hab
    refine ⟨(if neg then -1 else 1) * (n : ℤ), ?_⟩
    rw [hn]; push_cast; ring
  | 1 =>
    have hle := chosen_le neg k h (md := 1) rfl
    simp only [dist]
    refine ⟨?_, ?_, near⟩
    · cases neg <;> simp [abs_mul, abs_of_nonneg, h0, add_nonneg] <;> gcongr
    · cases neg <;> simp <;> positivity
  | 2 =>
    refine ⟨?_, (abs_lt.1 (dist ▸ near)).2⟩
    cases neg with
    | false => have := chosen_le false k h (md := 2) rfl; simp; gcongr
    | true => have := le_chosen true k h (md := 2) rfl; simp; gcongr
  | n + 3 =>
    rw [abs_sub_comm] at dist
    refine ⟨?_, (abs_lt.1 (dist ▸ near)).2⟩
    cases neg with
    | false => have := le_chosen false k h (md := n + 3) rfl; simp; gcongr
    | true => have := chosen_le true k h (md := n + 3) rfl; simp; gcongr

end

end Sys2Proof.Machine
end

section
/-!
PROOFS of the numbers family: rounding at a place, and the patterns of a format with their values in units of the smallest
subnormal (R53, R54). Greater magnitude patterns have greater values, so a pattern is finite exactly up to the pattern of the
largest finite value.
-/

namespace Sys2Proof.Machine

/-- `roundAt` is the exact value rounded to its place, less than a unit away, and says whether it differs. -/
theorem roundAt_spec (md : ℕ) (neg : Bool) (num : ℕ) {den : ℕ} (hd : 0 < den) (ex q : ℤ) :
    RoundsTo md q ((if neg then -1 else 1) * ((num : ℝ) / den * (2 : ℝ) ^ ex))
      ((if neg then -1 else 1) * ((roundAt md neg num den ex q).1 : ℚ) * (2 : ℚ) ^ q) ∧
    |(num : ℝ) / den * (2 : ℝ) ^ ex / (2 : ℝ) ^ q - (roundAt md neg num den ex q).1| < 1 ∧
    ((roundAt md neg num den ex q).2 = true ↔ ((roundAt md neg num den ex q).1 : ℝ) * (2 : ℝ) ^ q ≠ (num : ℝ) / den * (2 : ℝ) ^ ex) := by
  obtain ⟨k, r, d, hr, hv, he⟩ := roundAt_split md neg num hd ex q
  have hu : (2 : ℝ) ^ q ≠ 0 := by positivity
  rw [he, hv, mul_div_cancel_right₀ _ hu, Ne, mul_left_inj' hu]
  refine ⟨roundsTo_chosen neg k hr md q, abs_chosen_sub_lt neg k hr md, ?_⟩
  show (r != 0) = true ↔ ¬ (chosen md neg k r d : ℝ) = _
  rw [bne_iff_ne, not_iff_not]
  constructor
  · rintro rfl
    rw [chosen_exact md neg k hr]; simp
  · intro e
    obtain ⟨h0, h1⟩ := rest_bounds hr
    have hd' : (d : ℝ) ≠ 0 := by exact_mod_cast (Nat.zero_lt_of_lt hr).ne'
    have hz : (r : ℝ) / d = ((chosen md neg k r d - k : ℤ) : ℝ) := by push_cast; linarith
    have hz0 : (chosen md neg k r d - k : ℤ) = 0 := by
      rw [hz] at h0 h1
      have h0' : (0 : ℤ) ≤ (chosen md neg k r d - k : ℤ) := by exact_mod_cast h0
      have h1' : (chosen md neg k r d - k : ℤ) < 1 := by exact_mod_cast h1
      omega
    rw [hz0, Int.cast_zero, div_eq_zero_iff, or_iff_left hd'] at hz
    exact_mod_cast hz

section
variable {md : ℕ} {neg : Bool} {num den : ℕ} (hd : 0 < den) {ex q : ℤ} {n : ℕ}
include hd

/-- Rounding stays below a whole number of units that the value does not pass. -/
theorem roundAt_le (h : (num : ℝ) / den * (2 : ℝ) ^ ex ≤ n * (2 : ℝ) ^ q) : (roundAt md neg num den ex q).1 ≤ n := by
  obtain ⟨-, hb, -⟩ := roundAt_spec md neg num hd ex q
  have h' : (num : ℝ) / den * (2 : ℝ) ^ ex / (2 : ℝ) ^ q ≤ n := by rwa [div_le_iff₀ (by positivity)]
  have : ((roundAt md neg num den ex q).1 : ℝ) < n + 1 := by linarith [(abs_lt.1 hb).1]
  exact Nat.lt_succ_iff.1 (by exact_mod_cast this)

/-- Rounding stays above a whole number of units that the value reaches. -/
theorem le_roundAt (h : n * (2 : ℝ) ^ q ≤ (num : ℝ) / den * (2 : ℝ) ^ ex) : n ≤ (roundAt md neg num den ex q).1 := by
  obtain ⟨-, hb, -⟩ := roundAt_spec md neg num hd ex q
  have h' : (n : ℝ) ≤ (num : ℝ) / den * (2 : ℝ) ^ ex / (2 : ℝ) ^ q := by rwa [le_div_iff₀ (by positivity)]
  have : (n : ℝ) < (roundAt md neg num den ex q).1 + 1 := by linarith [(abs_lt.1 hb).2]
  exact Nat.lt_succ_iff.1 (by exact_mod_cast this)

end

/-! ## Patterns and their values (R53, R54) -/

/-- The value of a magnitude pattern, in units of the smallest subnormal. -/
def ulps (t : Ty) (m : ℕ) : ℕ :=
  if m < 2 ^ fMan t then m else (2 ^ fMan t + m % 2 ^ fMan t) * 2 ^ (m / 2 ^ fMan t - 1)

/-- The pattern of the largest finite magnitude. -/
def topMag (t : Ty) : ℕ := if t = .e4m3 then 0x7E else (2 ^ fExp t - 1) * 2 ^ fMan t - 1

/-- Significand and exponent of a magnitude pattern. -/
def magSig (t : Ty) (m : ℕ) : ℕ := if m < 2 ^ fMan t then m else 2 ^ fMan t + m % 2 ^ fMan t
def magExp (t : Ty) (m : ℕ) : ℤ := if m < 2 ^ fMan t then fEmin t - fMan t else (m / 2 ^ fMan t : ℕ) - fBias t - fMan t

theorem maxBits_eq (t : Ty) (neg : Bool) : maxBits t neg = signBit t neg + topMag t := rfl

/-- The value of a subnormal pattern. -/
theorem ulps_of_lt {t : Ty} {m : ℕ} (h : m < 2 ^ fMan t) : ulps t m = m := if_pos h

/-- The value of a normal pattern, by its exponent and fraction fields; a fraction may just reach the next exponent. -/
theorem ulps_mul_add (t : Ty) {E f : ℕ} (hE : 1 ≤ E) (hf : f ≤ 2 ^ fMan t) :
    ulps t (2 ^ fMan t * E + f) = (2 ^ fMan t + f) * 2 ^ (E - 1) := by
  have hpos : 0 < 2 ^ fMan t := Nat.two_pow_pos _
  have hge : ∀ n, ¬ 2 ^ fMan t * E + n < 2 ^ fMan t := fun n => by nlinarith
  rcases hf.lt_or_eq with hlt | rfl
  · rw [ulps, if_neg (hge f), Nat.mul_add_mod, Nat.mod_eq_of_lt hlt, Nat.mul_add_div hpos, Nat.div_eq_of_lt hlt, add_zero]
  · rw [ulps, if_neg (hge _), ← Nat.mul_succ, Nat.mul_mod_right, Nat.mul_div_cancel_left _ hpos, Nat.succ_sub_one, add_zero,
      ← two_mul, mul_comm 2, mul_assoc, ← pow_succ', Nat.sub_add_cancel hE]

/-- Greater patterns have greater values. -/
theorem ulps_strictMono (t : Ty) : StrictMono (ulps t) := by
  refine strictMono_nat_of_lt_succ fun m => ?_
  have hpos : 0 < 2 ^ fMan t := Nat.two_pow_pos _
  have hdm := Nat.div_add_mod m (2 ^ fMan t)
  have hlt := Nat.mod_lt m hpos
  rcases Nat.eq_zero_or_pos (m / 2 ^ fMan t) with hE | hE
  · rw [hE, mul_zero, zero_add] at hdm
    rw [ulps_of_lt (hdm ▸ hlt)]
    by_cases h : m + 1 < 2 ^ fMan t
    · rw [ulps_of_lt h]; omega
    · have := ulps_mul_add t (E := 1) (f := 0) le_rfl (Nat.zero_le _)
      rw [show m + 1 = 2 ^ fMan t * 1 + 0 by omega, this]; omega
  · rw [← hdm, add_assoc, ulps_mul_add t hE hlt.le, ulps_mul_add t hE hlt]
    exact Nat.mul_lt_mul_of_pos_right (by omega) (Nat.two_pow_pos _)

section
variable {t : Ty} (ht : t.isFloat = true)
include ht

theorem topMag_lt : topMag t < 2 ^ (t.width - 1) := by
  cases t <;> simp_all [Ty.isFloat, topMag, fExp, fMan, Ty.width]

/-- The magnitudes past the largest finite one: an exponent field of ones, or the one NaN of e4m3. -/
theorem topMag_lt_iff {m : ℕ} (hm : m < 2 ^ (t.width - 1)) : topMag t < m ↔
    (m / 2 ^ fMan t = 2 ^ fExp t - 1 ∧ t ≠ .e4m3) ∨ (t = .e4m3 ∧ m / 2 ^ fMan t = 15 ∧ m % 2 ^ fMan t = 7) := by
  cases t <;> simp [Ty.isFloat] at ht <;> simp [topMag, fExp, fMan, Ty.width] at hm ⊢ <;> omega

theorem eq_topMag_succ_iff {m : ℕ} (h4 : t ≠ .e4m3) (hm : m / 2 ^ fMan t = 2 ^ fExp t - 1) :
    m = topMag t + 1 ↔ m % 2 ^ fMan t = 0 := by
  cases t <;> simp [Ty.isFloat] at ht h4 <;> simp [topMag, fExp, fMan] at hm ⊢ <;> omega

/-- The fields of a pattern with a sign and a magnitude. -/
theorem fields_of_parts {m : ℕ} (hm : m < 2 ^ (t.width - 1)) (neg : Bool) :
    natBits (signBit t neg + m) (t.width - 2) (fMan t) = m / 2 ^ fMan t ∧ (signBit t neg + m) % 2 ^ fMan t = m % 2 ^ fMan t ∧
      bitN (signBit t neg + m) (t.width - 1) = neg := by
  cases t <;> simp [Ty.isFloat] at ht <;> cases neg <;>
    simp [natBits, signBit, fMan, Ty.width, bitN] at hm ⊢ <;> omega

/-- What a pattern with a sign and a magnitude decodes to. -/
theorem fDecode_parts {m : ℕ} (hm : m < 2 ^ (t.width - 1)) (neg : Bool) : fDecode t (signBit t neg + m) =
    if m ≤ topMag t then .fin neg (magSig t m) (magExp t m)
    else if t ≠ .e4m3 ∧ m = topMag t + 1 then .inf neg
    else .nan (decide (t ≠ .e4m3) && !bitN (m % 2 ^ fMan t) (fMan t - 1)) := by
  obtain ⟨he, hf, hn⟩ := fields_of_parts ht hm neg
  have htop := topMag_lt_iff ht hm
  simp only [fDecode, he, hf, hn]
  by_cases h : m ≤ topMag t
  · have h' := mt htop.2 (not_lt.2 h)
    rw [not_or] at h'
    rw [if_pos h, if_neg h'.1, if_neg h'.2]
    by_cases hs : m < 2 ^ fMan t
    · rw [if_pos (Nat.div_eq_of_lt hs), Nat.mod_eq_of_lt hs, magSig, magExp, if_pos hs, if_pos hs]
    · rw [if_neg (fun h0 => hs ((Nat.div_eq_zero_iff_lt (Nat.two_pow_pos _)).1 h0)), magSig, magExp, if_neg hs, if_neg hs]
  · rw [if_neg h]
    obtain h1 | h1 := htop.1 (not_le.1 h)
    · rw [if_pos h1]
      simp [h1.2, eq_topMag_succ_iff ht h1.2 h1.1]
    · obtain ⟨h4, hE, hF⟩ := h1
      rw [if_neg (fun hc => hc.2 h4), if_pos ⟨h4, hE, hF⟩, if_neg (fun hc => hc.1 h4)]
      simp [h4]

omit ht in
/-- The exact value of a finite pattern. -/
theorem magSig_mul (m : ℕ) : (magSig t m : ℚ) * (2 : ℚ) ^ magExp t m = ulps t m * (2 : ℚ) ^ (fEmin t - fMan t) := by
  unfold magSig magExp ulps
  split
  · rfl
  · next h =>
    have hE : 1 ≤ m / 2 ^ fMan t := (Nat.one_le_div_iff (Nat.two_pow_pos _)).2 (not_lt.1 h)
    push_cast
    rw [mul_assoc, ← zpow_natCast (2 : ℚ) (m / 2 ^ fMan t - 1), ← zpow_add₀ two_ne_zero]
    congr 2
    rw [Nat.cast_sub hE, fEmin]
    push_cast
    ring

/-- The largest finite magnitude (R53). -/
theorem fMax_eq : fMax t = ulps t (topMag t) * (2 : ℚ) ^ (fEmin t - fMan t) := by
  cases t <;> simp [Ty.isFloat] at ht <;>
    simp only [fMax, ulps, topMag, fMan, fExp, fEmin, fBias, reduceCtorEq, ↓reduceIte] <;> norm_num [zpow_neg]

theorem fMax_eq_sig : fMax t = fMaxSig t * (2 : ℚ) ^ fMaxExp t := by
  cases t <;> simp [Ty.isFloat] at ht <;> 
    simp only [fMax, fMaxSig, fMaxExp, fMan, fExp, fBias, reduceCtorEq, ↓reduceIte] <;> norm_num

omit ht in
/-- Encoding a rounded magnitude (R53): a pattern of that value, and the next binade when the significand just reaches it. -/
theorem fEncode_eq {k : ℕ} {q : ℤ} (hk : k ≤ 2 ^ (fMan t + 1)) (hq : fEmin t - fMan t ≤ q) (hn : 2 ^ fMan t ≤ k ∨ q = fEmin t - fMan t)
    (neg : Bool) : ∃ m, fEncode t neg k q = signBit t neg + m ∧
      (ulps t m : ℚ) * (2 : ℚ) ^ (fEmin t - fMan t) = k * (2 : ℚ) ^ q := by
  have normal : ∀ (f : ℕ) (p : ℤ), f < 2 ^ fMan t → fEmin t - fMan t ≤ p →
      (ulps t ((p + fMan t + fBias t).toNat * 2 ^ fMan t + f) : ℚ) * (2 : ℚ) ^ (fEmin t - fMan t) = (2 ^ fMan t + f : ℕ) * (2 : ℚ) ^ p := by
    intro f p hf hp
    have hE : 1 ≤ (p + fMan t + fBias t).toNat := by unfold fEmin at hp; omega
    rw [mul_comm _ (2 ^ fMan t), ulps_mul_add t hE hf.le]
    push_cast
    rw [mul_assoc, ← zpow_natCast (2 : ℚ) (_ - 1), ← zpow_add₀ two_ne_zero]
    congr 2
    unfold fEmin at hp ⊢
    omega
  have hpos : 0 < 2 ^ fMan t := Nat.two_pow_pos _
  unfold fEncode
  by_cases htop : k = 2 ^ (fMan t + 1)
  · refine ⟨(q + 1 + fMan t + fBias t).toNat * 2 ^ fMan t + 0, by simp [htop], ?_⟩
    rw [normal 0 (q + 1) hpos (by omega), htop, zpow_add₀ two_ne_zero]
    push_cast
    ring
  · simp only [htop, if_false]
    by_cases hs : k < 2 ^ fMan t
    · refine ⟨k, by simp [hs], ?_⟩
      rw [ulps_of_lt hs, hn.resolve_left (not_le.2 hs)]
    · refine ⟨(q + fMan t + fBias t).toNat * 2 ^ fMan t + (k - 2 ^ fMan t), by simp [hs, add_assoc], ?_⟩
      rw [normal _ q (by rw [pow_succ] at hk htop; omega) hq, Nat.add_sub_cancel' (not_lt.1 hs)]

end

end Sys2Proof.Machine
end

section
/-!
PROOFS of the numbers family: `rnd` rounds the exact value once (R56 to R58).
-/

namespace Sys2Proof.Machine

section
variable {R : Type} [Field R] [LinearOrder R] [IsStrictOrderedRing R]

theorem abs_sign_mul (neg : Bool) {a : R} (h : 0 ≤ a) : |(if neg then -1 else 1) * a| = a := by
  cases neg <;> simp [abs_of_nonneg h]

theorem sign_mul_neg (neg : Bool) {a : R} (h : 0 < a) : decide ((if neg then -1 else 1) * a < 0) = neg := by
  cases neg <;> simp [h, h.le]

end

/-- `rnd`'s test for an overflow (R58). -/
def pastMax (t : Ty) (k : ℕ) (q : ℤ) : Bool :=
  if q ≤ fMaxExp t then decide (fMaxSig t * 2 ^ (fMaxExp t - q).toNat < k) else decide (fMaxSig t < k * 2 ^ (q - fMaxExp t).toNat)

/-- `rnd`'s test for a tiny value (R56), from its binade and its rounding with an unbounded exponent. -/
def tinyAt (p : ℕ) (emin e : ℤ) (k : ℕ) : Bool := decide (e < emin) && !(decide (e = emin - 1) && k == 2 ^ (p + 1))

/-- The place at which `rnd` rounds: that of the value's binade, or of the subnormals (R57). -/
def rndPlace (t : Ty) (e : ℤ) : ℤ := max e (fEmin t) - fMan t

/-- What `rnd` answers for a value that is not 0. -/
theorem rnd_eq (t : Ty) (md : ℕ) (sat neg : Bool) {num : ℕ} (hn : 0 < num) (den : ℕ) (ex : ℤ) :
    rnd t md sat neg num den ex =
      (let e := ilog2 num den ex
       let p := roundAt md neg num den ex (rndPlace t e)
       if pastMax t p.1 (rndPlace t e) then overflow t md sat neg
       else (fEncode t neg p.1 (rndPlace t e), (if p.2 then flagNX else 0) |||
         (if tinyAt (fMan t) (fEmin t) e (roundAt md neg num den ex (e - fMan t)).1 && p.2 then flagUF else 0))) := by
  unfold rnd
  rw [if_neg hn.ne']
  rfl

section
variable {t : Ty} (ht : t.isFloat = true)
include ht

/-- A finite pattern decodes to a finite value of its sign. -/
theorem fDecode_finite {m : ℕ} (hm : m ≤ topMag t) (neg : Bool) :
    fDecode t (signBit t neg + m) = .fin neg (magSig t m) (magExp t m) := by
  rw [fDecode_parts ht (lt_of_le_of_lt hm (topMag_lt ht)) neg, if_pos hm]

theorem real_fDecode {m : ℕ} (hm : m ≤ topMag t) (neg : Bool) :
    (fDecode t (signBit t neg + m)).real = (if neg then -1 else 1) * (ulps t m * (2 : ℚ) ^ (fEmin t - fMan t)) := by
  rw [fDecode_finite ht hm, FVal.real, mul_assoc, magSig_mul]

/-- A magnitude whose value is not past the largest finite one is a finite pattern. -/
theorem le_topMag_iff {m : ℕ} : m ≤ topMag t ↔ (ulps t m : ℚ) * (2 : ℚ) ^ (fEmin t - fMan t) ≤ fMax t := by
  rw [fMax_eq ht, mul_le_mul_iff_left₀ (by positivity), Nat.cast_le, (ulps_strictMono t).le_iff_le]

omit ht in
theorem signBit_add_lt {m : ℕ} (hm : m < 2 ^ (t.width - 1)) (neg : Bool) : signBit t neg + m < 2 ^ t.width := by
  have h2 : 2 ^ t.width = 2 * 2 ^ (t.width - 1) := by rw [← pow_succ', Nat.sub_add_cancel (width_pos t)]
  unfold signBit
  split <;> omega

/-- The overflow test compares with the largest finite magnitude. -/
theorem pastMax_iff (k : ℕ) (q : ℤ) : pastMax t k q = true ↔ fMax t < k * (2 : ℚ) ^ q := by
  have scale : ∀ {n : ℤ}, 0 ≤ n → (2 : ℚ) ^ n.toNat = (2 : ℚ) ^ n := fun h => by rw [← zpow_natCast, Int.toNat_of_nonneg h]
  rw [fMax_eq_sig ht, pastMax]
  split
  · next h =>
    rw [decide_eq_true_eq, ← Nat.cast_lt (α := ℚ), ← mul_lt_mul_iff_left₀ (a := (2 : ℚ) ^ q) (by positivity)]
    push_cast
    rw [scale (by omega), mul_assoc, ← zpow_add₀ two_ne_zero, sub_add_cancel]
  · next h =>
    rw [decide_eq_true_eq, ← Nat.cast_lt (α := ℚ), ← mul_lt_mul_iff_left₀ (a := (2 : ℚ) ^ fMaxExp t) (by positivity)]
    push_cast
    rw [scale (by omega), mul_assoc, ← zpow_add₀ two_ne_zero, sub_add_cancel]

end

/-- The overflow that `rnd` delivers is that of R58. -/
theorem overflows_overflow (t : Ty) {md : ℕ} (hmd : md < 4) (sat neg : Bool) : Overflows t md sat neg (overflow t md sat neg).1 := by
  unfold Overflows overflow
  interval_cases md <;> cases sat <;> cases neg <;> rfl

section
variable {md : ℕ} {neg : Bool} {num den : ℕ} (hn : 0 < num) (hd : 0 < den) {ex : ℤ}
include hn hd

theorem value_pos : 0 < (num : ℝ) / den * (2 : ℝ) ^ ex := by
  have hn' : (0 : ℝ) < num := by exact_mod_cast hn
  have hd' : (0 : ℝ) < den := by exact_mod_cast hd
  positivity

/-- Rounded at a place no finer than its precision, a value takes at most one bit more than the precision. -/
theorem roundAt_le_top {p : ℕ} {q : ℤ} (hq : ilog2 num den ex - p ≤ q) : (roundAt md neg num den ex q).1 ≤ 2 ^ (p + 1) := by
  refine roundAt_le hd (le_of_lt (lt_of_lt_of_le (lt_zpow_log _) ?_))
  rw [← ilog2_eq hn hd ex]
  push_cast
  rw [← zpow_natCast, ← zpow_add₀ two_ne_zero, two_zpow_le]
  push_cast
  omega

/-- Rounded at its precision, a value keeps its leading bit. -/
theorem le_roundAt_bottom {p : ℕ} : 2 ^ p ≤ (roundAt md neg num den ex (ilog2 num den ex - p)).1 := by
  refine le_roundAt hd (le_trans ?_ (zpow_log_le (value_pos hn hd)))
  rw [← ilog2_eq hn hd ex]
  push_cast
  rw [← zpow_natCast, ← zpow_add₀ two_ne_zero, two_zpow_le]
  omega

/-- The test for a tiny value: rounded with an unbounded exponent it lies below the smallest normal. -/
theorem tinyAt_iff (p : ℕ) (emin : ℤ) :
    tinyAt p emin (ilog2 num den ex) (roundAt md neg num den ex (ilog2 num den ex - p)).1 = true ↔
    ((roundAt md neg num den ex (ilog2 num den ex - p)).1 : ℚ) * (2 : ℚ) ^ (ilog2 num den ex - p) < (2 : ℚ) ^ emin := by
  unfold tinyAt
  have hlo : 2 ^ p ≤ _ := le_roundAt_bottom (md := md) (neg := neg) (ex := ex) hn hd (p := p)
  have hhi := roundAt_le_top (md := md) (neg := neg) (ex := ex) hn hd (p := p) le_rfl
  generalize (roundAt md neg num den ex (ilog2 num den ex - p)).1 = k at *
  generalize ilog2 num den ex = e at *
  have shift : ∀ a : ℕ, ((2 ^ a : ℕ) : ℚ) * (2 : ℚ) ^ (e - p) = (2 : ℚ) ^ (a + e - p) := fun a => by
    push_cast; rw [← zpow_natCast, ← zpow_add₀ two_ne_zero, add_sub_assoc]
  have hpos : (0 : ℚ) < (2 : ℚ) ^ (e - p) := by positivity
  have lower : (2 : ℚ) ^ e ≤ k * (2 : ℚ) ^ (e - p) := by
    have := shift p; rw [add_sub_cancel_left] at this; rw [← this]; gcongr
  have upper : (k : ℚ) * (2 : ℚ) ^ (e - p) ≤ (2 : ℚ) ^ (e + 1) := by
    have := shift (p + 1); rw [show ((p + 1 : ℕ) : ℤ) + e - p = e + 1 by push_cast; ring] at this; rw [← this]; gcongr
  rcases lt_trichotomy e (emin - 1) with h | h | h
  · have : (2 : ℚ) ^ (e + 1) < (2 : ℚ) ^ emin := zpow_lt_zpow_right₀ one_lt_two (by omega)
    simp only [show e < emin by omega, show e ≠ emin - 1 by omega, decide_true, decide_false, Bool.false_and, Bool.not_false,
      Bool.and_self, true_iff]
    linarith
  · have htop : (2 : ℚ) ^ emin = ((2 ^ (p + 1) : ℕ) : ℚ) * (2 : ℚ) ^ (e - p) := by
      rw [shift (p + 1)]; congr 1; push_cast; omega
    rw [htop, mul_lt_mul_iff_left₀ hpos, Nat.cast_lt]
    simp [h]
    omega
  · have : (2 : ℚ) ^ emin ≤ (2 : ℚ) ^ e := zpow_le_zpow_right₀ one_le_two (by omega)
    simp only [show ¬ e < emin by omega, decide_false, Bool.false_and, Bool.false_eq_true, false_iff, not_lt]
    linarith

end

/-- R57, R58: `rnd` rounds the exact value once. -/
theorem rnd_rounded {t : Ty} (ht : t.isFloat = true) {md : ℕ} (hmd : md < 4) (sat neg : Bool) (num : ℕ) {den : ℕ} (hd : 0 < den) (ex : ℤ) :
    Rounded t md sat ((if neg then -1 else 1) * ((num : ℝ) / den) * (2 : ℝ) ^ ex) (rnd t md sat neg num den ex).1
      (rnd t md sat neg num den ex).2 := by
  intro hx
  have hn : 0 < num := Nat.pos_of_ne_zero fun h0 => hx (by simp [h0])
  have hv := value_pos hn hd (ex := ex)
  have hE := ilog2_eq hn hd ex
  rw [mul_assoc] at hx ⊢
  rw [abs_sign_mul neg hv.le, sign_mul_neg neg hv, ← hE]
  rw [rnd_eq t md sat neg hn den ex]
  set e := ilog2 num den ex
  obtain ⟨hround, -, hinexact⟩ := roundAt_spec md neg num hd ex (rndPlace t e)
  obtain ⟨hfree, -, -⟩ := roundAt_spec md neg num hd ex (e - fMan t)
  have htiny := tinyAt_iff (md := md) (neg := neg) hn hd (ex := ex) (fMan t) (fEmin t)
  have hk : (roundAt md neg num den ex (rndPlace t e)).1 ≤ 2 ^ (fMan t + 1) := roundAt_le_top hn hd (by unfold rndPlace; omega)
  have hbottom : 2 ^ fMan t ≤ (roundAt md neg num den ex (rndPlace t e)).1 ∨ rndPlace t e = fEmin t - fMan t := by
    unfold rndPlace
    rcases le_total (fEmin t) e with h | h
    · rw [max_eq_left h]
      exact .inl (le_roundAt_bottom hn hd)
    · exact .inr (by rw [max_eq_right h])
  obtain ⟨m, henc, hm⟩ := fEncode_eq hk (by unfold rndPlace; omega) hbottom neg
  have hpast := pastMax_iff ht (roundAt md neg num den ex (rndPlace t e)).1 (rndPlace t e)
  refine ⟨_, _, hround, hfree, ?_⟩
  have hne : (((if neg then -1 else 1) * (((roundAt md neg num den ex (rndPlace t e)).1 : ℚ) * (2 : ℚ) ^ rndPlace t e) : ℚ) : ℝ) =
      (if neg then -1 else 1) * ((num : ℝ) / den * (2 : ℝ) ^ ex) ↔ (roundAt md neg num den ex (rndPlace t e)).2 = false := by
    rw [← Bool.not_eq_true, hinexact, not_not]
    cases neg <;> simp
  rw [mul_assoc, mul_assoc, abs_sign_mul neg (by positivity), abs_sign_mul neg (by positivity), Ne, hne, Bool.not_eq_false]
  dsimp only
  generalize roundAt md neg num den ex (rndPlace t e) = p at *
  constructor
  · intro hle
    have hmt : m ≤ topMag t := (le_topMag_iff ht).2 (hm.trans_le hle)
    rw [if_neg (fun h => not_le.2 (hpast.1 h) hle), henc]
    refine ⟨⟨_, _, fDecode_finite ht hmt neg⟩, (real_fDecode ht hmt neg).trans (by rw [hm]),
      signBit_add_lt (hmt.trans_lt (topMag_lt ht)) neg, fun hi => ?_, fun hi hsmall => ?_, fun hi hbig => ?_⟩
    · simp [hi]
    · rw [htiny.2 hsmall, hi]; rfl
    · rw [Bool.eq_false_iff.2 fun h => not_le.2 (htiny.1 h) hbig, hi]; rfl
  · intro hgt
    rw [if_pos (hpast.2 hgt)]
    exact ⟨overflows_overflow t hmd sat neg, rfl⟩

end Sys2Proof.Machine
end

section
/-!
PROOFS of the numbers family: what any pattern decodes to, the bounds of finite values, and the values that lie past every
format, for which `clampExp` changes nothing.
-/

namespace Sys2Proof.Machine

/-! ## Any pattern by its sign and magnitude -/

section
variable {t : Ty} (ht : t.isFloat = true)
include ht

/-- A pattern of a format is a sign and a magnitude. -/
theorem mod_eq_parts (a : ℕ) : a % 2 ^ t.width = signBit t (bitN a (t.width - 1)) + a % 2 ^ (t.width - 1) := by
  cases t <;> simp [Ty.isFloat] at ht <;> simp only [signBit, bitN, Ty.width, beq_iff_eq] <;> split <;> omega

/-- Decoding looks at a format's own bits only. -/
theorem fDecode_mod (a : ℕ) : fDecode t (a % 2 ^ t.width) = fDecode t a := by
  have h1 : natBits (a % 2 ^ t.width) (t.width - 2) (fMan t) = natBits a (t.width - 2) (fMan t) := by
    cases t <;> simp [Ty.isFloat] at ht <;> simp only [natBits, Ty.width, fMan] <;> omega
  have h2 : a % 2 ^ t.width % 2 ^ fMan t = a % 2 ^ fMan t := by
    cases t <;> simp [Ty.isFloat] at ht <;> simp only [Ty.width, fMan] <;> omega
  have h3 : bitN (a % 2 ^ t.width) (t.width - 1) = bitN a (t.width - 1) := by
    unfold bitN
    congr 1
    cases t <;> simp [Ty.isFloat] at ht <;> simp only [Ty.width] <;> omega
  simp only [fDecode, h1, h2, h3]

omit ht in
/-- The magnitude of a pattern. -/
theorem mag_lt (t : Ty) (a : ℕ) : a % 2 ^ (t.width - 1) < 2 ^ (t.width - 1) := Nat.mod_lt _ (Nat.two_pow_pos _)

/-- What any pattern decodes to. -/
theorem fDecode_eq (a : ℕ) : fDecode t a =
    if a % 2 ^ (t.width - 1) ≤ topMag t then
      .fin (bitN a (t.width - 1)) (magSig t (a % 2 ^ (t.width - 1))) (magExp t (a % 2 ^ (t.width - 1)))
    else if t ≠ .e4m3 ∧ a % 2 ^ (t.width - 1) = topMag t + 1 then .inf (bitN a (t.width - 1))
    else .nan (decide (t ≠ .e4m3) && !bitN (a % 2 ^ (t.width - 1) % 2 ^ fMan t) (fMan t - 1)) := by
  rw [← fDecode_mod ht a, mod_eq_parts ht a, fDecode_parts ht (mag_lt t a)]

/-- A finite pattern: its sign, and its magnitude's value. -/
theorem fin_of_fDecode {a m : ℕ} {n : Bool} {e : ℤ} (h : fDecode t a = .fin n m e) :
    a % 2 ^ (t.width - 1) ≤ topMag t ∧ n = bitN a (t.width - 1) ∧ m = magSig t (a % 2 ^ (t.width - 1)) ∧
      e = magExp t (a % 2 ^ (t.width - 1)) := by
  rw [fDecode_eq ht a] at h
  split at h
  · next hm =>
    cases h
    exact ⟨hm, rfl, rfl, rfl⟩
  · split at h <;> cases h

end

/-! ## Bounds of finite values -/

theorem magSig_lt (t : Ty) (m : ℕ) : magSig t m < 2 ^ (fMan t + 1) := by
  have := Nat.mod_lt m (Nat.two_pow_pos (fMan t))
  unfold magSig
  rw [pow_succ]
  split <;> omega

theorem le_magExp (t : Ty) (m : ℕ) : fEmin t - fMan t ≤ magExp t m := by
  unfold magExp
  split
  · exact le_rfl
  · next h =>
    have : 1 ≤ m / 2 ^ fMan t := (Nat.one_le_div_iff (Nat.two_pow_pos _)).2 (not_lt.1 h)
    unfold fEmin; omega

theorem magSig_eq_zero {t : Ty} {m : ℕ} : magSig t m = 0 ↔ m = 0 := by
  have := Nat.two_pow_pos (fMan t)
  unfold magSig
  split
  · exact Iff.rfl
  · omega

section
variable {t : Ty} (ht : t.isFloat = true)
include ht

/-- Exponents and significands of every format lie in one small range. -/
theorem format_bounds : -149 ≤ fEmin t - fMan t ∧ fEmin t ≤ -6 ∧ fMaxExp t + fMan t + 1 ≤ 128 ∧ 2 ≤ fMan t ∧ fMan t ≤ 23 ∧
    fEmin t - fMan t ≤ -9 := by
  cases t <;> simp [Ty.isFloat] at ht <;> simp [fEmin, fMan, fBias, fMaxExp, fExp]

theorem magExp_le {m : ℕ} (hm : m ≤ topMag t) : magExp t m ≤ 104 + 16 := by
  have hdiv : m / 2 ^ fMan t ≤ topMag t / 2 ^ fMan t := Nat.div_le_div_right hm
  have htop : (topMag t / 2 ^ fMan t : ℕ) - fBias t - fMan t ≤ 120 := by
    cases t <;> simp [Ty.isFloat] at ht <;> simp [topMag, fMan, fBias, fExp]
  obtain ⟨-, h1, -, -, h2, -⟩ := format_bounds ht
  unfold magExp
  split
  · omega
  · omega

/-- The parts of a finite pattern are small. -/
theorem fDecode_bounds {a m : ℕ} {n : Bool} {e : ℤ} (h : fDecode t a = .fin n m e) :
    m < 2 ^ 24 ∧ m < 2 ^ (fMan t + 1) ∧ fEmin t - fMan t ≤ e ∧ -149 ≤ e ∧ e ≤ 120 := by
  obtain ⟨hm, -, rfl, rfl⟩ := fin_of_fDecode ht h
  obtain ⟨h1, -, -, -, h2, -⟩ := format_bounds ht
  have hs := magSig_lt t (a % 2 ^ (t.width - 1))
  have he := le_magExp t (a % 2 ^ (t.width - 1))
  refine ⟨lt_of_lt_of_le hs (Nat.pow_le_pow_right (by omega) (by omega)), hs, he, by omega, magExp_le ht hm⟩

end

/-! ## Values past every format -/

@[simp] theorem rnd_zero (t : Ty) (md : ℕ) (sat neg : Bool) (den : ℕ) (ex : ℤ) : rnd t md sat neg 0 den ex = (signBit t neg, 0) := rfl

section
variable {t : Ty} (ht : t.isFloat = true) (md : ℕ) (sat neg : Bool) {num den num' den' : ℕ} (hn : 0 < num) (hd : 0 < den)
  (hn' : 0 < num') (hd' : 0 < den') {ex ex' : ℤ}

include ht hn hd in
/-- A value of 2^128 or more overflows in every format. -/
theorem rnd_of_big (h : (2 : ℝ) ^ (128 : ℤ) ≤ (num : ℝ) / den * (2 : ℝ) ^ ex) : rnd t md sat neg num den ex = overflow t md sat neg := by
  obtain ⟨-, hemin, hmax, -, -⟩ := format_bounds ht
  have he : 128 ≤ ilog2 num den ex := by
    rw [ilog2_eq hn hd]
    exact (Int.zpow_le_iff_le_log one_lt_two (value_pos hn hd)).1 (by exact_mod_cast h)
  have hq : rndPlace t (ilog2 num den ex) = ilog2 num den ex - fMan t := by rw [rndPlace, max_eq_left (by omega)]
  have hsig : fMaxSig t < 2 ^ (fMan t + 1) := by
    cases t <;> simp [Ty.isFloat] at ht <;> simp [fMaxSig, fMan]
  have hpast : fMax t < ((roundAt md neg num den ex (ilog2 num den ex - fMan t)).1 : ℚ) * (2 : ℚ) ^ (ilog2 num den ex - fMan t) := by
    have hk : ((2 ^ fMan t : ℕ) : ℚ) ≤ _ := Nat.cast_le.2 (le_roundAt_bottom (md := md) (neg := neg) hn hd (ex := ex) (p := fMan t))
    calc fMax t = fMaxSig t * (2 : ℚ) ^ fMaxExp t := fMax_eq_sig ht
      _ < ((2 ^ (fMan t + 1) : ℕ) : ℚ) * (2 : ℚ) ^ fMaxExp t := by gcongr
      _ = (2 : ℚ) ^ (fMaxExp t + fMan t + 1) := by
        push_cast; rw [← zpow_natCast, ← zpow_add₀ two_ne_zero]; congr 1; push_cast; ring
      _ ≤ (2 : ℚ) ^ ilog2 num den ex := zpow_le_zpow_right₀ one_le_two (by omega)
      _ = ((2 ^ fMan t : ℕ) : ℚ) * (2 : ℚ) ^ (ilog2 num den ex - fMan t) := by
        push_cast; rw [← zpow_natCast, ← zpow_add₀ two_ne_zero, add_sub_cancel]
      _ ≤ _ := by gcongr
  rw [rnd_eq t md sat neg hn]
  dsimp only
  rw [hq, if_pos ((pastMax_iff ht _ _).2 hpast)]

include hn hd in
/-- Below half the smallest subnormal a value rounds to 0 or to the smallest subnormal, by its mode and sign alone. -/
theorem roundAt_of_tiny {q : ℤ} (h : (num : ℝ) / den * (2 : ℝ) ^ ex < (2 : ℝ) ^ (q - 1)) :
    roundAt md neg num den ex q = (match md with | 0 => 0 | 1 => 0 | 2 => b2n neg | _ => b2n (!neg), true) := by
  obtain ⟨k, r, d, hr, hv, he⟩ := roundAt_split md neg num hd ex q
  have hvp := value_pos hn hd (ex := ex)
  have hd0 : (0 : ℝ) < d := by exact_mod_cast Nat.zero_lt_of_lt hr
  rw [hv] at h hvp
  have hlt : k + (r : ℝ) / d < 1 / 2 := by
    rw [zpow_sub_one₀ two_ne_zero, mul_comm ((2 : ℝ) ^ q), mul_lt_mul_iff_left₀ (by positivity)] at h
    simpa using h
  have hpos : 0 < k + (r : ℝ) / d := pos_of_mul_pos_left hvp (by positivity)
  obtain ⟨h0, -⟩ := rest_bounds hr
  have hk : k = 0 := by
    have : (k : ℝ) < 1 := by linarith
    exact Nat.lt_one_iff.1 (by exact_mod_cast this)
  subst hk
  rw [Nat.cast_zero, zero_add] at hlt hpos
  have hr0 : r ≠ 0 := by rintro rfl; simp at hpos
  have h2 : 2 * r < d := by
    rw [div_lt_iff₀ hd0] at hlt
    have : (2 : ℝ) * r < d := by linarith
    exact_mod_cast this
  rw [he]
  match md with
  | 0 => simp [goesUp, hr0, show ¬ d < 2 * r by omega]
  | 1 => simp [goesUp, hr0]
  | 2 => cases neg <;> simp [goesUp, hr0, b2n]
  | n + 3 => cases neg <;> simp [goesUp, hr0, b2n]

include ht hn hd hn' hd' in
/-- Values below 2^(−200) round alike. -/
theorem rnd_eq_of_tiny (h : (num : ℝ) / den * (2 : ℝ) ^ ex < (2 : ℝ) ^ (-200 : ℤ))
    (h' : (num' : ℝ) / den' * (2 : ℝ) ^ ex' < (2 : ℝ) ^ (-200 : ℤ)) : rnd t md sat neg num den ex = rnd t md sat neg num' den' ex' := by
  obtain ⟨hlow, hemin, -, -⟩ := format_bounds ht
  have key : ∀ {n d : ℕ} {x : ℤ}, 0 < n → 0 < d → (n : ℝ) / d * (2 : ℝ) ^ x < (2 : ℝ) ^ (-200 : ℤ) →
      rndPlace t (ilog2 n d x) = fEmin t - fMan t ∧
      roundAt md neg n d x (fEmin t - fMan t) = (match md with | 0 => 0 | 1 => 0 | 2 => b2n neg | _ => b2n (!neg), true) ∧
      ∀ k, tinyAt (fMan t) (fEmin t) (ilog2 n d x) k = true := fun {n d x} hn hd h => by
    have he : ilog2 n d x < -200 := by
      rw [ilog2_eq hn hd]
      exact (Int.lt_zpow_iff_log_lt one_lt_two (value_pos hn hd)).1 (by exact_mod_cast h)
    refine ⟨by rw [rndPlace, max_eq_right (by omega)], roundAt_of_tiny md neg hn hd (h.trans_le ?_), fun k => ?_⟩
    · rw [two_zpow_le]; omega
    · simp [tinyAt, show ilog2 n d x < fEmin t by omega, show ilog2 n d x ≠ fEmin t - 1 by omega]
  obtain ⟨h1, h2, h3⟩ := key hn hd h
  obtain ⟨h1', h2', h3'⟩ := key hn' hd' h'
  rw [rnd_eq t md sat neg hn, rnd_eq t md sat neg hn']
  simp only [h1, h2, h3, h1', h2', h3']

include ht in
/-- The clamp of an exponent changes no rounding (`clampExp`). -/
theorem rnd_clampExp (m : ℕ) {e : ℤ} (hm : m < 2 ^ 65) (he : -149 ≤ e) (he' : e ≤ 120) (n : ℤ) :
    rnd t md sat neg m 1 (e + clampExp n) = rnd t md sat neg m 1 (e + n) := by
  rcases Nat.eq_zero_or_pos m with rfl | hpos
  · rfl
  have h1 : (1 : ℝ) ≤ m := by exact_mod_cast hpos
  have h2 : (m : ℝ) < (2 : ℝ) ^ (65 : ℤ) := by exact_mod_cast hm
  have big : ∀ x : ℤ, 128 ≤ x → (2 : ℝ) ^ (128 : ℤ) ≤ (m : ℝ) / (1 : ℕ) * (2 : ℝ) ^ x := fun x hx => by
    rw [Nat.cast_one, div_one]
    exact (two_zpow_le.2 hx).trans (le_mul_of_one_le_left (by positivity) h1)
  have tiny : ∀ x : ℤ, x ≤ -300 → (m : ℝ) / (1 : ℕ) * (2 : ℝ) ^ x < (2 : ℝ) ^ (-200 : ℤ) := fun x hx => by
    rw [Nat.cast_one, div_one]
    calc (m : ℝ) * (2 : ℝ) ^ x < (2 : ℝ) ^ (65 : ℤ) * (2 : ℝ) ^ x := by gcongr
      _ = (2 : ℝ) ^ (65 + x) := by rw [← zpow_add₀ two_ne_zero]
      _ ≤ _ := two_zpow_le.2 (by omega)
  unfold clampExp
  split
  · exact rnd_eq_of_tiny ht md sat neg hpos one_pos hpos one_pos (tiny _ (by omega)) (tiny _ (by omega))
  · split
    · rw [rnd_of_big ht md sat neg hpos one_pos (big _ (by omega)), rnd_of_big ht md sat neg hpos one_pos (big _ (by omega))]
    · rfl

end

end Sys2Proof.Machine
end

section
/-!
PROOFS of the numbers family: lanes of packed vectors, and the delivery of floating-point results (R56, R142).
-/

namespace Sys2Proof.Machine

/-! ## Lanes -/

/-- Lane j of packed lanes, as a number. -/
theorem packed_lane (w : ℕ) (ls : List ℕ) (j : ℕ) :
    ls.foldr (fun x acc => x % 2 ^ w + 2 ^ w * acc) 0 / 2 ^ (w * j) % 2 ^ w = lget 0 ls j % 2 ^ w := by
  induction ls generalizing j with
  | nil => simp [lget]
  | cons x ls ih =>
    cases j with
    | zero => simp [lget]
    | succ j =>
      have : ∀ n, (x % 2 ^ w + 2 ^ w * n) / 2 ^ (w * (j + 1)) = n / 2 ^ (w * j) := fun n => by
        rw [Nat.mul_succ, Nat.add_comm (w * j), Nat.pow_add, ← Nat.div_div_eq_div_mul, Nat.add_mul_div_left _ _ (Nat.two_pow_pos w),
          Nat.div_eq_of_lt (Nat.mod_lt _ (Nat.two_pow_pos w)), Nat.zero_add]
      rw [List.foldr_cons, this, ih]
      rfl

/-- A lane that fits the vector is the element of its number. -/
theorem laneBits_ofLanes (t : Ty) (ls : List ℕ) {j : ℕ} (h : t.width * (j + 1) ≤ 1024) :
    LaneBits t (ofLanes t.width ls) j = BitVec.ofNat t.width (lget 0 ls j) := by
  apply BitVec.eq_of_toNat_eq
  have hsplit : 1024 = t.width * j + (1024 - t.width * j) := by rw [Nat.mul_succ] at h; omega
  have hdvd : 2 ^ t.width ∣ 2 ^ (1024 - t.width * j) := Nat.pow_dvd_pow _ (by rw [Nat.mul_succ] at h; omega)
  rw [LaneBits, ofLanes, BitVec.extractLsb'_toNat, BitVec.toNat_ofNat, BitVec.toNat_ofNat, Nat.shiftRight_eq_div_pow,
    ← packed_lane, hsplit, Nat.pow_add, Nat.mod_mul_right_div_self, Nat.mod_mod_of_dvd _ hdvd]

/-- Reading a lane as a number reads its bits. -/
theorem lane_eq_laneBits (t : Ty) (v : Vec) (i : ℕ) : lane v t.width i = (LaneBits t v i).toNat := by
  have hw := width_pos t
  rw [lane, natBits, LaneBits, BitVec.extractLsb'_toNat, Nat.shiftRight_eq_div_pow,
    show t.width * i + t.width - 1 + 1 - t.width * i = t.width by omega]

theorem width_mul_lanes (t : Ty) : t.width * t.lanes ≤ 1024 := Nat.mul_div_le 1024 t.width

theorem width_mul_succ_le {t : Ty} {j : ℕ} (h : j < t.lanes) : t.width * (j + 1) ≤ 1024 :=
  (Nat.mul_le_mul_left _ h).trans (width_mul_lanes t)

/-! ## Lists of operands and results -/

theorem lget_map_of_lt {α β : Type} (d : α) (d' : β) (l : List α) (g : α → β) {j : ℕ} (h : j < l.length) :
    lget d' (l.map g) j = g (lget d l j) := by
  simp [lget, List.getD_eq_getElem?_getD, List.getElem?_eq_getElem h]

theorem lget_range {β : Type} (d : β) (g : ℕ → β) {n j : ℕ} (h : j < n) : lget d ((List.range n).map g) j = g j := by
  simp [lget, List.getD_eq_getElem?_getD, h]

theorem lget_zipWith {α β γ : Type} (d : α) (d' : β) (d'' : γ) (l : List α) (l' : List β) (g : α → β → γ) {j : ℕ} (h : j < l.length)
    (h' : j < l'.length) : lget d'' (List.zipWith g l l') j = g (lget d l j) (lget d' l' j) := by
  simp [lget, List.getD_eq_getElem?_getD, List.getElem?_eq_getElem h, List.getElem?_eq_getElem h', List.getElem?_zipWith]

/-- The union of the flags of a list of results, by their numbers. -/
theorem foldl_flags (rs : List (ℕ × Flags)) :
    rs.foldl (fun acc r => acc ||| r.2) 0 = (List.range rs.length).foldl (fun u j => u ||| (lget (0, 0) rs j).2) 0 := by
  conv_lhs => rw [← List.map_id rs, ← List.drop_zero (l := rs), ← map_range_lget (0, 0) rs id rs.length 0 (Nat.zero_add _), List.foldl_map]
  simp

section
variable (r : Rd) (vec : Bool) (t : Ty) (sl : SlotName) (x : Src)

@[simp] theorem Rd.flts_length : (r.flts t sl x).length = t.lanes := by cases x <;> simp [Rd.flts]

@[simp] theorem Rd.fops_length : (r.fops vec t sl x).length = if vec then t.lanes else 1 := by cases vec <;> simp [Rd.fops]

@[simp] theorem Rd.fscales_length : (r.fscales vec t sl x).length = if vec then t.lanes else 1 := by
  cases vec <;> cases x <;> simp [Rd.fscales]

end

/-! ## Floating-point results -/

/-- A result of one pattern per lane, or of one pattern, delivers them with the union of their flags. -/
theorem floats_of_results {i : Instr} {s : State} {ta tb : Tgt} {vec : Bool} {t : Ty} {rs : List (ℕ × Flags)} {P : ℕ → ℕ → Flags → Prop}
    (h : ∀ Q : Vec → Prop, Q (Res.flts vec t.width rs).val → Gives i s ta tb vec (Res.flts vec t.width rs).flags Q)
    (hlen : rs.length = if vec then t.lanes else 1)
    (hP : ∀ j, j < (if vec then t.lanes else 1) → P j (lget (0, 0) rs j).1 (lget (0, 0) rs j).2) : GivesFloats i s ta tb vec t P := by
  refine ⟨fun j => (lget (0, 0) rs j).1, fun j => (lget (0, 0) rs j).2, ?_, hP⟩
  have hfl : (Res.flts vec t.width rs).flags = _ := foldl_flags rs
  rw [hlen] at hfl
  rw [← hfl]
  refine h _ ⟨?_, ?_⟩
  · rintro rfl j hj
    have hj' : j < rs.length := by rw [hlen]; exact hj
    show LaneBits t (ofLanes t.width (rs.map (·.1))) j = _
    rw [laneBits_ofLanes t _ (width_mul_succ_le hj), lget_map_of_lt (0, 0) 0 rs (·.1) hj']
  · rintro rfl
    rfl

theorem givesFloats_pureT {i : Instr} {s : State} {f : FmtT} {vec : Bool} {t : Ty} {g : Rd → List (ℕ × Flags)}
    {P : ℕ → ℕ → Flags → Prop} (h : exec i s = .next (s.pureT f fun r => .flts vec t.width (g r)))
    (hlen : (g (s.rdAt s.key)).length = if vec then t.lanes else 1)
    (hP : ∀ j, j < (if vec then t.lanes else 1) → P j (lget (0, 0) (g (s.rdAt s.key)) j).1 (lget (0, 0) (g (s.rdAt s.key)) j).2) :
    GivesFloats i s f.ta f.tb vec t P :=
  floats_of_results (fun _ hQ => gives_pureT h hQ) hlen hP

theorem givesFloats_pureI {i : Instr} {s : State} {f : FmtI} {vec : Bool} {t : Ty} {g : Rd → List (ℕ × Flags)}
    {P : ℕ → ℕ → Flags → Prop} (h : exec i s = .next (s.pureI f fun r => .flts vec t.width (g r)))
    (hlen : (g (s.rdAt s.key)).length = if vec then t.lanes else 1)
    (hP : ∀ j, j < (if vec then t.lanes else 1) → P j (lget (0, 0) (g (s.rdAt s.key)) j).1 (lget (0, 0) (g (s.rdAt s.key)) j).2) :
    GivesFloats i s f.ta f.tb vec t P :=
  floats_of_results (fun _ hQ => gives_pureI h hQ) hlen hP

/-- Floating-point operand j of the running instruction, as a pattern. -/
abbrev State.fop (s : State) (f : FmtT) (sl : SlotName) (x : Src) (j : ℕ) : ℕ :=
  lget 0 ((s.rdAt s.key).fops (f.md.getLsbD 2) f.ty sl x) j

section
variable {i : Instr} {s : State} {f : FmtT} {P : ℕ → ℕ → Flags → Prop}

/-- An instruction of one operand delivers its function of each. -/
theorem givesFloats_flt1 {g : ℕ → ℕ × Flags} (h : exec i s = .next (s.pureT f (flt1 f g)))
    (hP : ∀ j, P j (g (s.fop f .a f.sa j)).1
      (g (s.fop f .a f.sa j)).2) :
    GivesFloats i s f.ta f.tb (f.md.getLsbD 2) f.ty P := by
  refine givesFloats_pureT h (by simp [vecMd]) fun j hj => ?_
  rw [lget_map_of_lt 0 _ _ _ (by simpa [vecMd] using hj)]
  exact hP j

/-- An instruction of two operands delivers its function of each pair. -/
theorem givesFloats_flt2 {g : ℕ → ℕ → ℕ × Flags} (h : exec i s = .next (s.pureT f (flt2 f g)))
    (hP : ∀ j, P j (g (s.fop f .a f.sa j) (s.fop f .b f.sb j)).1
      (g (s.fop f .a f.sa j) (s.fop f .b f.sb j)).2) :
    GivesFloats i s f.ta f.tb (f.md.getLsbD 2) f.ty P := by
  refine givesFloats_pureT h (by simp [vecMd]) fun j hj => ?_
  rw [lget_zipWith 0 0 _ _ _ _ (by simpa [vecMd] using hj) (by simpa [vecMd] using hj)]
  exact hP j

/-- An instruction of three operands delivers its function of each triple. -/
theorem givesFloats_flt3 {g : ℕ → ℕ → ℕ → ℕ × Flags} (h : exec i s = .next (s.pureT f (flt3 f g)))
    (hP : ∀ j, P j (g (s.fop f .a f.sa j) (s.fop f .b f.sb j) (s.fop f .c f.sc j)).1
      (g (s.fop f .a f.sa j) (s.fop f .b f.sb j) (s.fop f .c f.sc j)).2) :
    GivesFloats i s f.ta f.tb (f.md.getLsbD 2) f.ty P := by
  refine givesFloats_pureT h (by simp [vecMd]) fun j hj => ?_
  rw [lget_zipWith (0, 0) 0 _ _ _ _ (by simpa [vecMd] using hj) (by simpa [vecMd] using hj), List.zip,
    lget_zipWith 0 0 _ _ _ _ (by simpa [vecMd] using hj) (by simpa [vecMd] using hj)]
  exact hP j

end

/-- An instruction of one operand and an immediate delivers its function of each. -/
theorem givesFloats_fltImm {i : Instr} {s : State} {f : FmtI} {P : ℕ → ℕ → Flags → Prop} {g : ℕ → ℕ → ℕ × Flags}
    (h : exec i s = .next (s.pureI f (fltImm f g)))
    (hP : ∀ j, P j (g (lget 0 ((s.rdAt s.key).fops (f.md.getLsbD 2) f.ty .a f.sa) j) (imm16F f.ty f.imm)).1
      (g (lget 0 ((s.rdAt s.key).fops (f.md.getLsbD 2) f.ty .a f.sa) j) (imm16F f.ty f.imm)).2) :
    GivesFloats i s f.ta f.tb (f.md.getLsbD 2) f.ty P := by
  refine givesFloats_pureI h (by simp [vecMd]) fun j hj => ?_
  rw [lget_map_of_lt 0 _ _ _ (by simpa [vecMd] using hj)]
  exact hP j

end Sys2Proof.Machine
end

section
/-!
PROOFS of the numbers family: the exact sum of finite terms is rounded once (R55, R57, R144).
-/

namespace Sys2Proof.Machine

/-! ## Exact values -/

@[simp] theorem FVal.finite_fin (n : Bool) (m : ℕ) (e : ℤ) : (FVal.fin n m e).Finite := ⟨n, m, e, rfl⟩
@[simp] theorem FVal.not_finite_inf (n : Bool) : ¬ (FVal.inf n).Finite := by rintro ⟨_, _, _, h⟩; cases h
@[simp] theorem FVal.not_finite_nan (q : Bool) : ¬ (FVal.nan q).Finite := by rintro ⟨_, _, _, h⟩; cases h
@[simp] theorem FVal.isNan_fin (n : Bool) (m : ℕ) (e : ℤ) : (FVal.fin n m e).isNan = false := rfl
@[simp] theorem FVal.isNan_inf (n : Bool) : (FVal.inf n).isNan = false := rfl
@[simp] theorem FVal.isNan_nan (q : Bool) : (FVal.nan q).isNan = true := rfl
@[simp] theorem FVal.isZero_fin (n : Bool) (m : ℕ) (e : ℤ) : (FVal.fin n m e).isZero = (m == 0) := rfl
@[simp] theorem FVal.isZero_inf (n : Bool) : (FVal.inf n).isZero = false := rfl
@[simp] theorem FVal.isZero_nan (q : Bool) : (FVal.nan q).isZero = false := rfl
@[simp] theorem FVal.neg_fin (n : Bool) (m : ℕ) (e : ℤ) : (FVal.fin n m e).neg = n := rfl
@[simp] theorem FVal.neg_inf (n : Bool) : (FVal.inf n).neg = n := rfl

theorem FVal.real_fin (n : Bool) (m : ℕ) (e : ℤ) : (FVal.fin n m e).real = (if n then -1 else 1) * m * (2 : ℚ) ^ e := rfl

theorem FVal.real_eq_zero {n : Bool} {m : ℕ} {e : ℤ} : (FVal.fin n m e).real = 0 ↔ m = 0 := by
  have h2 : (2 : ℚ) ^ e ≠ 0 := by positivity
  cases n <;> simp [FVal.real_fin, h2]

/-- The sign of a value that is not 0. -/
theorem FVal.decide_real_neg {n : Bool} {m : ℕ} {e : ℤ} (h : m ≠ 0) : decide ((FVal.fin n m e).real < 0) = n := by
  have : (0 : ℚ) < m * (2 : ℚ) ^ e := by have := Nat.pos_of_ne_zero h; positivity
  rw [FVal.real_fin, mul_assoc]
  exact sign_mul_neg n this

section
variable {t : Ty} (ht : t.isFloat = true) {md : ℕ} (hmd : md < 4)
include ht hmd

/-- `rnd` of a finite value rounds it. -/
theorem rnd_fin (sat n : Bool) (m : ℕ) (e : ℤ) :
    Rounded t md sat ((FVal.fin n m e).real : ℝ) (rnd t md sat n m 1 e).1 (rnd t md sat n m 1 e).2 := by
  have := rnd_rounded ht hmd sat n m one_pos e
  rw [Nat.cast_one, div_one] at this
  rw [FVal.real_fin]
  cases n <;> simpa using this

end

/-! ## Exact sums (R57) -/

/-- The least exponent so far, and a term in units of a common exponent, as `sumFin` takes them. -/
def leastExp (acc : ℤ) (v : FVal) : ℤ := match v with | .fin _ m e => if m = 0 then acc else min acc e | _ => acc
def termAt (ex : ℤ) (v : FVal) : ℤ :=
  match v with | .fin n m e => if m = 0 then 0 else (if n then -1 else 1) * (m * 2 ^ (e - ex).toNat : ℕ) | _ => 0

theorem sumFin_eq (vs : List FVal) :
    sumFin vs = ((vs.map (termAt (vs.foldl leastExp 4096))).sum, vs.foldl leastExp 4096) := by
  have total : ∀ (ex acc : ℤ), vs.foldl (fun (acc : ℤ) v => match v with
      | .fin n m e => if m = 0 then acc else acc + (if n then -1 else 1) * (m * 2 ^ (e - ex).toNat : ℕ)
      | _ => acc) acc = acc + (vs.map (termAt ex)).sum := fun ex acc => by
    induction vs generalizing acc with
    | nil => simp
    | cons v vs ih =>
      rw [List.foldl_cons, ih, List.map_cons, List.sum_cons, ← add_assoc]
      congr 1
      cases v with
      | fin n m e => by_cases h : m = 0 <;> simp [termAt, h]
      | _ => simp [termAt]
  exact Prod.ext ((total _ 0).trans (zero_add _)) rfl

theorem leastExp_le (vs : List FVal) (acc : ℤ) : vs.foldl leastExp acc ≤ acc ∧
    ∀ n m e, FVal.fin n m e ∈ vs → m ≠ 0 → vs.foldl leastExp acc ≤ e := by
  induction vs generalizing acc with
  | nil => simp
  | cons v vs ih =>
    obtain ⟨h1, h2⟩ := ih (leastExp acc v)
    have hle : leastExp acc v ≤ acc := by
      cases v with
      | fin n m e => by_cases h : m = 0 <;> simp [leastExp, h]
      | _ => exact le_rfl
    refine ⟨h1.trans hle, fun n m e hmem hm => ?_⟩
    rcases List.mem_cons.1 hmem with rfl | hmem
    · exact h1.trans (by simp [leastExp, hm])
    · exact h2 n m e hmem hm

/-- A term in units of an exponent not above its own. -/
theorem termAt_real {ex : ℤ} {v : FVal} (h : ∀ n m e, v = .fin n m e → m ≠ 0 → ex ≤ e) : (termAt ex v : ℚ) * (2 : ℚ) ^ ex = v.real := by
  cases v with
  | fin n m e =>
    by_cases hm : m = 0
    · simp [termAt, hm, FVal.real_fin]
    · have he := h n m e rfl hm
      have : (2 : ℚ) ^ (e - ex).toNat * (2 : ℚ) ^ ex = (2 : ℚ) ^ e := by
        rw [← zpow_natCast, Int.toNat_of_nonneg (by omega), ← zpow_add₀ two_ne_zero, sub_add_cancel]
      rw [FVal.real_fin, ← this]
      simp only [termAt, hm, if_false]
      push_cast
      ring
  | _ => simp [termAt, FVal.real]

/-- `sumFin` is the exact sum. -/
theorem sumFin_real (vs : List FVal) : ((sumFin vs).1 : ℚ) * (2 : ℚ) ^ (sumFin vs).2 = (vs.map FVal.real).sum := by
  rw [sumFin_eq]
  obtain ⟨-, hle⟩ := leastExp_le vs 4096
  generalize vs.foldl leastExp 4096 = ex at *
  simp only
  induction vs with
  | nil => simp
  | cons v vs ih =>
    rw [List.map_cons, List.sum_cons, List.map_cons, List.sum_cons, ← ih fun n m e h => hle n m e (List.mem_cons_of_mem _ h),
      ← termAt_real (ex := ex) fun n m e h => hle n m e (h ▸ List.mem_cons_self)]
    push_cast
    ring

/-- The sign of a zero sum (R55), said as the statement says it. -/
theorem zeroSign_eq (md : ℕ) (signs : List Bool) (allZero : Bool) : zeroSign md signs allZero =
    if allZero = true ∧ signs.all id = true then true else if allZero = true ∧ ¬ signs.any id = true then false else decide (md = 2) := by
  have h1 : signs.all (· == true) = signs.all id := by simp; rfl
  have h2 : signs.all (· == false) = !signs.any id := by simp [List.any_eq_not_all_not]
  have h3 : (md == 2) = decide (md = 2) := rfl
  rw [zeroSign, h1, h2, h3]
  cases allZero <;> cases signs.all id <;> cases signs.any id <;> rfl

/-- A sum with a NaN term (R54): every other case of R144's table is void. -/
theorem addsTo_nan {t : Ty} {md : ℕ} {x y : FVal} (h : x.isNan = true ∨ y.isNan = true) : AddsTo t md x y (canon t) (sigFlag [x, y]) := by
  refine ⟨fun _ => ⟨rfl, rfl⟩, ?_, ?_, ?_, ?_⟩
  · rintro n rfl (rfl | ⟨_, _, _, rfl⟩) <;> simp at h
  · rintro n rfl ⟨_, _, _, rfl⟩; simp at h
  · rintro n rfl rfl; simp at h
  · rintro ⟨_, _, _, rfl⟩ ⟨_, _, _, rfl⟩; simp at h

section
variable {t : Ty} (ht : t.isFloat = true) {md : ℕ} (hmd : md < 4)

theorem fSum_of_finite {vs : List FVal} (h : ∀ v ∈ vs, v.Finite) : fSum t md vs =
    if (sumFin vs).1 = 0 then (signBit t (zeroSign md (vs.map FVal.neg) (vs.all FVal.isZero)), 0)
    else rnd t md false (decide ((sumFin vs).1 < 0)) (sumFin vs).1.natAbs 1 (sumFin vs).2 := by
  have hinf : ∀ n, vs.any (· == .inf n) = false := fun n => by
    rw [List.any_eq_false]
    rintro v hv he
    have := h v hv
    rw [eq_of_beq he] at this
    exact FVal.not_finite_inf n this
  unfold fSum
  simp only [hinf, Bool.false_and, Bool.false_eq_true, if_false]
  rfl

include ht hmd

/-- A sum of finite terms is rounded once (R55, R57). -/
theorem fSum_sumTo {vs : List FVal} (h : ∀ v ∈ vs, v.Finite) :
    SumTo t md (vs.map FVal.real).sum (vs.all FVal.isZero) (vs.map FVal.neg) (fSum t md vs).1 (fSum t md vs).2 := by
  rw [fSum_of_finite h, ← sumFin_real vs]
  generalize sumFin vs = p
  obtain ⟨v, ex⟩ := p
  have h2 : (2 : ℚ) ^ ex ≠ 0 := by positivity
  by_cases hv : v = 0
  · subst hv
    refine ⟨fun h0 => absurd (by simp) h0, fun _ => ⟨rfl, ?_⟩⟩
    rw [if_pos rfl, zeroSign_eq]
  · refine ⟨?_, fun h0 => absurd h0 (mul_ne_zero (by exact_mod_cast hv) h2)⟩
    rw [if_neg hv]
    have := rnd_fin ht hmd false (decide (v < 0)) v.natAbs ex
    have hreal : (FVal.fin (decide (v < 0)) v.natAbs ex).real = v * (2 : ℚ) ^ ex := by
      rw [FVal.real_fin, Nat.cast_natAbs, Int.cast_abs]
      rcases lt_or_ge v 0 with hneg | hpos
      · rw [abs_of_neg (by exact_mod_cast hneg)]; simp [hneg]
      · rw [abs_of_nonneg (by exact_mod_cast hpos)]; simp [not_lt.2 hpos]
    rwa [hreal] at this

/-- Two terms that are no NaN are added as R144's table says. -/
theorem fSum_addsTo {x y : FVal} (hx : x.isNan = false) (hy : y.isNan = false) : AddsTo t md x y (fSum t md [x, y]).1 (fSum t md [x, y]).2 := by
  refine ⟨fun h => by simp [hx, hy] at h, ?_, ?_, ?_, fun h1 h2 => ?_⟩
  · rintro n rfl (rfl | ⟨n', m, e, rfl⟩) <;> cases n <;> simp [fSum]
  · rintro n rfl ⟨n', m, e, rfl⟩
    cases n <;> simp [fSum]
  · rintro n rfl rfl
    cases n <;> simp [fSum]
  · have := fSum_sumTo ht hmd (vs := [x, y]) (by simp [h1, h2])
    simpa using this

/-- FADD (R144). -/
theorem fAdd_addsTo (a b : ℕ) : AddsTo t md (fDecode t a) (fDecode t b) (fAdd t md a b).1 (fAdd t md a b).2 := by
  unfold fAdd
  dsimp only
  split
  · next h => exact addsTo_nan (by simpa using h)
  · next h =>
    rw [Bool.or_eq_true, not_or, Bool.not_eq_true, Bool.not_eq_true] at h
    exact fSum_addsTo ht hmd h.1 h.2

end

end Sys2Proof.Machine
end

section
/-!
PROOFS of the numbers family: the operations of R144 to R146 on decoded values, and results that are exact.
-/

namespace Sys2Proof.Machine

/-! ## The operations of R144 to R146 -/

/-- A value with its sign inverted. -/
def FVal.negate : FVal → FVal
  | .fin n m e => .fin (!n) m e
  | .inf n => .inf (!n)
  | .nan q => .nan q

@[simp] theorem FVal.isNan_negate (v : FVal) : v.negate.isNan = v.isNan := by cases v <;> rfl

theorem sigFlag_negate (v w : FVal) : sigFlag [v, w.negate] = sigFlag [v, w] := by cases w <;> rfl

section
variable {t : Ty} (ht : t.isFloat = true)
include ht

/-- A pattern's magnitude and sign bit, when its sign is inverted. -/
theorem negBits_eq (b : ℕ) : negBits t (b % 2 ^ t.width) = signBit t (!bitN b (t.width - 1)) + b % 2 ^ (t.width - 1) := by
  have hp : b % 2 ^ t.width = _ := mod_eq_parts ht b
  have hb : bitN (b % 2 ^ t.width) (t.width - 1) = bitN b (t.width - 1) := by
    rw [hp]
    exact (fields_of_parts ht (mag_lt t b) _).2.2
  rw [negBits, hb, hp]
  cases bitN b (t.width - 1)
  · simp [signBit, add_comm]
  · simp [signBit]

/-- Inverting the sign of a pattern that is no NaN negates its value. -/
theorem fDecode_negBits {b : ℕ} (h : (fDecode t b).isNan = false) : fDecode t (negBits t (b % 2 ^ t.width)) = (fDecode t b).negate := by
  rw [negBits_eq ht, fDecode_parts ht (mag_lt t b), fDecode_eq ht b] at *
  split
  · rfl
  · next hm =>
    rw [if_neg hm] at h
    split
    · rfl
    · next hi => rw [if_neg hi] at h; cases h

variable {md : ℕ} (hmd : md < 4)
include hmd

/-- FSUB (R144). -/
theorem fSub_addsTo (a b : ℕ) : AddsTo t md (fDecode t a) (fDecode t b).negate (fSub t md a b).1 (fSub t md a b).2 := by
  unfold fSub
  dsimp only
  split
  · next h =>
    rw [← sigFlag_negate]
    exact addsTo_nan (by simpa using h)
  · next h =>
    rw [Bool.or_eq_true, not_or, Bool.not_eq_true, Bool.not_eq_true] at h
    rw [fDecode_negBits ht h.2]
    exact fSum_addsTo ht hmd h.1 (by rw [FVal.isNan_negate, h.2])

omit hmd ht in
/-- The exact product of two finite values. -/
theorem real_mul (n n' : Bool) (m m' : ℕ) (e e' : ℤ) :
    (FVal.fin (n != n') (m * m') (e + e')).real = (FVal.fin n m e).real * (FVal.fin n' m' e').real := by
  simp only [FVal.real_fin, zpow_add₀ (two_ne_zero (α := ℚ))]
  cases n <;> cases n' <;> push_cast <;> simp <;> ring

/-- FMUL (R144). -/
theorem fMul_mulsTo (a b : ℕ) : MulsTo t md (fDecode t a) (fDecode t b) (fMul t md a b).1 (fMul t md a b).2 := by
  unfold fMul
  dsimp only
  generalize fDecode t a = x
  generalize fDecode t b = y
  rcases x with q | n | ⟨n, m, e⟩
  · refine ⟨fun _ => ⟨rfl, rfl⟩, ?_, ?_, ?_, ?_, ?_⟩ <;> simp
  · rcases y with q | n' | ⟨n', m', e'⟩
    · refine ⟨fun _ => ⟨rfl, rfl⟩, ?_, ?_, ?_, ?_, ?_⟩ <;> simp
    · refine ⟨?_, ?_, ?_, ?_, ?_, ?_⟩ <;> simp [fProd, Bool.xor_comm]
    · by_cases hm : m' = 0 <;> refine ⟨?_, ?_, ?_, ?_, ?_, ?_⟩ <;> simp [fProd, hm]
  · rcases y with q | n' | ⟨n', m', e'⟩
    · refine ⟨fun _ => ⟨rfl, rfl⟩, ?_, ?_, ?_, ?_, ?_⟩ <;> simp
    · by_cases hm : m = 0 <;> refine ⟨?_, ?_, ?_, ?_, ?_, ?_⟩ <;> simp [fProd, hm, Bool.xor_comm]
    · refine ⟨by simp, by simp, by simp, by simp, by simp, fun _ _ => ?_⟩
      rw [← real_mul]
      refine ⟨rnd_fin ht hmd false _ _ _, fun h0 => ?_⟩
      rw [FVal.real_eq_zero] at h0
      simp [fProd, h0]

omit hmd ht in
/-- The exact quotient of two finite values. -/
theorem real_div (n n' : Bool) (m m' : ℕ) (e e' : ℤ) :
    (((FVal.fin n m e).real / (FVal.fin n' m' e').real : ℚ) : ℝ) =
      (if (n != n') then -1 else 1) * ((m : ℝ) / m') * (2 : ℝ) ^ (e - e') := by
  simp only [FVal.real_fin, zpow_sub₀ (two_ne_zero (α := ℝ))]
  cases n <;> cases n' <;> push_cast <;> simp <;> ring

/-- FDIV (R144). -/
theorem fDiv_divsTo (a b : ℕ) : DivsTo t md (fDecode t a) (fDecode t b) (fDiv t md a b).1 (fDiv t md a b).2 := by
  unfold fDiv
  dsimp only
  generalize fDecode t a = x
  generalize fDecode t b = y
  rcases x with q | n | ⟨n, m, e⟩
  · refine ⟨fun _ => ⟨rfl, rfl⟩, ?_, ?_, ?_, ?_, ?_, ?_⟩ <;> simp
  · rcases y with q | n' | ⟨n', m', e'⟩
    · refine ⟨fun _ => ⟨rfl, rfl⟩, ?_, ?_, ?_, ?_, ?_, ?_⟩ <;> simp
    · refine ⟨?_, ?_, ?_, ?_, ?_, ?_, ?_⟩ <;> simp
    · refine ⟨?_, ?_, ?_, ?_, ?_, ?_, ?_⟩ <;> simp
  · rcases y with q | n' | ⟨n', m', e'⟩
    · refine ⟨fun _ => ⟨rfl, rfl⟩, ?_, ?_, ?_, ?_, ?_, ?_⟩ <;> simp
    · refine ⟨?_, ?_, ?_, ?_, ?_, ?_, ?_⟩ <;> simp
    · by_cases hm' : m' = 0
      · by_cases h4 : t = .e4m3 <;> by_cases hm : m = 0 <;>
          refine ⟨by simp, by simp, ?_, by simp, by simp, ?_, by simp [hm']⟩ <;> simp [hm, hm', h4, infBits]
      · refine ⟨by simp, by simp, by simp [hm'], by simp, by simp, by simp [hm'], fun _ _ _ => ?_⟩
        rw [real_div]
        simp only [FVal.isNan_fin, Bool.or_self, Bool.false_eq_true, if_false, hm', FVal.isZero_fin, beq_iff_eq, FVal.neg_fin]
        exact ⟨rnd_rounded ht hmd false _ m (Nat.pos_of_ne_zero hm') _, by rintro rfl; simp⟩

/-- FFMA (R144): the product is exact, and the sum is rounded once. -/
theorem fFma_fusesTo (a b c : ℕ) : FusesTo t md (fDecode t a) (fDecode t b) (fDecode t c) (fFma t md a b c).1 (fFma t md a b c).2 := by
  unfold fFma
  dsimp only
  generalize fDecode t a = x
  generalize fDecode t b = y
  generalize fDecode t c = z
  have sum : ∀ p : FVal, p.isNan = false →
      AddsTo t md p z (if z.isNan then (canon t, sigFlag [z]) else fSum t md [p, z]).1
        (if z.isNan then (canon t, sigFlag [z]) else fSum t md [p, z]).2 := fun p hp => by
    by_cases hz : z.isNan = true
    · rw [if_pos hz]
      have : sigFlag [p, z] = sigFlag [z] := by cases p <;> simp_all [sigFlag, FVal.isSig]
      exact this ▸ addsTo_nan (.inr hz)
    · rw [if_neg hz]
      exact fSum_addsTo ht hmd hp (Bool.eq_false_iff.2 hz)
  rcases x with q | n | ⟨n, m, e⟩
  · refine ⟨fun _ => ⟨rfl, rfl⟩, ?_, ?_, ?_, ?_, ?_⟩ <;> simp
  · rcases y with q | n' | ⟨n', m', e'⟩
    · refine ⟨fun _ => ⟨rfl, rfl⟩, ?_, ?_, ?_, ?_, ?_⟩ <;> simp
    · exact ⟨by simp, by simp, fun _ _ => sum (.inf (n != n')) rfl, by simp, by simp, by simp⟩
    · by_cases hm : m' = 0
      · refine ⟨?_, ?_, ?_, ?_, ?_, ?_⟩ <;> simp [fProd, hm]
      · refine ⟨by simp, by simp [hm], fun _ _ => ?_, by simp, by simp, by simp⟩
        simpa [fProd, hm] using sum (.inf (n != n')) rfl
  · rcases y with q | n' | ⟨n', m', e'⟩
    · refine ⟨fun _ => ⟨rfl, rfl⟩, ?_, ?_, ?_, ?_, ?_⟩ <;> simp
    · by_cases hm : m = 0
      · refine ⟨?_, ?_, ?_, ?_, ?_, ?_⟩ <;> simp [fProd, hm]
      · refine ⟨by simp, by simp [hm], fun _ _ => ?_, by simp, by simp, by simp⟩
        simpa [fProd, hm] using sum (.inf (n != n')) rfl
    · obtain ⟨h1, -, h3, -, h5⟩ := sum (.fin (n != n') (m * m') (e + e')) rfl
      refine ⟨by simp, by simp, by simp, fun _ _ hz => ?_, fun _ _ k hk => ?_, fun _ _ hz => ?_⟩
      · simp [fProd, hz]
      · exact h3 k hk (FVal.finite_fin _ _ _)
      · have := h5 (FVal.finite_fin _ _ _) hz
        have hzero : (FVal.fin (n != n') (m * m') (e + e')).isZero = ((FVal.fin n m e).isZero || (FVal.fin n' m' e').isZero) := by
          rw [Bool.eq_iff_iff]; simp
        rw [real_mul, hzero] at this
        simpa [fProd] using this

end

/-! ## Exact results -/

/-- A whole number of units rounds to itself. -/
theorem roundsTo_self {md : ℕ} {q : ℤ} {x : ℚ} (h : ∃ k : ℤ, x = k * (2 : ℚ) ^ q) : RoundsTo md q (x : ℝ) x := by
  have hu : (0 : ℝ) < (2 : ℝ) ^ q := by positivity
  refine ⟨h, ?_⟩
  match md with
  | 0 => exact ⟨by rw [sub_self, abs_zero]; positivity, fun e => absurd (by rwa [sub_self, abs_zero, eq_comm] at e) (half_pos hu).ne'⟩
  | 1 => exact ⟨le_rfl, mul_self_nonneg _, by rwa [sub_self, abs_zero]⟩
  | 2 => exact ⟨le_rfl, by rwa [sub_self]⟩
  | n + 3 => exact ⟨le_rfl, by rwa [sub_self]⟩

/-- In every mode the rounded value is less than a unit away. -/
theorem abs_sub_lt_of_roundsTo {md : ℕ} {q : ℤ} {x : ℝ} {y : ℚ} (h : RoundsTo md q x y) : |x - y| < (2 : ℝ) ^ q := by
  have hu : (0 : ℝ) < (2 : ℝ) ^ q := by positivity
  obtain ⟨-, h⟩ := h
  match md with
  | 0 => exact h.1.trans_lt (half_lt_self hu)
  | 1 => exact h.2.2
  | 2 => rw [abs_lt]; exact ⟨by linarith [h.1], h.2⟩
  | n + 3 => rw [abs_lt]; exact ⟨by linarith [h.2], by linarith [h.1]⟩

/-- Rounding changes no whole number of units. -/
theorem roundsTo_exact {md : ℕ} {q : ℤ} {x : ℝ} {y : ℚ} (h : RoundsTo md q x y) {j : ℤ} (hx : x = j * (2 : ℝ) ^ q) : (y : ℝ) = x := by
  have hlt := abs_sub_lt_of_roundsTo h
  obtain ⟨⟨k, rfl⟩, -⟩ := h
  have hu : (0 : ℝ) < (2 : ℝ) ^ q := by positivity
  push_cast at hlt ⊢
  rw [hx, ← sub_mul, abs_mul, abs_of_pos hu, mul_lt_iff_lt_one_left hu] at hlt
  have hjk : |j - k| < 1 := by exact_mod_cast hlt
  rw [hx, show k = j by rw [Int.abs_lt_one_iff] at hjk; omega]

section
variable {t : Ty} (ht : t.isFloat = true)
include ht

/-- A value that the format can hold is delivered as it is, without flags. -/
theorem rnd_exact {md : ℕ} (hmd : md < 4) (sat n : Bool) {m : ℕ} {e : ℤ} (hm : m < 2 ^ (fMan t + 1)) (he : fEmin t - fMan t ≤ e)
    (hmax : m * (2 : ℚ) ^ e ≤ fMax t) :
    (∃ m' e', fDecode t (rnd t md sat n m 1 e).1 = .fin n m' e') ∧
      (fDecode t (rnd t md sat n m 1 e).1).real = (FVal.fin n m e).real ∧ (rnd t md sat n m 1 e).2 = 0 := by
  rcases Nat.eq_zero_or_pos m with rfl | hpos
  · have hz : 0 ≤ topMag t := Nat.zero_le _
    refine ⟨⟨_, _, fDecode_finite ht hz n⟩, ?_, rfl⟩
    rw [FVal.real_eq_zero.2 rfl, rnd_zero]
    exact (real_fDecode ht hz n).trans (by simp [ulps])
  have hne : (FVal.fin n m e).real ≠ 0 := mt FVal.real_eq_zero.1 hpos.ne'
  have habs : |(FVal.fin n m e).real| = m * (2 : ℚ) ^ e := by rw [FVal.real_fin, mul_assoc, abs_sign_mul _ (by positivity)]
  have hsign : decide (((FVal.fin n m e).real : ℝ) < 0) = n :=
    (decide_eq_decide.2 (by exact_mod_cast Iff.rfl)).trans (FVal.decide_real_neg (e := e) hpos.ne')
  obtain ⟨y, y', hy, -, hin, -⟩ := rnd_fin ht hmd sat n m e (by exact_mod_cast hne)
  set q := max (Int.log 2 |((FVal.fin n m e).real : ℝ)|) (fEmin t) - fMan t with hq
  have hlog : Int.log 2 |((FVal.fin n m e).real : ℝ)| < fMan t + 1 + e := by
    rw [← Int.lt_zpow_iff_log_lt one_lt_two (abs_pos.2 (by exact_mod_cast hne)), ← Rat.cast_abs, habs, zpow_add₀ (by norm_num)]
    push_cast
    rw [mul_lt_mul_iff_left₀ (by positivity), ← Nat.cast_succ, zpow_natCast]
    exact_mod_cast hm
  have hunits : ((FVal.fin n m e).real : ℝ) = (((if n then -1 else 1) * (m * 2 ^ (e - q).toNat : ℕ) : ℤ) : ℝ) * (2 : ℝ) ^ q := by
    have : (2 : ℝ) ^ (e - q).toNat * (2 : ℝ) ^ q = (2 : ℝ) ^ e := by
      rw [zpow_toNat (by omega), ← zpow_add₀ two_ne_zero, sub_add_cancel]
    rw [FVal.real_fin]
    push_cast
    rw [← this]
    split <;> push_cast <;> ring
  have hyx := roundsTo_exact hy hunits
  have hyx' : y = (FVal.fin n m e).real := by exact_mod_cast hyx
  obtain ⟨hfin, hreal, -, hflag, -⟩ := hin (by rw [hyx', habs]; exact hmax)
  rw [hsign] at hfin
  exact ⟨hfin, hreal.trans hyx', hflag hyx⟩

end

section
variable {t : Ty} (ht : t.isFloat = true) {md : ℕ} (hmd : md < 4)
include ht hmd

/-- FSCALE (R145) of a finite value: one rounding of a × 2^n. -/
theorem fScale_rounded {a m : ℕ} {ng : Bool} {e : ℤ} (h : fDecode t a = .fin ng m e) (n : ℤ) :
    Rounded t md false ((FVal.fin ng m e).real * (2 : ℝ) ^ n) (fScale t md a n).1 (fScale t md a n).2 := by
  obtain ⟨hm, -, -, he1, he2⟩ := fDecode_bounds ht h
  have hreal : (((FVal.fin ng m (e + n)).real : ℚ) : ℝ) = (FVal.fin ng m e).real * (2 : ℝ) ^ n := by
    rw [FVal.real_fin, FVal.real_fin, zpow_add₀ (by norm_num)]
    push_cast
    ring
  have := rnd_fin ht hmd false ng m (e + n)
  rw [← rnd_clampExp ht md false ng m (hm.trans (by norm_num)) he1 he2 n, hreal] at this
  simpa only [fScale, h] using this

omit hmd in
/-- FROUND (R146) of a finite value: the integral value of its mode. -/
theorem fRound_integral {a m : ℕ} {ng : Bool} {e : ℤ} (h : fDecode t a = .fin ng m e) :
    (fDecode t (fRound t md a).1).Finite ∧ (fDecode t (fRound t md a).1).neg = ng ∧
      RoundsTo md 0 ((FVal.fin ng m e).real : ℝ) (fDecode t (fRound t md a).1).real ∧
      (fRound t md a).2 = if (fDecode t (fRound t md a).1).real = (FVal.fin ng m e).real then 0 else flagNX := by
  obtain ⟨-, hm, -, -, -⟩ := fDecode_bounds ht h
  by_cases hint : 0 ≤ e ∨ m = 0
  · have hr : fRound t md a = (a % 2 ^ t.width, 0) := by simp only [fRound, h, hint, if_true]
    rw [hr, fDecode_mod ht, h]
    refine ⟨FVal.finite_fin _ _ _, rfl, roundsTo_self ?_, by simp⟩
    rcases hint with he | rfl
    · refine ⟨(if ng then -1 else 1) * (m * 2 ^ e.toNat : ℕ), ?_⟩
      rw [FVal.real_fin, ← Int.toNat_of_nonneg he, zpow_natCast]
      push_cast
      rw [Int.toNat_of_nonneg he, mul_assoc, mul_one]
    · exact ⟨0, by simp [FVal.real_fin]⟩
  · obtain ⟨he, hm0⟩ := not_or.1 hint
    obtain ⟨hround, -, hinexact⟩ := roundAt_spec md ng m one_pos e 0
    have hle : (roundAt md ng m 1 e 0).1 ≤ 2 ^ fMan t := by
      refine roundAt_le one_pos ?_
      have hm' : (m : ℝ) ≤ (2 : ℝ) ^ ((fMan t : ℤ) + 1) := by
        rw [← Nat.cast_succ, zpow_natCast]; exact_mod_cast hm.le
      calc (m : ℝ) / (1 : ℕ) * (2 : ℝ) ^ e = m * (2 : ℝ) ^ e := by simp
        _ ≤ (2 : ℝ) ^ ((fMan t : ℤ) + 1) * (2 : ℝ) ^ (-1 : ℤ) := by
          gcongr
          · exact one_le_two
          · omega
        _ = _ := by rw [← zpow_add₀ two_ne_zero]; simp
    have hr : fRound t md a = ((rnd t 1 false ng (roundAt md ng m 1 e 0).1 1 0).1, if (roundAt md ng m 1 e 0).2 then flagNX else 0) := by
      simp only [fRound, h, hint, if_false]
    have hmax : ((2 ^ fMan t : ℕ) : ℚ) ≤ fMax t := by
      cases t <;> simp [Ty.isFloat] at ht <;> norm_num [fMan, fMax]
    obtain ⟨hfin, hreal, -⟩ := rnd_exact ht (md := 1) (by norm_num) false ng (lt_of_le_of_lt hle (by rw [pow_succ]; have := Nat.two_pow_pos (fMan t); omega))
      (e := 0) (by have := format_bounds ht; omega) (by rw [zpow_zero, mul_one]; exact (Nat.cast_le.2 hle).trans hmax)
    rw [hr]
    generalize roundAt md ng m 1 e 0 = p at *
    have hx : ((FVal.fin ng m e).real : ℝ) = (if ng then -1 else 1) * ((m : ℝ) / (1 : ℕ) * (2 : ℝ) ^ e) := by
      rw [FVal.real_fin]; cases ng <;> simp
    obtain ⟨m', e', hdec⟩ := hfin
    refine ⟨⟨_, _, _, hdec⟩, by rw [hdec]; rfl, ?_, ?_⟩
    · rw [hreal, hx]
      exact hround
    · rw [hreal]
      have : (FVal.fin ng p.1 0).real = (FVal.fin ng m e).real ↔ p.2 = false := by
        rw [← Bool.not_eq_true, hinexact, not_not, ← Rat.cast_inj (α := ℝ), hx, FVal.real_fin]
        cases ng <;> simp
      simp only [this]
      cases p.2 <;> rfl

omit hmd in
/-- A zero pattern is its sign bit. -/
theorem mod_of_isZero {a : ℕ} (h : (fDecode t a).isZero = true) : a % 2 ^ t.width = signBit t (fDecode t a).neg := by
  cases hd : fDecode t a with
  | fin ng m e =>
    rw [hd] at h
    obtain ⟨-, rfl, rfl, -⟩ := fin_of_fDecode ht hd
    rw [FVal.isZero_fin, beq_iff_eq, magSig_eq_zero] at h
    rw [mod_eq_parts ht, h]
    rfl
  | inf n => rw [hd] at h; cases h
  | nan q => rw [hd] at h; cases h

end

end Sys2Proof.Machine
end

section
/-!
PROOFS of the numbers family (O9): floating-point arithmetic.
-/

namespace Sys2Proof.Machine

theorem rm_lt (md : BitVec 3) : rmMd md < 4 := Nat.mod_lt _ (by norm_num)

/-- The special operands of FSCALE and FROUND (R145, R146). -/
theorem fScale_special {t : Ty} (md a : ℕ) (n : ℤ) :
    ((fDecode t a).isNan = true → (fScale t md a n).1 = canon t ∧ (fScale t md a n).2 = sigFlag [fDecode t a]) ∧
    (∀ ng, fDecode t a = .inf ng → (fScale t md a n).1 = infBits t ng ∧ (fScale t md a n).2 = 0) ∧
    ((fDecode t a).isZero = true → (fScale t md a n).1 = signBit t (fDecode t a).neg ∧ (fScale t md a n).2 = 0) := by
  unfold fScale
  cases fDecode t a with
  | nan q => cases q <;> simp [sigFlag, FVal.isSig]
  | inf ng => simp
  | fin ng m e => simp +contextual

theorem fRound_special {t : Ty} (ht : t.isFloat = true) (md a : ℕ) :
    ((fDecode t a).isNan = true → (fRound t md a).1 = canon t ∧ (fRound t md a).2 = sigFlag [fDecode t a]) ∧
    (∀ ng, fDecode t a = .inf ng → (fRound t md a).1 = infBits t ng ∧ (fRound t md a).2 = 0) ∧
    ((fDecode t a).isZero = true → (fRound t md a).1 = signBit t (fDecode t a).neg ∧ (fRound t md a).2 = 0) := by
  have hz := mod_of_isZero ht (a := a)
  unfold fRound
  cases h : fDecode t a with
  | nan q => cases q <;> simp [sigFlag, FVal.isSig]
  | inf ng => simp
  | fin ng m e =>
    rw [h] at hz
    refine ⟨by simp, by simp, fun h0 => ?_⟩
    have hm : m = 0 := by simpa using h0
    simp [hm, hz h0]

/-- Settles O9: one rounding of the exact result (`rnd_rounded`), from one lemma for each operation. -/
theorem floatArithmetic : Obligations.FloatArithmetic := by
  unfold Obligations.FloatArithmetic
  refine ⟨fun t md sat neg num den ex ht hmd hd => rnd_rounded ht hmd sat neg num hd ex, fun s f g hf hg => ?_, fun s f hf => ?_⟩
  · refine ⟨?_, ?_, ?_, ?_, ?_, ?_, ?_⟩
    · exact givesFloats_flt2 rfl fun j => fAdd_addsTo hf (rm_lt _) _ _
    · exact givesFloats_flt2 rfl fun j => fSub_addsTo hf (rm_lt _) _ _
    · exact givesFloats_flt2 rfl fun j => fMul_mulsTo hf (rm_lt _) _ _
    · exact givesFloats_flt2 rfl fun j => fDiv_divsTo hf (rm_lt _) _ _
    · exact givesFloats_flt3 rfl fun j => fFma_fusesTo hf (rm_lt _) _ _ _
    · exact givesFloats_fltImm rfl fun j => fAdd_addsTo hg (rm_lt _) _ _
    · exact givesFloats_fltImm rfl fun j => fMul_mulsTo hg (rm_lt _) _ _
  · refine ⟨?_, ?_⟩
    · refine givesFloats_pureT rfl (by simp [vecMd]) fun j hj => ?_
      rw [lget_zipWith 0 0 _ _ _ _ (by simpa [vecMd] using hj) (by simpa [vecMd] using hj)]
      refine ⟨fScale_special _ _ _, ?_⟩
      rintro ⟨ng, m, e, h⟩
      rw [h]
      exact fScale_rounded hf (rm_lt _) h _
    · refine givesFloats_flt1 rfl fun j => ⟨fRound_special hf _ _, ?_⟩
      rintro ⟨ng, m, e, h⟩
      rw [h]
      exact fRound_integral hf h

end Sys2Proof.Machine
end

section
/-!
PROOFS of the numbers family (O10): minimum, maximum, sign, comparison and class.
-/

namespace Sys2Proof.Machine

section
variable {t : Ty} (ht : t.isFloat = true)
include ht

/-- A pattern that is no NaN is finite, or the infinity above the largest finite magnitude. -/
theorem notNan_cases {a : ℕ} (h : (fDecode t a).isNan = false) :
    (a % 2 ^ (t.width - 1) ≤ topMag t ∧ fDecode t a = .fin (bitN a (t.width - 1)) (magSig t (a % 2 ^ (t.width - 1))) (magExp t (a % 2 ^ (t.width - 1)))) ∨
    (a % 2 ^ (t.width - 1) = topMag t + 1 ∧ fDecode t a = .inf (bitN a (t.width - 1))) := by
  rw [fDecode_eq ht a] at h ⊢
  split
  · next hm => exact .inl ⟨hm, rfl⟩
  · next hm =>
    rw [if_neg hm] at h
    split
    · next hi => exact .inr ⟨hi.2, rfl⟩
    · next hi => rw [if_neg hi] at h; cases h

/-- `fKey` orders the patterns that are no NaN as R55 orders their values. -/
theorem fBelow_iff_fKey {a b : ℕ} (ha : (fDecode t a).isNan = false) (hb : (fDecode t b).isNan = false) :
    FBelow (fDecode t a) (fDecode t b) ↔ fKey t a < fKey t b := by
  have hc : (0 : ℚ) < (2 : ℚ) ^ (fEmin t - fMan t) := by positivity
  have lt_iff : ∀ m n : ℕ, (ulps t m : ℚ) * (2 : ℚ) ^ (fEmin t - fMan t) < ulps t n * (2 : ℚ) ^ (fEmin t - fMan t) ↔ m < n := fun m n => by
    rw [mul_lt_mul_iff_left₀ hc, Nat.cast_lt, (ulps_strictMono t).lt_iff_lt]
  have real_eq : ∀ (n : Bool) (m : ℕ), (FVal.fin n (magSig t m) (magExp t m)).real =
      (if n then -1 else 1) * (ulps t m * (2 : ℚ) ^ (fEmin t - fMan t)) := fun n m => by
    rw [FVal.real_fin, mul_assoc, magSig_mul]
  have nonneg : ∀ m : ℕ, (0 : ℚ) ≤ ulps t m * (2 : ℚ) ^ (fEmin t - fMan t) := fun m => by positivity
  unfold fKey
  rcases notNan_cases ht ha with ⟨hma, hda⟩ | ⟨hma, hda⟩ <;> rcases notNan_cases ht hb with ⟨hmb, hdb⟩ | ⟨hmb, hdb⟩ <;> rw [hda, hdb] <;>
    generalize a % 2 ^ (t.width - 1) = m at * <;> generalize b % 2 ^ (t.width - 1) = n at *
  · have hA := nonneg m
    have hB := nonneg n
    cases bitN a (t.width - 1) <;> cases bitN b (t.width - 1) <;>
      simp only [FBelow, real_eq, Bool.false_eq_true, if_false, if_true, one_mul, neg_mul, neg_lt_neg_iff, lt_iff, FVal.neg_fin,
        and_false, or_false, and_true, reduceCtorEq]
    · omega
    · exact iff_of_false (by linarith) (by omega)
    · refine iff_of_true ?_ (by omega)
      rcases hA.lt_or_eq with h | h
      · exact .inl (by linarith)
      · rcases hB.lt_or_eq with h' | h'
        · exact .inl (by linarith)
        · exact .inr ⟨by rw [← h, neg_zero], h'.symm⟩
    · omega
  · cases bitN a (t.width - 1) <;> cases bitN b (t.width - 1) <;> simp [FBelow] <;> omega
  · cases bitN a (t.width - 1) <;> cases bitN b (t.width - 1) <;> simp [FBelow] <;> omega
  · cases bitN a (t.width - 1) <;> cases bitN b (t.width - 1) <;> simp [FBelow] <;> omega

/-- Patterns that are no NaN have one value only when they have one key. -/
theorem fDecode_eq_iff_fKey {a b : ℕ} (ha : (fDecode t a).isNan = false) (hb : (fDecode t b).isNan = false) :
    fDecode t a = fDecode t b ↔ fKey t a = fKey t b := by
  constructor
  · intro h
    have h1 := mt (fBelow_iff_fKey ht ha hb).2
    have h2 := mt (fBelow_iff_fKey ht hb ha).2
    have irrefl : ∀ v : FVal, ¬ FBelow v v := by
      rintro (q | n | ⟨n, m, e⟩)
      · simp [FBelow]
      · cases n <;> simp [FBelow]
      · cases n <;> simp [FBelow]
    rw [h] at h1 h2
    have := h1 (irrefl _)
    have := h2 (irrefl _)
    omega
  · intro h
    have hs : bitN a (t.width - 1) = bitN b (t.width - 1) ∧ a % 2 ^ (t.width - 1) = b % 2 ^ (t.width - 1) := by
      unfold fKey at h
      cases hsa : bitN a (t.width - 1) <;> cases hsb : bitN b (t.width - 1) <;>
        simp only [hsa, hsb, if_true, if_false, Bool.false_eq_true, reduceCtorEq, true_and, false_and] at h ⊢ <;> omega
    rw [fDecode_eq ht a, fDecode_eq ht b, hs.1, hs.2]

theorem canon_lt : canon t < 2 ^ t.width := by
  cases t <;> simp [Ty.isFloat] at ht <;> simp [canon, Ty.width]

theorem fMinMax_lt (isMax : Bool) (a b : ℕ) : (fMinMax t isMax a b).1 < 2 ^ t.width := by
  have := canon_lt ht
  have hm : ∀ a, a % 2 ^ t.width < 2 ^ t.width := fun a => Nat.mod_lt _ (Nat.two_pow_pos _)
  unfold fMinMax
  simp only
  split_ifs <;> simp [hm, this]

omit ht in
/-- Nothing lies below or above a NaN. -/
theorem not_fBelow_of_isNan {v w : FVal} (h : v.isNan = true ∨ w.isNan = true) : ¬ FBelow v w := by
  rcases v with q | (_ | _) | _ <;> rcases w with q | (_ | _) | _ <;> simp [FBelow] at h ⊢

/-- FMIN and FMAX (R55, R147). -/
theorem fMinMax_picksTo (isMax : Bool) (a b : ℕ) :
    PicksTo t isMax (a % 2 ^ t.width) (b % 2 ^ t.width) (fMinMax t isMax a b).1 (fMinMax t isMax a b).2 := by
  have below := fBelow_iff_fKey ht (a := a) (b := b)
  have above := fBelow_iff_fKey ht (a := b) (b := a)
  have none := fun h => not_fBelow_of_isNan (v := fDecode t a) (w := fDecode t b) h
  have none' := fun h => not_fBelow_of_isNan (v := fDecode t b) (w := fDecode t a) h
  unfold PicksTo fMinMax
  simp only [fDecode_mod ht]
  cases ha : (fDecode t a).isNan <;> cases hb : (fDecode t b).isNan
  · rw [below ha hb, above hb ha]
    rcases lt_trichotomy (fKey t a) (fKey t b) with h | h | h <;> cases isMax <;> simp [h, h.not_gt]
  · simp [none (.inr hb), none' (.inl hb)]
  · simp [none (.inl ha), none' (.inr ha)]
  · simp [none (.inl ha), none' (.inr ha)]

omit ht in
/-- FABS (R148). -/
theorem fAbs_spec (a : ℕ) :
    ((fDecode t a).isNan = true → (fAbs t a).1 = canon t ∧ (fAbs t a).2 = sigFlag [fDecode t a]) ∧
    (¬ (fDecode t a).isNan = true → (fAbs t a).1 = a % 2 ^ t.width % 2 ^ (t.width - 1) ∧ (fAbs t a).2 = 0) := by
  rw [Nat.mod_mod_of_dvd _ (Nat.pow_dvd_pow 2 (Nat.sub_le _ _))]
  unfold fAbs
  cases fDecode t a with
  | nan q => cases q <;> simp [sigFlag, FVal.isSig]
  | inf n => simp
  | fin n m e => simp

omit ht in
/-- Adding a higher power of two sets its bit. -/
theorem xor_two_pow {m k : ℕ} (h : m < 2 ^ k) : m ^^^ 2 ^ k = 2 ^ k + m ∧ (2 ^ k + m) ^^^ 2 ^ k = m := by
  have hadd : 2 ^ k + m = 2 ^ k ||| m := by simpa using Nat.two_pow_add_eq_or_of_lt h 1
  have hbit : ∀ i, m.testBit i = true → i ≠ k := by
    rintro i hi rfl
    rw [Nat.testBit_lt_two_pow h] at hi
    cases hi
  rw [hadd]
  constructor <;> apply Nat.eq_of_testBit_eq <;> intro i <;> have := hbit i <;>
    simp only [Nat.testBit_xor, Nat.testBit_or, Nat.testBit_two_pow] <;> cases hm : m.testBit i <;> by_cases hk : k = i <;> simp_all

/-- FNEG (R148). -/
theorem fNeg_spec (a : ℕ) :
    ((fDecode t a).isNan = true → (fNeg t a).1 = canon t ∧ (fNeg t a).2 = sigFlag [fDecode t a]) ∧
    (¬ (fDecode t a).isNan = true → (fNeg t a).1 = a % 2 ^ t.width ^^^ 2 ^ (t.width - 1) ∧ (fNeg t a).2 = 0) := by
  have hx : negBits t (a % 2 ^ t.width) = a % 2 ^ t.width ^^^ 2 ^ (t.width - 1) := by
    obtain ⟨h1, h2⟩ := xor_two_pow (mag_lt t a)
    rw [negBits_eq ht, mod_eq_parts ht]
    cases bitN a (t.width - 1)
    · simp [signBit, h1]
    · simp [signBit, h2]
  unfold fNeg
  cases fDecode t a with
  | nan q => cases q <;> simp [sigFlag, FVal.isSig]
  | inf n => simp [hx]
  | fin n m e => simp [hx]

/-- FCMP's EQ (R55, R149). -/
theorem fCmp_eq (a b : ℕ) : (fCmp t 0 a b).1 = true ↔ ¬ (fDecode t a).isNan = true ∧ ¬ (fDecode t b).isNan = true ∧
    (fDecode t a = fDecode t b ∨ ((fDecode t a).isZero = true ∧ (fDecode t b).isZero = true)) := by
  have same := fDecode_eq_iff_fKey ht (a := a) (b := b)
  cases ha : (fDecode t a).isNan <;> cases hb : (fDecode t b).isNan
  · simp [fCmp, ha, hb, same ha hb, or_comm]
  · simp [fCmp, hb]
  · simp [fCmp, ha]
  · simp [fCmp, ha]

/-- FCMP's LT. -/
theorem fCmp_lt (a b : ℕ) : (fCmp t 1 a b).1 = true ↔ FBelow (fDecode t a) (fDecode t b) ∧
    ¬ ((fDecode t a).isZero = true ∧ (fDecode t b).isZero = true) := by
  have below := fBelow_iff_fKey ht (a := a) (b := b)
  have none := not_fBelow_of_isNan (v := fDecode t a) (w := fDecode t b)
  cases ha : (fDecode t a).isNan <;> cases hb : (fDecode t b).isNan
  · simp only [fCmp, ha, hb, below ha hb]
    cases (fDecode t a).isZero <;> cases (fDecode t b).isZero <;> simp
  · simp [fCmp, hb, none (.inr hb)]
  · simp [fCmp, ha, none (.inl ha)]
  · simp [fCmp, ha, none (.inl ha)]

omit ht in
/-- FCMP's LE is EQ or LT, and its UN holds beside a NaN. -/
theorem fCmp_le (a b : ℕ) : (fCmp t 2 a b).1 = true ↔ (fCmp t 0 a b).1 = true ∨ (fCmp t 1 a b).1 = true := by
  simp only [fCmp, Bool.and_eq_true, Bool.or_eq_true, decide_eq_true_eq, beq_iff_eq, Bool.not_eq_true', ← Bool.not_eq_true,
    le_iff_lt_or_eq]
  tauto

omit ht in
theorem fCmp_un (n a b : ℕ) : (fCmp t (n + 3) a b).1 = true ↔ (fDecode t a).isNan = true ∨ (fDecode t b).isNan = true := by
  simp [fCmp]

/-- A finite pattern is normal when its magnitude reaches the smallest normal. -/
theorem normal_iff {a m : ℕ} {n : Bool} {e : ℤ} (h : fDecode t a = .fin n m e) :
    2 ^ fMan t ≤ m ↔ (2 : ℚ) ^ fEmin t ≤ |(FVal.fin n m e).real| := by
  obtain ⟨-, -, rfl, rfl⟩ := fin_of_fDecode ht h
  generalize a % 2 ^ (t.width - 1) = p
  have hmin : (2 : ℚ) ^ fEmin t = ulps t (2 ^ fMan t) * (2 : ℚ) ^ (fEmin t - fMan t) := by
    have := ulps_mul_add t (E := 1) (f := 0) le_rfl (Nat.zero_le _)
    rw [mul_one, add_zero, Nat.sub_self, pow_zero, mul_one] at this
    rw [this]
    push_cast
    rw [← zpow_natCast, ← zpow_add₀ two_ne_zero, add_sub_cancel]
  have hsig : 2 ^ fMan t ≤ magSig t p ↔ 2 ^ fMan t ≤ p := by
    unfold magSig
    split <;> omega
  rw [FVal.real_fin, mul_assoc, abs_sign_mul _ (by positivity), magSig_mul, hmin, mul_le_mul_iff_left₀ (by positivity), Nat.cast_le,
    (ulps_strictMono t).le_iff_le, hsig]

end

/-- FCLASS (R150). -/
theorem fClass_nan {t : Ty} {a : ℕ} {q : Bool} (h : fDecode t a = .nan q) : fClass t a = (if q then 8 else 9, sigFlag [.nan q]) := by
  unfold fClass
  rw [h]
  cases q <;> rfl

theorem fClass_inf {t : Ty} {a : ℕ} {n : Bool} (h : fDecode t a = .inf n) : fClass t a = (if n then 0 else 7, 0) := by
  unfold fClass
  rw [h]

theorem fClass_fin {t : Ty} (ht : t.isFloat = true) {a m : ℕ} {n : Bool} {e : ℤ} (h : fDecode t a = .fin n m e) : fClass t a =
    (if m = 0 then (if n then 3 else 4)
      else if (2 : ℚ) ^ fEmin t ≤ |(FVal.fin n m e).real| then (if n then 1 else 6) else (if n then 2 else 5), 0) := by
  unfold fClass
  rw [h]
  simp only [decide_eq_true_eq, normal_iff ht h]

/-- Settles O10: the keys of `fKey` stand in the order of the values (`fBelow_iff_fKey`). -/
theorem floatOrder : Obligations.FloatOrder := by
  unfold Obligations.FloatOrder
  intro s f ht
  simp only [fDecode_mod ht]
  refine ⟨?_, ?_, ?_, ?_, ?_, ?_, ?_⟩
  · exact givesFloats_flt2 rfl fun j => fMinMax_picksTo ht false _ _
  · exact givesFloats_flt2 rfl fun j => fMinMax_picksTo ht true _ _
  · refine givesFloats_flt3 rfl fun j => ⟨_, _, _, fMinMax_picksTo ht true _ _, ?_, rfl⟩
    have := fMinMax_picksTo ht false (fMinMax f.ty true (s.fop f .a f.sa j) (s.fop f .b f.sb j)).1 (s.fop f .c f.sc j)
    rwa [Nat.mod_eq_of_lt (fMinMax_lt ht true _ _)] at this
  · exact givesFloats_flt1 rfl fun j => fAbs_spec _
  · exact givesFloats_flt1 rfl fun j => fNeg_spec ht _
  · refine givesFloats_flt2 rfl fun j => ?_
    have cases_of : ∀ {b : Bool} {c : Prop} {yes : ℕ}, (b = true ↔ c) → (c → (if b then yes else 0) = yes) ∧ (¬ c → (if b then yes else 0) = 0) :=
      fun hc => ⟨fun h => if_pos (hc.2 h), fun h => if_neg (mt hc.1 h)⟩
    rw [← and_assoc]
    refine ⟨cases_of ?_, rfl⟩
    unfold rmMd
    match f.md.toNat % 4 with
    | 0 => exact fCmp_eq ht _ _
    | 1 => exact fCmp_lt ht _ _
    | 2 => exact (fCmp_le _ _).trans (or_congr (fCmp_eq ht _ _) (fCmp_lt ht _ _))
    | n + 3 => exact fCmp_un n _ _
  · refine givesFloats_flt1 rfl fun j => ?_
    cases h : fDecode f.ty (s.fop f .a f.sa j) with
    | nan q => rw [fClass_nan h]; exact ⟨rfl, rfl⟩
    | inf n => rw [fClass_inf h]; exact ⟨rfl, rfl⟩
    | fin n m e =>
      rw [fClass_fin ht h]
      refine ⟨rfl, ?_⟩
      by_cases hm : m = 0
      · simp [hm]
      · by_cases hl : (2 : ℚ) ^ fEmin f.ty ≤ |(FVal.fin n m e).real| <;> simp [hm, hl]

end Sys2Proof.Machine
end

section
/-!
PROOFS of the numbers family: a value known between two neighbours, and the integer square root.
-/

namespace Sys2Proof.Machine

/-! ## The integer root -/

/-- From a root's high bits, the bits below k complete the integer root. -/
theorem isqrt_fold (n k : ℕ) (r : ℕ) (hle : r * r ≤ n) (hlt : n < (r + 2 ^ k) * (r + 2 ^ k)) :
    let s := (List.range k).reverse.foldl (fun r i => if (r + 2 ^ i) * (r + 2 ^ i) ≤ n then r + 2 ^ i else r) r
    s * s ≤ n ∧ n < (s + 1) * (s + 1) := by
  induction k generalizing r with
  | zero => exact ⟨hle, hlt⟩
  | succ k ih =>
    rw [List.range_succ, List.reverse_append, List.reverse_singleton, List.singleton_append, List.foldl_cons]
    split
    · next h => exact ih _ h (by rwa [add_assoc, ← two_mul, ← pow_succ'])
    · next h => exact ih _ hle (not_le.1 h)

/-- `isqrt` is the integer root. -/
theorem isqrt_spec (n : ℕ) : isqrt n * isqrt n ≤ n ∧ n < (isqrt n + 1) * (isqrt n + 1) := by
  refine isqrt_fold n _ 0 (Nat.zero_le _) ?_
  rw [zero_add, ← pow_add]
  exact lt_of_lt_of_le Nat.lt_log2_self (Nat.pow_le_pow_right two_pos (by omega))

/-! ## A sticky half unit (R60) -/

section
variable {s c : ℤ} {x x' : ℝ} (hx : c * (2 : ℝ) ^ s < x ∧ x < (c + 1) * (2 : ℝ) ^ s) (hx' : c * (2 : ℝ) ^ s < x' ∧ x' < (c + 1) * (2 : ℝ) ^ s)
include hx hx'

/-- Two values between the same neighbouring multiples of a unit lie on the same side of every multiple. -/
theorem le_iff_of_between (j : ℤ) : j * (2 : ℝ) ^ s ≤ x ↔ j * (2 : ℝ) ^ s ≤ x' := by
  have hu : (0 : ℝ) < (2 : ℝ) ^ s := by positivity
  have key : ∀ z : ℝ, c * (2 : ℝ) ^ s < z ∧ z < (c + 1) * (2 : ℝ) ^ s → (j * (2 : ℝ) ^ s ≤ z ↔ j ≤ c) := fun z hz => by
    constructor
    · intro h
      have : (j : ℝ) < c + 1 := (mul_lt_mul_iff_left₀ hu).1 (h.trans_lt hz.2)
      exact Int.lt_add_one_iff.1 (by exact_mod_cast this)
    · intro h
      exact (mul_le_mul_of_nonneg_right (Int.cast_le.2 h) hu.le).trans hz.1.le
  rw [key x hx, key x' hx']

omit hx' in
theorem ne_of_between (j : ℤ) : x ≠ j * (2 : ℝ) ^ s := by
  have hu : (0 : ℝ) < (2 : ℝ) ^ s := by positivity
  rintro rfl
  have h1 : (c : ℝ) < j := (mul_lt_mul_iff_left₀ hu).1 hx.1
  have h2 : (j : ℝ) < c + 1 := (mul_lt_mul_iff_left₀ hu).1 hx.2
  have h1' : c < j := by exact_mod_cast h1
  have h2' : j < c + 1 := by exact_mod_cast h2
  omega

theorem lt_iff_of_between (j : ℤ) : j * (2 : ℝ) ^ s < x ↔ j * (2 : ℝ) ^ s < x' := by
  rw [lt_iff_le_and_ne, lt_iff_le_and_ne, le_iff_of_between hx hx', and_iff_left (ne_of_between hx j).symm,
    and_iff_left (ne_of_between hx' j).symm]

/-- At a place above the unit they round alike. -/
theorem roundsTo_of_between {md : ℕ} {q : ℤ} (hq : s + 1 ≤ q) {y : ℚ} (h : RoundsTo md q x y) : RoundsTo md q x' y := by
  obtain ⟨⟨k, rfl⟩, h⟩ := h
  refine ⟨⟨k, rfl⟩, ?_⟩
  obtain ⟨d, hd⟩ : ∃ d : ℕ, q = s + 1 + d := ⟨(q - s - 1).toNat, by omega⟩
  have hu : (0 : ℝ) < (2 : ℝ) ^ s := by positivity
  have hunit : (2 : ℝ) ^ q = (2 * 2 ^ d : ℤ) * (2 : ℝ) ^ s := by
    rw [hd, zpow_add₀ two_ne_zero, zpow_add₀ two_ne_zero, zpow_natCast]; push_cast; ring
  -- a half unit of the place is a whole number of the small units
  have half : ∀ j : ℤ, (j : ℝ) * ((2 : ℝ) ^ q / 2) = ((j * 2 ^ d : ℤ) : ℝ) * (2 : ℝ) ^ s := fun j => by
    rw [hunit]; push_cast; ring
  have hqpos : (0 : ℝ) < (2 : ℝ) ^ q := by positivity
  have hy : ∀ j : ℤ, (((k * (2 : ℚ) ^ q : ℚ)) : ℝ) + j * ((2 : ℝ) ^ q / 2) = (((2 * k + j) * 2 ^ d : ℤ) : ℝ) * (2 : ℝ) ^ s := fun j => by
    rw [← half]; push_cast; ring
  have low : ∀ j : ℤ, ((k * (2 : ℚ) ^ q : ℚ) : ℝ) + j * ((2 : ℝ) ^ q / 2) ≤ x → ((k * (2 : ℚ) ^ q : ℚ) : ℝ) + j * ((2 : ℝ) ^ q / 2) < x' :=
    fun j hj => by
      rw [hy] at hj ⊢
      exact lt_of_le_of_ne ((le_iff_of_between hx hx' _).1 hj) (ne_of_between hx' _).symm
  have high : ∀ j : ℤ, x ≤ ((k * (2 : ℚ) ^ q : ℚ) : ℝ) + j * ((2 : ℝ) ^ q / 2) → x' < ((k * (2 : ℚ) ^ q : ℚ) : ℝ) + j * ((2 : ℝ) ^ q / 2) :=
    fun j hj => by
      rw [hy] at hj ⊢
      exact not_le.1 fun hc => (ne_of_between hx _) (le_antisymm hj ((le_iff_of_between hx hx' _).2 hc))
  have zero : 0 ≤ x ↔ 0 ≤ x' := by simpa using le_iff_of_between hx hx' 0
  have low0 := low 0; have high0 := high 0; have low1 := low (-1); have high1 := high 1; have low2 := low (-2); have high2 := high 2
  generalize ((k * (2 : ℚ) ^ q : ℚ) : ℝ) = Y at *
  push_cast at low0 high0 low1 high1 low2 high2
  match md with
  | 0 =>
    obtain ⟨habs, -⟩ := h
    rw [abs_le] at habs
    have hlt : |x' - Y| < (2 : ℝ) ^ q / 2 := abs_lt.2 ⟨by linarith [low1 (by linarith)], by linarith [high1 (by linarith)]⟩
    exact ⟨hlt.le, fun e => absurd e hlt.ne⟩
  | 1 =>
    obtain ⟨habs, hsign, hlt⟩ := h
    rw [abs_lt] at hlt
    rcases le_or_gt 0 x with hpos | hneg
    · have hY : 0 ≤ Y ∨ x = 0 := by
        rcases le_or_gt 0 Y with h | h
        · exact .inl h
        · exact .inr (le_antisymm (by nlinarith) hpos)
      have hY0 : 0 ≤ Y := hY.resolve_right (by simpa using ne_of_between hx 0)
      rw [abs_of_nonneg hY0, abs_of_nonneg hpos] at habs
      have := zero.1 hpos
      rw [abs_of_nonneg hY0, abs_of_nonneg this, abs_lt]
      exact ⟨by linarith [low0 (by linarith)], by positivity, by linarith [low0 (by linarith)], by linarith [high2 (by linarith)]⟩
    · have hY0 : Y ≤ 0 := by by_contra hc; nlinarith [not_le.1 hc]
      rw [abs_of_nonpos hY0, abs_of_neg hneg] at habs
      have : x' < 0 := not_le.1 (mt zero.2 (not_le.2 hneg))
      rw [abs_of_nonpos hY0, abs_of_neg this, abs_lt]
      exact ⟨by linarith [high0 (by linarith)], mul_nonneg_of_nonpos_of_nonpos this.le hY0, by linarith [low2 (by linarith)],
        by linarith [high0 (by linarith)]⟩
  | 2 =>
    obtain ⟨hle, hlt⟩ := h
    exact ⟨by linarith [low0 (by linarith)], by linarith [high2 (by linarith)]⟩
  | n + 3 =>
    obtain ⟨hle, hlt⟩ := h
    exact ⟨by linarith [high0 (by linarith)], by linarith [low2 (by linarith)]⟩

/-- The rounding of one is the rounding of the other, when the unit lies below the place of both. -/
theorem rounded_of_between {t : Ty} {md : ℕ} {sat : Bool} (hpos : 0 < x) (hs : s + fMan t + 1 ≤ Int.log 2 x) {r : ℕ} {fl : Flags}
    (h : Rounded t md sat x r fl) : Rounded t md sat x' r fl := by
  intro _
  have hpos' : 0 < x' := by
    have hxx' := lt_iff_of_between hx hx' 0
    simpa [hpos] using hxx'
  -- a multiple of a power of two from the unit up
  have pow : ∀ e : ℤ, s ≤ e → (2 : ℝ) ^ e = ((2 ^ (e - s).toNat : ℤ) : ℝ) * (2 : ℝ) ^ s := fun e he => by
    push_cast
    rw [zpow_toNat (by omega), ← zpow_add₀ two_ne_zero, sub_add_cancel]
  have hlog : Int.log 2 x' = Int.log 2 x := by
    have h1 := zpow_log_le hpos
    have h2 := lt_zpow_log x
    rw [pow _ (by omega)] at h1 h2
    refine log_eq_of_bounds ?_ ?_
    · rw [pow _ (by omega)]; exact (le_iff_of_between hx hx' _).1 h1
    · rw [pow _ (by omega)]; exact not_le.1 (mt (le_iff_of_between hx hx' _).2 (not_le.2 h2))
  obtain ⟨y, y', hy, hy', hin, hout⟩ := h hpos.ne'
  rw [abs_of_pos hpos] at hy hy'
  rw [abs_of_pos hpos', hlog]
  refine ⟨y, y', roundsTo_of_between hx hx' (by omega) hy, roundsTo_of_between hx hx' (by omega) hy', ?_, ?_⟩
  · obtain ⟨⟨k, hk⟩, -⟩ := hy
    have hne : ∀ z : ℝ, (z ≠ ((((k * 2 ^ (max (Int.log 2 x) (fEmin t) - fMan t - s).toNat : ℤ)) : ℝ) * (2 : ℝ) ^ s)) → (y : ℝ) ≠ z := fun z hz he => by
      refine hz ?_
      rw [← he, hk]
      push_cast
      rw [pow _ (by omega)]
      push_cast
      ring
    have hyx := hne x (ne_of_between hx _)
    have hyx' := hne x' (ne_of_between hx' _)
    simp only [ne_eq, hyx, hyx', hpos.not_gt, hpos'.not_gt] at hin ⊢
    exact hin
  · simp only [hpos.not_gt, hpos'.not_gt] at hout ⊢
    exact hout

end

end Sys2Proof.Machine
end

section
/-!
PROOFS of the numbers family: a square root and its reciprocal are correctly rounded from a root with a sticky bit (R60).
-/

namespace Sys2Proof.Machine

section
variable {t : Ty} (ht : t.isFloat = true)
include ht

/-- A positive value between r and r + 1 units rounds as the unit's middle does, and a whole number of units as itself. -/
theorem rounded_sticky {w : ℝ} {r : ℕ} {exact : Prop} [Decidable exact] (hle : (r : ℝ) ≤ w) (hlt : w < r + 1) (he : exact ↔ w = r)
    (hr : 2 ^ (fMan t + 1) ≤ r) (s : ℤ) :
    Rounded t 0 false (w * (2 : ℝ) ^ s) (rnd t 0 false false (2 * r + if exact then 0 else 1) 2 s).1
      (rnd t 0 false false (2 * r + if exact then 0 else 1) 2 s).2 := by
  have hrnd := rnd_rounded ht (md := 0) (by norm_num) false false (2 * r + if exact then 0 else 1) two_pos s
  simp only [Bool.false_eq_true, if_false, one_mul] at hrnd
  by_cases h : exact
  · have hw : (((2 * r + if exact then 0 else 1 : ℕ) : ℝ) / (2 : ℕ)) = w := by
      rw [if_pos h, he.1 h]; push_cast; ring
    rwa [hw] at hrnd
  · have hne : (r : ℝ) < w := lt_of_le_of_ne hle fun e => h (he.2 e.symm)
    have hmid : (((2 * r + if exact then 0 else 1 : ℕ) : ℝ) / (2 : ℕ)) = r + 1 / 2 := by
      rw [if_neg h]; push_cast; ring
    rw [hmid] at hrnd
    have hu : (0 : ℝ) < (2 : ℝ) ^ s := by positivity
    refine rounded_of_between (s := s) (c := r) (x := (r + 1 / 2) * (2 : ℝ) ^ s) ⟨?_, ?_⟩ ⟨?_, ?_⟩ (by positivity) ?_ hrnd
    · rw [mul_lt_mul_iff_left₀ hu]; push_cast; linarith
    · rw [mul_lt_mul_iff_left₀ hu]; push_cast; linarith
    · rw [mul_lt_mul_iff_left₀ hu]; exact_mod_cast hne
    · rw [mul_lt_mul_iff_left₀ hu]; exact_mod_cast hlt
    · rw [← Int.zpow_le_iff_le_log one_lt_two (by positivity), add_assoc, add_comm s, zpow_add₀ (by norm_num), Nat.cast_two,
        mul_le_mul_iff_left₀ hu]
      have : ((2 ^ (fMan t + 1) : ℕ) : ℝ) ≤ r := by exact_mod_cast hr
      rw [← Nat.cast_succ, zpow_natCast, Nat.succ_eq_add_one]
      push_cast at this
      linarith

omit ht in
/-- An exponent made even: twice its half, and the odd bit. -/
theorem even_part (ex : ℤ) : ∃ h : ℤ, ex - (ex % 2).toNat = 2 * h ∧ (ex - (ex % 2).toNat) / 2 = h ∧
    ∀ m : ℕ, (m : ℝ) * (2 : ℝ) ^ ex = ((m * 2 ^ (ex % 2).toNat : ℕ) : ℝ) * ((2 : ℝ) ^ h) ^ 2 := by
  refine ⟨(ex - (ex % 2).toNat) / 2, by omega, rfl, fun m => ?_⟩
  push_cast
  rw [← zpow_natCast (2 : ℝ) (ex % 2).toNat, ← zpow_natCast ((2 : ℝ) ^ _) 2, ← zpow_mul, mul_assoc, ← zpow_add₀ two_ne_zero]
  congr 2
  push_cast
  omega

omit ht in
/-- The integer root of n is the whole part of its root. -/
theorem isqrt_sqrt (n : ℕ) : (isqrt n : ℝ) ≤ Real.sqrt n ∧ Real.sqrt n < isqrt n + 1 ∧ (isqrt n * isqrt n = n ↔ Real.sqrt n = isqrt n) := by
  obtain ⟨h1, h2⟩ := isqrt_spec n
  refine ⟨Real.le_sqrt_of_sq_le (by rw [sq]; exact_mod_cast h1), ?_, ?_⟩
  · rw [Real.sqrt_lt' (by positivity), sq]; exact_mod_cast h2
  · rw [Real.sqrt_eq_iff_mul_self_eq (by positivity) (by positivity)]; norm_cast; exact eq_comm

/-- FSQRT (R60): the integer root of the scaled magnitude, with a sticky half unit. -/
theorem fSqrt_rounded {m : ℕ} (hm : 0 < m) (ex : ℤ) :
    Rounded t 0 false (Real.sqrt (m * (2 : ℝ) ^ ex)) (fSqrt t m ex).1 (fSqrt t m ex).2 := by
  obtain ⟨-, -, -, -, hman, -⟩ := format_bounds ht
  obtain ⟨h, -, hhalf, hval⟩ := even_part ex
  set n := m * 2 ^ (ex % 2).toNat * 2 ^ 128 with hn
  obtain ⟨h1, h2, h3⟩ := isqrt_sqrt n
  have hbig : 2 ^ 64 ≤ isqrt n := by
    by_contra hc
    have hlt := (isqrt_spec n).2
    have hn' : 2 ^ 64 * 2 ^ 64 ≤ n := by rw [hn]; exact Nat.le_mul_of_pos_left _ (by positivity)
    have := Nat.mul_le_mul (show isqrt n + 1 ≤ 2 ^ 64 by omega) (show isqrt n + 1 ≤ 2 ^ 64 by omega)
    omega
  have hroot : Real.sqrt (m * (2 : ℝ) ^ ex) = Real.sqrt n * (2 : ℝ) ^ (h - 64) := by
    have hn' : (n : ℝ) = ((m * 2 ^ (ex % 2).toNat : ℕ) : ℝ) * ((2 : ℝ) ^ (64 : ℤ)) ^ 2 := by rw [hn]; push_cast; norm_num
    rw [hval, hn', Real.sqrt_mul (by positivity), Real.sqrt_mul (by positivity), Real.sqrt_sq (by positivity), Real.sqrt_sq (by positivity),
      mul_assoc, ← zpow_add₀ two_ne_zero, add_sub_cancel]
  have := rounded_sticky ht h1 h2 h3 ((Nat.pow_le_pow_right two_pos (by omega)).trans hbig) (h - 64)
  rw [← hroot] at this
  unfold fSqrt
  simp only [hhalf]
  exact this

/-- FRSQ (R60). -/
theorem fRsq_rounded {m : ℕ} (hm : 0 < m) (ex : ℤ) :
    Rounded t 0 false (1 / Real.sqrt (m * (2 : ℝ) ^ ex)) (fRsq t m ex).1 (fRsq t m ex).2 := by
  obtain ⟨-, -, -, -, hman, -⟩ := format_bounds ht
  obtain ⟨h, -, hhalf, hval⟩ := even_part ex
  replace hval := hval m
  unfold fRsq
  simp only [hhalf]
  have hM : 0 < m * 2 ^ (ex % 2).toNat := by positivity
  generalize m * 2 ^ (ex % 2).toNat = M at *
  set p := 128 + Nat.log2 M with hp
  set r := isqrt (2 ^ (2 * p) / M)
  obtain ⟨hr1, hr2⟩ := isqrt_spec (2 ^ (2 * p) / M)
  have hle : r * r * M ≤ 2 ^ (2 * p) := (Nat.le_div_iff_mul_le hM).1 hr1
  have hlt : 2 ^ (2 * p) < (r + 1) * (r + 1) * M := (Nat.div_lt_iff_lt_mul hM).1 hr2
  have hM0 : (0 : ℝ) < M := by exact_mod_cast hM
  have hroot : 0 < Real.sqrt M := Real.sqrt_pos.2 hM0
  have hpow : ((2 : ℝ) ^ p) = Real.sqrt (2 ^ (2 * p) : ℕ) := by
    rw [mul_comm, pow_mul]; push_cast; rw [Real.sqrt_sq (by positivity)]
  have hprod : ∀ k : ℕ, (k : ℝ) * Real.sqrt M = Real.sqrt ((k * k * M : ℕ) : ℝ) := fun k => by
    push_cast
    rw [Real.sqrt_mul (by positivity), Real.sqrt_mul_self (by positivity)]
  have hvalue : 1 / Real.sqrt (m * (2 : ℝ) ^ ex) = (2 : ℝ) ^ p / Real.sqrt M * (2 : ℝ) ^ (-h - p) := by
    rw [hval, Real.sqrt_mul (by positivity), Real.sqrt_sq (by positivity), zpow_sub₀ two_ne_zero, zpow_neg, zpow_natCast]
    field_simp
  have hbig : 2 ^ 64 ≤ r := by
    by_contra hc
    have h64 := Nat.mul_le_mul (show r + 1 ≤ 2 ^ 64 by omega) (show r + 1 ≤ 2 ^ 64 by omega)
    have hM' : M ≤ 2 ^ (Nat.log2 M + 1) := Nat.lt_log2_self.le
    have h1 := Nat.mul_le_mul h64 hM'
    have h2 : 2 ^ 64 * 2 ^ 64 * 2 ^ (Nat.log2 M + 1) ≤ 2 ^ (2 * p) := by
      rw [← pow_add, ← pow_add]; exact Nat.pow_le_pow_right two_pos (by omega)
    have := hlt.trans_le (Nat.mul_le_mul h64 hM')
    omega
  have := rounded_sticky ht (w := (2 : ℝ) ^ p / Real.sqrt M) (r := r) (exact := r * r * M = 2 ^ (2 * p)) ?_ ?_ ?_
    ((Nat.pow_le_pow_right two_pos (by omega)).trans hbig) (-h - p)
  · rwa [← hvalue] at this
  · rw [le_div_iff₀ hroot, hprod, hpow]
    exact Real.sqrt_le_sqrt (by exact_mod_cast hle)
  · have hp1 := hprod (r + 1)
    push_cast at hp1
    rw [div_lt_iff₀ hroot, hp1, hpow]
    exact Real.sqrt_lt_sqrt (by positivity) (by push_cast; exact_mod_cast hlt)
  · rw [div_eq_iff hroot.ne', hprod, hpow, Real.sqrt_inj (by positivity) (by positivity), eq_comm]
    norm_cast

end

end Sys2Proof.Machine
end

section
/-!
PROOFS of the numbers family: the reciprocal, and the exact cases of the exponential and the logarithm (R60).
-/

namespace Sys2Proof.Machine

/-! ## The seven functions (R60) -/

/-- The formats that the functions take. -/
theorem wide_cases {t : Ty} (h1 : 0xA ≤ t.code) (h2 : t.code ≤ 0xC) : t = .bf16 ∨ t = .fp16 ∨ t = .fp32 := by
  cases t <;> simp [Ty.code] at h1 h2 ⊢

theorem fFun_nan {f : FFun} {t : Ty} {a : ℕ} (h : (fDecode t a).isNan = true) :
    (fFun f t a).1 = canon t ∧ (fFun f t a).2 = sigFlag [fDecode t a] := by
  unfold fFun
  cases hd : fDecode t a with
  | nan q => cases q <;> exact ⟨rfl, rfl⟩
  | inf n => rw [hd] at h; cases h
  | fin n m e => rw [hd] at h; cases h

/-- The whole part and the fraction that FEXP2 takes from its operand's magnitude. -/
def exp2Whole (m : ℕ) (e : ℤ) : ℕ := if 0 ≤ e then m * 2 ^ (min e 64).toNat else m / 2 ^ (-e).toNat
def exp2Frac (m : ℕ) (e : ℤ) : ℕ := if 0 ≤ e then 0 else m % 2 ^ (-e).toNat

section
variable {t : Ty} (ht : t.isFloat = true)
include ht

/-- A whole number as an exact value. -/
theorem rnd_int_rounded (k : ℤ) : Rounded t 0 false (k : ℝ) (rnd t 0 false (decide (k < 0)) k.natAbs 1 0).1
    (rnd t 0 false (decide (k < 0)) k.natAbs 1 0).2 := by
  have := rnd_fin ht (md := 0) (by norm_num) false (decide (k < 0)) k.natAbs 0
  have hreal : ((FVal.fin (decide (k < 0)) k.natAbs 0).real : ℝ) = k := by
    rw [FVal.real_fin, zpow_zero, mul_one, Nat.cast_natAbs]
    rcases lt_or_ge k 0 with h | h
    · simp [h, abs_of_neg]
    · simp [not_lt.2 h, abs_of_nonneg h]
  rwa [hreal] at this

/-- FRCP of a finite value that is not 0. -/
theorem rcp_rounded (n : Bool) {m : ℕ} (hm : 0 < m) (e : ℤ) :
    Rounded t 0 false (1 / (FVal.fin n m e).real) (rnd t 0 false n 1 m (-e)).1 (rnd t 0 false n 1 m (-e)).2 := by
  have := rnd_rounded ht (md := 0) (by norm_num) false n 1 hm (-e)
  have hreal : (1 / (FVal.fin n m e).real : ℝ) = (if n then -1 else 1) * (((1 : ℕ) : ℝ) / m) * (2 : ℝ) ^ (-e) := by
    rw [FVal.real_fin, zpow_neg]
    cases n <;> push_cast <;> simp <;> ring
  rwa [hreal]

omit ht in
theorem fExp2_of_big {n : Bool} {m : ℕ} {e : ℤ} (h : 4096 ≤ exp2Whole m e) :
    fExp2 t n m e = rnd t 0 false false 3 2 (if n then -4097 else 4096) := if_pos h

omit ht in
theorem fExp2_of_whole {n : Bool} {m : ℕ} {e : ℤ} (h : ¬ 4096 ≤ exp2Whole m e) (h0 : exp2Frac m e = 0) :
    fExp2 t n m e = rnd t 0 false false 1 1 (if n then -(exp2Whole m e : ℤ) else exp2Whole m e) := (if_neg h).trans (if_pos h0)

omit ht in
/-- FEXP2's whole part of an integer, up to the bound past which every result rounds alike. -/
theorem exp2_whole {n : Bool} {m : ℕ} {e k : ℤ} (hk : (FVal.fin n m e).real = k) (hm : 0 < m) :
    (4096 ≤ exp2Whole m e → if n then k ≤ -4096 else 4096 ≤ k) ∧
    (exp2Whole m e < 4096 → exp2Frac m e = 0 ∧ k = if n then -(exp2Whole m e : ℤ) else exp2Whole m e) := by
  have habs : k = (if n then -1 else 1) * k.natAbs := by
    have hpos : (0 : ℚ) < m * (2 : ℚ) ^ e := by positivity
    rw [FVal.real_fin, mul_assoc] at hk
    cases n
    · have : (0 : ℚ) < k := by rw [← hk]; simpa using hpos
      have : 0 < k := by exact_mod_cast this
      rw [if_neg Bool.false_ne_true]; omega
    · have : (k : ℚ) < 0 := by rw [← hk]; simpa using hpos
      have : k < 0 := by exact_mod_cast this
      rw [if_pos rfl]; omega
  have hnat : (m : ℚ) * (2 : ℚ) ^ e = k.natAbs := by
    have : |(k : ℚ)| = m * (2 : ℚ) ^ e := by rw [← hk, FVal.real_fin, mul_assoc, abs_sign_mul _ (by positivity)]
    rw [Nat.cast_natAbs, Int.cast_abs, this]
  generalize k.natAbs = j at *
  rw [habs]
  have hwhole : (4096 ≤ exp2Whole m e → 4096 ≤ j) ∧ (exp2Whole m e < 4096 → exp2Frac m e = 0 ∧ exp2Whole m e = j) := by
    unfold exp2Whole exp2Frac
    by_cases he : 0 ≤ e
    · have hj : m * 2 ^ e.toNat = j := by
        rw [← Int.toNat_of_nonneg he, zpow_natCast] at hnat
        exact_mod_cast hnat
      have hle : m * 2 ^ (min e 64).toNat ≤ j := by
        rw [← hj]; exact Nat.mul_le_mul_left _ (Nat.pow_le_pow_right two_pos (by omega))
      rw [if_pos he, if_pos he]
      refine ⟨fun h => h.trans hle, fun h => ⟨rfl, ?_⟩⟩
      have hmin : (min e 64).toNat < 12 := by
        by_contra hc
        have h12 : 2 ^ 12 ≤ 2 ^ (min e 64).toNat := Nat.pow_le_pow_right two_pos (by omega)
        have := Nat.le_mul_of_pos_left (2 ^ (min e 64).toNat) hm
        omega
      rw [← hj, show (min e 64).toNat = e.toNat by omega]
    · have hj : m = j * 2 ^ (-e).toNat := by
        have h2 : (2 : ℚ) ^ e * (2 : ℚ) ^ (-e).toNat = 1 := by
          rw [← zpow_natCast, ← zpow_add₀ two_ne_zero, show e + ((-e).toNat : ℤ) = 0 by omega, zpow_zero]
        have : (m : ℚ) = j * (2 : ℚ) ^ (-e).toNat := by rw [← hnat, mul_assoc, h2, mul_one]
        exact_mod_cast this
      rw [if_neg he, if_neg he, hj, Nat.mul_div_cancel _ (Nat.two_pow_pos _)]
      exact ⟨id, fun _ => ⟨Nat.mul_mod_left _ _, rfl⟩⟩
  refine ⟨fun h => ?_, fun h => ⟨(hwhole.2 h).1, ?_⟩⟩
  · have := hwhole.1 h
    cases n <;> simp <;> omega
  · rw [(hwhole.2 h).2]
    cases n <;> simp

/-- FEXP2 of an integer (R60): the power of two, rounded. -/
theorem fExp2_rounded {n : Bool} {m : ℕ} {e k : ℤ} (hk : (FVal.fin n m e).real = k) (hm : 0 < m) :
    Rounded t 0 false ((2 : ℝ) ^ k) (fExp2 t n m e).1 (fExp2 t n m e).2 := by
  have hrnd : Rounded t 0 false ((2 : ℝ) ^ k) (rnd t 0 false false 1 1 k).1 (rnd t 0 false false 1 1 k).2 := by
    simpa using rnd_rounded ht (md := 0) (by norm_num) false false 1 one_pos k
  suffices h : fExp2 t n m e = rnd t 0 false false 1 1 k by rw [h]; exact hrnd
  obtain ⟨hbig, hsmall⟩ := exp2_whole hk hm
  by_cases h : 4096 ≤ exp2Whole m e
  · have hk := hbig h
    rw [fExp2_of_big h]
    cases n with
    | false =>
      have h1 : (128 : ℤ) ≤ k := le_trans (by norm_num) hk
      rw [if_neg Bool.false_ne_true, rnd_of_big ht 0 false false (by norm_num) (by norm_num),
        rnd_of_big ht 0 false false one_pos one_pos (by simpa using two_zpow_le.2 h1)]
      calc (2 : ℝ) ^ (128 : ℤ) ≤ (2 : ℝ) ^ (4096 : ℤ) := two_zpow_le.2 (by norm_num)
        _ ≤ ((3 : ℕ) : ℝ) / (2 : ℕ) * (2 : ℝ) ^ (4096 : ℤ) := le_mul_of_one_le_left (by positivity) (by norm_num)
    | true =>
      have h1 : k < -200 := lt_of_le_of_lt hk (by norm_num)
      rw [if_pos rfl]
      refine rnd_eq_of_tiny ht 0 false false (num := 3) (den := 2) (by norm_num) (by norm_num) one_pos one_pos ?_ ?_
      · calc ((3 : ℕ) : ℝ) / (2 : ℕ) * (2 : ℝ) ^ (-4097 : ℤ) ≤ (2 : ℝ) ^ (1 : ℤ) * (2 : ℝ) ^ (-4097 : ℤ) := by gcongr; norm_num
          _ < (2 : ℝ) ^ (-200 : ℤ) := by rw [← zpow_add₀ two_ne_zero]; exact two_zpow_lt.2 (by norm_num)
      · simpa using two_zpow_lt.2 h1
  · obtain ⟨hfrac, hwhole⟩ := hsmall (not_le.1 h)
    rw [fExp2_of_whole h hfrac, ← hwhole]

omit ht in
/-- A positive value that is a power of two has a significand that is one. -/
theorem pow_two_sig {n : Bool} {m : ℕ} {e k : ℤ} (hk : (FVal.fin n m e).real = (2 : ℚ) ^ k) :
    n = false ∧ 0 < m ∧ m = 2 ^ Nat.log2 m ∧ (Nat.log2 m : ℤ) + e = k := by
  have hpos : (0 : ℚ) < (FVal.fin n m e).real := by rw [hk]; positivity
  have hm : m ≠ 0 := mt FVal.real_eq_zero.2 hpos.ne'
  have hn : n = false := by rw [← FVal.decide_real_neg (n := n) (e := e) hm]; simpa using hpos.le
  have h2 : (m : ℚ) = (2 : ℚ) ^ (k - e) := by
    rw [hn, FVal.real_fin] at hk
    rw [zpow_sub₀ two_ne_zero, ← hk]
    have : (2 : ℚ) ^ e ≠ 0 := by positivity
    field_simp
    simp
  have hge : 0 ≤ k - e := by
    rw [← zpow_le_zpow_iff_right₀ (one_lt_two (α := ℚ)), ← h2, zpow_zero]
    exact_mod_cast Nat.pos_of_ne_zero hm
  have hm2 : m = 2 ^ (k - e).toNat := by
    rw [← Int.toNat_of_nonneg hge, zpow_natCast] at h2
    exact_mod_cast h2
  have hlog : Nat.log2 m = (k - e).toNat := by rw [hm2, Nat.log2_two_pow]
  exact ⟨hn, Nat.pos_of_ne_zero hm, by rw [hlog, ← hm2], by omega⟩

omit ht in
/-- FLOG2 of a power of two (R60): its exponent, rounded. -/
theorem fLog2_pow {n : Bool} {m : ℕ} {e k : ℤ} (hk : (FVal.fin n m e).real = (2 : ℚ) ^ k) :
    fLog2 t m e = rnd t 0 false (decide (k < 0)) k.natAbs 1 0 := by
  obtain ⟨-, -, hm, he⟩ := pow_two_sig hk
  unfold fLog2
  simp only [he]
  rw [if_pos hm]

end

end Sys2Proof.Machine
end

section
/-!
PROOFS of the numbers family: the functions on finite operands, the tree of sums and the dot product (R69, R151 to R153).
-/

namespace Sys2Proof.Machine

/-- One and one half in the formats that the functions take. -/
theorem rnd_one {t : Ty} (h : t = .bf16 ∨ t = .fp16 ∨ t = .fp32) : ((rnd t 0 false false 1 1 0).1 : ℤ) = fBias t * 2 ^ fMan t ∧
    ((rnd t 0 false false 1 2 0).1 : ℤ) = fBias t * 2 ^ fMan t - 2 ^ fMan t := by
  rcases h with rfl | rfl | rfl <;> decide

theorem negBits_one {t : Ty} (h : t = .bf16 ∨ t = .fp16 ∨ t = .fp32) :
    negBits t (rnd t 0 false false 1 1 0).1 = (rnd t 0 false false 1 1 0).1 + signBit t true := by
  rcases h with rfl | rfl | rfl <;> decide

/-- An operand that is minus infinity, or finite and negative, is invalid for a root and a logarithm (R60). -/
theorem fFun_invalid {f : FFun} (hf : f = .rsq ∨ f = .sqrt ∨ f = .log2) {t : Ty} {a : ℕ}
    (h : fDecode t a = .inf true ∨ (fDecode t a).Finite ∧ (fDecode t a).real < 0) :
    (fFun f t a).1 = canon t ∧ (fFun f t a).2 = flagNV := by
  rcases h with h | ⟨⟨n, m, e, h⟩, hneg⟩
  · rcases hf with rfl | rfl | rfl <;> simp [fFun, h]
  · rw [h] at hneg
    have hm : m ≠ 0 := mt FVal.real_eq_zero.2 hneg.ne
    have hn : n = true := by rw [← FVal.decide_real_neg (n := n) (e := e) hm]; simpa using hneg
    rcases hf with rfl | rfl | rfl <;> simp [fFun, h, hm, hn]

section
variable {t : Ty} (ht : t.isFloat = true)
include ht

omit ht in
/-- A finite value above 0 has a sign bit of 0 and a significand above 0. -/
theorem pos_parts {a : ℕ} (hfin : (fDecode t a).Finite) (hpos : 0 < (fDecode t a).real) :
    ∃ m e, fDecode t a = .fin false m e ∧ 0 < m ∧ ((fDecode t a).real : ℝ) = m * (2 : ℝ) ^ e := by
  obtain ⟨n, m, e, h⟩ := hfin
  rw [h] at hpos ⊢
  have hm : m ≠ 0 := mt FVal.real_eq_zero.2 hpos.ne'
  have hn : n = false := by rw [← FVal.decide_real_neg (n := n) (e := e) hm]; simpa using hpos.le
  subst hn
  exact ⟨m, e, rfl, Nat.pos_of_ne_zero hm, by rw [FVal.real_fin]; simp⟩

theorem fFun_rsq_pos {a : ℕ} (hfin : (fDecode t a).Finite) (hpos : 0 < (fDecode t a).real) :
    Rounded t 0 false (1 / Real.sqrt (fDecode t a).real) (fFun .rsq t a).1 (fFun .rsq t a).2 := by
  obtain ⟨m, e, h, hm, hreal⟩ := pos_parts hfin hpos
  rw [hreal]
  simpa [fFun, h, hm.ne'] using fRsq_rounded ht hm e

theorem fFun_sqrt_pos {a : ℕ} (hfin : (fDecode t a).Finite) (hpos : 0 < (fDecode t a).real) :
    Rounded t 0 false (Real.sqrt (fDecode t a).real) (fFun .sqrt t a).1 (fFun .sqrt t a).2 := by
  obtain ⟨m, e, h, hm, hreal⟩ := pos_parts hfin hpos
  rw [hreal]
  simpa [fFun, h, hm.ne'] using fSqrt_rounded ht hm e

theorem fFun_rcp_fin {a : ℕ} (hfin : (fDecode t a).Finite) (hz : ¬ (fDecode t a).isZero = true) :
    Rounded t 0 false (1 / (fDecode t a).real) (fFun .rcp t a).1 (fFun .rcp t a).2 := by
  obtain ⟨n, m, e, h⟩ := hfin
  rw [h] at hz ⊢
  have hm : m ≠ 0 := by simpa using hz
  simpa [fFun, h, hm] using rcp_rounded ht n (Nat.pos_of_ne_zero hm) e

theorem fFun_exp2_int {a : ℕ} {k : ℤ} (hfin : (fDecode t a).Finite) (hk : (fDecode t a).real = k) :
    Rounded t 0 false ((2 : ℝ) ^ k) (fFun .exp2 t a).1 (fFun .exp2 t a).2 := by
  obtain ⟨n, m, e, h⟩ := hfin
  rw [h] at hk
  rcases Nat.eq_zero_or_pos m with rfl | hm
  · have hk0 : k = 0 := by
      rw [FVal.real_eq_zero.2 rfl] at hk
      exact_mod_cast hk.symm
    have hflag : (rnd t 0 false false 1 1 0).2 = 0 := by
      obtain ⟨-, hemin, -, hman, -⟩ := format_bounds ht
      refine (rnd_exact ht (md := 0) (by norm_num) false false (m := 1) (e := 0) ?_ (by omega) ?_).2.2
      · exact Nat.one_lt_two_pow (by omega)
      · cases t <;> simp [Ty.isFloat] at ht <;> norm_num [fMax]
    have := rnd_rounded ht (md := 0) (by norm_num) false false 1 one_pos 0
    rw [hflag] at this
    simpa [fFun, h, hk0] using this
  · simpa [fFun, h, hm.ne'] using fExp2_rounded ht hk hm

theorem fFun_log2_pow {a : ℕ} {k : ℤ} (hfin : (fDecode t a).Finite) (hk : (fDecode t a).real = (2 : ℚ) ^ k) :
    (k = 0 → (fFun .log2 t a).1 = 0 ∧ (fFun .log2 t a).2 = 0) ∧ Rounded t 0 false k (fFun .log2 t a).1 (fFun .log2 t a).2 := by
  obtain ⟨n, m, e, h⟩ := hfin
  rw [h] at hk
  obtain ⟨hn, hm, -⟩ := pow_two_sig hk
  have hf : fFun .log2 t a = rnd t 0 false (decide (k < 0)) k.natAbs 1 0 := by
    rw [← fLog2_pow hk]; simp [fFun, h, hn, hm.ne']
  rw [hf]
  exact ⟨by rintro rfl; exact ⟨rfl, rfl⟩, rnd_int_rounded ht k⟩

end

/-! ## Sums in a tree, and the dot product (R69, R152, R153) -/

theorem pairAdd_length (t : Ty) (md n : ℕ) (ls : List ℕ) (h : ls.length = 2 * n) : (pairAdd t md ls).1.length = n := by
  induction n generalizing ls with
  | zero => rw [List.length_eq_zero_iff.1 h]; rfl
  | succ n ih =>
    match ls, h with
    | a :: b :: rest, h => simp [pairAdd, ih rest (by simp at h; omega)]

/-- A level of the tree takes the halves of its list apart. -/
theorem pairAdd_append (t : Ty) (md n : ℕ) (l l' : List ℕ) (h : l.length = 2 * n) :
    pairAdd t md (l ++ l') = ((pairAdd t md l).1 ++ (pairAdd t md l').1, (pairAdd t md l).2 ||| (pairAdd t md l').2) := by
  induction n generalizing l with
  | zero => rw [List.length_eq_zero_iff.1 h]; simp [pairAdd]
  | succ n ih =>
    match l, h with
    | a :: b :: rest, h =>
      have := ih rest (by simp at h; omega)
      simp [pairAdd, this, BitVec.or_assoc]

/-- The tree over two halves adds their trees. -/
theorem treeAdd_append (t : Ty) (md n : ℕ) (l l' : List ℕ) (h : l.length = 2 ^ n) (h' : l'.length = 2 ^ n) :
    treeAdd t md (n + 1) (l ++ l') =
      ((fAdd t md (treeAdd t md n l).1 (treeAdd t md n l').1).1,
        (treeAdd t md n l).2 ||| (treeAdd t md n l').2 ||| (fAdd t md (treeAdd t md n l).1 (treeAdd t md n l').1).2) := by
  induction n generalizing l l' with
  | zero =>
    obtain ⟨a, rfl⟩ := List.length_eq_one_iff.1 h
    obtain ⟨b, rfl⟩ := List.length_eq_one_iff.1 h'
    simp [treeAdd, pairAdd, lget]
  | succ n ih =>
    have hp := pairAdd_append t md (2 ^ n) l l' (by rw [h, pow_succ']) 
    rw [treeAdd, hp, ih _ _ (pairAdd_length t md _ l (by rw [h, pow_succ'])) (pairAdd_length t md _ l' (by rw [h', pow_succ']))]
    simp only [treeAdd, Prod.mk.injEq, true_and]
    ac_rfl

theorem treeTo_congr {t : Ty} {md n : ℕ} {a b : ℕ → ℕ} (hab : ∀ i < 2 ^ n, a i = b i) {r : ℕ} {fl : Flags} (h : TreeTo t md n a r fl) :
    TreeTo t md n b r fl := by
  induction n generalizing a b r fl with
  | zero => rwa [TreeTo, ← hab 0 (by norm_num)]
  | succ n ih =>
    obtain ⟨r1, f1, r2, f2, f3, h1, h2, hadd, hfl⟩ := h
    rw [pow_succ] at hab
    exact ⟨r1, f1, r2, f2, f3, ih (fun i hi => hab i (by omega)) h1, ih (fun i hi => hab _ (by omega)) h2, hadd, hfl⟩

/-- VFRED's tree (R69). -/
theorem treeAdd_treeTo {t : Ty} (ht : t.isFloat = true) {md : ℕ} (hmd : md < 4) (n : ℕ) (ls : List ℕ) (h : ls.length = 2 ^ n) :
    TreeTo t md n (fun i => lget 0 ls i) (treeAdd t md n ls).1 (treeAdd t md n ls).2 := by
  induction n generalizing ls with
  | zero => exact ⟨rfl, rfl⟩
  | succ n ih =>
    rw [pow_succ] at h
    have h1 : (ls.take (2 ^ n)).length = 2 ^ n := by rw [List.length_take]; omega
    have h2 : (ls.drop (2 ^ n)).length = 2 ^ n := by rw [List.length_drop]; omega
    rw [← List.take_append_drop (2 ^ n) ls, treeAdd_append t md n _ _ h1 h2, List.take_append_drop]
    refine ⟨_, _, _, _, _, treeTo_congr (fun i hi => ?_) (ih _ h1), treeTo_congr (fun i hi => ?_) (ih _ h2), fAdd_addsTo ht hmd _ _, rfl⟩
    · simp [lget, List.getD_eq_getElem?_getD, hi]
    · simp [lget, List.getD_eq_getElem?_getD]

/-- The values of a lane of VFDOT2: the addend, and the two products' operands. -/
def dotValues (t : Ty) (p q : ℕ × ℕ) (c : ℕ) : List FVal :=
  [fDecode .fp32 c, fDecode t p.1, fDecode t q.1, fDecode t p.2, fDecode t q.2]

/-- A NaN operand of VFDOT2 gives the canonical NaN, a signalling one NV (R153). -/
theorem fdot2_nan {t : Ty} {md : ℕ} {p q : ℕ × ℕ} {c : ℕ} (h : (dotValues t p q c).any FVal.isNan = true) :
    (fdot2 t md [p, q] c).1 = canon .fp32 ∧ ((dotValues t p q c).any FVal.isSig = true → (fdot2 t md [p, q] c).2 = flagNV) := by
  have hall : fDecode .fp32 c :: ([p, q].map (fun x => (fDecode t x.1, fDecode t x.2))).map (·.1) ++
      ([p, q].map (fun x => (fDecode t x.1, fDecode t x.2))).map (·.2) = dotValues t p q c := rfl
  rw [List.cons_append] at hall
  unfold fdot2
  simp only [hall, h, Bool.or_true, if_true, true_and]
  intro hs
  rw [sigFlag, if_pos hs]
  split <;> rfl

/-- VFDOT2 on finite operands rounds the exact sum once (R153). -/
theorem fdot2_finite {t : Ty} {md : ℕ} (hmd : md < 4) {p q : ℕ × ℕ} {c : ℕ} (h : ∀ v ∈ dotValues t p q c, v.Finite) :
    Rounded .fp32 md false (((fDecode .fp32 c).real + (fDecode t p.1).real * (fDecode t p.2).real +
      (fDecode t q.1).real * (fDecode t q.2).real : ℚ) : ℝ) (fdot2 t md [p, q] c).1 (fdot2 t md [p, q] c).2 := by
  simp only [dotValues, List.forall_mem_cons, List.not_mem_nil, false_implies, implies_true, and_true] at h
  obtain ⟨⟨nc, mc, ec, hc⟩, ⟨n1, m1, e1, h1⟩, ⟨n3, m3, e3, h3⟩, ⟨n2, m2, e2, h2⟩, n4, m4, e4, h4⟩ := h
  have hsum := (fSum_sumTo (t := .fp32) rfl hmd (vs := [.fin nc mc ec, .fin (n1 != n2) (m1 * m2) (e1 + e2), .fin (n3 != n4) (m3 * m4) (e3 + e4)])
    (by simp)).1
  simp only [List.map_cons, List.map_nil, List.sum_cons, List.sum_nil, add_zero, real_mul, ← add_assoc] at hsum
  rw [hc, h1, h2, h3, h4]
  simpa [fdot2, fProd, hc, h1, h2, h3, h4] using hsum

end Sys2Proof.Machine
end

section
/-!
PROOFS of the numbers family (O11): the seven functions, VFRED and VFDOT2.
-/

namespace Sys2Proof.Machine

/-- The infinities and zeros of the functions but FSIG (R60). -/
theorem fFun_infinite_or_zero {t : Ty} {a : ℕ} :
    (∀ n, fDecode t a = .inf n → fFun .rcp t a = (signBit t n, 0) ∧ fFun .exp2 t a = (if n then 0 else infBits t false, 0)) ∧
    (fDecode t a = .inf false → fFun .rsq t a = (0, 0) ∧ fFun .sqrt t a = (infBits t false, 0) ∧ fFun .log2 t a = (infBits t false, 0)) ∧
    ((fDecode t a).isZero = true → fFun .rcp t a = (infBits t (fDecode t a).neg, flagDZ) ∧
      fFun .rsq t a = (infBits t (fDecode t a).neg, flagDZ) ∧ fFun .sqrt t a = (signBit t (fDecode t a).neg, 0) ∧
      fFun .log2 t a = (infBits t true, flagDZ) ∧ fFun .tanh t a = (signBit t (fDecode t a).neg, 0)) := by
  refine ⟨fun n h => ?_, fun h => ?_, fun h => ?_⟩
  · simp [fFun, h]
  · simp [fFun, h]
  · cases hd : fDecode t a with
    | nan q => simp [hd] at h
    | inf n => simp [hd] at h
    | fin n m e =>
      have hm : m = 0 := by simpa [hd] using h
      simp [fFun, hd, hm]

/-- FSIG and FTANH of infinities, and FSIG of 0 (R60). -/
theorem fFun_one {t : Ty} (ht : t = .bf16 ∨ t = .fp16 ∨ t = .fp32) {a : ℕ} :
    (∀ n, fDecode t a = .inf n →
      (((fFun .sig t a).1 : ℤ) = (if n then 0 else fBias t * 2 ^ fMan t) ∧ (fFun .sig t a).2 = 0) ∧
      ((fFun .tanh t a).1 : ℤ) = fBias t * 2 ^ fMan t + signBit t n ∧ (fFun .tanh t a).2 = 0) ∧
    ((fDecode t a).isZero = true →
      ((fFun .sig t a).1 : ℤ) = fBias t * 2 ^ fMan t - 2 ^ fMan t ∧ (fFun .sig t a).2 = 0) := by
  obtain ⟨one, half⟩ := rnd_one ht
  refine ⟨fun n h => ?_, fun h => ?_⟩
  · cases n
    · simp [fFun, h, one, signBit]
    · simp [fFun, h, one, negBits_one ht]
  · cases hd : fDecode t a with
    | nan q => simp [hd] at h
    | inf n => simp [hd] at h
    | fin n m e =>
      have hm : m = 0 := by simpa [hd] using h
      simp [fFun, hd, hm, half]

/-- VFDOT2 of one lane (R153). -/
theorem fdot2_spec {t : Ty} {md : ℕ} (hmd : md < 4) (a0 a1 b0 b1 c : ℕ) :
    ((dotValues t (a0, b0) (a1, b1) c).any FVal.isNan = true → (fdot2 t md [(a0, b0), (a1, b1)] c).1 = canon .fp32) ∧
    ((dotValues t (a0, b0) (a1, b1) c).any FVal.isSig = true → (fdot2 t md [(a0, b0), (a1, b1)] c).2 = flagNV) ∧
    ((∀ v ∈ dotValues t (a0, b0) (a1, b1) c, v.Finite) →
      Rounded .fp32 md false (((fDecode .fp32 c).real + (fDecode t a0).real * (fDecode t b0).real +
        (fDecode t a1).real * (fDecode t b1).real : ℚ) : ℝ) (fdot2 t md [(a0, b0), (a1, b1)] c).1 (fdot2 t md [(a0, b0), (a1, b1)] c).2) := by
  refine ⟨fun h => (fdot2_nan h).1, fun h => (fdot2_nan ?_).2 h, fdot2_finite hmd⟩
  obtain ⟨v, hv, hsig⟩ := List.any_eq_true.1 h
  refine List.any_eq_true.2 ⟨v, hv, ?_⟩
  cases v with
  | nan q => rfl
  | inf n => cases hsig
  | fin n m e => cases hsig

/-- The levels of VFRED's tree: five over the lanes of fp32, six over those of the 16-bit formats (R69). -/
theorem log2_lanes {t : Ty} (ht : t = .bf16 ∨ t = .fp16 ∨ t = .fp32) :
    Nat.log2 t.lanes = (if t = .fp32 then 5 else 6) ∧ t.lanes = 2 ^ (if t = .fp32 then 5 else 6) := by
  rcases ht with rfl | rfl | rfl <;> decide

/-- Settles O11: the special operands by cases on the decoded value, the finite ones by one rounding lemma each. -/
theorem floatFunctions : Obligations.FloatFunctions := by
  unfold Obligations.FloatFunctions
  refine ⟨fun s f h1 h2 h3 => ?_, fun s f h1 h2 => ?_⟩
  · have hw := wide_cases h1 h2
    have ht : f.ty.isFloat = true := by rcases hw with h | h | h <;> rw [h] <;> rfl
    refine ⟨?_, ?_, ?_, ?_, ?_, ?_, ?_⟩ <;> refine givesFloats_flt1 rfl fun j => ?_ <;>
      obtain ⟨hinf, hpos, hzero⟩ := fFun_infinite_or_zero (t := f.ty) (a := s.fop f .a f.sa j)
    · refine ⟨fFun_nan, fun n h => ?_, fun h => ?_, fFun_rcp_fin ht⟩
      · obtain ⟨hrcp, -⟩ := hinf n h
        exact Prod.mk.inj hrcp
      · obtain ⟨hrcp, -⟩ := hzero h
        exact Prod.mk.inj hrcp
    · refine ⟨fFun_nan, fFun_invalid (by simp), fun h => ?_, fun h => ?_, fFun_rsq_pos ht⟩
      · obtain ⟨hrsq, -⟩ := hpos h
        exact Prod.mk.inj hrsq
      · obtain ⟨-, hrsq, -⟩ := hzero h
        exact Prod.mk.inj hrsq
    · refine ⟨fFun_nan, fFun_invalid (by simp), fun h => ?_, fun h => ?_, fFun_sqrt_pos ht⟩
      · obtain ⟨-, hsqrt, -⟩ := hpos h
        exact Prod.mk.inj hsqrt
      · obtain ⟨-, -, hsqrt, -⟩ := hzero h
        exact Prod.mk.inj hsqrt
    · refine ⟨fFun_nan, fun n h => ?_, fun k => fFun_exp2_int ht⟩
      obtain ⟨-, hexp2⟩ := hinf n h
      exact Prod.mk.inj hexp2
    · refine ⟨fFun_nan, fFun_invalid (by simp), fun h => ?_, fun h => ?_, fun k => fFun_log2_pow ht⟩
      · obtain ⟨-, -, hlog2⟩ := hpos h
        exact Prod.mk.inj hlog2
      · obtain ⟨-, -, -, hlog2, -⟩ := hzero h
        exact Prod.mk.inj hlog2
    · exact ⟨fFun_nan, fun n h => ((fFun_one hw).1 n h).1, (fFun_one hw).2⟩
    · refine ⟨fFun_nan, fun n h => ((fFun_one hw).1 n h).2, fun h => ?_⟩
      obtain ⟨-, -, -, -, htanh⟩ := hzero h
      exact Prod.mk.inj htanh
  · have hw := wide_cases h1 h2
    have ht : f.ty.isFloat = true := by rcases hw with h | h | h <;> rw [h] <;> rfl
    obtain ⟨hlog, hlen⟩ := log2_lanes hw
    constructor
    · refine givesFloats_pureT rfl (by simp) fun j hj => ?_
      obtain rfl : j = 0 := by simpa using hj
      rw [hlog]
      exact treeAdd_treeTo ht (rm_lt _) _ _ (by rw [Rd.flts_length, hlen])
    · intro h32
      have hlanes : f.ty.lanes = 64 := by rw [hlen, if_neg h32]; rfl
      refine givesFloats_pureT (t := .fp32) rfl (by simp; rfl) fun i hi => ?_
      replace hi : i < 32 := hi
      have operand : ∀ k, k < 64 → lget (0, 0) (List.zip ((s.rdAt s.key).flts f.ty .a f.sa) ((s.rdAt s.key).flts f.ty .b f.sb)) k =
          (lget 0 ((s.rdAt s.key).flts f.ty .a f.sa) k, lget 0 ((s.rdAt s.key).flts f.ty .b f.sb) k) := fun k hk =>
        lget_zipWith 0 0 (0, 0) _ _ Prod.mk (by simp [hlanes, hk]) (by simp [hlanes, hk])
      rw [lget_range _ _ hi, operand _ (by omega), operand _ (by omega)]
      exact fdot2_spec (rm_lt _) _ _ _ _ _

end Sys2Proof.Machine
end

section
/-!
PROOFS of the numbers family: values rounded to integers and clamped to a type's range (R59).
-/

namespace Sys2Proof.Machine

/-! ## Rounding to integers (R59) -/

/-- An integer in the range of its type is read back from its low bits. -/
theorem extT_lowBits {t : Ty} {x : ℤ} (h : InRange t x) : extT t (lowBits x t.width) = x := by
  obtain ⟨n, hn⟩ := wrapT_dvd t x
  have hw := extT_range t (lowBits x t.width)
  rw [wrapT] at hn
  generalize extT t (lowBits x t.width) = y at *
  have hpos : (0 : ℤ) < 2 ^ (t.width - 1) := by positivity
  have hsplit : (2 : ℤ) ^ t.width = 2 * 2 ^ (t.width - 1) := by rw [← pow_succ', Nat.sub_add_cancel (width_pos t)]
  have hlt : |x - y| < 2 ^ t.width := by
    unfold InRange at h hw
    rw [abs_lt]
    by_cases hs : t.signed = true
    · rw [if_pos hs] at h hw
      constructor <;> omega
    · rw [if_neg hs] at h hw
      constructor <;> omega
  have : x - y = 0 := Int.eq_zero_of_abs_lt_dvd ⟨n, hn⟩ hlt
  omega

theorem int_bounds {t : Ty} (ht : t.isInt = true) : -(2 : ℤ) ^ 64 ≤ tyMin t ∧ tyMin t ≤ 0 ∧ 0 ≤ tyMax t ∧ tyMax t < 2 ^ 64 := by
  cases t <;> simp [Ty.isInt, Ty.code] at ht <;> decide

/-- Clamped exponents keep their order to every place that a conversion looks at. -/
theorem clampExp_cases {e : ℤ} (he : -149 ≤ e) (he' : e ≤ 120) (n : ℤ) : clampExp (e + clampExp n) = e + n ∨
    (clampExp (e + clampExp n) < -3000 ∧ e + n < -3000) ∨ (3000 < clampExp (e + clampExp n) ∧ 3000 < e + n) := by
  unfold clampExp
  split_ifs <;> omega

theorem roundAt_zero (md : ℕ) (neg : Bool) (ex q : ℤ) : roundAt md neg 0 1 ex q = (0, false) := by
  match md with
  | 0 => simp [roundAt]
  | 1 => simp [roundAt]
  | 2 => simp [roundAt]
  | n + 3 => simp [roundAt]

/-- A clamped exponent changes an integer's rounding only past every type's range. -/
theorem roundAt_clampExp (md : ℕ) (neg : Bool) {m : ℕ} (hm : m < 2 ^ 65) {e : ℤ} (he : -149 ≤ e) (he' : e ≤ 120) (n : ℤ) :
    roundAt md neg m 1 (clampExp (e + clampExp n)) 0 = roundAt md neg m 1 (e + n) 0 ∨
    2 ^ 64 < (roundAt md neg m 1 (clampExp (e + clampExp n)) 0).1 ∧ 2 ^ 64 < (roundAt md neg m 1 (e + n) 0).1 := by
  rcases Nat.eq_zero_or_pos m with rfl | hpos
  · exact .inl (by rw [roundAt_zero, roundAt_zero])
  have h1 : (1 : ℝ) ≤ m := by exact_mod_cast hpos
  have h2 : (m : ℝ) < (2 : ℝ) ^ (65 : ℤ) := by exact_mod_cast hm
  have tiny : ∀ x : ℤ, x < -3000 → (m : ℝ) / (1 : ℕ) * (2 : ℝ) ^ x < (2 : ℝ) ^ ((0 : ℤ) - 1) := fun x hx => by
    rw [Nat.cast_one, div_one]
    calc (m : ℝ) * (2 : ℝ) ^ x < (2 : ℝ) ^ (65 : ℤ) * (2 : ℝ) ^ x := by gcongr
      _ = (2 : ℝ) ^ (65 + x) := by rw [← zpow_add₀ two_ne_zero]
      _ ≤ _ := two_zpow_le.2 (by omega)
  have big : ∀ x : ℤ, 3000 < x → 2 ^ 65 ≤ (roundAt md neg m 1 x 0).1 := fun x hx => le_roundAt one_pos (by
    rw [Nat.cast_one, div_one, zpow_zero, mul_one, Nat.cast_pow, Nat.cast_ofNat, ← zpow_natCast]
    exact (two_zpow_le.2 (by norm_num; omega)).trans (le_mul_of_one_le_left (by positivity) h1))
  rcases clampExp_cases he he' n with h | ⟨h, h'⟩ | ⟨h, h'⟩
  · exact .inl (by rw [h])
  · exact .inl (by rw [roundAt_of_tiny md neg hpos one_pos (tiny _ h), roundAt_of_tiny md neg hpos one_pos (tiny _ h')])
  · exact .inr ⟨lt_of_lt_of_le (by norm_num) (big _ h), lt_of_lt_of_le (by norm_num) (big _ h')⟩

/-- A value rounded to an integer, and clamped to the range of its type (R59). -/
theorem toInt_spec {t : Ty} (ht : t.isInt = true) (md : ℕ) (quiet neg : Bool) {m : ℕ} (hm : m < 2 ^ 65) {e : ℤ} (he : -149 ≤ e) (he' : e ≤ 120)
    (n : ℤ) : ∃ y : ℤ, RoundsTo md 0 (((FVal.fin neg m e).real : ℝ) * (2 : ℝ) ^ n) y ∧
      (y < tyMin t → toInt t md quiet neg m (e + clampExp n) = (tyMin t, if quiet then 0 else flagNV)) ∧
      (tyMax t < y → toInt t md quiet neg m (e + clampExp n) = (tyMax t, if quiet then 0 else flagNV)) ∧
      (tyMin t ≤ y → y ≤ tyMax t → ∃ inexact : Bool, toInt t md quiet neg m (e + clampExp n) = (y, if inexact then flagNX else 0) ∧
        (inexact = true ↔ (y : ℝ) ≠ ((FVal.fin neg m e).real : ℝ) * (2 : ℝ) ^ n)) := by
  have hx : ((FVal.fin neg m e).real : ℝ) * (2 : ℝ) ^ n = (if neg then -1 else 1) * ((m : ℝ) / (1 : ℕ) * (2 : ℝ) ^ (e + n)) := by
    rw [FVal.real_fin, zpow_add₀ two_ne_zero]
    cases neg <;> push_cast <;> simp <;> ring
  obtain ⟨hround, -, hexact⟩ := roundAt_spec md neg m one_pos (e + n) 0
  obtain ⟨hmin, hmin0, hmax0, hmax⟩ := int_bounds ht
  have hk := roundAt_clampExp md neg hm he he' n
  rw [hx]
  unfold toInt
  generalize roundAt md neg m 1 (clampExp (e + clampExp n)) 0 = p at *
  generalize roundAt md neg m 1 (e + n) 0 = p' at *
  obtain ⟨k, i⟩ := p
  obtain ⟨k', i'⟩ := p'
  refine ⟨if neg then -(k' : ℤ) else k', by cases neg <;> simpa using hround, ?_⟩
  have hinexact : i' = true ↔ ((if neg then -(k' : ℤ) else k' : ℤ) : ℝ) ≠ (if neg then -1 else 1) * ((m : ℝ) / (1 : ℕ) * (2 : ℝ) ^ (e + n)) := by
    rw [zpow_zero, mul_one] at hexact
    rw [hexact]
    cases neg <;> simp
  rcases hk with hk | ⟨hk, hk'⟩
  · obtain ⟨rfl, rfl⟩ := Prod.mk.injEq .. ▸ hk
    dsimp only
    generalize (if neg then -(k : ℤ) else k : ℤ) = v at *
    refine ⟨fun h => if_pos h, fun h => ?_, fun h h' => ⟨i, ?_, hinexact⟩⟩
    · rw [if_neg (by omega), if_pos h]
    · rw [if_neg (by omega), if_neg (by omega)]
  · dsimp only at hk hk' ⊢
    norm_num at hk hk' hmin hmax
    cases neg <;> simp only [if_true, if_false, Bool.false_eq_true]
    · refine ⟨fun h => by omega, fun h => ?_, fun h h' => by omega⟩
      rw [if_neg (by omega), if_pos (by omega)]
    · refine ⟨fun h => ?_, fun h => by omega, fun h h' => by omega⟩
      rw [if_pos (by omega)]

end Sys2Proof.Machine
end

section
/-!
PROOFS of the numbers family: one element converted (R154, R156).
-/

namespace Sys2Proof.Machine

theorem tyMin_inRange (t : Ty) : InRange t (tyMin t) := (inRange_iff t _).2 ⟨le_rfl, tyMin_le_tyMax t⟩
theorem tyMax_inRange (t : Ty) : InRange t (tyMax t) := (inRange_iff t _).2 ⟨tyMin_le_tyMax t, le_rfl⟩

theorem isFloat_of_not_isInt {t : Ty} (h : t.isInt = true ∨ t.isFloat = true) (hi : ¬ t.isInt = true) : t.isFloat = true := h.resolve_left hi

theorem not_isFloat_of_isInt {t : Ty} (h : t.isInt = true) : t.isFloat = false := by
  cases t <;> simp [Ty.isInt, Ty.code] at h <;> rfl

/-- A finite source is a bounded significand at a bounded exponent; an integer stands at exponent 0. -/
theorem srcValue_bounds {src : Ty} (hs : src.isInt = true ∨ src.isFloat = true) {a m : ℕ} {n : Bool} {e : ℤ} (h : srcValue src a = .fin n m e) :
    m < 2 ^ 65 ∧ -149 ≤ e ∧ e ≤ 120 ∧ (src.isInt = true → e = 0) := by
  unfold srcValue at h
  split at h
  · next hi =>
    obtain ⟨h1, h2⟩ := (inRange_iff src _).1 (extT_range src a)
    obtain ⟨hmin, -, -, hmax⟩ := int_bounds hi
    obtain ⟨-, rfl, rfl⟩ := (FVal.fin.injEq ..).mp h
    refine ⟨?_, by norm_num, by norm_num, fun _ => rfl⟩
    norm_num at hmin hmax ⊢
    omega
  · next hi =>
    obtain ⟨h1, -, -, h2, h3⟩ := fDecode_bounds (isFloat_of_not_isInt hs hi) h
    exact ⟨lt_trans h1 (by norm_num), h2, h3, fun h => absurd h hi⟩

theorem toInt_clampExp (t : Ty) (md : ℕ) (quiet neg : Bool) (m : ℕ) (n : ℤ) :
    toInt t md quiet neg m (0 + clampExp n) = toInt t md quiet neg m n := by
  have : clampExp (0 + clampExp n) = clampExp n := by unfold clampExp; split_ifs <;> omega
  unfold toInt
  rw [this]

section
variable {src : Ty} (hs : src.isInt = true ∨ src.isFloat = true) {a m : ℕ} {n : Bool} {e : ℤ} (h : srcValue src a = .fin n m e)
include hs h

omit hs in
/-- A finite element converted to an integer. -/
theorem convert_fin_int {dst : Ty} (hd : dst.isInt = true) (md : ℕ) (sr : Option (BitVec 32)) (sat : Bool) (sc : ℤ) :
    convert dst src md sr sat sc a = (lowBits (toInt dst md src.isInt n m (e + clampExp sc)).1 dst.width,
      if src.isInt = true ∧ 0 ≤ sc then 0 else (toInt dst md src.isInt n m (e + clampExp sc)).2) := by
  unfold srcValue at h
  unfold convert
  split at h
  · next hi =>
    obtain ⟨rfl, rfl, rfl⟩ := (FVal.fin.injEq ..).mp h
    rw [toInt_clampExp, if_pos hi, if_pos hd, hi]
    by_cases hsc : 0 ≤ sc
    · simp [hsc]
    · simp [hsc, not_le.1 hsc]
  · next hi =>
    rw [if_neg hi, h]
    simp [hd, hi]

/-- A finite element converted to a floating-point format. -/
theorem convert_fin_float {dst : Ty} (hd : dst.isFloat = true) (md : ℕ) (sr : Option (BitVec 32)) (sat : Bool) (sc : ℤ) :
    convert dst src md sr sat sc a = (match sr with
      | some seed => stochastic dst sat n m e seed
      | none => rnd dst md sat n m 1 (e + sc)) := by
  have hdi : ¬ dst.isInt = true := fun hi => by rw [not_isFloat_of_isInt hi] at hd; cases hd
  obtain ⟨hm, he, he', -⟩ := srcValue_bounds hs h
  rw [← rnd_clampExp hd md sat n m hm he he' sc]
  unfold srcValue at h
  unfold convert
  split at h
  · next hi =>
    obtain ⟨rfl, rfl, rfl⟩ := (FVal.fin.injEq ..).mp h
    rw [if_pos hi, zero_add]
    cases sr <;> simp [hdi]
  · next hi =>
    rw [if_neg hi, h]
    cases sr <;> simp [hdi]

end

/-- An element that is no finite value is a floating-point one, and converts whatever the mode and the scale. -/
theorem convert_not_finite {dst src : Ty} {a : ℕ} (md : ℕ) (sr : Option (BitVec 32)) (sat : Bool) (sc : ℤ) (h : ¬ (srcValue src a).Finite) :
    src.isInt = false ∧ convert dst src md sr sat sc a = (match srcValue src a with
      | .nan s => if dst.isInt then (0, flagNV) else (canon dst, if s then flagNV else 0)
      | .inf n => if dst.isInt then (lowBits (if n then tyMin dst else tyMax dst) dst.width, flagNV)
        else if sat then (maxBits dst n, 0) else (infBits dst n, if dst = .e4m3 then flagNV else 0)
      | .fin _ _ _ => (0, 0)) := by
  unfold srcValue at h ⊢
  by_cases hi : src.isInt = true
  · rw [if_pos hi] at h
    exact absurd (FVal.finite_fin ..) h
  · rw [if_neg hi] at h ⊢
    refine ⟨by simpa using hi, ?_⟩
    unfold convert
    rw [if_neg hi]
    cases hd : fDecode src a with
    | nan s => rfl
    | inf n =>
      by_cases h4 : dst = .e4m3
      · simp [h4, infBits]
      · simp [h4]
    | fin n m e => rw [hd] at h; exact absurd (FVal.finite_fin ..) h

/-- A whole number scaled up rounds to itself. -/
theorem roundsTo_whole {md m : ℕ} {n : Bool} {sc y : ℤ} (hsc : 0 ≤ sc) (h : RoundsTo md 0 (((FVal.fin n m 0).real : ℝ) * (2 : ℝ) ^ sc) y) :
    (y : ℝ) = ((FVal.fin n m 0).real : ℝ) * (2 : ℝ) ^ sc := by
  have := roundsTo_exact h (j := (if n then -1 else 1) * (m : ℤ) * 2 ^ sc.toNat) (by
    obtain ⟨k, rfl⟩ := Int.eq_ofNat_of_zero_le hsc
    rw [FVal.real_fin]
    cases n <;> simp)
  exact_mod_cast this

section
variable {dst src : Ty} (hs : src.isInt = true ∨ src.isFloat = true) (md : ℕ) (sat : Bool) (sc : ℤ) (a : ℕ)
include hs

/-- An element converted to an integer (R59). -/
theorem convert_convertsTo_int (hd : dst.isInt = true) (sr : Option (BitVec 32)) :
    ConvertsTo dst src md sat sc a (convert dst src md sr sat sc a).1 (convert dst src md sr sat sc a).2 := by
  have bound : ∀ n : Bool, extT dst (lowBits (if n then tyMin dst else tyMax dst) dst.width) = (if n then tyMin dst else tyMax dst) := fun n =>
    extT_lowBits (by cases n <;> simp [tyMin_inRange, tyMax_inRange])
  unfold ConvertsTo
  dsimp only
  rw [if_pos hd]
  refine ⟨fun h => ?_, fun n h => ?_, ?_⟩
  · have hnf : ¬ (srcValue src a).Finite := by rintro ⟨n, m, e, h'⟩; simp [h'] at h
    rw [(convert_not_finite md sr sat sc hnf).2]
    cases hv : srcValue src a with
    | nan s => simp [hd]
    | inf n => simp [hv] at h
    | fin n m e => simp [hv] at h
  · obtain ⟨hsi, hc⟩ := convert_not_finite (dst := dst) md sr sat sc (a := a) (src := src) (by simp [h])
    rw [hc, h, hsi]
    simp only [hd, if_true]
    exact ⟨bound n, lowBits_lt _ _, rfl⟩
  · rintro ⟨n, m, e, h⟩
    obtain ⟨hm, he, he', he0⟩ := srcValue_bounds hs h
    rw [convert_fin_int h hd, h]
    obtain ⟨y, hround, hlow, hhigh, hin⟩ := toInt_spec hd md src.isInt n hm he he' sc
    refine ⟨y, hround, fun hy => ?_, fun hy => ?_, fun hy hy' => ?_⟩
    · rw [hlow (by exact_mod_cast hy)]
      exact ⟨bound true, lowBits_lt _ _, by cases src.isInt <;> simp⟩
    · rw [hhigh (by exact_mod_cast hy)]
      exact ⟨bound false, lowBits_lt _ _, by cases src.isInt <;> simp⟩
    · have hy1 : tyMin dst ≤ y := by exact_mod_cast hy
      have hy2 : y ≤ tyMax dst := by exact_mod_cast hy'
      obtain ⟨inexact, hp, hiff⟩ := hin hy1 hy2
      rw [hp]
      refine ⟨by rw [extT_lowBits ((inRange_iff dst y).2 ⟨hy1, hy2⟩)], lowBits_lt _ _, fun hxy => ?_, fun hxy => ?_⟩
      · have : inexact = false := by
          by_contra hne
          exact hiff.1 (by simpa using hne) (by exact_mod_cast hxy)
        simp [this]
      · have : ¬ (src.isInt = true ∧ 0 ≤ sc) := fun ⟨h1, h2⟩ => hxy (by
          obtain rfl := he0 h1
          exact_mod_cast roundsTo_whole h2 hround)
        rw [if_neg this, if_pos (hiff.2 (by exact_mod_cast hxy))]

/-- An element that is no finite value, or 0, converted to a floating-point format. -/
theorem convert_special_float (hd : dst.isFloat = true) (sr : Option (BitVec 32)) : 
    ((srcValue src a).isNan = true → (convert dst src md sr sat sc a).1 = canon dst ∧ (convert dst src md sr sat sc a).2 = sigFlag [srcValue src a]) ∧
    (∀ n, srcValue src a = .inf n → if sat then (convert dst src md sr sat sc a).1 = maxBits dst n ∧ (convert dst src md sr sat sc a).2 = 0
      else (convert dst src md sr sat sc a).1 = infBits dst n ∧ (convert dst src md sr sat sc a).2 = if dst = .e4m3 then flagNV else 0) ∧
    ((srcValue src a).isZero = true → (convert dst src md sr sat sc a) = (signBit dst (srcValue src a).neg, 0)) := by
  have hdi : ¬ dst.isInt = true := fun hi => by rw [not_isFloat_of_isInt hi] at hd; cases hd
  refine ⟨fun h => ?_, fun n h => ?_, fun h => ?_⟩
  · have hnf : ¬ (srcValue src a).Finite := by rintro ⟨n, m, e, h'⟩; simp [h'] at h
    rw [(convert_not_finite md sr sat sc hnf).2]
    cases hv : srcValue src a with
    | nan s => cases s <;> simp [hdi, sigFlag, FVal.isSig]
    | inf n => simp [hv] at h
    | fin n m e => simp [hv] at h
  · rw [(convert_not_finite (dst := dst) md sr sat sc (a := a) (src := src) (by simp [h])).2, h]
    cases sat <;> simp [hdi]
  · cases hv : srcValue src a with
    | nan s => simp [hv] at h
    | inf n => simp [hv] at h
    | fin n m e =>
      obtain rfl : m = 0 := by simpa [hv] using h
      rw [convert_fin_float hs hv hd]
      cases sr <;> rfl

/-- A converted element (R154, R156). -/
theorem convert_convertsTo (hd : dst.isInt = true ∨ dst.isFloat = true) (hmd : md < 4) :
    ConvertsTo dst src md sat sc a (convert dst src md none sat sc a).1 (convert dst src md none sat sc a).2 := by
  by_cases hdi : dst.isInt = true
  · exact convert_convertsTo_int hs md sat sc a hdi none
  · have hdf := isFloat_of_not_isInt hd hdi
    obtain ⟨hnan, hinf, hzero⟩ := convert_special_float hs md sat sc a hdf none
    unfold ConvertsTo
    dsimp only
    rw [if_neg hdi]
    refine ⟨hnan, hinf, fun h => by rw [hzero h]; exact ⟨rfl, rfl⟩, ?_⟩
    rintro ⟨n, m, e, h⟩
    rw [convert_fin_float hs h hdf, h]
    have := rnd_fin hdf hmd sat n m (e + sc)
    rwa [FVal.real_fin, zpow_add₀ two_ne_zero, ← mul_assoc, ← FVal.real_fin, Rat.cast_mul, Rat.cast_zpow, Rat.cast_ofNat] at this

end

end Sys2Proof.Machine
end

section
/-!
PROOFS of the numbers family: stochastic rounding (R61).
-/

namespace Sys2Proof.Machine

/-! ## Stochastic rounding (R61) -/

/-- A binade is the same over the rationals and the reals. -/
theorem log_ratCast {x : ℚ} (hx : 0 < x) : Int.log 2 (x : ℝ) = Int.log 2 x := by
  have hlo := (Rat.cast_le (K := ℝ)).2 (Int.zpow_log_le_self (R := ℚ) one_lt_two hx)
  have hhi := (Rat.cast_lt (K := ℝ)).2 (Int.lt_zpow_succ_log_self (R := ℚ) one_lt_two x)
  push_cast at hlo hhi
  exact log_eq_of_bounds hlo hhi

theorem ilog2_eq_rat {mag : ℕ} (hm : 0 < mag) (ex : ℤ) : ilog2 mag 1 ex = Int.log 2 ((mag : ℚ) * (2 : ℚ) ^ ex) := by
  rw [ilog2_eq hm one_pos ex, ← log_ratCast (by positivity)]
  congr 1
  push_cast
  ring

/-- The whole units of a place in a value, and what lies below it in units of the value's own exponent. -/
def unitsKept (mag : ℕ) (ex q : ℤ) : ℕ := if ex ≤ q then mag / 2 ^ (q - ex).toNat else mag * 2 ^ (ex - q).toNat
def bitsBelow (mag : ℕ) (ex q : ℤ) : ℕ := mag % 2 ^ (q - ex).toNat

/-- Whether the state's bits carry into the last kept place. -/
def carries (mag : ℕ) (ex q : ℤ) (seed : BitVec 32) : Bool :=
  decide (0 < (q - ex).toNat ∧ 2 ^ min (q - ex).toNat 32 ≤
    bitsBelow mag ex q / 2 ^ ((q - ex).toNat - min (q - ex).toNat 32) + seed.toNat % 2 ^ min (q - ex).toNat 32)

theorem bitsBelow_lt (mag : ℕ) (ex q : ℤ) : bitsBelow mag ex q < 2 ^ (q - ex).toNat := Nat.mod_lt _ (Nat.two_pow_pos _)

theorem stochastic_eq (t : Ty) (sat neg : Bool) {mag : ℕ} (hm : mag ≠ 0) (ex : ℤ) (seed : BitVec 32) :
    stochastic t sat neg mag ex seed =
      (let q := rndPlace t (ilog2 mag 1 ex)
       let c := carries mag ex q seed
       let k := unitsKept mag ex q + b2n c
       if pastMax t k q then overflow t 0 sat neg
       else (fEncode t neg k q, (if bitsBelow mag ex q != 0 || c then flagNX else 0) |||
        (if decide (k < 2 ^ fMan t) && (bitsBelow mag ex q != 0 || c) then flagUF else 0))) := by
  have hk : ∀ (c : Prop) [Decidable c] (n : ℕ), (if c then n + 1 else n) = n + b2n (decide c) := fun c _ n => by
    by_cases h : c <;> simp [h, b2n]
  have hne : ∀ (c : Bool) (n : ℕ), (n + b2n c != n) = c := fun c n => by cases c <;> simp [b2n]
  unfold stochastic
  rw [if_neg hm]
  dsimp only
  rw [hk, hne]
  rfl

/-- A value in units of a place: the units kept, and a fraction of one. -/
theorem div_place (mag : ℕ) (ex q : ℤ) :
    (mag : ℚ) * (2 : ℚ) ^ ex / (2 : ℚ) ^ q = unitsKept mag ex q + (bitsBelow mag ex q : ℚ) / (2 ^ (q - ex).toNat : ℕ) := by
  unfold unitsKept bitsBelow
  split
  · next h =>
    obtain ⟨d, hd⟩ := Int.eq_ofNat_of_zero_le (sub_nonneg.2 h)
    obtain rfl : q = ex + d := by omega
    have hmod : ((mag / 2 ^ d : ℕ) : ℚ) * 2 ^ d + (mag % 2 ^ d : ℕ) = mag := by exact_mod_cast Nat.div_add_mod' mag (2 ^ d)
    rw [zpow_add₀ two_ne_zero, add_sub_cancel_left, Int.toNat_natCast, zpow_natCast, ← div_div, mul_div_cancel_right₀ _ (by positivity),
      div_eq_iff (by positivity), add_mul, Nat.cast_pow, Nat.cast_ofNat, div_mul_cancel₀ _ (by positivity), hmod]
  · next h =>
    obtain ⟨d, hd⟩ := Int.eq_ofNat_of_zero_le (sub_nonneg.2 (not_le.1 h).le)
    obtain rfl : ex = q + d := by omega
    rw [show (q - (q + d)).toNat = 0 by omega, pow_zero, Nat.mod_one, Nat.cast_zero, zero_div, add_zero, zpow_add₀ two_ne_zero,
      add_sub_cancel_left, Int.toNat_natCast, div_eq_iff (by positivity)]
    push_cast
    rw [zpow_natCast]
    ring

theorem floor_div_place (mag : ℕ) (ex q : ℤ) : ⌊(mag : ℚ) * (2 : ℚ) ^ ex / (2 : ℚ) ^ q⌋ = unitsKept mag ex q := by
  rw [div_place, Int.floor_natCast_add, Rat.floor_natCast_div_natCast, ← Int.natCast_ediv, Nat.div_eq_of_lt (bitsBelow_lt mag ex q)]
  simp

/-- The most significant bits below the place. -/
theorem floor_below (mag : ℕ) (ex q : ℤ) : ⌊((mag : ℚ) * (2 : ℚ) ^ ex / (2 : ℚ) ^ q - unitsKept mag ex q) * 2 ^ min (q - ex).toNat 32⌋ =
    (bitsBelow mag ex q / 2 ^ ((q - ex).toNat - min (q - ex).toNat 32) : ℕ) := by
  rw [div_place, add_sub_cancel_left, Nat.cast_pow, Nat.cast_ofNat]
  have hsplit : (2 : ℚ) ^ (q - ex).toNat = 2 ^ min (q - ex).toNat 32 * 2 ^ ((q - ex).toNat - min (q - ex).toNat 32) := by
    rw [← pow_add, Nat.add_sub_cancel' (min_le_left _ _)]
  rw [hsplit, div_mul_eq_mul_div, mul_comm (bitsBelow mag ex q : ℚ), mul_div_mul_left _ _ (by positivity)]
  exact_mod_cast Rat.floor_natCast_div_natCast _ _

section
variable {t : Ty} (ht : t.isFloat = true) {mag : ℕ} (hm : 0 < mag) (ex : ℤ)
include hm

theorem unitsKept_lt (t : Ty) : unitsKept mag ex (rndPlace t (ilog2 mag 1 ex)) < 2 ^ (fMan t + 1) := by
  have h : (mag : ℚ) * (2 : ℚ) ^ ex < (2 ^ (fMan t + 1) : ℕ) * (2 : ℚ) ^ rndPlace t (ilog2 mag 1 ex) := by
    refine (Int.lt_zpow_succ_log_self (R := ℚ) one_lt_two _).trans_le ?_
    rw [← ilog2_eq_rat hm]
    push_cast
    rw [← zpow_natCast, ← zpow_add₀ two_ne_zero]
    exact zpow_le_zpow_right₀ one_le_two (by unfold rndPlace; push_cast; omega)
  rw [← div_lt_iff₀ (by positivity), ← Int.cast_natCast (2 ^ (fMan t + 1)), ← Int.floor_lt, floor_div_place] at h
  exact_mod_cast h

theorem le_unitsKept (t : Ty) : 2 ^ fMan t ≤ unitsKept mag ex (rndPlace t (ilog2 mag 1 ex)) ∨ rndPlace t (ilog2 mag 1 ex) = fEmin t - fMan t := by
  rcases le_total (ilog2 mag 1 ex) (fEmin t) with he | he
  · exact .inr (by unfold rndPlace; rw [max_eq_right he])
  · refine .inl ?_
    have h : (2 ^ fMan t : ℕ) * (2 : ℚ) ^ rndPlace t (ilog2 mag 1 ex) ≤ (mag : ℚ) * (2 : ℚ) ^ ex := by
      refine le_trans ?_ (Int.zpow_log_le_self (R := ℚ) one_lt_two (by positivity))
      rw [← ilog2_eq_rat hm, rndPlace, max_eq_left he]
      push_cast
      rw [← zpow_natCast, ← zpow_add₀ two_ne_zero]
      exact zpow_le_zpow_right₀ one_le_two (by omega)
    rw [← le_div_iff₀ (by positivity), ← Int.cast_natCast, ← Int.le_floor, floor_div_place] at h
    exact_mod_cast h

omit hm in
/-- The result is exact only when nothing lies below the place and nothing carries. -/
theorem stochastic_exact_iff (q : ℤ) (seed : BitVec 32) :
    ((unitsKept mag ex q : ℚ) + b2n (carries mag ex q seed)) * (2 : ℚ) ^ q = mag * (2 : ℚ) ^ ex ↔
      (bitsBelow mag ex q != 0 || carries mag ex q seed) = false := by
  have hlt : ((bitsBelow mag ex q : ℚ) / (2 ^ (q - ex).toNat : ℕ)) < 1 := by
    rw [div_lt_one (by positivity)]
    exact_mod_cast bitsBelow_lt mag ex q
  rw [← eq_div_iff (by positivity), div_place, add_right_inj]
  cases carries mag ex q seed
  · rw [eq_comm, div_eq_iff (by positivity)]
    simp [b2n]
  · simp only [b2n, if_true, Nat.cast_one, Bool.or_true, Bool.true_eq_false, iff_false]
    exact fun h => absurd h.symm hlt.ne

/-- A result below the smallest normal has no leading one at the last subnormal place. -/
theorem stochastic_tiny_iff (t : Ty) {k : ℕ} (hk : unitsKept mag ex (rndPlace t (ilog2 mag 1 ex)) ≤ k) :
    (k : ℚ) * (2 : ℚ) ^ rndPlace t (ilog2 mag 1 ex) < (2 : ℚ) ^ fEmin t ↔ k < 2 ^ fMan t := by
  rcases le_unitsKept hm ex t with h | h
  · refine iff_of_false (not_lt.2 ?_) (by omega)
    have hb : ((2 ^ fMan t : ℕ) : ℚ) ≤ k := by exact_mod_cast h.trans hk
    refine le_trans ?_ (mul_le_mul_of_nonneg_right hb (by positivity))
    push_cast
    rw [← zpow_natCast, ← zpow_add₀ two_ne_zero]
    exact zpow_le_zpow_right₀ one_le_two (by unfold rndPlace; omega)
  · have : (2 : ℚ) ^ fEmin t = (2 ^ fMan t : ℕ) * (2 : ℚ) ^ (fEmin t - fMan t) := by
      push_cast
      rw [← zpow_natCast, ← zpow_add₀ two_ne_zero, add_sub_cancel]
    rw [h, this, mul_lt_mul_iff_left₀ (by positivity), Nat.cast_lt]

end

/-- The carry of R61, from the value's fraction below the place. -/
theorem carries_eq (mag : ℕ) (ex q : ℤ) (seed : BitVec 32) :
    decide (0 < min (q - ex).toNat 32 ∧ (2 : ℤ) ^ min (q - ex).toNat 32 ≤
      ⌊((mag : ℚ) * (2 : ℚ) ^ ex / (2 : ℚ) ^ q - (unitsKept mag ex q : ℤ)) * 2 ^ min (q - ex).toNat 32⌋ +
        (seed.toNat % 2 ^ min (q - ex).toNat 32 : ℕ)) = carries mag ex q seed := by
  rw [Int.cast_natCast, floor_below]
  unfold carries
  rw [decide_eq_decide, lt_min_iff, and_iff_left (by norm_num : 0 < 32)]
  exact_mod_cast Iff.rfl

/-- What stochastic rounding delivers, by the exact value of the units chosen (R61). -/
theorem stochastic_delivers {t : Ty} (ht : t.isFloat = true) (sat n : Bool) {mag : ℕ} (hm : 0 < mag) (ex : ℤ) (seed : BitVec 32) {y : ℚ}
    (hy : y = (unitsKept mag ex (rndPlace t (ilog2 mag 1 ex)) + b2n (carries mag ex (rndPlace t (ilog2 mag 1 ex)) seed) : ℕ) *
      (2 : ℚ) ^ rndPlace t (ilog2 mag 1 ex)) :
    (y ≤ fMax t → (∃ m' e', fDecode t (stochastic t sat n mag ex seed).1 = .fin n m' e') ∧
      |(fDecode t (stochastic t sat n mag ex seed).1).real| = y ∧ (stochastic t sat n mag ex seed).1 < 2 ^ t.width ∧
      (stochastic t sat n mag ex seed).2 =
        if y = mag * (2 : ℚ) ^ ex then 0 else if y < (2 : ℚ) ^ fEmin t then flagNX ||| flagUF else flagNX) ∧
    (fMax t < y → Overflows t 0 sat n (stochastic t sat n mag ex seed).1 ∧ (stochastic t sat n mag ex seed).2 = flagOF ||| flagNX) := by
  rw [stochastic_eq t sat n hm.ne']
  dsimp only
  have hexact := stochastic_exact_iff (mag := mag) ex (rndPlace t (ilog2 mag 1 ex)) seed
  have htiny := stochastic_tiny_iff hm ex t (Nat.le_add_right _ (b2n (carries mag ex (rndPlace t (ilog2 mag 1 ex)) seed)))
  have hlt := unitsKept_lt hm ex t
  have hle := le_unitsKept hm ex t
  rw [← Nat.cast_add, ← hy] at hexact
  rw [← hy] at htiny
  have hb : b2n (carries mag ex (rndPlace t (ilog2 mag 1 ex)) seed) ≤ 1 := by unfold b2n; split <;> omega
  have hpast := pastMax_iff ht (unitsKept mag ex (rndPlace t (ilog2 mag 1 ex)) + b2n (carries mag ex (rndPlace t (ilog2 mag 1 ex)) seed))
    (rndPlace t (ilog2 mag 1 ex))
  rw [← hy] at hpast
  obtain ⟨m, henc, hm'⟩ := fEncode_eq (t := t) (k := unitsKept mag ex (rndPlace t (ilog2 mag 1 ex)) + b2n (carries mag ex (rndPlace t (ilog2 mag 1 ex)) seed))
    (q := rndPlace t (ilog2 mag 1 ex)) (by omega) (by unfold rndPlace; omega) (hle.imp_left (by omega)) n
  rw [← hy] at hm'
  constructor
  · intro hle
    have hmt : m ≤ topMag t := (le_topMag_iff ht).2 (hm'.trans_le hle)
    rw [if_neg (fun h => not_le.2 (hpast.1 h) hle), henc]
    refine ⟨⟨_, _, fDecode_finite ht hmt n⟩, ?_, signBit_add_lt (hmt.trans_lt (topMag_lt ht)) n, ?_⟩
    · rw [real_fDecode ht hmt, abs_sign_mul n (by positivity), hm']
    · generalize (bitsBelow mag ex (rndPlace t (ilog2 mag 1 ex)) != 0 || carries mag ex (rndPlace t (ilog2 mag 1 ex)) seed) = inexact at *
      simp only [hexact, ← htiny]
      cases inexact
      · simp
      · by_cases hs : y < (2 : ℚ) ^ fEmin t <;> simp [hs]
  · intro hgt
    rw [if_pos (hpast.2 hgt)]
    exact ⟨overflows_overflow t (by norm_num) sat n, rfl⟩

/-- An element rounded stochastically. -/
theorem convert_stochasticTo {dst src : Ty} (hd : dst.isFloat = true) (hs : src.isInt = true ∨ src.isFloat = true) (sat : Bool)
    (seed : BitVec 32) (a : ℕ) :
    StochasticTo dst src sat seed a (convert dst src 0 (some seed) sat 0 a).1 (convert dst src 0 (some seed) sat 0 a).2 := by
  have hdi : ¬ dst.isInt = true := fun hi => by rw [not_isFloat_of_isInt hi] at hd; cases hd
  refine ⟨fun h => ?_, fun n m e h hm => ?_⟩
  · obtain ⟨hnan, hinf, hzero⟩ := convert_special_float hs 0 sat 0 a hd (some seed)
    unfold ConvertsTo
    dsimp only
    rw [if_neg hdi]
    refine ⟨hnan, hinf, fun h => by rw [hzero h]; exact ⟨rfl, rfl⟩, fun hfin hx => ?_⟩
    obtain ⟨n, m, e, hv⟩ := hfin
    rcases h with h | h
    · simp [hv] at h
    · rw [hv] at hx h
      exact absurd (by rw [FVal.real_eq_zero.2 (by simpa using h)]; simp) hx
  · rw [convert_fin_float hs h hd, h]
    have hpos := Nat.pos_of_ne_zero hm
    have hreal : |(FVal.fin n m e).real| = m * (2 : ℚ) ^ e := by rw [FVal.real_fin, mul_assoc, abs_sign_mul n (by positivity)]
    dsimp only
    rw [hreal, ← ilog2_eq_rat hpos, show max (ilog2 m 1 e) (fEmin dst) - fMan dst = rndPlace dst (ilog2 m 1 e) from rfl, floor_div_place, carries_eq]
    refine stochastic_delivers hd sat n hpos e seed ?_
    cases carries m e (rndPlace dst (ilog2 m 1 e)) seed <;> simp [b2n]

end Sys2Proof.Machine
end

section
/-!
PROOFS of the numbers family (O12): CVT and CVTS.
-/

namespace Sys2Proof.Machine

/-- MD[2], the vector form, as the number reads it. -/
theorem four_le_md (md : BitVec 3) : 4 ≤ md.toNat ↔ md.getLsbD 2 = true := by revert md; decide

@[simp] theorem Rd.nats_length (r : Rd) (t : Ty) (sl : SlotName) (x : Src) : (r.nats t sl x).length = t.lanes := by
  cases x <;> simp [Rd.nats, Rd.ints]

section
variable (dst src : Ty) (md : ℕ) (sr sat : Bool) (sc : ℤ) (seed : BitVec 32)

/-- The result of one element of a conversion, by its number: with .sr it draws from the state as often advanced (R61). -/
def convNth (j a : ℕ) : ℕ × Flags := convert dst src md (if sr then some (seedNext^[j + 1] seed) else none) sat sc a

/-- A conversion's run over its elements, by their numbers. -/
theorem foldl_convElem (as : List ℕ) : as.foldl (convElem dst src md sr sat sc) ([], 0, seed) =
    ((List.range as.length).map fun j => (convNth dst src md sr sat sc seed j (lget 0 as j)).1,
      (List.range as.length).foldl (fun u j => u ||| (convNth dst src md sr sat sc seed j (lget 0 as j)).2) 0,
      if sr then seedNext^[as.length] seed else seed) := by
  induction as using List.reverseRecOn with
  | nil => cases sr <;> rfl
  | append_singleton as a ih =>
    have hold : ∀ j ∈ List.range as.length, lget 0 (as ++ [a]) j = lget 0 as j := fun j hj => by
      simp [lget, List.getD_eq_getElem?_getD, List.getElem?_append_left (List.mem_range.1 hj)]
    have hnew : lget 0 (as ++ [a]) as.length = a := by simp [lget]
    rw [List.foldl_append, ih, List.length_append, List.length_singleton, List.range_succ, List.map_append, List.foldl_append]
    simp only [List.foldl_cons, List.foldl_nil, List.map_cons, List.map_nil, hnew]
    have hmap : (List.range as.length).map (fun j => (convNth dst src md sr sat sc seed j (lget 0 (as ++ [a]) j)).1) =
        (List.range as.length).map (fun j => (convNth dst src md sr sat sc seed j (lget 0 as j)).1) :=
      List.map_congr_left fun j hj => by rw [hold j hj]
    have hfold : (List.range as.length).foldl (fun u j => u ||| (convNth dst src md sr sat sc seed j (lget 0 (as ++ [a]) j)).2) 0 =
        (List.range as.length).foldl (fun u j => u ||| (convNth dst src md sr sat sc seed j (lget 0 as j)).2) 0 :=
      List.foldl_ext _ _ _ fun u j hj => by rw [hold j hj]
    rw [hmap, hfold]
    cases sr <;> simp [convElem, convNth, Function.iterate_succ_apply']

end

/-- A legal part of a vector conversion lies within the longer vector (R155). -/
theorem part_le {src dst : Ty} {part : ℕ} (h : partOk true src dst part = true) :
    part * min src.lanes dst.lanes + min src.lanes dst.lanes ≤ max src.lanes dst.lanes := by
  have hlt : part < max src.lanes dst.lanes / min src.lanes dst.lanes := by
    unfold partOk cvtParts at h
    simp at h
    exact h.1.1
  rw [← Nat.succ_mul]
  exact (Nat.mul_le_mul_right _ hlt).trans (Nat.div_mul_le_self _ _)

/-- The elements of a part, by their numbers. -/
theorem part_elements {ls : List ℕ} {k m j : ℕ} (hj : j < m) : lget 0 ((ls.drop k).take m) j = lget 0 ls (k + j) := by
  simp [lget, List.getD_eq_getElem?_getD, hj]

theorem take_elements {ls : List ℕ} {m j : ℕ} (hj : j < m) : lget 0 (ls.take m) j = lget 0 ls j := by
  simp [lget, List.getD_eq_getElem?_getD, hj]

/-- Results placed after k zeros. -/
theorem lget_padded (k m : ℕ) (x : ℕ → ℕ) (j : ℕ) :
    lget 0 (List.replicate k 0 ++ (List.range m).map x) j = if k ≤ j ∧ j < k + m then x (j - k) else 0 := by
  rcases lt_or_ge j k with h | h
  · simp [lget, List.getD_eq_getElem?_getD, List.getElem?_append_left, h, not_le.2 h]
  · rw [lget, List.getD_eq_getElem?_getD, List.getElem?_append_right (by simpa using h)]
    by_cases h' : j < k + m
    · simp [h, h', show j - k < m by omega]
    · simp [h', show ¬ j - k < m by omega]

/-- The number of elements that a conversion takes, its operands, and source element j of its part (R155). -/
def convCount (f : FmtT) (src : Ty) : ℕ := if f.md.getLsbD 2 then min src.lanes f.ty.lanes else 1
def convOperand (r : Rd) (f : FmtT) (src : Ty) (j : ℕ) : ℕ :=
  if f.md.getLsbD 2 then (if src.isFloat then lget 0 (r.flts src .a f.sa) j else lget 0 (r.nats src .a f.sa) j)
  else if src.isFloat then r.flt src .a f.sa else lowBits (r.int src .a f.sa) src.width
def convSource (r : Rd) (f : FmtT) (src : Ty) (part j : ℕ) : ℕ :=
  convOperand r f src ((if f.md.getLsbD 2 = true ∧ f.ty.lanes < src.lanes then part * convCount f src else 0) + j)

/-- The results of a conversion. -/
def convResult (r : Rd) (f : FmtT) (src : Ty) (part : ℕ) (sr sat : Bool) (sc : ℤ) (j : ℕ) : ℕ × Flags :=
  convNth f.ty src (f.md.toNat % 4) sr sat sc r.c.seed j (convSource r f src part j)

section
variable {r : Rd} {f : FmtT} {src : Ty} {part : ℕ} (sr sat : Bool) (sc : ℤ)

/-- What a conversion delivers: its elements' results and flags, and the state of its draws. -/
theorem convAll_eq (hpart : f.md.getLsbD 2 = true → partOk true src f.ty part = true) : convAll r f src part sr sat sc =
    ⟨if f.md.getLsbD 2 then
        ofLanes f.ty.width (List.replicate (if src.lanes < f.ty.lanes then part * convCount f src else 0) 0 ++
          (List.range (convCount f src)).map fun j => (convResult r f src part sr sat sc j).1)
      else if f.ty.isInt then (scalarOf f.ty (extT f.ty (convResult r f src part sr sat sc 0).1)).toVec
      else BitVec.ofNat 1024 (convResult r f src part sr sat sc 0).1,
      (List.range (convCount f src)).foldl (fun u j => u ||| (convResult r f src part sr sat sc j).2) 0,
      if sr then seedNext^[convCount f src] r.c.seed else r.c.seed⟩ := by
  have hrun : ∀ as : List ℕ, as.length = convCount f src → (∀ j < convCount f src, lget 0 as j = convSource r f src part j) →
      as.foldl (convElem f.ty src (f.md.toNat % 4) sr sat sc) ([], 0, r.c.seed) =
      ((List.range (convCount f src)).map fun j => (convResult r f src part sr sat sc j).1,
        (List.range (convCount f src)).foldl (fun u j => u ||| (convResult r f src part sr sat sc j).2) 0,
        if sr then seedNext^[convCount f src] r.c.seed else r.c.seed) := fun as hlen has => by
    rw [foldl_convElem, hlen]
    refine Prod.ext (List.map_congr_left fun j hj => ?_) (Prod.ext (List.foldl_ext _ _ _ fun u j hj => ?_) rfl)
    · rw [has j (List.mem_range.1 hj)]; rfl
    · rw [has j (List.mem_range.1 hj)]; rfl
  unfold convAll
  dsimp only
  by_cases hv : f.md.getLsbD 2 = true
  · have hp := part_le (hpart hv)
    have hcount : convCount f src = min src.lanes f.ty.lanes := if_pos hv
    rw [if_neg (not_lt.2 ((four_le_md f.md).2 hv)), if_pos hv, hrun, hcount]
    · dsimp only
      split <;> rfl
    · rw [hcount]
      split <;> split <;> simp <;> omega
    · intro j hj
      rw [hcount] at hj
      unfold convSource convOperand
      simp only [hv, true_and, if_true, hcount]
      split
      · rw [part_elements hj]
        cases src.isFloat <;> rfl
      · rw [Nat.zero_add]
        cases src.isFloat <;> exact take_elements hj
  · have hcount : convCount f src = 1 := if_neg hv
    rw [if_pos (not_le.1 (mt (four_le_md f.md).1 hv)), if_neg hv, hrun, hcount]
    · simp [lget]
    · rw [hcount]; rfl
    · intro j hj
      obtain rfl : j = 0 := by omega
      unfold convSource convOperand
      rw [if_neg hv]
      rfl

end

section
variable {i : Instr} {s : State} {f : FmtT} {src : Ty} {part : ℕ} {sr sat : Bool} {sc : ℤ} {F : CeCtx → CeCtx}
  {P : BitVec 32 → ℕ → ℕ → Flags → Prop}

/-- An instruction that converts delivers what each of its elements converts to (R155). -/
theorem givesConverted (h : exec i s = .next (s.mapCe s.key F))
    (hF : F (s.getCe s.key) = (s.getCe s.key).converted f (convAll (s.rdAt s.key) f src part sr sat sc))
    (hpart : f.md.getLsbD 2 = true → partOk true src f.ty part = true)
    (hP : ∀ seed a, P seed a (convert f.ty src (f.md.toNat % 4) (if sr then some seed else none) sat sc a).1
      (convert f.ty src (f.md.toNat % 4) (if sr then some seed else none) sat sc a).2) : GivesConverted i s f src part sr P := by
  have hdel := CeCtx.result_delivered (s.getCe s.key) f.ta f.tb ⟨(convAll (s.rdAt s.key) f src part sr sat sc).val, f.md.getLsbD 2,
    (convAll (s.rdAt s.key) f src part sr sat sc).flags⟩
  rw [convAll_eq sr sat sc hpart] at hF hdel
  dsimp only at hdel
  refine ⟨_, _, _, fun j => (convResult (s.rdAt s.key) f src part sr sat sc j).1, fun j => (convResult (s.rdAt s.key) f src part sr sat sc j).2,
    h, State.mapCe_only s F, hdel, ?_, fun j hj => hP _ _, fun hv => ?_, fun hv j hj => ?_⟩
  · have hvec : decide (4 ≤ f.md.toNat) = f.md.getLsbD 2 := Bool.eq_iff_iff.2 (decide_eq_true_iff.trans (four_le_md f.md))
    rw [State.getCe_mapCe, hF, CeCtx.converted, hvec]
    rfl
  · simp only [hv, Bool.false_eq_true, if_false]
    rw [scalarOf_eq (extT_range _ _)]
  · simp only [hv, if_true]
    rw [laneBits_ofLanes _ _ (width_mul_succ_le hj), lget_padded, apply_ite (BitVec.ofNat f.ty.width)]
    simp only [convCount, hv, if_true]
    rfl

end

/-! ## The fields of CVT and CVTS (R154 to R156) -/

/-- The numeric types: integers and floating-point formats. -/
theorem numeric_of_code {t : Ty} (h : t.code ≤ 0xC) : t.isInt = true ∨ t.isFloat = true := by
  cases t <;> simp [Ty.code] at h <;> simp [Ty.isInt, Ty.code, Ty.isFloat]

theorem code_of_ofCode {n : ℕ} {t : Ty} (h : Ty.ofCode n = some t) : t.code = n := by
  unfold Ty.ofCode at h
  split at h <;> cases h <;> rfl

theorem isFloat_of_narrow {t : Ty} (h : tyIn t 8 0xB = true) : t.isFloat = true := by
  cases t <;> simp [Ty.code] at h <;> rfl

theorem ck_none {a b : Bool} (h : ck a b = none) : a = true ∧ b = true := by
  cases a <;> cases b <;> simp [ck] at h ⊢

/-- The low bits of an immediate. -/
theorem bitN_low (m : BitVec 7) : bitN m.toNat 0 = m.getLsbD 0 := by revert m; decide
theorem bitN_second (m : BitVec 7) : bitN m.toNat 1 = m.getLsbD 1 := by revert m; decide

/-- A legal CVT. -/
theorem cvt_fields {f : FmtT} {b m : BitVec 7} {src : Ty} (h : (Instr.cvt f).bad = none) (hb : f.sb = .imm b) (hm : f.sc = .imm m)
    (hsrc : Ty.ofCode b.toNat = some src) : (src.isInt = true ∨ src.isFloat = true) ∧ (f.ty.isInt = true ∨ f.ty.isFloat = true) ∧
      (f.md.getLsbD 2 = true → partOk true src f.ty (m.toNat / 4) = true) ∧
      natBits m.toNat 3 2 = m.toNat / 4 ∧ (m.getLsbD 0 = true → f.ty.isFloat = true ∧ f.md.toNat % 4 = 0) := by
  obtain ⟨hty, hok⟩ := ck_none h
  simp only [Bool.and_true] at hok
  unfold cvtOk at hok
  rw [hb, hm] at hok
  dsimp only at hok
  rw [hsrc] at hok
  simp only [Bool.and_eq_true, Bool.or_eq_true, Bool.not_eq_true', decide_eq_true_eq] at hok
  obtain ⟨⟨⟨⟨hcode, hm16⟩, hpart⟩, hsr⟩, -⟩ := hok
  refine ⟨numeric_of_code ((code_of_ofCode hsrc).trans_le hcode), numeric_of_code (by simpa using hty), fun hv => ?_,
    by unfold natBits; omega, fun h0 => ?_⟩
  · rwa [decide_eq_true ((four_le_md f.md).2 hv)] at hpart
  · have hodd : m.toNat % 2 = 1 := by rw [← bitN_low] at h0; simpa [bitN] using h0
    simp only [hodd, beq_self_eq_true, Bool.true_eq_false, false_or] at hsr
    exact ⟨isFloat_of_narrow (by simpa using hsr.1), by simpa [natBits] using hsr.2⟩

/-- A legal CVTS. -/
theorem cvts_fields {f : FmtT} {b : BitVec 7} {src : Ty} (h : (Instr.cvts f).bad = none) (hb : f.sb = .imm b)
    (hsrc : Ty.ofCode (b.toNat % 16) = some src) : (src.isInt = true ∨ src.isFloat = true) ∧ (f.ty.isInt = true ∨ f.ty.isFloat = true) ∧
      (f.md.getLsbD 2 = true → partOk true src f.ty (b.toNat / 16) = true) := by
  obtain ⟨hty, hok⟩ := ck_none h
  simp only [Bool.and_true] at hok
  unfold cvtsOk at hok
  rw [hb] at hok
  dsimp only at hok
  rw [hsrc] at hok
  simp only [Bool.and_eq_true, decide_eq_true_eq] at hok
  obtain ⟨⟨hcode, -⟩, hpart⟩ := hok
  refine ⟨numeric_of_code ((code_of_ofCode hsrc).trans_le hcode), numeric_of_code (by simpa using hty), fun hv => ?_⟩
  rwa [decide_eq_true ((four_le_md f.md).2 hv)] at hpart

/-- The scale of CVTS: the low 32 bits of SC, read as signed (R156). -/
theorem sextN_eq_toInt (w : BitVec 64) : sextN w.toNat 32 = (w.setWidth 32).toInt := by
  rw [BitVec.toInt_eq_toNat_cond, BitVec.toNat_setWidth, sextN]
  split <;> split <;> omega

/-- Settles O12: each element by `convert_convertsTo` or `convert_stochasticTo`, the parts by `givesConverted`. -/
theorem conversions : Obligations.Conversions := by
  unfold Obligations.Conversions
  refine ⟨fun s f b m src hbad hb hm hsrc => ?_, fun s f b src hbad hb hsrc => ?_⟩
  · obtain ⟨hs, hd, hpart, hbits, hsr⟩ := cvt_fields hbad hb hm hsrc
    refine givesConverted (sat := m.getLsbD 1) (sc := 0) rfl ?_ hpart fun seed a => ⟨fun h0 => ?_, fun h0 => ?_⟩
    · simp only [hb, hm, hsrc, Option.getD_some, hbits, bitN_low, bitN_second]
      rfl
    · rw [h0]
      exact convert_convertsTo hs _ _ _ _ hd (Nat.mod_lt _ (by norm_num))
    · obtain ⟨hdf, hmd⟩ := hsr h0
      rw [h0, hmd]
      exact convert_stochasticTo hdf hs _ _ _
  · obtain ⟨hs, hd, hpart⟩ := cvts_fields hbad hb hsrc
    refine givesConverted (sat := f.ty = .e4m3 || f.ty = .e5m2) (sc := (((s.rdAt s.key).w64 .c f.sc).setWidth 32).toInt) rfl ?_ hpart
      fun seed a => convert_convertsTo hs _ _ _ _ hd (Nat.mod_lt _ (by norm_num))
    simp only [hb, hsrc, Option.getD_some, sextN_eq_toInt]
    rfl

end Sys2Proof.Machine
end

section
/-!
PROOFS of the numbers family: magnitudes of patterns, and the scale of a block (R157).
-/

namespace Sys2Proof.Machine

/-! ## The greatest element of a list -/

/-- A fold with `max` ends at the greatest of its start and its elements. -/
theorem foldl_max_spec {α : Type} [LinearOrder α] (l : List α) (x : α) :
    x ≤ l.foldl max x ∧ (∀ y ∈ l, y ≤ l.foldl max x) ∧ (l.foldl max x = x ∨ l.foldl max x ∈ l) := by
  induction l generalizing x with
  | nil => exact ⟨le_rfl, by simp, .inl rfl⟩
  | cons a l ih =>
    obtain ⟨hx, hl, hmem⟩ := ih (max x a)
    refine ⟨(le_max_left _ _).trans hx, ?_, ?_⟩
    · rintro y (_ | ⟨_, hy⟩)
      · exact (le_max_right _ _).trans hx
      · exact hl y hy
    · rcases hmem with h | h
      · rw [List.foldl_cons, h]
        rcases max_choice x a with h' | h' <;> rw [h'] <;> simp
      · exact .inr (List.mem_cons_of_mem _ h)

/-! ## Magnitudes of patterns -/

section
variable {t : Ty} (ht : t.isFloat = true)
include ht

theorem finite_iff_mag {a : ℕ} : (fDecode t a).Finite ↔ a % 2 ^ (t.width - 1) ≤ topMag t := by
  constructor
  · rintro ⟨n, m, e, h⟩
    exact (fin_of_fDecode ht h).1
  · intro h
    rw [fDecode_eq ht, if_pos h]
    exact FVal.finite_fin ..

/-- The magnitude of a finite pattern in units of the smallest subnormal. -/
theorem abs_real {a : ℕ} (h : (fDecode t a).Finite) : |(fDecode t a).real| = ulps t (a % 2 ^ (t.width - 1)) * (2 : ℚ) ^ (fEmin t - fMan t) := by
  rw [fDecode_eq ht, if_pos ((finite_iff_mag ht).1 h), FVal.real_fin, mul_assoc, abs_sign_mul _ (by positivity), magSig_mul]

omit ht in
theorem valueLog2_eq {a : ℕ} (h : (fDecode t a).Finite) (h0 : (fDecode t a).real ≠ 0) : valueLog2 t a = Int.log 2 |(fDecode t a).real| := by
  obtain ⟨n, m, e, hd⟩ := h
  rw [hd] at h0
  have hm : 0 < m := Nat.pos_of_ne_zero (mt FVal.real_eq_zero.2 h0)
  rw [valueLog2, hd, FVal.real_fin, mul_assoc, abs_sign_mul _ (by positivity), ← ilog2_eq_rat hm]
  simp [ilog2, show Nat.log2 1 = 0 by decide, Nat.not_lt.2 (Nat.log2_self_le hm.ne')]

/-- What `rnd` delivers is a pattern of the format. -/
theorem rnd_lt {md : ℕ} (hmd : md < 4) (n : Bool) (m : ℕ) (e : ℤ) : (rnd t md true n m 1 e).1 < 2 ^ t.width := by
  have hlt := signBit_add_lt (topMag_lt ht)
  rcases Nat.eq_zero_or_pos m with rfl | hm
  · rw [rnd_zero]
    exact (Nat.le_add_right _ _).trans_lt (hlt n)
  · have h0 : ((FVal.fin n m e).real : ℝ) ≠ 0 := by
      rw [Ne, Rat.cast_eq_zero]
      exact mt FVal.real_eq_zero.1 hm.ne'
    obtain ⟨y, y', -, -, hfin, hover⟩ := rnd_fin ht hmd true n m e h0
    rcases le_or_gt |y| (fMax t) with h | h
    · exact (hfin h).2.2.1
    · rw [(hover h).1, if_pos rfl, maxBits_eq]
      exact hlt _

end

/-! ## PACKF (R157) -/

theorem finite_of_match {v : FVal} : (match v with | .fin _ _ _ => false | _ => true) = false ↔ v.Finite := by
  cases v <;> simp

/-- The scale of a block of finite values, and what their elements convert to. -/
def blockScale (t : Ty) (as : List ℕ) : ℕ :=
  let top := (as.map fun a => a % 2 ^ 31).foldl max 0
  if top = 0 then 127 else (min 254 (max 0 (valueLog2 .fp32 top - (if t = .e4m3 then 7 else 14) + 127))).toNat
def blockResults (t : Ty) (md : ℕ) (as : List ℕ) : List (ℕ × Flags) := as.map (convert t .fp32 md none true (127 - (blockScale t as : ℤ)))

theorem packBlock_of_finite {t : Ty} {md : ℕ} {as : List ℕ} (h : ∀ a ∈ as, (fDecode .fp32 a).Finite) : packBlock t md as =
    ((blockResults t md as).map (·.1), blockScale t as, (blockResults t md as).foldl (fun acc q => acc ||| q.2) 0) := by
  refine if_neg fun hbad => ?_
  obtain ⟨a, ha, hb⟩ := List.any_eq_true.1 hbad
  exact Bool.false_ne_true ((finite_of_match.2 (h a ha)).symm.trans hb)

theorem packBlock_of_not_finite {t : Ty} {md : ℕ} {as : List ℕ} (h : ∃ a ∈ as, ¬ (fDecode .fp32 a).Finite) : packBlock t md as =
    (as.map fun _ => 0, 0xFF, flagNV) := by
  obtain ⟨a, ha, h⟩ := h
  exact if_pos (List.any_eq_true.2 ⟨a, ha, by rw [← Bool.not_eq_false]; exact mt finite_of_match.1 h⟩)

/-- The greatest magnitude of a block of finite values decides its scale. -/
theorem blockScale_spec (t : Ty) {as : List ℕ} (hne : as ≠ []) (hfin : ∀ a ∈ as, (fDecode .fp32 a).Finite) :
    ∃ amax : ℚ, (∃ a ∈ as, amax = |(fDecode .fp32 a).real|) ∧ (∀ a ∈ as, |(fDecode .fp32 a).real| ≤ amax) ∧
      (amax = 0 → blockScale t as = 127) ∧
      (amax ≠ 0 → (blockScale t as : ℤ) = min 254 (max 0 (Int.log 2 amax - (if t = .e4m3 then 7 else 14) + 127))) := by
  unfold blockScale
  dsimp only
  obtain ⟨-, htop, hmem⟩ := foldl_max_spec (as.map fun a => a % 2 ^ 31) 0
  generalize (as.map fun a => a % 2 ^ 31).foldl max 0 = top at *
  have habs : ∀ {a}, (fDecode .fp32 a).Finite → |(fDecode .fp32 a).real| = ulps .fp32 (a % 2 ^ 31) * (2 : ℚ) ^ (fEmin .fp32 - fMan .fp32) :=
    fun h => abs_real rfl h
  have hin : ∃ a ∈ as, top = a % 2 ^ 31 := by
    rcases hmem with h | h
    · obtain ⟨a, ha⟩ := List.exists_mem_of_ne_nil as hne
      exact ⟨a, ha, le_antisymm (h ▸ Nat.zero_le _) (htop _ (List.mem_map.2 ⟨a, ha, rfl⟩))⟩
    · obtain ⟨a, ha, h⟩ := List.mem_map.1 h
      exact ⟨a, ha, h.symm⟩
  obtain ⟨b, hb, hbt⟩ := hin
  have hmod : top % 2 ^ 31 = top := by rw [hbt, Nat.mod_mod]
  have htf : (fDecode .fp32 top).Finite := (finite_iff_mag rfl).2 (by
    have := (finite_iff_mag rfl).1 (hfin b hb)
    rw [show Ty.fp32.width - 1 = 31 from rfl] at this ⊢
    rwa [hmod, hbt])
  have hval : |(fDecode .fp32 top).real| = |(fDecode .fp32 b).real| := by rw [habs htf, habs (hfin b hb), hmod, hbt]
  have hzero : |(fDecode .fp32 b).real| = 0 ↔ top = 0 := by
    rw [habs (hfin b hb), ← hbt, mul_eq_zero, or_iff_left (by positivity), Nat.cast_eq_zero]
    exact ⟨fun h => (ulps_strictMono .fp32).injective (h.trans rfl), by rintro rfl; rfl⟩
  refine ⟨|(fDecode .fp32 b).real|, ⟨b, hb, rfl⟩, fun a ha => ?_, fun h => if_pos (hzero.1 h), fun h => ?_⟩
  · rw [habs (hfin a ha), habs (hfin b hb), ← hbt]
    have := (ulps_strictMono .fp32).monotone (htop _ (List.mem_map.2 ⟨a, ha, rfl⟩))
    gcongr
  · rw [if_neg (mt hzero.2 h), valueLog2_eq htf (by rwa [← abs_ne_zero, hval]), hval, Int.toNat_of_nonneg (le_min (by norm_num) (le_max_left _ _))]

/-- What PACKF makes of a block: its scale, and its elements with their flags (R157). -/
def BlockPacked (t : Ty) (md : ℕ) (as : List ℕ) (sc : ℕ) (qs : List (ℕ × Flags)) : Prop :=
  ((∃ a ∈ as, ¬ (fDecode .fp32 a).Finite) → sc = 0xFF ∧ ∀ q ∈ qs, q = (0, flagNV)) ∧
  ((∀ a ∈ as, (fDecode .fp32 a).Finite) →
    (∃ amax : ℚ, (∃ a ∈ as, amax = |(fDecode .fp32 a).real|) ∧ (∀ a ∈ as, |(fDecode .fp32 a).real| ≤ amax) ∧ (amax = 0 → sc = 127) ∧
      (amax ≠ 0 → (sc : ℤ) = min 254 (max 0 (Int.log 2 amax - (if t = .e4m3 then 7 else 14) + 127)))) ∧
    ∀ j < as.length, ConvertsTo t .fp32 md true (127 - (sc : ℤ)) (lget 0 as j) (lget (0, 0) qs j).1 (lget (0, 0) qs j).2)

theorem foldl_or_replicate (n : ℕ) (x : Flags) : (List.replicate (n + 1) (0, x)).foldl (fun acc (q : ℕ × Flags) => acc ||| q.2) 0 = x := by
  induction n with
  | zero => exact BitVec.zero_or
  | succ n ih => rw [List.replicate_succ', List.foldl_append, ih]; exact BitVec.or_self

theorem packBlock_packed {t : Ty} (ht : t = .e4m3 ∨ t = .e5m2) {md : ℕ} (hmd : md < 4) {as : List ℕ} (hne : as ≠ []) :
    ∃ (qs : List (ℕ × Flags)) (sc : ℕ), packBlock t md as = (qs.map (·.1), sc, qs.foldl (fun acc q => acc ||| q.2) 0) ∧
      qs.length = as.length ∧ sc < 256 ∧ (∀ q ∈ qs, q.1 < 256) ∧ BlockPacked t md as sc qs := by
  have htf : t.isFloat = true := by rcases ht with rfl | rfl <;> rfl
  by_cases hfin : ∀ a ∈ as, (fDecode .fp32 a).Finite
  · have hscale := blockScale_spec t hne hfin
    refine ⟨_, _, packBlock_of_finite hfin, List.length_map _, ?_, ?_, fun ⟨a, ha, h⟩ => absurd (hfin a ha) h, fun _ => ⟨hscale, fun j hj => ?_⟩⟩
    · obtain ⟨amax, -, -, h0, h1⟩ := hscale
      by_cases h : amax = 0
      · rw [h0 h]; norm_num
      · have := h1 h
        omega
    · rintro q hq
      obtain ⟨a, ha, rfl⟩ := List.mem_map.1 hq
      obtain ⟨n, m, e, hd⟩ := hfin a ha
      rw [convert_fin_float (src := .fp32) (.inr rfl) hd htf]
      exact (rnd_lt htf hmd _ _ _).trans_eq (by rcases ht with rfl | rfl <;> rfl)
    · rw [blockResults, lget_map_of_lt 0 (0, 0) as _ hj]
      exact convert_convertsTo (.inr rfl) _ _ _ _ (.inr htf) hmd
  · push Not at hfin
    obtain ⟨n, hn⟩ := Nat.exists_eq_succ_of_ne_zero (mt List.length_eq_zero_iff.1 hne)
    refine ⟨List.replicate as.length (0, flagNV), 0xFF, ?_, List.length_replicate, by norm_num, fun q hq => ?_, fun _ => ⟨rfl, fun q hq => ?_⟩, fun h => ?_⟩
    · rw [packBlock_of_not_finite hfin, hn, foldl_or_replicate, ← hn]
      simp
    · rw [List.eq_of_mem_replicate hq]
      norm_num
    · exact List.eq_of_mem_replicate hq
    · obtain ⟨a, ha, h'⟩ := hfin
      exact absurd (h a ha) h'

end Sys2Proof.Machine
end

section
/-!
PROOFS of the numbers family: PACKF and UNPACKF (R157, R158).
-/

namespace Sys2Proof.Machine

theorem mem_iff_lget {α : Type} (d : α) {l : List α} {x : α} : x ∈ l ↔ ∃ i < l.length, lget d l i = x := by
  rw [List.mem_iff_getElem]
  constructor
  · rintro ⟨i, hi, rfl⟩
    exact ⟨i, hi, by simp [lget, List.getD_eq_getElem?_getD, hi]⟩
  · rintro ⟨i, hi, rfl⟩
    exact ⟨i, hi, by simp [lget, List.getD_eq_getElem?_getD, hi]⟩

/-- The union of the flags of two lists of results. -/
theorem foldl_or_append (l l' : List (ℕ × Flags)) : (l ++ l').foldl (fun acc q => acc ||| q.2) 0 =
    l.foldl (fun acc q => acc ||| q.2) 0 ||| l'.foldl (fun acc q => acc ||| q.2) 0 := by
  induction l' using List.reverseRecOn with
  | nil => rw [List.append_nil]; exact BitVec.or_zero.symm
  | append_singleton l' q ih => rw [← List.append_assoc, List.foldl_append, ih, List.foldl_append, List.foldl_cons, List.foldl_nil,
      List.foldl_cons, List.foldl_nil, BitVec.or_assoc]

/-- The lanes of PACKF's result: codes, and the scale bytes above them. -/
theorem packed_codes {rs : List (ℕ × Flags)} {scs : List ℕ} (hlen : rs.length = 32) (hr : ∀ q ∈ rs, q.1 < 256) (hs : ∀ sc ∈ scs, sc < 256)
    {j : ℕ} (hj : j < 128) : (LaneBits .z8 (ofLanes 8 (rs.map (·.1) ++ scs)) j).toNat =
      if j < 32 then (lget (0, 0) rs j).1 else lget 0 scs (j - 32) := by
  have hlane : (LaneBits .z8 (ofLanes 8 (rs.map (·.1) ++ scs)) j).toNat = lget 0 (rs.map (·.1) ++ scs) j % 2 ^ 8 :=
    (congrArg BitVec.toNat (laneBits_ofLanes .z8 (rs.map (·.1) ++ scs) (j := j) (show 8 * (j + 1) ≤ 1024 by omega))).trans (BitVec.toNat_ofNat _ _)
  rw [hlane]
  split
  · next h =>
    have : lget 0 (rs.map (·.1) ++ scs) j = (lget (0, 0) rs j).1 := by
      rw [← lget_map_of_lt (0, 0) 0 rs (·.1) (by omega)]
      simp [lget, List.getD_eq_getElem?_getD, List.getElem?_append_left, hlen, h]
    rw [this]
    exact Nat.mod_eq_of_lt (hr _ ((mem_iff_lget (0, 0)).2 ⟨j, by omega, rfl⟩))
  · next h =>
    have : lget 0 (rs.map (·.1) ++ scs) j = lget 0 scs (j - 32) := by
      rw [lget, List.getD_eq_getElem?_getD, List.getElem?_append_right (by rw [List.length_map]; omega), List.length_map, hlen]
      rfl
    rw [this]
    refine Nat.mod_eq_of_lt ?_
    by_cases hl : j - 32 < scs.length
    · exact hs _ ((mem_iff_lget 0).2 ⟨_, hl, rfl⟩)
    · simp [lget, List.getD_eq_getElem?_getD, List.getElem?_eq_none (not_lt.1 hl)]

/-- Block k of PACKF by the numbers of its lanes, as R157 has it. -/
def LanesPacked (t : Ty) (md k size sc : ℕ) (a q : ℕ → ℕ) (fl : ℕ → Flags) : Prop :=
  ((∃ j, (k * size ≤ j ∧ j < (k + 1) * size) ∧ ¬ (fDecode .fp32 (a j)).Finite) →
    sc = 0xFF ∧ ∀ j, (k * size ≤ j ∧ j < (k + 1) * size) → q j = 0 ∧ fl j = flagNV) ∧
  ((∀ j, (k * size ≤ j ∧ j < (k + 1) * size) → (fDecode .fp32 (a j)).Finite) → ∃ amax : ℚ,
    (∃ j, (k * size ≤ j ∧ j < (k + 1) * size) ∧ amax = |(fDecode .fp32 (a j)).real|) ∧
    (∀ j, (k * size ≤ j ∧ j < (k + 1) * size) → |(fDecode .fp32 (a j)).real| ≤ amax) ∧ (amax = 0 → sc = 127) ∧
    (amax ≠ 0 → (sc : ℤ) = min 254 (max 0 (Int.log 2 amax - (if t = .e4m3 then 7 else 14) + 127))) ∧
    ∀ j, (k * size ≤ j ∧ j < (k + 1) * size) → ConvertsTo t .fp32 md true (127 - (sc : ℤ)) (a j) (q j) (fl j))

theorem blockPacked_lanes {t : Ty} {md k size sc : ℕ} {as : List ℕ} {qs : List (ℕ × Flags)} {a q : ℕ → ℕ} {fl : ℕ → Flags}
    (h : BlockPacked t md as sc qs) (hlen : as.length = size) (hqlen : qs.length = as.length) (ha : ∀ i < size, lget 0 as i = a (k * size + i))
    (hq : ∀ i < size, lget (0, 0) qs i = (q (k * size + i), fl (k * size + i))) : LanesPacked t md k size sc a q fl := by
  have hblock : ∀ j, (k * size ≤ j ∧ j < (k + 1) * size) ↔ ∃ i < size, j = k * size + i := fun j => by
    rw [Nat.succ_mul]
    exact ⟨fun h => ⟨j - k * size, by omega, by omega⟩, by rintro ⟨i, hi, rfl⟩; omega⟩
  have hmem : ∀ x, x ∈ as ↔ ∃ j, (k * size ≤ j ∧ j < (k + 1) * size) ∧ a j = x := fun x => by
    rw [mem_iff_lget 0, hlen]
    constructor
    · rintro ⟨i, hi, rfl⟩
      exact ⟨_, (hblock _).2 ⟨i, hi, rfl⟩, (ha i hi).symm⟩
    · rintro ⟨j, hj, rfl⟩
      obtain ⟨i, hi, rfl⟩ := (hblock j).1 hj
      exact ⟨i, hi, ha i hi⟩
  obtain ⟨hbad, hgood⟩ := h
  refine ⟨?_, fun hfin => ?_⟩
  · rintro ⟨j, hj, hnf⟩
    obtain ⟨hsc, hqs⟩ := hbad ⟨a j, (hmem _).2 ⟨j, hj, rfl⟩, hnf⟩
    refine ⟨hsc, fun j hj => ?_⟩
    obtain ⟨i, hi, rfl⟩ := (hblock j).1 hj
    have := hqs _ ((mem_iff_lget (0, 0)).2 ⟨i, by omega, rfl⟩)
    rw [hq i hi] at this
    exact Prod.mk.inj this
  · obtain ⟨⟨amax, ⟨x, hx, hmax⟩, hle, h0, h1⟩, hconv⟩ := hgood fun x hx => by
      obtain ⟨j, hj, rfl⟩ := (hmem x).1 hx
      exact hfin j hj
    obtain ⟨j, hj, rfl⟩ := (hmem x).1 hx
    refine ⟨amax, ⟨j, hj, hmax⟩, fun j hj => hle _ ((hmem _).2 ⟨j, hj, rfl⟩), h0, h1, fun j hj => ?_⟩
    obtain ⟨i, hi, rfl⟩ := (hblock j).1 hj
    have := hconv i (by omega)
    rwa [ha i hi, hq i hi] at this

/-- The blocks of PACKF, one of 32 lanes or two of 16 (R157). -/
theorem packBlocks_packed {t : Ty} (ht : t = .e4m3 ∨ t = .e5m2) {md : ℕ} (hmd : md < 4) {ls : List ℕ} (hls : ls.length = 32) (b16 : Bool) :
    ∃ (rs : List (ℕ × Flags)) (scs : List ℕ), rs.length = 32 ∧ scs.length = (if b16 then 2 else 1) ∧ (∀ q ∈ rs, q.1 < 256) ∧ (∀ sc ∈ scs, sc < 256) ∧
      ((packBlocks b16 ls).map (packBlock t md)).flatMap (·.1) = rs.map (·.1) ∧ ((packBlocks b16 ls).map (packBlock t md)).map (·.2.1) = scs ∧
      ((packBlocks b16 ls).map (packBlock t md)).foldl (fun acc b => acc ||| b.2.2) 0 = rs.foldl (fun acc q => acc ||| q.2) 0 ∧
      ∀ k < 32 / (if b16 then 16 else 32), LanesPacked t md k (if b16 then 16 else 32) (lget 0 scs k) (lget 0 ls) (fun j => (lget (0, 0) rs j).1)
        (fun j => (lget (0, 0) rs j).2) := by
  cases b16
  · obtain ⟨qs, sc, hpack, hlen, hsc, hqs, h⟩ := packBlock_packed ht hmd (as := ls) (by rintro rfl; cases hls)
    refine ⟨qs, [sc], hlen.trans hls, rfl, hqs, by simpa using hsc, by simp [packBlocks, hpack], by simp [packBlocks, hpack], ?_, ?_⟩
    · simp only [packBlocks, Bool.false_eq_true, if_false, List.map_cons, List.map_nil, List.foldl_cons, List.foldl_nil, hpack]
      exact BitVec.zero_or
    · intro k hk
      obtain rfl : k = 0 := by simpa using hk
      exact blockPacked_lanes h hls hlen (fun i _ => by rw [Nat.zero_mul, Nat.zero_add]) fun i _ => by rw [Nat.zero_mul, Nat.zero_add]
  · have hl : (ls.take 16).length = 16 := by simp [hls]
    have hl' : (ls.drop 16).length = 16 := by simp [hls]
    obtain ⟨qs, sc, hpack, hlen, hsc, hqs, h⟩ := packBlock_packed ht hmd (as := ls.take 16) (by intro h; rw [h] at hl; cases hl)
    obtain ⟨qs', sc', hpack', hlen', hsc', hqs', h'⟩ := packBlock_packed ht hmd (as := ls.drop 16) (by intro h; rw [h] at hl'; cases hl')
    refine ⟨qs ++ qs', [sc, sc'], by rw [List.length_append]; omega, rfl, ?_, ?_, by simp [packBlocks, hpack, hpack'],
      by simp [packBlocks, hpack, hpack'], ?_, ?_⟩
    · intro q hq
      exact (List.mem_append.1 hq).elim (hqs q) (hqs' q)
    · rintro x (_ | ⟨_, _ | ⟨_, ⟨⟩⟩⟩)
      · exact hsc
      · exact hsc'
    · rw [foldl_or_append]
      simp only [packBlocks, if_true, List.map_cons, List.map_nil, List.foldl_cons, List.foldl_nil, hpack, hpack']
      exact congrArg (· ||| _) BitVec.zero_or
    · intro k hk
      have hk2 : k < 2 := hk
      interval_cases k
      · refine blockPacked_lanes h hl hlen (fun i hi => ?_) fun i hi => ?_ <;> replace hi : i < 16 := hi
        · rw [Nat.zero_mul, Nat.zero_add, take_elements hi]
        · rw [Nat.zero_mul, Nat.zero_add]
          simp [lget, List.getD_eq_getElem?_getD, List.getElem?_append_left, hlen, hl, hi]
      · refine blockPacked_lanes h' hl' hlen' (fun i hi => ?_) fun i hi => ?_
        · simp [lget, List.getD_eq_getElem?_getD]
        · show _ = lget (0, 0) (qs ++ qs') (1 * 16 + i)
          rw [lget, lget, List.getD_eq_getElem?_getD, List.getD_eq_getElem?_getD, List.getElem?_append_right (by omega), hlen, hl,
            Nat.one_mul, Nat.add_sub_cancel_left]

theorem isB16_eq {f : FmtT} {b : BitVec 7} (hb : f.sb = .imm b) : isB16 f = decide (b = 1) := by
  rw [isB16, hb]
  exact Bool.eq_iff_iff.2 (by rw [decide_eq_true_iff, BitVec.toNat_eq]; exact beq_iff_eq)

/-- UNPACKF converts each code back by its block's scale (R158). -/
theorem unpackf_gives (s : State) (f : FmtT) {b : BitVec 7} (hty : f.ty = .e4m3 ∨ f.ty = .e5m2) (hb : f.sb = .imm b) :
    GivesFloats (.unpackf f) s f.ta f.tb true .fp32 (fun j x fl =>
      (((LaneBits .z8 ((s.rdAt s.key).raw 8 .a f.sa) (if b = 1 then 32 + j / 16 else 32)).toNat = 0xFF → x = canon .fp32 ∧ fl = 0) ∧
      ((LaneBits .z8 ((s.rdAt s.key).raw 8 .a f.sa) (if b = 1 then 32 + j / 16 else 32)).toNat ≠ 0xFF →
        ConvertsTo .fp32 f.ty (f.md.toNat % 4) false
          (((LaneBits .z8 ((s.rdAt s.key).raw 8 .a f.sa) (if b = 1 then 32 + j / 16 else 32)).toNat : ℤ) - 127)
          (LaneBits .z8 ((s.rdAt s.key).raw 8 .a f.sa) j).toNat x fl))) := by
  have hlane : ∀ j, lane ((s.rdAt s.key).raw 8 .a f.sa) 8 j = (LaneBits .z8 ((s.rdAt s.key).raw 8 .a f.sa) j).toNat := lane_eq_laneBits .z8 _
  refine givesFloats_pureT (t := .fp32) rfl (by simp; rfl) fun j hj => ?_
  replace hj : j < 32 := hj
  rw [lget_range _ _ hj, isB16_eq hb]
  simp only [decide_eq_true_eq, hlane]
  refine ⟨fun h => ?_, fun h => ?_⟩
  · rw [if_pos h]; exact ⟨rfl, rfl⟩
  · rw [if_neg h]
    exact convert_convertsTo (.inr (by rcases hty with h | h <;> rw [h] <;> rfl)) _ _ _ _ (.inr rfl) (Nat.mod_lt _ (by norm_num))

/-- The result of PACKF. -/
def packed (f : FmtT) (r : Rd) : Res :=
  let bs := (packBlocks (isB16 f) (r.flts .fp32 .a f.sa)).map (packBlock f.ty (f.md.toNat % 4))
  ⟨ofLanes 8 (bs.flatMap (·.1) ++ bs.map (·.2.1)), true, bs.foldl (fun acc b => acc ||| b.2.2) 0⟩

/-- PACKF delivers its blocks (R157). -/
theorem packf_gives (s : State) (f : FmtT) {b : BitVec 7} (hty : f.ty = .e4m3 ∨ f.ty = .e5m2) (hb : f.sb = .imm b) :
    ∃ (q : ℕ → ℕ) (fl : ℕ → Flags) (sc : ℕ → ℕ),
      Gives (.packf f) s f.ta f.tb true ((List.range 32).foldl (fun u j => u ||| fl j) 0) (fun w =>
        ∀ j, j < 128 → (LaneBits .z8 w j).toNat =
          if j < 32 then q j else if j = 32 then sc 0 else if j = 33 ∧ b = 1 then sc 1 else 0) ∧
      ∀ k < 32 / (if b = 1 then 16 else 32), LanesPacked f.ty (f.md.toNat % 4) k (if b = 1 then 16 else 32) (sc k)
        (lget 0 ((s.rdAt s.key).flts .fp32 .a f.sa)) q fl := by
  obtain ⟨rs, scs, hlen, hslen, hr, hs, hcodes, hscales, hflags, hpacked⟩ :=
    packBlocks_packed hty (md := f.md.toNat % 4) (Nat.mod_lt _ (by norm_num)) (ls := (s.rdAt s.key).flts .fp32 .a f.sa) (Rd.flts_length ..) (isB16 f)
  simp only [isB16_eq hb, decide_eq_true_eq] at hslen hpacked
  refine ⟨fun j => (lget (0, 0) rs j).1, fun j => (lget (0, 0) rs j).2, lget 0 scs, ?_, hpacked⟩
  rw [show List.range 32 = List.range rs.length by rw [hlen], ← foldl_flags, ← hflags]
  refine gives_pureT (g := packed f) rfl ?_
  intro j hj
  dsimp only [packed]
  rw [hcodes, hscales, packed_codes hlen hr hs hj]
  have past : ∀ i, scs.length ≤ i → lget 0 scs i = 0 := fun i hi => by simp [lget, List.getD_eq_getElem?_getD, List.getElem?_eq_none hi]
  by_cases h32 : j < 32
  · simp [h32]
  · by_cases h : j = 32
    · simp [h]
    · by_cases h1 : j = 33 ∧ b = 1
      · simp [h1]
      · rw [if_neg (by omega), if_neg (by omega), if_neg (by omega), if_neg h1, past]
        rw [hslen]
        split
        · next hb1 =>
          have : j ≠ 33 := fun hj => h1 ⟨hj, hb1⟩
          omega
        · omega

end Sys2Proof.Machine
end

section
/-!
PROOFS of the numbers family: instructions of the engines, codebook entries and exact distances (R64).
-/

namespace Sys2Proof.Machine

/-! ## Instructions of the engines -/

theorem CeCtx.flag_zero (c : CeCtx) : c.flag 0 = c := by simp [CeCtx.flag]

/-- An engine instruction that is not held and not skipped does its own work. -/
theorem State.engine_ready {s : State} (f : FmtT) (go : ℕ → Rd → State → State) (hhold : (s.getCe s.key).fir.hold = .none)
    (hskip : (s.getCe s.key).fir.skip = false) : s.engine f go = go s.key (s.rdAt s.key) s := by
  have h1 : ¬ (s.rdAt s.key).c.fir.hold ≠ .none := not_not.2 hhold
  have h2 : ¬ (s.rdAt s.key).c.fir.skip = true := Bool.not_eq_true _ ▸ hskip
  unfold State.engine
  dsimp only
  rw [if_neg h1, if_neg h2]

/-- An instruction that gives its context a result completes with it. -/
theorem gives_result {i : Instr} {s : State} {ta tb : Tgt} {r : Res} (h : exec i s = .next (s.mapCe s.key fun c => c.result ta tb r)) {P : Vec → Prop}
    (hP : P r.val) : Gives i s ta tb r.vec r.flags P :=
  ⟨_, _, h, State.mapCe_only s _, by rw [State.getCe_mapCe]; exact CeCtx.result_delivered .., hP⟩

theorem gives_give2 {i : Instr} {s : State} {f : FmtT} {vec : Bool} {v : Vec} (h : exec i s = .next (s.give2 s.key f vec v)) {P : Vec → Prop} (hP : P v) :
    Gives i s f.ta f.tb vec 0 P :=
  gives_result (r := ⟨v, vec, 0⟩) (by rw [h]; simp only [CeCtx.result, CeCtx.flag_zero]; rfl) hP

/-! ## Codebooks (R64) -/

theorem bookEntry_eq (book : Vec) (c : ℕ) : bookEntry book c = (book.extractLsb' (640 + 16 * c) 16).toNat := by
  rw [bookEntry, natBits, BitVec.extractLsb'_toNat, Nat.shiftRight_eq_div_pow, show 16 * c + 655 + 1 - (16 * c + 640) = 16 by omega, add_comm 640]

theorem isBook_iff (book : Vec) : natBits book.toNat 131 128 = 0xD ↔ book.extractLsb' 128 4 = 0xD#4 := by
  rw [BitVec.toNat_eq, BitVec.extractLsb'_toNat, Nat.shiftRight_eq_div_pow]
  rfl

theorem codebook_ok {s : State} {part : ℕ} {h : Word} {book : Vec} (ht : s.tensor part h = some book) (hb : book.extractLsb' 128 4 = 0xD#4) :
    s.codebook part h = .ok book := by
  unfold State.codebook
  rw [ht]
  exact if_pos ((isBook_iff book).2 hb)

theorem codebook_error {s : State} {part : ℕ} {h : Word}
    (ht : s.tensor part h = none ∨ ∃ w, s.tensor part h = some w ∧ w.extractLsb' 128 4 ≠ 0xD#4) :
    s.codebook part h = .error (some ⟨.handle, h.toNat, 0⟩) := by
  unfold State.codebook
  rcases ht with h | ⟨w, h, hw⟩
  · rw [h]
  · rw [h]
    exact if_neg (mt (isBook_iff w).1 hw)

/-- A codebook entry stands exactly in bf16 and fp32. -/
theorem bookAs_exact {t : Ty} (ht : t = .bf16 ∨ t = .fp32) {book : Vec} {c : ℕ} (h : (fDecode .bf16 (bookEntry book c)).Finite) :
    (fDecode t (bookAs t book c)).Finite ∧ (fDecode t (bookAs t book c)).real = (fDecode .bf16 (bookEntry book c)).real := by
  have htf : t.isFloat = true := by rcases ht with rfl | rfl <;> rfl
  have hmax : |(fDecode .bf16 (bookEntry book c)).real| ≤ fMax .bf16 := by
    rw [abs_real rfl h]
    exact (le_topMag_iff rfl).1 ((finite_iff_mag rfl).1 h)
  obtain ⟨n, m, e, hd⟩ := h
  obtain ⟨-, hm, he, -⟩ := fDecode_bounds rfl hd
  rw [hd, FVal.real_fin, mul_assoc, abs_sign_mul n (by positivity)] at hmax
  have hb : bookAs t book c = (rnd t 0 false n m 1 e).1 := by
    rw [bookAs, convert_fin_float (src := .bf16) (.inr rfl) hd htf, add_zero]
  have hex := rnd_exact htf (md := 0) (by norm_num) false n (m := m) (e := e) (lt_of_lt_of_le hm ?_) (le_trans ?_ he) (hmax.trans ?_)
  · rw [hb, hd]
    exact ⟨by obtain ⟨m', e', h⟩ := hex.1; exact ⟨n, m', e', h⟩, hex.2.1⟩
  · rcases ht with rfl | rfl <;> decide
  · rcases ht with rfl | rfl <;> decide
  · rcases ht with rfl | rfl <;> norm_num [fMax]

/-! ## The least of a list of numbers -/

/-- A fold that moves on to strictly smaller keys ends at the first least one. -/
theorem foldl_argmin {α : Type} [LinearOrder α] (P : ℕ → ℕ → Prop) [∀ c b, Decidable (P c b)] (key : ℕ → α) {N : ℕ}
    (hP : ∀ c < N, ∀ b < N, P c b ↔ key c < key b) {n : ℕ} (hn : 0 < n) (hN : n ≤ N) :
    (List.range n).foldl (fun b c => if P c b then c else b) 0 < n ∧
    (∀ c < n, key ((List.range n).foldl (fun b c => if P c b then c else b) 0) ≤ key c) ∧
    ∀ c < (List.range n).foldl (fun b c => if P c b then c else b) 0, key ((List.range n).foldl (fun b c => if P c b then c else b) 0) < key c := by
  induction n, hn using Nat.le_induction with
  | base => simp
  | succ n hn ih =>
    obtain ⟨hlt, hle, hfirst⟩ := ih (by omega)
    rw [List.range_succ, List.foldl_append, List.foldl_cons, List.foldl_nil]
    generalize (List.range n).foldl (fun b c => if P c b then c else b) 0 = b at *
    have hPn := hP n (by omega) b (by omega)
    by_cases h : P n b
    · rw [if_pos h]
      refine ⟨by omega, fun c hc => ?_, fun c hc => (hPn.1 h).trans_le (hle c hc)⟩
      rcases Nat.lt_succ_iff_lt_or_eq.1 hc with hc | rfl
      · exact (hPn.1 h).le.trans (hle c hc)
      · exact le_rfl
    · rw [if_neg h]
      refine ⟨by omega, fun c hc => ?_, hfirst⟩
      rcases Nat.lt_succ_iff_lt_or_eq.1 hc with hc | rfl
      · exact hle c hc
      · exact not_lt.1 (mt hPn.2 h)

/-! ## CBQNT (R64, R160) -/

/-- The exact distance of two finite values. -/
theorem fDist_real {v w : FVal} (hv : v.Finite) (hw : w.Finite) : ∃ d : ℕ × ℤ, fDist v w = some d ∧ |v.real - w.real| = d.1 * (2 : ℚ) ^ d.2 := by
  obtain ⟨n, m, e, rfl⟩ := hv
  obtain ⟨n', m', e', rfl⟩ := hw
  refine ⟨_, rfl, ?_⟩
  have scale : ∀ (n : Bool) (m : ℕ) (e x : ℤ), x ≤ e → (FVal.fin n m e).real =
      (((if n then -1 else 1) * m * (2 ^ (e - x).toNat : ℕ) : ℤ) : ℚ) * (2 : ℚ) ^ x := fun n m e x hx => by
    obtain ⟨k, hk⟩ := Int.eq_ofNat_of_zero_le (sub_nonneg.2 hx)
    obtain rfl : e = k + x := by omega
    rw [FVal.real_fin, add_sub_cancel_right, Int.toNat_natCast, zpow_add₀ two_ne_zero, zpow_natCast]
    push_cast
    ring
  rw [scale n m e _ (min_le_left e e'), scale n' m' e' _ (min_le_right e e'), ← sub_mul, abs_mul, abs_of_pos (a := (2 : ℚ) ^ _) (by positivity),
    ← Int.cast_sub, ← Int.cast_abs, Int.abs_eq_natAbs, Int.cast_natCast]

theorem distLt_iff (a b : ℕ × ℤ) : distLt a b = true ↔ (a.1 : ℚ) * (2 : ℚ) ^ a.2 < b.1 * (2 : ℚ) ^ b.2 := by
  have scale : ∀ (p : ℕ × ℤ) (x : ℤ), x ≤ p.2 → (p.1 : ℚ) * (2 : ℚ) ^ p.2 = (p.1 * 2 ^ (p.2 - x).toNat : ℕ) * (2 : ℚ) ^ x := fun p x hx => by
    obtain ⟨k, hk⟩ := Int.eq_ofNat_of_zero_le (sub_nonneg.2 hx)
    rw [hk, show p.2 = k + x by omega, Int.toNat_natCast, zpow_add₀ two_ne_zero, zpow_natCast]
    push_cast
    ring
  rw [scale a _ (min_le_left _ _), scale b _ (min_le_right _ _), mul_lt_mul_iff_left₀ (by positivity), Nat.cast_lt]
  exact decide_eq_true_iff

end Sys2Proof.Machine
end

section
/-!
PROOFS of the numbers family: the nearest codebook entry (R64).
-/

namespace Sys2Proof.Machine

/-- The key by which an infinity finds its extreme entry: −0 stands at +0. -/
def entryKey (a : ℕ) : ℤ := if fKey .bf16 a = fKey .bf16 0x8000 then fKey .bf16 0 else fKey .bf16 a

/-- Such keys stand in the order of the values. -/
theorem entryKey_lt_iff {a b : ℕ} (ha : (fDecode .bf16 a).Finite) (hb : (fDecode .bf16 b).Finite) :
    entryKey a < entryKey b ↔ (fDecode .bf16 a).real < (fDecode .bf16 b).real := by
  have key : ∀ a, entryKey a = if bitN a 15 then (if a % 2 ^ 15 = 0 then 0 else -((a % 2 ^ 15 : ℕ) : ℤ) - 1) else (a % 2 ^ 15 : ℕ) := fun a => by
    have h1 : fKey .bf16 0x8000 = -1 := by decide
    have h2 : fKey .bf16 0 = 0 := by decide
    rw [entryKey, h1, h2, fKey, show Ty.bf16.width - 1 = 15 from rfl]
    cases bitN a 15
    · simp only [Bool.false_eq_true, if_false]
      rw [if_neg (by omega)]
    · simp only [if_true]
      by_cases h : a % 2 ^ 15 = 0
      · rw [if_pos (by omega), if_pos h]
      · rw [if_neg (by omega), if_neg h]
  have real : ∀ {a}, (fDecode .bf16 a).Finite → (fDecode .bf16 a).real =
      ((if bitN a 15 then -(ulps .bf16 (a % 2 ^ 15) : ℤ) else ulps .bf16 (a % 2 ^ 15) : ℤ) : ℚ) * (2 : ℚ) ^ (fEmin .bf16 - fMan .bf16) := fun {a} h => by
    have hm := (finite_iff_mag rfl).1 h
    rw [fDecode_eq rfl, if_pos hm, FVal.real_fin, mul_assoc, magSig_mul, show Ty.bf16.width - 1 = 15 from rfl]
    cases bitN a 15 <;> simp
  have hlt := (ulps_strictMono .bf16).lt_iff_lt (a := a % 2 ^ 15) (b := b % 2 ^ 15)
  have hgt := (ulps_strictMono .bf16).lt_iff_lt (a := b % 2 ^ 15) (b := a % 2 ^ 15)
  have zero : ∀ m, ulps .bf16 m = 0 ↔ m = 0 := fun m =>
    ⟨fun h => (ulps_strictMono .bf16).injective (h.trans rfl), by rintro rfl; rfl⟩
  have hza := zero (a % 2 ^ 15)
  have hzb := zero (b % 2 ^ 15)
  rw [key a, key b, real ha, real hb, mul_lt_mul_iff_left₀ (by positivity), Int.cast_lt]
  generalize ulps .bf16 (a % 2 ^ 15) = ua at *
  generalize ulps .bf16 (b % 2 ^ 15) = ub at *
  generalize a % 2 ^ 15 = ma at *
  generalize b % 2 ^ 15 = mb at *
  cases bitN a 15 <;> cases bitN b 15 <;> simp only [Bool.false_eq_true, if_false, if_true]
  · omega
  · split_ifs <;> omega
  · split_ifs <;> omega
  · split_ifs <;> omega

section
variable {book : Vec} (hbook : ∀ c < 16, (fDecode .bf16 (bookEntry book c)).Finite)
include hbook

/-- An infinity takes the extreme entry, the first of several (R64). -/
theorem nearestCode_inf (n : Bool) : ∃ q, nearestCode book (.inf n) = (q, flagNX) ∧ q < 16 ∧
    (∀ c < 16, if n then (fDecode .bf16 (bookEntry book q)).real ≤ (fDecode .bf16 (bookEntry book c)).real
      else (fDecode .bf16 (bookEntry book c)).real ≤ (fDecode .bf16 (bookEntry book q)).real) ∧
    ∀ c < q, (fDecode .bf16 (bookEntry book c)).real ≠ (fDecode .bf16 (bookEntry book q)).real := by
  cases n
  · obtain ⟨hlt, hle, hfirst⟩ := foldl_argmin (fun c b => if false = true then entryKey (bookEntry book c) < entryKey (bookEntry book b)
      else entryKey (bookEntry book b) < entryKey (bookEntry book c)) (fun c => -(fDecode .bf16 (bookEntry book c)).real) (N := 16) (n := 16)
      (fun c hc b hb => (entryKey_lt_iff (hbook b hb) (hbook c hc)).trans neg_lt_neg_iff.symm) (by norm_num) le_rfl
    exact ⟨_, rfl, hlt, fun c hc => neg_le_neg_iff.1 (hle c hc), fun c hc => (neg_lt_neg_iff.1 (hfirst c hc)).ne⟩
  · obtain ⟨hlt, hle, hfirst⟩ := foldl_argmin (fun c b => if true = true then entryKey (bookEntry book c) < entryKey (bookEntry book b)
      else entryKey (bookEntry book b) < entryKey (bookEntry book c)) (fun c => (fDecode .bf16 (bookEntry book c)).real) (N := 16) (n := 16)
      (fun c hc b hb => entryKey_lt_iff (hbook c hc) (hbook b hb)) (by norm_num) le_rfl
    exact ⟨_, rfl, hlt, fun c hc => hle c hc, fun c hc => (hfirst c hc).ne'⟩

/-- A finite value takes the nearest entry, the first of several (R64). -/
theorem nearestCode_finite {v : FVal} (hv : v.Finite) : ∃ q, (nearestCode book v).1 = q ∧ q < 16 ∧
    (∀ c < 16, |v.real - (fDecode .bf16 (bookEntry book q)).real| ≤ |v.real - (fDecode .bf16 (bookEntry book c)).real|) ∧
    (∀ c < q, |v.real - (fDecode .bf16 (bookEntry book q)).real| < |v.real - (fDecode .bf16 (bookEntry book c)).real|) ∧
    (nearestCode book v).2 = if v.real = (fDecode .bf16 (bookEntry book q)).real then 0 else flagNX := by
  have dist : ∀ c < 16, |v.real - (fDecode .bf16 (bookEntry book c)).real| =
      ((fDist v (fDecode .bf16 (bookEntry book c))).getD (0, 0)).1 * (2 : ℚ) ^ ((fDist v (fDecode .bf16 (bookEntry book c))).getD (0, 0)).2 := fun c hc => by
    obtain ⟨d, hd, h⟩ := fDist_real hv (hbook c hc)
    rw [h, hd, Option.getD_some]
  obtain ⟨hlt, hle, hfirst⟩ := foldl_argmin (fun c b => distLt ((fDist v (fDecode .bf16 (bookEntry book c))).getD (0, 0))
    ((fDist v (fDecode .bf16 (bookEntry book b))).getD (0, 0)) = true) (fun c => |v.real - (fDecode .bf16 (bookEntry book c)).real|) (N := 16) (n := 16)
    (fun c hc b hb => (distLt_iff _ _).trans (by rw [dist c hc, dist b hb])) (by norm_num) le_rfl
  obtain ⟨n, m, e, rfl⟩ := hv
  refine ⟨_, rfl, hlt, hle, hfirst, ?_⟩
  have hd : |(FVal.fin n m e).real - (fDecode .bf16 (bookEntry book (nearestCode book (.fin n m e)).1)).real| = _ := dist _ hlt
  have hzero : ((fDist (.fin n m e) (fDecode .bf16 (bookEntry book (nearestCode book (.fin n m e)).1))).getD (0, 0)).1 = 0 ↔
      (FVal.fin n m e).real = (fDecode .bf16 (bookEntry book (nearestCode book (.fin n m e)).1)).real := by
    refine (sub_eq_zero.symm.trans (abs_eq_zero.symm.trans ?_)).symm
    rw [hd, mul_eq_zero, or_iff_left (by positivity), Nat.cast_eq_zero]
  rw [← if_congr hzero rfl rfl]
  rfl

end

end Sys2Proof.Machine
end

section
/-!
PROOFS of the numbers family (O13): block scales and codebooks.
-/

namespace Sys2Proof.Machine

/-- A codebook handle that is not live, or names no codebook, raises HANDLE (R159). -/
theorem check_codebook_error {s : State} {part : ℕ} {h : Word} (go : Vec → State)
    (ht : s.tensor part h = none ∨ ∃ w, s.tensor part h = some w ∧ w.extractLsb' 128 4 ≠ 0xD#4) :
    s.check s.key (s.codebook part h) go = s.ceFault s.key .handle h.toNat 0 := by
  rw [codebook_error ht]
  rfl

theorem check_codebook_ok {s : State} {part : ℕ} {h : Word} {book : Vec} (go : Vec → State) (ht : s.tensor part h = some book)
    (hb : book.extractLsb' 128 4 = 0xD#4) : s.check s.key (s.codebook part h) go = go book := by
  rw [codebook_ok ht hb]
  rfl

/-- A code of R64 has four bits. -/
theorem nearestCode_lt {book : Vec} (hbook : ∀ c < 16, (fDecode .bf16 (bookEntry book c)).Finite) (v : FVal) : (nearestCode book v).1 < 16 := by
  cases v with
  | nan q => exact Nat.zero_lt_succ _
  | inf n =>
    obtain ⟨q, hq, hlt, -⟩ := nearestCode_inf hbook n
    rw [hq]
    exact hlt
  | fin n m e =>
    obtain ⟨q, hq, hlt, -⟩ := nearestCode_finite hbook (FVal.finite_fin n m e)
    rw [hq]
    exact hlt

/-- The code that R64 gives a value. -/
theorem nearestCode_spec {book : Vec} (hbook : ∀ c < 16, (fDecode .bf16 (bookEntry book c)).Finite) {v : FVal} {q : ℕ} {fl : Flags}
    (h : (q, fl) = nearestCode book v) : q < 16 ∧ (v.isNan = true → q = 0 ∧ fl = flagNV) ∧
      (∀ neg, v = .inf neg → fl = flagNX ∧
        (∀ c, c < 16 → if neg then (fDecode .bf16 (bookEntry book q)).real ≤ (fDecode .bf16 (bookEntry book c)).real
          else (fDecode .bf16 (bookEntry book c)).real ≤ (fDecode .bf16 (bookEntry book q)).real) ∧
        ∀ c, c < q → (fDecode .bf16 (bookEntry book c)).real ≠ (fDecode .bf16 (bookEntry book q)).real) ∧
      (v.Finite → (∀ c, c < 16 → |v.real - (fDecode .bf16 (bookEntry book q)).real| ≤ |v.real - (fDecode .bf16 (bookEntry book c)).real|) ∧
        (∀ c, c < q → |v.real - (fDecode .bf16 (bookEntry book q)).real| < |v.real - (fDecode .bf16 (bookEntry book c)).real|) ∧
        fl = if v.real = (fDecode .bf16 (bookEntry book q)).real then 0 else flagNX) := by
  obtain ⟨hq, hfl⟩ := Prod.mk.inj h
  refine ⟨hq ▸ nearestCode_lt hbook v, fun hn => ?_, fun neg hv => ?_, fun hv => ?_⟩
  · cases v with
    | nan s => exact ⟨hq, hfl⟩
    | inf n => cases hn
    | fin n m e => cases hn
  · subst hv
    obtain ⟨q', hq', -, hle, hfirst⟩ := nearestCode_inf hbook neg
    obtain ⟨rfl, rfl⟩ := Prod.mk.inj (h.trans hq')
    exact ⟨rfl, hle, hfirst⟩
  · obtain ⟨q', hq', -, hle, hfirst, hflag⟩ := nearestCode_finite hbook hv
    obtain rfl := hq.trans hq'
    exact ⟨hle, hfirst, hfl.trans hflag⟩

/-- The code of lane i of CBEXP's source. -/
def bookCode (r : Rd) (f : FmtT) (i : ℕ) : ℕ := match f.sa with | .imm v => v.toNat % 16 | x => lane (r.raw 4 .a x) 4 i

theorem bookCode_eq (r : Rd) (f : FmtT) (i : ℕ) :
    bookCode r f i = (match f.sa with | .imm v => v.toNat % 16 | x => (LaneBits .c4 (r.raw 4 .a x) i).toNat) ∧ bookCode r f i < 16 := by
  have h := lane_eq_laneBits .c4
  unfold bookCode
  cases f.sa with
  | imm v => exact ⟨rfl, Nat.mod_lt _ (by norm_num)⟩
  | _ => exact ⟨h _ _, (h _ _).trans_lt (BitVec.isLt _)⟩

section
variable {s : State} {f : FmtT} {book : Vec} (hhold : (s.getCe s.key).fir.hold = .none) (hskip : (s.getCe s.key).fir.skip = false)
include hhold hskip

theorem exec_cbexp : exec (.cbexp f) s = .next (s.check s.key (s.codebook (s.getCe s.key).part ((s.rdAt s.key).w64 .b f.sb)) fun rec =>
    s.give2 s.key f true (if 256 / f.ty.lanes ≤ partOperand (s.rdAt s.key) f then 0
      else ofLanes f.ty.width ((List.range f.ty.lanes).map fun i =>
        bookAs f.ty rec (bookCode (s.rdAt s.key) f (partOperand (s.rdAt s.key) f * f.ty.lanes + i))))) :=
  congrArg Host.Outcome.next (State.engine_ready f _ hhold hskip)

theorem exec_cbqnt : exec (.cbqnt f) s = .next (s.check s.key (s.codebook (s.getCe s.key).part ((s.rdAt s.key).w64 .b f.sb)) fun rec =>
    if 256 / f.ty.lanes ≤ partOperand (s.rdAt s.key) f then s.give2 s.key f true 0
    else s.mapCe s.key fun c => c.result f.ta f.tb
      ⟨ofLanes 4 (List.replicate (partOperand (s.rdAt s.key) f * f.ty.lanes) 0 ++
        (((s.rdAt s.key).flts f.ty .a f.sa).map fun a => nearestCode rec (fDecode f.ty a)).map (·.1)), true,
        (((s.rdAt s.key).flts f.ty .a f.sa).map fun a => nearestCode rec (fDecode f.ty a)).foldl (fun acc q => acc ||| q.2) 0⟩) :=
  congrArg Host.Outcome.next (State.engine_ready f _ hhold hskip)

variable (ht : s.tensor (s.getCe s.key).part ((s.rdAt s.key).w64 .b f.sb) = some book) (hb : book.extractLsb' 128 4 = 0xD#4)
include ht hb

/-- A part past the vector gives zero (R64). -/
theorem codebook_past (hp : 256 / f.ty.lanes ≤ partOperand (s.rdAt s.key) f) :
    Gives (.cbexp f) s f.ta f.tb true 0 (fun v => v = 0) ∧ Gives (.cbqnt f) s f.ta f.tb true 0 (fun v => v = 0) := by
  refine ⟨gives_give2 (v := 0) ?_ rfl, gives_give2 (v := 0) ?_ rfl⟩
  · rw [exec_cbexp hhold hskip, check_codebook_ok _ ht hb, if_pos hp]
  · rw [exec_cbqnt hhold hskip, check_codebook_ok _ ht hb, if_pos hp]

/-- CBEXP gives the entries of its part exactly (R159). -/
theorem cbexp_gives (hty : f.ty = .bf16 ∨ f.ty = .fp32) (hfin : ∀ c < 16, (fDecode .bf16 (bookEntry book c)).Finite)
    (hp : partOperand (s.rdAt s.key) f < 256 / f.ty.lanes) :
    Gives (.cbexp f) s f.ta f.tb true 0 (fun v => ∀ i, i < f.ty.lanes →
      (fDecode f.ty (LaneBits f.ty v i).toNat).Finite ∧ (fDecode f.ty (LaneBits f.ty v i).toNat).real =
        (fDecode .bf16 (bookEntry book (bookCode (s.rdAt s.key) f (partOperand (s.rdAt s.key) f * f.ty.lanes + i)))).real) := by
  have htf : f.ty.isFloat = true := by rcases hty with h | h <;> rw [h] <;> rfl
  have hexec := exec_cbexp hhold hskip (f := f)
  rw [check_codebook_ok _ ht hb, if_neg (not_le.2 hp)] at hexec
  refine gives_give2 hexec fun i hi => ?_
  rw [laneBits_ofLanes _ _ (width_mul_succ_le hi), lget_range _ _ hi, BitVec.toNat_ofNat, fDecode_mod htf]
  exact bookAs_exact hty (hfin _ (bookCode_eq ..).2)

/-- CBQNT gives each lane the code of its nearest entry (R160). -/
theorem cbqnt_gives (hfin : ∀ c < 16, (fDecode .bf16 (bookEntry book c)).Finite)
    (hp : partOperand (s.rdAt s.key) f < 256 / f.ty.lanes) :
    ∃ (q : ℕ → ℕ) (fl : ℕ → Flags),
      Gives (.cbqnt f) s f.ta f.tb true ((List.range f.ty.lanes).foldl (fun u j => u ||| fl j) 0) (fun v =>
        ∀ j, j < 256 → (LaneBits .c4 v j).toNat =
          if partOperand (s.rdAt s.key) f * f.ty.lanes ≤ j ∧ j < partOperand (s.rdAt s.key) f * f.ty.lanes + f.ty.lanes then
            q (j - partOperand (s.rdAt s.key) f * f.ty.lanes) else 0) ∧
      ∀ i < f.ty.lanes, (q i, fl i) = nearestCode book (fDecode f.ty (lget 0 ((s.rdAt s.key).flts f.ty .a f.sa) i)) := by
  have hexec := exec_cbqnt hhold hskip (f := f)
  rw [check_codebook_ok _ ht hb, if_neg (not_le.2 hp)] at hexec
  refine ⟨fun i => (nearestCode book (fDecode f.ty (lget 0 ((s.rdAt s.key).flts f.ty .a f.sa) i))).1,
    fun i => (nearestCode book (fDecode f.ty (lget 0 ((s.rdAt s.key).flts f.ty .a f.sa) i))).2, ?_, fun i _ => rfl⟩
  have hcodes : (((s.rdAt s.key).flts f.ty .a f.sa).map fun a => nearestCode book (fDecode f.ty a)) =
      (List.range f.ty.lanes).map fun i => nearestCode book (fDecode f.ty (lget 0 ((s.rdAt s.key).flts f.ty .a f.sa) i)) := by
    have := map_range_lget 0 ((s.rdAt s.key).flts f.ty .a f.sa) (fun a => nearestCode book (fDecode f.ty a)) f.ty.lanes 0 (by simp)
    simpa using this.symm
  rw [hcodes, List.foldl_map, List.map_map] at hexec
  refine gives_result hexec fun j hj => ?_
  have hlane := laneBits_ofLanes .c4 (List.replicate (partOperand (s.rdAt s.key) f * f.ty.lanes) 0 ++ (List.range f.ty.lanes).map
    fun i => (nearestCode book (fDecode f.ty (lget 0 ((s.rdAt s.key).flts f.ty .a f.sa) i))).1) (j := j) (show 4 * (j + 1) ≤ 1024 by omega)
  refine (congrArg BitVec.toNat hlane).trans ?_
  rw [BitVec.toNat_ofNat, lget_padded]
  split
  · exact Nat.mod_eq_of_lt (nearestCode_lt hfin _)
  · rfl

end

/-- Settles O13: blocks by `packBlocks_packed`, codebook entries by `bookAs_exact`, codes by the first least distance (`foldl_argmin`). -/
theorem blockScales : Obligations.BlockScales := by
  unfold Obligations.BlockScales
  refine ⟨fun s f b hty hb hb1 => ⟨?_, unpackf_gives s f hty hb⟩, fun s f book hty hhold hskip => ?_⟩
  · obtain ⟨q, fl, sc, hgives, hblocks⟩ := packf_gives s f hty hb
    exact ⟨q, fl, sc, hgives, hblocks⟩
  · simp only [← bookEntry_eq]
    refine ⟨fun ht hb hfin => ⟨codebook_past hhold hskip ht hb, fun hp => ⟨?_, ?_⟩⟩, fun ht => ⟨?_, ?_⟩⟩
    · have := cbexp_gives hhold hskip ht hb hty hfin hp
      simp only [(bookCode_eq _ _ _).1] at this
      exact this
    · obtain ⟨q, fl, hgives, hcodes⟩ := cbqnt_gives hhold hskip ht hb hfin hp
      exact ⟨q, fl, hgives, fun i hi => nearestCode_spec hfin (hcodes i hi)⟩
    · rw [exec_cbexp hhold hskip, check_codebook_error _ ht]
    · rw [exec_cbqnt hhold hskip, check_codebook_error _ ht]

end Sys2Proof.Machine
end

section
/-!
PROOFS of the numbers family: the s8 sum of a matrix node, and its groups of sixteen (R67, R68).
-/

namespace Sys2Proof.Machine

/-! ## The s8 pair (R68) -/

/-- An integer as an exact value. -/
def intVal (x : ℤ) : FVal := .fin (decide (x < 0)) x.natAbs 0

/-- A product's signed magnitude, as the sum of R68 adds it. -/
def addInt (t : ℤ) (p : FVal) : ℤ := match p with | .fin n m _ => t + (if n then -(m : ℤ) else m) | _ => t

theorem addInt_prodVal (t x y : ℤ) : addInt t (prodVal (intVal x) (intVal y)) = t + x * y := by
  have hsigned : (if decide (x < 0) != decide (y < 0) then -((x.natAbs * y.natAbs : ℕ) : ℤ) else (x.natAbs * y.natAbs : ℕ)) = x * y := by
    rw [← Int.natAbs_mul]
    rcases lt_or_ge x 0 with hx | hx <;> rcases lt_or_ge y 0 with hy | hy
    · simp [hx, hy, abs_of_nonneg (mul_nonneg_of_nonpos_of_nonpos hx.le hy.le)]
    · simp [hx, not_lt.2 hy, abs_of_nonpos (mul_nonpos_of_nonpos_of_nonneg hx.le hy)]
    · simp [not_lt.2 hx, hy, abs_of_nonpos (mul_nonpos_of_nonneg_of_nonpos hx hy.le)]
    · simp [not_lt.2 hx, not_lt.2 hy, abs_of_nonneg (mul_nonneg hx hy)]
  exact congrArg (t + ·) hsigned

theorem foldl_addInt (as bs : List ℤ) (t : ℤ) :
    (List.zipWith prodVal (as.map intVal) (bs.map intVal)).foldl addInt t = t + (List.zipWith (· * ·) as bs).sum := by
  induction as generalizing bs t with
  | nil => simp
  | cons x as ih =>
    cases bs with
    | nil => simp
    | cons y bs =>
      simp only [List.map_cons, List.zipWith_cons_cons, List.foldl_cons, List.sum_cons]
      rw [addInt_prodVal, ih, add_assoc]

/-- The s8 pair is exact and wraps at 32 bits (R68). -/
theorem nodeSum_int (acc : ℕ) (as bs : List ℤ) :
    (nodeSum true acc (as.map intVal) (bs.map intVal) : ℤ) = (acc + (List.zipWith (· * ·) as bs).sum) % 2 ^ 32 := by
  have h : nodeSum true acc (as.map intVal) (bs.map intVal) =
      lowBits ((List.zipWith prodVal (as.map intVal) (bs.map intVal)).foldl addInt acc) 32 := rfl
  rw [h, lowBits_cast, foldl_addInt]

/-! ## Groups of sixteen (R67) -/

theorem groups16_succ {n : ℕ} {ps : List FVal} (h : ps ≠ []) : groups16 (n + 1) ps = ps.take 16 :: groups16 n (ps.drop 16) := by
  cases ps with
  | nil => exact absurd rfl h
  | cons p ps => rfl

theorem groups16_nil (n : ℕ) : groups16 n [] = [] := by cases n <;> rfl

/-- More groups than a list fills change nothing. -/
theorem groups16_enough {n : ℕ} {ps : List FVal} (h : ps.length ≤ 16 * n) : groups16 (n + 1) ps = groups16 n ps := by
  induction n generalizing ps with
  | zero => rw [List.length_eq_zero_iff.1 (by omega : ps.length = 0), groups16_nil, groups16_nil]
  | succ n ih =>
    by_cases h0 : ps = []
    · rw [h0, groups16_nil, groups16_nil]
    · rw [groups16_succ h0, groups16_succ h0, ih (by rw [List.length_drop]; omega)]

theorem nodeSum_float (acc : ℕ) (as bs : List FVal) : nodeSum false acc as bs = (groups16 8 (List.zipWith prodVal as bs)).foldl groupSum acc := rfl

/-- Up to sixteen products are one group. -/
theorem nodeSum_group (acc : ℕ) {as bs : List FVal} (hlen : as.length = bs.length) (h : as.length ≤ 16) :
    nodeSum false acc as bs = groupSum acc (List.zipWith prodVal as bs) := by
  have hp : (List.zipWith prodVal as bs).length ≤ 16 := by rw [List.length_zipWith]; omega
  rw [nodeSum_float]
  by_cases h0 : List.zipWith prodVal as bs = []
  · rw [h0]; rfl
  · rw [groups16_succ h0, List.take_of_length_le hp, List.drop_of_length_le hp, groups16_nil]
    rfl

/-- The first sixteen products are added before the rest. -/
theorem nodeSum_append (acc : ℕ) {as bs as' bs' : List FVal} (hlen : as.length = bs.length) (hlen' : as'.length = bs'.length) (h : as.length = 16)
    (h' : as'.length ≤ 112) :
    nodeSum false acc (as ++ as') (bs ++ bs') = nodeSum false (groupSum acc (List.zipWith prodVal as bs)) as' bs' := by
  have hp : (List.zipWith prodVal as bs).length = 16 := by rw [List.length_zipWith]; omega
  have hp' : (List.zipWith prodVal as' bs').length ≤ 16 * 7 := by rw [List.length_zipWith]; omega
  rw [nodeSum_float, nodeSum_float, List.zipWith_append hlen, groups16_enough hp',
    groups16_succ (by intro h0; rw [List.append_eq_nil_iff.1 h0 |>.1] at hp; cases hp), ← hp, List.take_left, List.drop_left]
  rfl

theorem prodVal_finite {a b : FVal} (ha : a.Finite) (hb : b.Finite) : (prodVal a b).Finite ∧ (prodVal a b).real = a.real * b.real := by
  obtain ⟨n, m, e, rfl⟩ := ha
  obtain ⟨n', m', e', rfl⟩ := hb
  exact ⟨FVal.finite_fin .., real_mul ..⟩

end Sys2Proof.Machine
end

section
/-!
PROOFS of the numbers family: a group of products is cut, summed exactly and added once (R67).
-/

namespace Sys2Proof.Machine

/-! ## A value added to the accumulator (R67) -/

/-- The accumulator with a value added. -/
def accPlus (acc : ℕ) (x : FVal) : ℕ := if (fDecode .fp32 acc).isNan then canon .fp32 else (fSum .fp32 0 [fDecode .fp32 acc, x]).1

theorem accPlus_addsTo (acc : ℕ) {x : FVal} (hx : x.isNan = false) : ∃ fl, AddsTo .fp32 0 (fDecode .fp32 acc) x (accPlus acc x) fl := by
  unfold accPlus
  by_cases ha : (fDecode .fp32 acc).isNan = true
  · rw [if_pos ha]
    exact ⟨_, addsTo_nan (.inl ha)⟩
  · rw [if_neg ha]
    exact ⟨_, fSum_addsTo rfl (by norm_num) (by simpa using ha) hx⟩

/-- A sum depends on the value of a finite term that is not 0, whatever its significand and exponent. -/
theorem addsTo_congr {t : Ty} {md : ℕ} {x y y' : FVal} {r : ℕ} {fl : Flags} (hy : y.Finite) (hy' : y'.Finite) (hreal : y'.real = y.real)
    (h0 : y.real ≠ 0) (h : AddsTo t md x y r fl) : ∃ fl', AddsTo t md x y' r fl' := by
  have notZero : ∀ {v : FVal}, v.Finite → v.real ≠ 0 → v.isZero = false := by
    rintro _ ⟨n, m, e, rfl⟩ hv
    simpa using mt FVal.real_eq_zero.2 hv
  have notNan : ∀ {v : FVal}, v.Finite → v.isNan = false := by
    rintro _ ⟨n, m, e, rfl⟩
    rfl
  obtain ⟨hnan, hinf, -, -, hfin⟩ := h
  by_cases hx : x.isNan = true
  · rw [(hnan (.inl hx)).1]
    exact ⟨_, addsTo_nan (.inl hx)⟩
  · refine ⟨fl, fun h => ?_, fun n hn _ => hinf n hn (.inr hy), fun n hn _ => ?_, fun n _ hn => ?_, fun hxf _ => ?_⟩
    · rw [notNan hy'] at h
      exact absurd (h.resolve_right (by simp)) hx
    · rw [hn] at hy'
      exact absurd hy' (FVal.not_finite_inf n)
    · rw [hn] at hy'
      exact absurd hy' (FVal.not_finite_inf _)
    · obtain ⟨hround, hzero⟩ := hfin hxf hy
      rw [notZero hy h0, Bool.and_false] at hzero
      rw [hreal, notZero hy' (hreal ▸ h0), Bool.and_false]
      exact ⟨hround, fun h => by simpa using hzero h⟩

/-! ## One group (R67) -/

/-- The binade of a term that is not 0. -/
def termLog2 (p : FVal) : Option ℤ := match p with | .fin _ m ex => if m = 0 then none else some (floorLog2 m ex) | _ => none

theorem groupSum_eq (acc : ℕ) (ps : List FVal) : groupSum acc ps =
    if (ps.any FVal.isNan || (ps.contains (.inf false) && ps.contains (.inf true))) = true then canon .fp32
    else if ps.contains (.inf false) = true then accPlus acc (.inf false)
    else if ps.contains (.inf true) = true then accPlus acc (.inf true)
    else match ps.filterMap termLog2 with
      | [] => acc
      | e :: es => if truncSum ps (es.foldl max e) = 0 then acc
        else accPlus acc (.fin (truncSum ps (es.foldl max e) < 0) (truncSum ps (es.foldl max e)).natAbs (es.foldl max e - 47)) := rfl

theorem groupSum_nan (acc : ℕ) {ps : List FVal} (h : (∃ p ∈ ps, p.isNan = true) ∨ (.inf true ∈ ps ∧ .inf false ∈ ps)) :
    groupSum acc ps = canon .fp32 := by
  rw [groupSum_eq, if_pos]
  rcases h with h | ⟨h1, h2⟩
  · rw [List.any_eq_true.2 h, Bool.true_or]
  · simp [h1, h2]

theorem groupSum_inf (acc : ℕ) {ps : List FVal} {n : Bool} (hnan : ∀ p ∈ ps, p.isNan = false) (hn : .inf n ∈ ps) (hno : .inf (!n) ∉ ps) :
    groupSum acc ps = accPlus acc (.inf n) := by
  have h1 : ps.any FVal.isNan = false := List.any_eq_false.2 fun p hp => by simp [hnan p hp]
  rw [groupSum_eq, h1]
  cases n
  · simp [show FVal.inf false ∈ ps from hn, show FVal.inf true ∉ ps from hno]
  · simp [show FVal.inf true ∈ ps from hn, show FVal.inf false ∉ ps from hno]

section
variable {ps : List FVal} (hfin : ∀ p ∈ ps, p.Finite)
include hfin

theorem groupSum_finite (acc : ℕ) : groupSum acc ps = match ps.filterMap termLog2 with
    | [] => acc
    | e :: es => if truncSum ps (es.foldl max e) = 0 then acc
      else accPlus acc (.fin (truncSum ps (es.foldl max e) < 0) (truncSum ps (es.foldl max e)).natAbs (es.foldl max e - 47)) := by
  have h1 : ps.any FVal.isNan = false := List.any_eq_false.2 fun p hp => by
    obtain ⟨n, m, e, rfl⟩ := hfin p hp
    simp
  have h2 : ∀ n, ps.contains (.inf n) = false := fun n => by
    rw [← Bool.not_eq_true, List.contains_iff_mem]
    exact fun h => FVal.not_finite_inf n (hfin _ h)
  rw [groupSum_eq, h1, h2, h2]
  simp

theorem mem_termLog2 {e : ℤ} : e ∈ ps.filterMap termLog2 ↔ ∃ p ∈ ps, p.real ≠ 0 ∧ Int.log 2 |p.real| = e := by
  rw [List.mem_filterMap]
  refine exists_congr fun p => and_congr_right fun hp => ?_
  obtain ⟨n, m, ex, rfl⟩ := hfin p hp
  by_cases hm : m = 0
  · simp [termLog2, hm, FVal.real_fin]
  · have hlog : Int.log 2 |(FVal.fin n m ex).real| = floorLog2 m ex := by
      rw [FVal.real_fin, mul_assoc, abs_sign_mul _ (by positivity), ← ilog2_eq_rat (Nat.pos_of_ne_zero hm)]
      simp [ilog2, floorLog2, show Nat.log2 1 = 0 by decide, Nat.not_lt.2 (Nat.log2_self_le hm)]
    rw [hlog]
    simp [termLog2, hm, FVal.real_eq_zero]

end

/-- A term cut to 48 bits below the group's largest exponent, toward zero. -/
def cutTerm (emax : ℤ) (p : FVal) : ℚ := (if p.real < 0 then -1 else 1) * ⌊|p.real| / (2 : ℚ) ^ (emax - 47)⌋ * (2 : ℚ) ^ (emax - 47)

/-- A cut term in units of its last place. -/
def cutUnits (emax : ℤ) (p : FVal) : ℤ := match p with
  | .fin n m ex =>
    let sh := ex - (emax - 47)
    let q := if 0 ≤ sh then m * 2 ^ sh.toNat else m / 2 ^ (-sh).toNat
    if n then -(q : ℤ) else q
  | _ => 0

theorem cutUnits_eq (emax : ℤ) {p : FVal} (h : p.Finite) : (cutUnits emax p : ℚ) * (2 : ℚ) ^ (emax - 47) = cutTerm emax p := by
  obtain ⟨n, m, ex, rfl⟩ := h
  have hunits : (if 0 ≤ ex - (emax - 47) then m * 2 ^ (ex - (emax - 47)).toNat else m / 2 ^ (-(ex - (emax - 47))).toNat) = unitsKept m ex (emax - 47) := by
    unfold unitsKept
    by_cases h1 : ex < emax - 47
    · rw [if_neg (by omega), if_pos h1.le, neg_sub]
    · by_cases h2 : ex = emax - 47
      · rw [h2]; simp
      · rw [if_pos (by omega), if_neg (by omega)]
  have habs : |(FVal.fin n m ex).real| = m * (2 : ℚ) ^ ex := by rw [FVal.real_fin, mul_assoc, abs_sign_mul _ (by positivity)]
  rw [cutTerm, habs, floor_div_place, cutUnits, hunits]
  congr 1
  by_cases hm : m = 0
  · subst hm
    have : unitsKept 0 ex (emax - 47) = 0 := by unfold unitsKept; split <;> simp
    rw [this]
    cases n <;> simp
  · have hneg : (FVal.fin n m ex).real < 0 ↔ n = true := by
      rw [← decide_eq_true_iff (p := (FVal.fin n m ex).real < 0), FVal.decide_real_neg hm]
    simp only [hneg]
    cases n <;> simp

theorem truncSum_eq (emax : ℤ) {ps : List FVal} (hfin : ∀ p ∈ ps, p.Finite) :
    (truncSum ps emax : ℚ) * (2 : ℚ) ^ (emax - 47) = (ps.map (cutTerm emax)).sum := by
  have hfold : ∀ (ps : List FVal) (acc : ℤ), ps.foldl (fun acc p => match p with
      | .fin n m ex =>
        let sh := ex - (emax - 47)
        let q := if 0 ≤ sh then m * 2 ^ sh.toNat else m / 2 ^ (-sh).toNat
        acc + (if n then -(q : Int) else q)
      | _ => acc) acc = acc + (ps.map (cutUnits emax)).sum := fun ps acc => by
    induction ps generalizing acc with
    | nil => simp
    | cons p ps ih =>
      rw [List.foldl_cons, ih, List.map_cons, List.sum_cons, ← add_assoc]
      congr 1
      cases p <;> simp [cutUnits]
  have h : truncSum ps emax = (ps.map (cutUnits emax)).sum := (hfold ps 0).trans (zero_add _)
  rw [h]
  clear h
  induction ps with
  | nil => simp
  | cons p ps ih =>
    rw [List.forall_mem_cons] at hfin
    rw [List.map_cons, List.sum_cons, Int.cast_add, add_mul, cutUnits_eq emax hfin.1, ih hfin.2, List.map_cons, List.sum_cons]

/-- A group of finite products (R67). -/
theorem groupSum_cut (acc : ℕ) {ps : List FVal} {emax : ℤ} (hfin : ∀ p ∈ ps, p.Finite) (hmem : ∃ p ∈ ps, p.real ≠ 0 ∧ Int.log 2 |p.real| = emax)
    (hmax : ∀ p ∈ ps, p.real ≠ 0 → Int.log 2 |p.real| ≤ emax) :
    groupSum acc ps = if truncSum ps emax = 0 then acc else accPlus acc (.fin (truncSum ps emax < 0) (truncSum ps emax).natAbs (emax - 47)) := by
  rw [groupSum_finite hfin]
  have hin := (mem_termLog2 hfin).2 hmem
  have hle : ∀ e ∈ ps.filterMap termLog2, e ≤ emax := fun e he => by
    obtain ⟨p, hp, h0, rfl⟩ := (mem_termLog2 hfin).1 he
    exact hmax p hp h0
  generalize ps.filterMap termLog2 = es at *
  cases es with
  | nil => cases hin
  | cons e es =>
    obtain ⟨h1, h2, h3⟩ := foldl_max_spec es e
    have hfold : es.foldl max e = emax := by
      refine le_antisymm ?_ ?_
      · rcases h3 with h | h
        · rw [h]; exact hle e List.mem_cons_self
        · exact hle _ (List.mem_cons_of_mem _ h)
      · rcases List.mem_cons.1 hin with rfl | h
        · exact h1
        · exact h2 _ h
    rw [← hfold]

theorem groupSum_zero (acc : ℕ) {ps : List FVal} (h : ∀ p ∈ ps, p.Finite ∧ p.real = 0) : groupSum acc ps = acc := by
  have hnone : ps.filterMap termLog2 = [] := List.eq_nil_iff_forall_not_mem.2 fun e he => by
    obtain ⟨p, hp, h0, -⟩ := (mem_termLog2 fun p hp => (h p hp).1).1 he
    exact h0 (h p hp).2
  rw [groupSum_finite fun p hp => (h p hp).1, hnone]

/-- The group's sum in units of its place, as a value. -/
theorem real_signed (v e : ℤ) : (FVal.fin (v < 0) v.natAbs e).real = v * (2 : ℚ) ^ e := by
  rw [FVal.real_fin, Nat.cast_natAbs]
  rcases lt_or_ge v 0 with h | h
  · simp [h, abs_of_neg]
  · simp [not_lt.2 h, abs_of_nonneg h]

/-- A group of finite products leaves the accumulator alone, or adds its cut sum with one rounding (R67). -/
theorem groupSum_adds (acc : ℕ) {ps : List FVal} {emax : ℤ} (hfin : ∀ p ∈ ps, p.Finite) (hmem : ∃ p ∈ ps, p.real ≠ 0 ∧ Int.log 2 |p.real| = emax)
    (hmax : ∀ p ∈ ps, p.real ≠ 0 → Int.log 2 |p.real| ≤ emax) :
    ((ps.map (cutTerm emax)).sum = 0 → groupSum acc ps = acc) ∧
    ((ps.map (cutTerm emax)).sum ≠ 0 → ∀ y : FVal, y.Finite → y.real = (ps.map (cutTerm emax)).sum →
      ∃ fl, AddsTo .fp32 0 (fDecode .fp32 acc) y (groupSum acc ps) fl) := by
  have hsum := truncSum_eq emax hfin
  have hzero : truncSum ps emax = 0 ↔ (ps.map (cutTerm emax)).sum = 0 := by
    rw [← hsum, mul_eq_zero, or_iff_left (by positivity), Int.cast_eq_zero]
  rw [groupSum_cut acc hfin hmem hmax]
  refine ⟨fun h => if_pos (hzero.2 h), fun h y hy hyr => ?_⟩
  rw [if_neg (mt hzero.1 h)]
  obtain ⟨fl, hadd⟩ := accPlus_addsTo acc (x := .fin (truncSum ps emax < 0) (truncSum ps emax).natAbs (emax - 47)) rfl
  have hreal := real_signed (truncSum ps emax) (emax - 47)
  rw [hsum] at hreal
  exact addsTo_congr (FVal.finite_fin ..) hy (hyr.trans hreal.symm) (by rwa [hreal]) hadd

end Sys2Proof.Machine
end

section
/-!
PROOFS of the numbers family: pending fragments accepted again (R384, R391).
-/

namespace Sys2Proof.Machine

theorem State.getMn_setMn_ne (s : State) {k n : ℕ} (m : MatNode) (h : n ≠ k) : (s.setMn k m).getMn n = s.getMn n :=
  by unfold State.getMn State.setMn; exact tget_tput_ne _ _ _ h

/-- The node's life for a context does not depend on its tiles, fragments and contexts. -/
theorem State.mnLive_setMn (s : State) (mn c : ℕ) {m : MatNode} (h : m.clearing = (s.getMn mn).clearing) :
    (s.setMn mn m).mnLive mn c = s.mnLive mn c := by
  unfold State.mnLive
  rw [State.getMn_setMn, h]
  rfl

/-! ## Pending fragments accepted again (R391) -/

/-- The state with the first pending fragment of a context accepted again. -/
def State.retaken (s : State) (mn c : ℕ) (f : Fragment) (rest : List Fragment) : State :=
  s.setMn mn { s.getMn mn with
    frags := (s.getMn mn).frags ++ [f]
    ctxs := lmod (s.getMn mn).ctxs c fun x => { x with pend := rest, reserved := x.reserved + b2n (!f.real) } }

/-- A context's restores that the node still holds. -/
def MatNode.restoring (m : MatNode) (mn c : ℕ) : Bool := m.restores.any fun r => r.ctx == mn / 2 * 4 + c

/-- Nothing more is accepted again: the node has no place, does not work for the context, or holds a restore of it. -/
def retakingStops (s : State) (mn c : ℕ) (f : Fragment) : Bool :=
  let room := if f.real then ((s.getMn mn).frags.filter Fragment.real).length < nodeFragments else s.doneRoom ((s.getMn mn).ctx c)
  !room || !s.mnLive mn c || (s.getMn mn).restoring mn c

theorem reaccept_nil {s : State} {mn c : ℕ} (fuel : ℕ) (h : ((s.getMn mn).ctx c).pend = []) : State.reaccept fuel s mn c = s := by
  cases fuel with
  | zero => rfl
  | succ fuel =>
    rw [State.reaccept]
    dsimp only
    rw [h]

theorem reaccept_cons {s : State} {mn c : ℕ} (fuel : ℕ) {f : Fragment} {rest : List Fragment} (h : ((s.getMn mn).ctx c).pend = f :: rest) :
    State.reaccept (fuel + 1) s mn c =
      if retakingStops s mn c f = true then s
      else State.reaccept fuel (s.retaken mn c f rest) mn c := by
  rw [State.reaccept]
  dsimp only
  rw [h]
  rfl

/-- While the node holds a restore of the context nothing is accepted again. -/
theorem reaccept_restoring {s : State} {mn c : ℕ} (fuel : ℕ) (h : (s.getMn mn).restoring mn c = true) : State.reaccept fuel s mn c = s := by
  cases fuel with
  | zero => rfl
  | succ fuel =>
    cases hp : ((s.getMn mn).ctx c).pend with
    | nil => exact reaccept_nil _ hp
    | cons f rest => rw [reaccept_cons fuel hp, if_pos (by rw [retakingStops, h, Bool.or_true])]

section
variable {s : State} {mn c : ℕ} {f : Fragment} {rest : List Fragment}

theorem getMn_retaken : (s.retaken mn c f rest).getMn mn = { s.getMn mn with
    frags := (s.getMn mn).frags ++ [f]
    ctxs := lmod (s.getMn mn).ctxs c fun x => { x with pend := rest, reserved := x.reserved + b2n (!f.real) } } := State.getMn_setMn ..

theorem pend_retaken (hc : c < (s.getMn mn).ctxs.length) : (((s.retaken mn c f rest).getMn mn).ctx c).pend = rest := by
  rw [getMn_retaken, MatNode.ctx, lget_lmod_self _ _ _ _ hc]

theorem mnLive_retaken : (s.retaken mn c f rest).mnLive mn c = s.mnLive mn c := State.mnLive_setMn s mn c rfl

end

/-- What accepting again leaves as it is. -/
theorem reaccept_keeps (fuel : ℕ) (s : State) (mn c : ℕ) : (∀ k, k ≠ mn → (State.reaccept fuel s mn c).getMn k = s.getMn k) ∧
    ((State.reaccept fuel s mn c).getMn mn).tiles = (s.getMn mn).tiles ∧ ((State.reaccept fuel s mn c).getMn mn).restores = (s.getMn mn).restores := by
  induction fuel generalizing s with
  | zero => exact ⟨fun _ _ => rfl, rfl, rfl⟩
  | succ fuel ih =>
    cases hp : ((s.getMn mn).ctx c).pend with
    | nil => rw [reaccept_nil _ hp]; exact ⟨fun _ _ => rfl, rfl, rfl⟩
    | cons f rest =>
      rw [reaccept_cons fuel hp]
      split
      · exact ⟨fun _ _ => rfl, rfl, rfl⟩
      · obtain ⟨h1, h2, h3⟩ := ih (s.retaken mn c f rest)
        refine ⟨fun k hk => (h1 k hk).trans (State.getMn_setMn_ne s _ hk), h2.trans ?_, h3.trans ?_⟩ <;> rw [getMn_retaken]

/-- A context's pending fragments are accepted again in their order, all of them when there is room (R384, R391). -/
theorem reaccept_frags (fuel : ℕ) (s : State) (mn c : ℕ) (hc : c < (s.getMn mn).ctxs.length) :
    ∃ n, ((State.reaccept fuel s mn c).getMn mn).frags = (s.getMn mn).frags ++ ((s.getMn mn).ctx c).pend.take n ∧
      (((State.reaccept fuel s mn c).getMn mn).ctx c).pend = ((s.getMn mn).ctx c).pend.drop n ∧
      ((∀ g ∈ ((s.getMn mn).ctx c).pend, g.real = true) →
        ((s.getMn mn).frags.filter Fragment.real).length + ((s.getMn mn).ctx c).pend.length ≤ nodeFragments → s.mnLive mn c = true →
        (s.getMn mn).restoring mn c = false → ((s.getMn mn).ctx c).pend.length ≤ fuel → n = ((s.getMn mn).ctx c).pend.length) := by
  induction fuel generalizing s with
  | zero => exact ⟨0, by simp [State.reaccept], by simp [State.reaccept], fun _ _ _ _ h => by omega⟩
  | succ fuel ih =>
    cases hp : ((s.getMn mn).ctx c).pend with
    | nil => rw [reaccept_nil _ hp, hp]; exact ⟨0, by simp, rfl, fun _ _ _ _ _ => rfl⟩
    | cons f rest =>
      rw [reaccept_cons fuel hp]
      split
      · next hstop =>
        refine ⟨0, by simp, by rw [hp]; rfl, fun hreal hroom hlive hrest _ => ?_⟩
        rw [List.length_cons] at hroom
        have hf := hreal f List.mem_cons_self
        have hlt : ((s.getMn mn).frags.filter Fragment.real).length < nodeFragments := by omega
        simp [retakingStops, hf, hlt, hlive, hrest] at hstop
      · obtain ⟨n, hfrags, hpend, hall⟩ := ih (s.retaken mn c f rest) (by rw [getMn_retaken]; simpa [lmod] using hc)
        rw [pend_retaken hc] at hfrags hpend hall
        refine ⟨n + 1, ?_, hpend, fun hreal hroom hlive hrest hlen => ?_⟩
        · rw [hfrags, getMn_retaken, List.take_succ_cons, List.append_assoc]
          rfl
        · rw [List.length_cons, hall (fun g hg => hreal g (List.mem_cons_of_mem _ hg)) ?_ (mnLive_retaken.trans hlive) ?_ (by simpa using hlen)]
          · rw [getMn_retaken, List.filter_append, List.length_append]
            rw [List.length_cons] at hroom
            simp [hreal f List.mem_cons_self]
            omega
          · rw [getMn_retaken]
            exact hrest

end Sys2Proof.Machine
end

section
/-!
PROOFS of the numbers family: a saved tile written back (R391).
-/

namespace Sys2Proof.Machine

/-! ## A saved tile written back (R391) -/

/-- Bytes written at an offset from a base. -/
def writeCells (base : ℕ) (cells : List (ℕ × Byte)) (m : Memory) : Memory := cells.foldl (fun m c => m.write (base + c.1) c.2) m

theorem read_writeCells_ne (base : ℕ) (cells : List (ℕ × Byte)) (m : Memory) {y : ℕ} (h : ∀ c ∈ cells, y ≠ base + c.1) :
    (writeCells base cells m).read y = m.read y := by
  induction cells generalizing m with
  | nil => rfl
  | cons c cells ih =>
    rw [List.forall_mem_cons] at h
    exact (ih _ h.2).trans (Memory.read_write_ne m _ h.1)

/-- A canonical list of cells, written over a blank range, is read back as it is. -/
theorem read_writeCells (base : ℕ) {cells : List (ℕ × Byte)} (hc : Memory.wf cells = true) {m : Memory} (h : Memory.wf m = true) {o : ℕ}
    (hblank : m.read (base + o) = Memory.blank) : (writeCells base cells m).read (base + o) = Memory.read cells o := by
  induction cells generalizing m with
  | nil => exact hblank
  | cons c cells ih =>
    obtain ⟨a, b⟩ := c
    have hrest : ∀ e ∈ cells, a < e.1 := (List.pairwise_cons.1 ((Memory.wf_iff _).1 hc).1).1
    rw [Memory.read]
    split
    · next hao =>
      subst hao
      refine (read_writeCells_ne base cells _ fun e he => ?_).trans (Memory.read_write_self h _ _)
      have := hrest e he
      omega
    · next hao =>
      refine ih (Memory.wf_tail hc) (Memory.write_wf h _ _) ?_
      rw [Memory.read_write_ne _ _ (by omega), hblank]

/-- The state with a saved tile entry written, before pending fragments are accepted again. -/
def State.written (s : State) (mn : ℕ) (r : TileEntry) : State :=
  { s with accs := writeCells (accAddr mn r.tile 0 0) r.contents (s.accs.clear (accAddr mn r.tile 0 0) 32768) }.setMn mn { s.getMn mn with
    tiles := lmod (s.getMn mn).tiles r.tile fun _ => { state := if r.busy then .busy else .ready, owner := r.ctx, owned := true }
    restores := (s.getMn mn).restores.erase r }

theorem restoreTile_eq (s : State) (mn : ℕ) (r : TileEntry) :
    s.restoreTile mn r = if r.ctx / 4 = mn / 2 then State.reaccept 64 (s.written mn r) mn (r.ctx % 4) else s.written mn r := rfl

section
variable {s : State} {mn : ℕ} {r : TileEntry}

theorem getMn_written : (s.written mn r).getMn mn = { s.getMn mn with
    tiles := lmod (s.getMn mn).tiles r.tile fun _ => { state := if r.busy then .busy else .ready, owner := r.ctx, owned := true }
    restores := (s.getMn mn).restores.erase r } := State.getMn_setMn ..

theorem getMn_written_ne {k : ℕ} (h : k ≠ mn) : (s.written mn r).getMn k = s.getMn k := State.getMn_setMn_ne _ _ h

theorem mnLive_written (c : ℕ) : (s.written mn r).mnLive mn c = s.mnLive mn c := State.mnLive_setMn _ mn c rfl

theorem accs_written : (s.written mn r).accs = writeCells (accAddr mn r.tile 0 0) r.contents (s.accs.clear (accAddr mn r.tile 0 0) 32768) := rfl

/-- A restore writes its bytes over its tile, and no others. -/
theorem read_written (hm : MemoryOk s) (hc : Memory.wf r.contents = true) (hkeys : ∀ e ∈ r.contents, e.1 < 32768) :
    (∀ o, o < 32768 → (s.written mn r).accs.read (accAddr mn r.tile 0 0 + o) = Memory.read r.contents o) ∧
    ∀ y, y < accAddr mn r.tile 0 0 ∨ accAddr mn r.tile 0 0 + 32768 ≤ y → (s.written mn r).accs.read y = s.accs.read y := by
  rw [accs_written]
  refine ⟨fun o ho => read_writeCells _ hc (Memory.clear_wf hm.accs _ _) ?_, fun y hy => ?_⟩
  · rw [Memory.read_clear, if_pos (by omega)]
  · rw [read_writeCells_ne _ _ _ fun c hcell => by have := hkeys c hcell; omega, Memory.read_clear, if_neg (by omega)]

/-- The memories that accepting again leaves as they are. -/
theorem reaccept_accs_wbuf (fuel : ℕ) (s : State) (mn c : ℕ) : (State.reaccept fuel s mn c).accs = s.accs ∧ (State.reaccept fuel s mn c).wbuf = s.wbuf := by
  have h := State.reaccept_memories (s := s) fuel mn c
  simp only [State.memories, List.cons.injEq] at h
  obtain ⟨-, -, hw, ha, -⟩ := h
  exact ⟨ha, hw⟩

/-- What a restore leaves of the machine but for the context's fragments (R391). -/
theorem restoreTile_keeps (s : State) (mn : ℕ) (r : TileEntry) :
    (s.restoreTile mn r).accs = (s.written mn r).accs ∧ (s.restoreTile mn r).wbuf = s.wbuf ∧
    ((s.restoreTile mn r).getMn mn).tiles = ((s.written mn r).getMn mn).tiles ∧
    ((s.restoreTile mn r).getMn mn).restores = (s.getMn mn).restores.erase r ∧ ∀ k, k ≠ mn → (s.restoreTile mn r).getMn k = s.getMn k := by
  have hrest : ((s.written mn r).getMn mn).restores = (s.getMn mn).restores.erase r := by rw [getMn_written]
  rw [restoreTile_eq]
  split
  · obtain ⟨hother, htiles, hrestores⟩ := reaccept_keeps 64 (s.written mn r) mn (r.ctx % 4)
    obtain ⟨haccs, hwbuf⟩ := reaccept_accs_wbuf 64 (s.written mn r) mn (r.ctx % 4)
    exact ⟨haccs, hwbuf, htiles, hrestores.trans hrest, fun k hk => (hother k hk).trans (getMn_written_ne hk)⟩
  · exact ⟨rfl, rfl, rfl, hrest, fun k hk => getMn_written_ne hk⟩

/-- The context's pending fragments after a restore: as they were, or, with its last restore, accepted again (R384, R391). -/
theorem restoreTile_frags (s : State) (mn : ℕ) (r : TileEntry) (hctxs : (s.getMn mn).ctxs.length = 4) :
    (¬ (r.ctx / 4 = mn / 2 ∧ ∀ y ∈ (s.getMn mn).restores.erase r, y.ctx ≠ r.ctx) →
      ((s.restoreTile mn r).getMn mn).frags = (s.getMn mn).frags ∧ ((s.restoreTile mn r).getMn mn).ctxs = (s.getMn mn).ctxs) ∧
    ((r.ctx / 4 = mn / 2 ∧ ∀ y ∈ (s.getMn mn).restores.erase r, y.ctx ≠ r.ctx) →
      ∃ n, ((s.restoreTile mn r).getMn mn).frags = (s.getMn mn).frags ++ ((s.getMn mn).ctx (r.ctx % 4)).pend.take n ∧
        (((s.restoreTile mn r).getMn mn).ctx (r.ctx % 4)).pend = ((s.getMn mn).ctx (r.ctx % 4)).pend.drop n ∧
        ((∀ g ∈ ((s.getMn mn).ctx (r.ctx % 4)).pend, g.real = true) ∧
          ((s.getMn mn).frags.filter Fragment.real).length + ((s.getMn mn).ctx (r.ctx % 4)).pend.length ≤ 16 ∧ s.mnLive mn (r.ctx % 4) = true →
          n = ((s.getMn mn).ctx (r.ctx % 4)).pend.length)) := by
  have hkey : r.ctx / 4 = mn / 2 → mn / 2 * 4 + r.ctx % 4 = r.ctx := fun h => by omega
  have hrestoring : r.ctx / 4 = mn / 2 → (((s.written mn r).getMn mn).restoring mn (r.ctx % 4) = true ↔
      ∃ y ∈ (s.getMn mn).restores.erase r, y.ctx = r.ctx) := fun h => by
    rw [getMn_written, MatNode.restoring, hkey h, List.any_eq_true]
    simp
  constructor
  · intro hnot
    have hsame : s.restoreTile mn r = s.written mn r := by
      rw [restoreTile_eq]
      split
      · next h =>
        refine reaccept_restoring 64 ((hrestoring h).2 ?_)
        push Not at hnot
        exact hnot h
      · rfl
    rw [hsame, getMn_written]
    exact ⟨rfl, rfl⟩
  · rintro ⟨h, hlast⟩
    obtain ⟨n, hfrags, hpend, hall⟩ := reaccept_frags 64 (s.written mn r) mn (r.ctx % 4) (by rw [getMn_written]; dsimp only; omega)
    rw [restoreTile_eq, if_pos h]
    have hctx : ((s.written mn r).getMn mn).ctx (r.ctx % 4) = (s.getMn mn).ctx (r.ctx % 4) := by rw [getMn_written]; rfl
    have hfr : ((s.written mn r).getMn mn).frags = (s.getMn mn).frags := by rw [getMn_written]
    rw [hctx, hfr] at hfrags hall
    rw [hctx] at hpend
    refine ⟨n, hfrags, hpend, fun ⟨hreal, hroom, hlive⟩ => hall hreal hroom ((mnLive_written _).trans hlive) ?_ (by omega)⟩
    rw [← Bool.not_eq_true, hrestoring h]
    rintro ⟨y, hy, heq⟩
    exact hlast y hy heq

end

end Sys2Proof.Machine
end

section
/-!
PROOFS of the numbers family (O42): tile handovers and the clearing of a node.
-/

namespace Sys2Proof.Machine

/-! ## Handovers (R386) -/

section
variable {s : State} {mn t : ℕ}

/-- A tile that is not IDLE, or became so in this cycle, goes to nothing. -/
theorem tile_stays (h : ¬ (((s.getMn mn).tile t).state = .idle ∧ ((s.getMn mn).tile t).idleAt ≠ some s.cycle.toNat)) :
    Idles (.tileHandover mn t) s ∧ Idles (.tileRestore mn t) s := by
  have hstop : ((s.getMn mn).tile t).state ≠ .idle ∨ ((s.getMn mn).tile t).idleAt = some s.cycle.toNat := by
    rwa [not_and_or, not_not] at h
  exact ⟨congrArg Host.Outcome.next (if_pos hstop), congrArg Host.Outcome.next (if_pos hstop)⟩

variable (hidle : ((s.getMn mn).tile t).state = .idle ∧ ((s.getMn mn).tile t).idleAt ≠ some s.cycle.toNat)
include hidle

theorem handover_idle : s.handover mn t = match firstWaiter (s.tileWaiters mn t) with
    | some (.token c) => s.matctl mn c
    | some (.restore r) => s.restoreTile mn r
    | none => s := if_neg (by rw [not_or, not_not]; exact hidle)

theorem exec_tileRestore_idle : exec (.tileRestore mn t) s = .next (match firstWaiter (s.tileWaiters mn t) with
    | some (.restore r) => s.restoreTile mn r
    | _ => s) := congrArg Host.Outcome.next (if_neg (by rw [not_or, not_not]; exact hidle))

theorem tile_unwanted (h : s.tileWaiters mn t = []) : Idles (.tileHandover mn t) s ∧ Idles (.tileRestore mn t) s := by
  refine ⟨congrArg Host.Outcome.next ((handover_idle hidle).trans ?_), (exec_tileRestore_idle hidle).trans ?_⟩ <;> rw [h] <;> rfl

theorem tile_to_token {c : ℕ} (h : firstWaiter (s.tileWaiters mn t) = some (.token c)) :
    exec (.tileHandover mn t) s = exec (.matctlTake mn c) s ∧ Idles (.tileRestore mn t) s := by
  refine ⟨congrArg Host.Outcome.next ((handover_idle hidle).trans ?_), (exec_tileRestore_idle hidle).trans ?_⟩ <;> rw [h]

theorem tile_to_restore {r : TileEntry} (h : firstWaiter (s.tileWaiters mn t) = some (.restore r)) :
    exec (.tileHandover mn t) s = .next (s.restoreTile mn r) ∧ exec (.tileRestore mn t) s = .next (s.restoreTile mn r) := by
  refine ⟨congrArg Host.Outcome.next ((handover_idle hidle).trans ?_), (exec_tileRestore_idle hidle).trans ?_⟩ <;> rw [h]

end

/-! ## A node passes to another partition (R392) -/

theorem resident_any (l : List ℕ) : l.any (· != 0) = true ↔ ∃ x ∈ l, x ≠ 0 := by simp

/-- A node that is not to be cleared, or whose page a launch holds, stays. -/
theorem nodePartitionClear_idles {s : State} {mn : ℕ} (h : (s.getMn mn).clearing = false ∨ ∃ l ∈ (s.getPage (mn / 2)).resident, l ≠ 0) :
    Idles (.nodePartitionClear mn) s := by
  refine congrArg Host.Outcome.next (if_pos ?_)
  rcases h with h | h
  · rw [h]; rfl
  · rw [(resident_any _).2 h, Bool.or_true]

theorem nodePartitionClear_clears {s : State} {mn : ℕ} (h : (s.getMn mn).clearing = true) (hl : ∀ l ∈ (s.getPage (mn / 2)).resident, l = 0) :
    exec (.nodePartitionClear mn) s = .next { s with
      mns := tput s.mns mn {}
      accs := s.accs.clear (mn * 2 ^ 18) (2 ^ 18)
      wbuf := s.wbuf.clear (mn * 2 ^ 19) (2 ^ 19) } := by
  refine congrArg Host.Outcome.next (if_neg ?_)
  rw [h, Bool.not_true, Bool.false_or, resident_any]
  rintro ⟨l, hmem, h0⟩
  exact h0 (hl l hmem)

/-- A cleared range of a memory reads zero. -/
theorem read_clear_range (m : Memory) (k n y : ℕ) :
    (m.clear (k * n) n).read y = if k * n ≤ y ∧ y < (k + 1) * n then 0 else m.read y := by
  rw [Memory.read_clear, Nat.succ_mul]
  rfl

/-- Settles O42: handovers by what waits first, a restore by its bytes (`read_written`) and its context's fragments
(`restoreTile_frags`), and the sums by groups (`groupSum_adds`). -/
theorem tileHandovers : Obligations.TileHandovers := by
  unfold Obligations.TileHandovers
  refine ⟨fun s mn t c r => ⟨fun h => ?_, fun hidle => tile_to_token hidle, fun hidle hnext hr ht hctxs hm hwf hkeys => ?_, nodePartitionClear_idles, fun hc hl => ?_⟩,
    fun acc as bs _ => nodeSum_int acc as bs, fun acc as bs as' bs' hlen hlen' => ⟨nodeSum_group acc hlen, nodeSum_append acc hlen hlen'⟩,
    fun a b => prodVal_finite, fun acc ps => ⟨groupSum_nan acc, fun n hnan hn hno => ?_, groupSum_zero acc,
      fun emax hfin hmem hmax => groupSum_adds acc hfin hmem hmax⟩⟩
  · by_cases hidle : ((s.getMn mn).tile t).state = .idle ∧ ((s.getMn mn).tile t).idleAt ≠ some s.cycle.toNat
    · exact tile_unwanted hidle (h.resolve_left (not_not.2 hidle))
    · exact tile_stays hidle
  · subst hr
    obtain ⟨hhand, hrest⟩ := tile_to_restore hidle hnext
    obtain ⟨hin, hout⟩ := read_written hm hwf hkeys (mn := mn)
    obtain ⟨haccs, hwbuf, htiles, hrestores, hother⟩ := restoreTile_keeps s mn r
    obtain ⟨hsame, hlast⟩ := restoreTile_frags s mn r hctxs
    have both : ∀ P : State → Prop, P (s.restoreTile mn r) → Happens (.tileHandover mn r.tile) s P ∧ Happens (.tileRestore mn r.tile) s P :=
      fun P h => ⟨⟨_, hhand, h⟩, _, hrest, h⟩
    refine both _ ⟨fun o ho => by rw [haccs, hin o ho], fun y hy => by rw [haccs, hout y hy], ?_, fun k hk => ?_, hrestores, hsame, hlast, hwbuf, hother⟩
    · rw [MatNode.tile, htiles, getMn_written]
      exact lget_lmod_self _ _ _ _ ht
    · rw [MatNode.tile, htiles, getMn_written]
      exact lget_lmod_ne _ _ _ hk
  · refine ⟨_, nodePartitionClear_clears hc hl, ?_, fun k hk => ?_, fun y => read_clear_range _ _ _ _, fun y => read_clear_range _ _ _ _⟩
    · exact tget_tput_self _ _ _ _
    · exact tget_tput_ne _ _ _ hk
  · rw [groupSum_inf acc hnan hn hno]
    exact accPlus_addsTo acc rfl

end Sys2Proof.Machine
end
